-- ==== Sys2Proof/Word.lean ====
section
/-! DEFINITION. The words the GK-480 moves: bytes, 16-bit status words, 32-bit bodies. -/

namespace Sys2Proof

/-- One byte of a frame, a wake word, the Reel or an NVM record. -/
abbrev Byte := BitVec 8

/-- One status word, queue tag, sequence number or coefficient. -/
abbrev Half := BitVec 16

/-- A wake-word body, a CRC-32 or an ageing-counter stamp. -/
abbrev Word32 := BitVec 32

/-- The 48-bit context key, mask or value of R261 and R317. -/
abbrev Key48 := BitVec 48

end Sys2Proof
end

