-- ==== Sys2Proof/Syntax.lean ====
section
/-! DEFINITION. The commands of the block: one constructor of Instr per row of the table, with the operands
that the outside world supplies (log entries 1 to 4), and the plain data types those operands use. -/

namespace Sys2Proof

/-- The two tether ports (Table NOD-1). -/
inductive Port where
  | u | d
  deriving DecidableEq, Repr

/-- The two regulator channels (PD17, PD18). -/
inductive Chan where
  | main | aux
  deriving DecidableEq, Repr

/-- The supplies of Table BAL-2 that have a POR detector (Table BOO-1). -/
inductive Supply where
  | vaon | vbak | vio | vcin | vsd09 | vsd18 | vana | vpwm
  deriving DecidableEq, Repr

/-- One flag per supply: above its threshold of Table BOO-1. -/
structure Supplies where
  vaon  : Bool
  vbak  : Bool
  vio   : Bool
  vcin  : Bool
  vsd09 : Bool
  vsd18 : Bool
  vana  : Bool
  vpwm  : Bool
  deriving DecidableEq, Repr

/-- The three front ends of Table LIS-1. -/
inductive FrontEnd where
  | mains | tugU | tugD
  deriving DecidableEq, Repr

/-- One pair of reads of a tri-level ball (R82): high under the pull-up, high under the pull-down. -/
structure PullReading where
  underPullUp   : Bool
  underPullDown : Bool
  deriving DecidableEq, Repr

/-- What a fitted flash can do: it takes 3-byte addresses, it enters 4-byte addressing at 0xB7, and its quad-enable bit is
set (R129, R131). -/
structure FlashPart where
  takes3 : Bool
  takes4 : Bool
  quadOn : Bool
  deriving DecidableEq, Repr

/-- How the fitted flash agrees with RV_REEL (R129, R131). -/
inductive FlashMode where
  /-- Address width and I/O agree: the device reads the bytes stored. -/
  | agrees
  /-- Quad I/O strapped, quad-enable bit clear (R131): no header is well formed. -/
  | quadClear
  /-- Address widths differ (R129): the device reads whatever the flash returns. -/
  | widthDiffers
  deriving DecidableEq, Repr

/-- The streams an engine can be given (Table ENG-2); words and events come from the waiting slow streams. -/
inductive StreamSrc where
  | portU | portD | host | slow
  deriving DecidableEq, Repr

/-- What happens at one engine step: a byte is taken, its copy FIFO fills (R291), or a fill fails parity (R280). -/
inductive StepEvent where
  | byte | fifoFull | fillParity
  deriving DecidableEq, Repr

/-- The causes of an engine failure (R294), in the order of the CAUSE codes of reason 0x38. -/
inductive EngineFailCause where
  | cacheParity | selfCheck | unanswered
  deriving DecidableEq, Repr

/-- A side of a window monitor (Table WIN-1). -/
inductive Side where
  | upper | lower
  deriving DecidableEq, Repr

/-- The causes of link down, in the row order of Table TLK-5. -/
inductive DownCause where
  | goingDown | lossOfSignal | lossOfSync | partnerRetrains | exhaustion | ownDomain | clockLoss
  deriving DecidableEq, Repr

/-- What a read of a frame finds: the SEC-DED of its cells and of their tags (R654, R655), or a parity error in its
queue's descriptor (R745). -/
inductive EccResult where
  | clean | corrected | uncorrectable | tagCorrected | tagsUncorrectable | descriptor
  deriving DecidableEq, Repr

/-- The end delimiter a receiver takes (R594): EOF, EAB, or another pair (EOF with a failed CRC-32). -/
inductive EndDelim where
  | eof | eab | badPair
  deriving DecidableEq, Repr

/-- A frame as it arrives on a port: every byte between the delimiters (R593), the end delimiter, and the code errors in it
(R559); one that does not begin with K27.7 K27.7 comes as ended by EAB with one code error (R594). -/
structure RxFrame where
  bytes      : List Byte
  ending     : EndDelim
  codeErrors : Nat
  deriving DecidableEq, Repr

/-- The group heads of R696. -/
inductive GroupHead where
  | w08 | w13 | w16 | w2e
  deriving DecidableEq, Repr

/-- The analogue readings that a fault record takes at its cause (Table RGP-2): VIN and VOUT in 0.1 mV, die temperature
in degrees, TS_EXT in 1.200 V / 256. -/
structure Snap where
  vin  : Half
  vout : Half
  tdie : Byte
  text : Byte
  deriving DecidableEq, Repr

/-- What a channel start measures (Sequence RGS-1 step 2, R454, R502), in microvolts: the pre-charged feedback, VLOC,
VIN_SNS, and whether WM03 reads within its window and VLOC is usable. -/
structure StartReading where
  feedback : Nat
  vloc     : Nat
  vin      : Nat
  wm03In   : Bool
  vlocOk   : Bool
  deriving DecidableEq, Repr

/-- What a window monitor compares, in microvolts: its input as Table WIN-1 names it (for WM03 a difference), V(VREF), and
VANA, which ends the linear range of the AIN balls and TS_EXT (R526, R527, R535, R806). -/
structure MonReading where
  input : Int
  vref  : Nat
  vana  : Nat
  deriving DecidableEq, Repr

/-- The signal balls (Table BAL-5); a pair of legs in one state is one entry. -/
inductive Ball where
  | tx (p : Port) | rx (p : Port) | refclk | tcal | mw | mwCm
  | pwm (k : Fin 6) | csp (k : Fin 6) | csn (k : Fin 6) | vsp | vsn | vloc | vinSns | tsExt
  | pgoodM | enM | vsel (k : Fin 3) | syncIn | syncOut
  | pwmA | cspA | csnA | fbA | trk | pgoodA | enA | ain (k : Fin 16) | vref
  | qsel (k : Fin 6) | qd (k : Fin 16) | qcsN | qoeN | psel (k : Fin 5) | pcmd (k : Fin 2) | pstb | pack
  | pres (k : Fin 2) | wake (k : Fin 4) | wack | clrw | alertN | faultN | rmap (k : Fin 2)
  | dq (k : Fin 16) | dp (k : Fin 2) | dsof | deof | dreq | dack | ddir
  | flCsN | flClk | flIo (k : Fin 4) | rvStrap (k : Fin 12) | tStrap (k : Fin 7)
  | rstN | pfailN | xt32 | chold | tck | tms | tdi | tdo | trstN | testEn
  deriving DecidableEq, Repr

/-- The commands: one constructor per row of spec/opcode_table.json. -/
inductive Instr where
  /-- POWER_ON (R119). -/
  | powerOn (up : Supplies) (tickStarts : Bool) (sensed : BitVec 64)
  /-- DEVICE_POR (R117). -/
  | devicePor
  /-- IDENTITY_RESENSE (R121). -/
  | identityResense (sensed : BitVec 64)
  /-- TICK_START_FAIL (R125). -/
  | tickStartFail
  /-- CRYSTAL_QUALIFY (R126). -/
  | crystalQualify
  /-- CRYSTAL_TIMEOUT (R127). -/
  | crystalTimeout
  /-- CRYSTAL_LOSS (R128). -/
  | crystalLoss
  /-- RESET_ASSERT (R64). -/
  | resetAssert (lowNs : Nat)
  /-- RESET_RELEASE (R119). -/
  | resetRelease
  /-- STRAP_DECODE (R87). -/
  | strapDecode (rv : Vector (Vector Nat 3) 12) (tri : Vector (Vector PullReading 3) 7)
  /-- LOADER_START (R119). -/
  | loaderStart
  /-- FLASH_PROBE (R130). -/
  | flashProbe (jedec : BitVec 24) (part : FlashPart)
  /-- REEL_LOAD (R132). -/
  | reelLoad (vsel : Fin 8)
  /-- LOAD_ABANDON (R124). -/
  | loadAbandon (which : Supply)
  /-- SUPPLY_FALL (R118). -/
  | supplyFall (which : Supply) (snap : Snap)
  /-- VIO_RISE (R49). -/
  | vioRise (qsel : BitVec 6) (qcsN qoeN : Bool)
  /-- MAINS_WORD (R230). -/
  | mainsWord (body : Word32) (mac : Half) (crc : Byte)
  /-- TUG_WORD (R230). -/
  | tugWord (port : Port) (body : Word32) (mac : Half) (crc : Byte)
  /-- TUG_RELAY (R238). -/
  | tugRelay (out : Port)
  /-- STREAM_START (R270). -/
  | streamStart (src : StreamSrc) (bytes : List Byte)
  /-- ENGINE_STEP (R312). -/
  | engineStep (eng : Fin 4) (ev : StepEvent)
  /-- STREAM_END (R265). -/
  | streamEnd (eng : Fin 4) (crcOk : Bool)
  /-- ENGINE_SELF_CHECK (R294). -/
  | engineSelfCheck (eng : Fin 4) (ok : Bool)
  /-- ENGINE_FAIL (R294). -/
  | engineFail (eng : Fin 4) (cause : EngineFailCause)
  /-- FILL (R282). -/
  | fill (eng : Fin 4) (line : BitVec 15)
  /-- DIRECTORY_DATA (R282). -/
  | directoryData (eng : Fin 4) (line : BitVec 15) (parityOk : Bool)
  /-- EVICT (R285). -/
  | evict (eng : Fin 4) (line : BitVec 15)
  /-- SNOOP (R283). -/
  | snoop (eng : Fin 4) (line : BitVec 15)
  /-- SACK (R283). -/
  | sack (eng : Fin 4) (line : BitVec 15)
  /-- NHELD (R285). -/
  | nheld (eng : Fin 4) (line : BitVec 15)
  /-- SCAN_READ (R278). -/
  | scanRead (parityOk : Bool)
  /-- SCAN_REPAIR_DONE (R279). -/
  | scanRepairDone
  /-- UPDATE_LINE (R328). -/
  | updateLine (port : Port) (src dst : Byte) (word : Vector Byte 80)
  /-- UPDATE_RULE (R328). -/
  | updateRule (port : Port) (src dst : Byte) (word : Vector Byte 80)
  /-- UPDATE_ASSOC (R328). -/
  | updateAssoc (port : Port) (src dst : Byte) (word : Vector Byte 80)
  /-- UPDATE_FREE (R328). -/
  | updateFree (port : Port) (src dst : Byte) (word : Vector Byte 80)
  /-- UPDATE_START (R328). -/
  | updateStart (port : Port) (src dst : Byte) (word : Vector Byte 80)
  /-- UPDATE_NONE (R326). -/
  | updateNone (port : Port) (src dst : Byte) (word : Vector Byte 80)
  /-- UPDATE_COMMIT (R274). -/
  | updateCommit (port : Port) (src dst : Byte) (word : Vector Byte 80)
  /-- UPDATE_SET_TIMEOUT (R273). -/
  | updateSetTimeout
  /-- EPOCH_SWITCH (R272). -/
  | epochSwitch
  /-- RESULT_APPLY (R337). -/
  | resultApply
  /-- PENDING_PIN_RISE (R339). -/
  | pendingPinRise
  /-- RAIL_ATTEMPT_FAIL (R354). -/
  | railAttemptFail (ch : Chan) (snap : Snap)
  /-- RAIL_RETRY (R354). -/
  | railRetry (ch : Chan)
  /-- WACK (R344). -/
  | wack (qsel : BitVec 6)
  /-- PROFILE_START (R385). -/
  | profileStart (vsel : Fin 8)
  /-- HOST_OFF (R390). -/
  | hostOff (dom : Fin 20)
  /-- HOST_RETENTION (R390). -/
  | hostRetention (dom : Fin 20)
  /-- HOST_ON (R390). -/
  | hostOn (dom : Fin 20)
  /-- HOST_QUERY (R391). -/
  | hostQuery (dom : Fin 20)
  /-- HOST_APPLY (R390). -/
  | hostApply (profile : Fin 8)
  /-- HOST_INVALID_COMMAND (R388). -/
  | hostInvalidCommand (psel : BitVec 5) (pcmd : BitVec 2)
  /-- ASK (R376). -/
  | ask (dom : Fin 20)
  /-- DRAIN (R378). -/
  | drain (dom : Fin 20)
  /-- GRANT (R370). -/
  | grant (dom : Fin 20)
  /-- REFUSE (R377). -/
  | refuse (dom : Fin 20)
  /-- HOLD (R376). -/
  | hold (dom : Fin 20)
  /-- DRAINED (R370). -/
  | drained (dom : Fin 20)
  /-- LIVE (R370). -/
  | live (dom : Fin 20)
  /-- DOMAIN_FAULTY (R380). -/
  | domainFaulty (dom : Fin 20) (snap : Snap)
  /-- IDLE_REQUEST (R403). -/
  | idleRequest (dom : Fin 20)
  /-- RMAP_CHANGE (R399). -/
  | rmapChange (value : Fin 4)
  /-- CHANNEL_START (R426). -/
  | channelStart (ch : Chan) (reading : StartReading) (snap : Snap)
  /-- RAMP_COMPLETE (R426). -/
  | rampComplete (ch : Chan)
  /-- PGOOD_ASSERT (R432). -/
  | pgoodAssert (ch : Chan) (feedback : Nat)
  /-- PGOOD_DEASSERT (R432). -/
  | pgoodDeassert (ch : Chan) (feedback : Nat)
  /-- VSEL_CHANGE (R418). -/
  | vselChange (value : Fin 8)
  /-- SLEW_COMPLETE (R425). -/
  | slewComplete (ch : Chan)
  /-- ENABLE_LOW (R433). -/
  | enableLow (ch : Chan)
  /-- ENABLE_HIGH (R433). -/
  | enableHigh (ch : Chan)
  /-- SYNC_LOCK (R444). -/
  | syncLock (spacings : List Nat)
  /-- SYNC_LOSS (R445). -/
  | syncLoss
  /-- BALANCE_UPDATE (R474). -/
  | balanceUpdate (currents : Vector Half 6) (snap : Snap)
  /-- SHED_DECISION (R477). -/
  | shedDecision (currents : Vector Half 6)
  /-- HOUR_PASS (R480). -/
  | hourPass
  /-- SWAP_SHED (R480). -/
  | swapShed (currents : Vector Half 6)
  /-- UNDERSHOOT_RESTORE (R482). -/
  | undershootRestore
  /-- FAST_LIMIT_TRIP (R492). -/
  | fastLimitTrip (ch : Chan) (phase : Fin 6) (inPulse successive : Bool) (snap : Snap)
  /-- HICCUP_RESTART (R493). -/
  | hiccupRestart (ch : Chan)
  /-- SLOW_LIMIT_TRIP (R496). -/
  | slowLimitTrip (ch : Chan) (average : Nat) (snap : Snap)
  /-- PROTECTION_RETRY (R496). -/
  | protectionRetry (ch : Chan)
  /-- UNDERVOLTAGE (R497). -/
  | undervoltage (ch : Chan) (feedback : Nat) (snap : Snap)
  /-- AUX_OVERVOLTAGE (R499). -/
  | auxOvervoltage (snap : Snap)
  /-- OVERVOLTAGE_RELEASE (R498). -/
  | overvoltageRelease (ch : Chan) (feedback : Nat)
  /-- SENSE_LOSS (R501). -/
  | senseLoss (snap : Snap)
  /-- VLOC_LOST (R503). -/
  | vlocLost (vloc dv : Nat) (snap : Snap)
  /-- DERATE_INTERVAL (R506). -/
  | derateInterval (ext : Bool) (low high vana : Nat) (snap : Snap)
  /-- RECORD_COMMIT (R518). -/
  | recordCommit
  /-- MONITOR_ASSERT (R537). -/
  | monitorAssert (mon : Fin 24) (side : Side) (reading : MonReading) (snap : Snap)
  /-- MONITOR_DEASSERT (R532). -/
  | monitorDeassert (mon : Fin 24) (side : Side) (reading : MonReading)
  /-- EVENT_HOLDOFF_END (R545). -/
  | eventHoldoffEnd (mon : Fin 24)
  /-- MONITOR_SETTLED (R533). -/
  | monitorSettled (mon : Fin 24) (reading : MonReading) (snap : Snap)
  /-- LATCH_PERIOD_CLEAR (R539). -/
  | latchPeriodClear (sense : Vector Half 7)
  /-- CLRW (R540). -/
  | clrw (qsel : BitVec 6)
  /-- PLL_LOCK (R561). -/
  | pllLock (port : Port)
  /-- PLL_LOCK_TIMEOUT (R562). -/
  | pllLockTimeout (port : Port)
  /-- SYMBOL_LOCK (R561). -/
  | symbolLock (port : Port) (inverted : Bool) (addr : Byte) (flags : Byte)
  /-- EQUALISER_SETTLE (R563). -/
  | equaliserSettle (port : Port) (boost : BitVec 4) (partnerPe : BitVec 2)
  /-- TRAINING_DONE (R561). -/
  | trainingDone (port : Port)
  /-- HELLO_TIMEOUT (R564). -/
  | helloTimeout (port : Port)
  /-- HELLO (R568). -/
  | hello (port : Port) (rx : RxFrame)
  /-- CREDIT (R575). -/
  | credit (port : Port) (rx : RxFrame)
  /-- ACK (R570). -/
  | ack (port : Port) (rx : RxFrame)
  /-- GO_BACK_TIMEOUT (R571). -/
  | goBackTimeout (port : Port)
  /-- ACK_SEND (R570). -/
  | ackSend (port : Port)
  /-- CREDIT_SEND (R576). -/
  | creditSend (port : Port)
  /-- LINK_DOWN (R566). -/
  | linkDown (port : Port) (cause : DownCause)
  /-- FRAME_SEND (R646). -/
  | frameSend (port : Port) (ecc : EccResult)
  /-- DATA (R642); `lost` is the tag of a queue descriptor that fails parity as it is read (R745). -/
  | data (port : Port) (rx : RxFrame) (lost : Option Half)
  /-- NOTICE (R622). -/
  | notice (port : Port) (rx : RxFrame)
  /-- ECHO_REQUEST (R610). -/
  | echoRequest (port : Port) (rx : RxFrame)
  /-- ECHO_REPLY (R610). -/
  | echoReply (port : Port) (rx : RxFrame)
  /-- RING_PROBE (R581). -/
  | ringProbe (port : Port) (rx : RxFrame)
  /-- RING_BREAK (R581). -/
  | ringBreak (port : Port) (rx : RxFrame)
  /-- REEL_PART (R616). -/
  | reelPart (port : Port) (rx : RxFrame)
  /-- REEL_PART_LAST (R212). -/
  | reelPartLast (port : Port) (rx : RxFrame)
  /-- MALFORMED_FRAME (R600). -/
  | malformedFrame (port : Port) (rx : RxFrame)
  /-- FLASH_PART_PROGRAMMED (R211). -/
  | flashPartProgrammed (ok : Bool)
  /-- TRANSFER_TIMEOUT (R213). -/
  | transferTimeout
  /-- SLOT_VERIFIED (R212). -/
  | slotVerified
  /-- NOTICE_CLOSE (R621). -/
  | noticeClose
  /-- AGEING_EXPIRY (R649). -/
  | ageingExpiry (tag : Half)
  /-- AGEING_WAKE (R662). -/
  | ageingWake
  /-- LOST_ENTRY_REPORT (R653). -/
  | lostEntryReport
  /-- INGRESS_UNIT (R681). -/
  | ingressUnit (gapOver : Bool)
  /-- VERDICT_READY (R682). -/
  | verdictReady
  /-- PULL_WORD (R676). -/
  | pullWord (word : Half) (dp : BitVec 2)
  /-- EGRESS_FETCH (R674). -/
  | egressFetch (ecc : EccResult)
  /-- EGRESS_COMPLETE (R678). -/
  | egressComplete
  /-- DDIR_CHANGE (R672). -/
  | ddirChange (level : Bool)
  /-- READ_W04 (R705). -/
  | readW04
  /-- READ_W0B (R397). -/
  | readW0b
  /-- READ_WAKE_CAUSE (R344). -/
  | readWakeCause (pin : Fin 4)
  /-- READ_LATCH_WORD (R540). -/
  | readLatchWord (second : Bool)
  /-- READ_GROUP_HEAD (R696). -/
  | readGroupHead (head : GroupHead)
  /-- READ_ERROR_COUNTER (R706). -/
  | readErrorCounter (which : Fin 4)
  /-- READ_PORT_STATUS (R706). -/
  | readPortStatus (port : Port)
  /-- READ_ENGINE_STATUS (R705). -/
  | readEngineStatus
  /-- READ_LOST_MATCH (R705). -/
  | readLostMatch
  /-- PFAIL_ASSERT (R720). -/
  | pfailAssert
  /-- WM04_LOW (R547). -/
  | wm04Low
  /-- VAON_LOSS (R712). -/
  | vaonLoss
  /-- OUTAGE_FLIGHT_DONE (R725). -/
  | outageFlightDone
  /-- OUTAGE_RETENTION_REACHED (R726). -/
  | outageRetentionReached
  /-- DWELL_EXPIRY (R727). -/
  | dwellExpiry
  /-- INPUT_RETURN (R730). -/
  | inputReturn
  /-- REVERSAL_RAILS_DONE (R730). -/
  | reversalRailsDone
  /-- VBAK_READING (R715). -/
  | vbakReading (millivolts : Nat) (tdie : Half)
  /-- GAUGE_PACKET (R717). -/
  | gaugePacket
  /-- LOSS_RESOLUTION (R751): the cells whose header read finds an uncorrectable error. -/
  | lossResolution (unreadable : List Nat)
  /-- WATERMARK_REPORT_ENTRY (R754). -/
  | watermarkReportEntry
  /-- PACE_LOOP (R766). -/
  | paceLoop (canary : Vector Nat 3) (memNeed : Nat)
  /-- CANARY_STALL (R768). -/
  | canaryStall (rail : Fin 3)
  /-- HOUR_COUNT_STORE (R836). -/
  | hourCountStore
  /-- EXTEST (R68). -/
  | extest (boundary : BitVec 128)
  /-- SAMPLE_PRELOAD (R67). -/
  | samplePreload
  /-- CLAMP (R68). -/
  | clamp (boundary : BitVec 128)
  /-- HIGHZ (R68). -/
  | highz
  /-- BYPASS (R67). -/
  | bypass
  /-- RULE_MEMORY_RELOAD_DONE (R25). -/
  | ruleMemoryReloadDone
  /-- HOST_STREAM_ABANDON (R292). -/
  | hostStreamAbandon
  /-- PREAMBLE_LOCK (R225). -/
  | preambleLock (fe : FrontEnd)
  /-- SYNC_BYTE_MISMATCH (R225). -/
  | syncByteMismatch (fe : FrontEnd)
  /-- PARTNER_PEREQ_APPLIED (R561). -/
  | partnerPereqApplied (port : Port) (pereq : BitVec 2)
  /-- FRAME_DISCARDED (R567). -/
  | frameDiscarded (port : Port) (rx : RxFrame)
  /-- PSTB_FALL (R389). -/
  | pstbFall
  /-- DROP_WORD_TRANSFER (R670). -/
  | dropWordTransfer (word : Half) (dp : BitVec 2) (dsof deof : Bool) (ecc : EccResult)
  /-- COMPENSATOR_SAMPLE (R458). -/
  | compensatorSample (ch : Chan) (feedback vloc vin : Nat)
  /-- ZERO_CROSSING (R429). -/
  | zeroCrossing (ch : Chan) (phase : Fin 6)
  /-- TRK_CHANGE (R436). -/
  | trkChange (microvolts steps : Nat)
  deriving DecidableEq, Repr

end Sys2Proof
end

