-- ==== Sys2Proof/Decode.lean ====
section
/-! DEFINITION. The command that a word spells by the table's bits. spec/opcode_table.json gives no row any bits: the
block takes events, not words, so no word spells a command (log entry 1). -/

namespace Sys2Proof

/-- The command of a table word: none, as the table gives no row bits. -/
def decodeTableWord (nbits w : Nat) : Option Instr :=
  match nbits, w with
  | _, _ => none

end Sys2Proof
end

