-- ==== Sys2Proof/Config.lean ====
section
/-! DEFINITION. What the manual leaves to the die or leaves open: constants without a body, so that no proof can
see a value (log entries 5, 6, 11, 35, 135, 145 and 146). -/

namespace Sys2Proof.Config

/-- The 128-bit die key, generated on the die and readable by nothing outside the AON island (file 04, Sealing on
first load). -/
opaque dieKey : BitVec 128

/-- The n-th value that the manual leaves open (State.free counts them). -/
opaque freeValue : Nat → BitVec 64

/-- The byte a flash returns at an address when it and the device disagree on address width (R129). -/
opaque flashByte : Nat → BitVec 8

/-- The disposition that an update gives a rule with a reserved DISP code (Table AUT-6). -/
opaque reservedDisp : Nat → Fin 5

/-- The variant of a part whose identity never checked, as an index into 0x8, 0x6, 0x4, 0x2: its variant field carries
no meaning (R17). -/
opaque blindVariant : Fin 4

/-- The level that the contents of the boundary register drive on a ball, none where they drive nothing: the manual does
not give the register's order (R67). -/
opaque boundaryDrive : BitVec 128 → Ball → Option Bool

/-- SLOW of W2C once every engine has failed (Table STW-13). -/
opaque noSlowEngine : Fin 4

/-- The byte of a map line that is not assigned, by line and offset. (DESIGN CHOICE, log entry 35) -/
opaque unassignedByte : Nat → Nat → BitVec 8

end Sys2Proof.Config
end

