-- ==== Sys2Proof/Machine/State.lean ====
section
/-! DEFINITION. The state of the block as plain data: every register, queue, counter, mode and pin the spec gives
it, the reasons a command can stop, and the state after reset (the device in POR, both AON supplies low). A field's
docstring ends with [file rule; width; value at reset]. -/

namespace Sys2Proof.Machine

/-! ### Power, boot and straps -/

/-- Where Sequence BOO-1 stands (R119). -/
inductive BootStep where
  /-- POR: both AON supplies low. -/
  | por
  /-- Step 2 passed, RC tick not started (R125). -/
  | tickWait
  /-- Step 4: a failed CRC-10 awaits the next sensing (R121). -/
  | idRetry
  /-- Step 5 waits for RST_N high. -/
  | held
  /-- Step 5: the sampling window runs. -/
  | sampling
  /-- Step 6: straps decided. -/
  | decided
  /-- Step 7: PD15 on for the loader. -/
  | loader
  /-- Step 9: flash identified. -/
  | identified
  /-- Step 11: ready; the boot profile waits. -/
  | ready
  /-- Step 12: boot profile started. -/
  | running
  deriving DecidableEq, Repr

/-- The crystal (R126 to R128). -/
inductive Xtal where
  | off | trying | qualified | timedOut | lost
  deriving DecidableEq, Repr

/-- Power-up and reset state. -/
structure Boot where
  /-- Step reached. [04 R119; enum; por] -/
  step : BootStep
  /-- The crystal's state. [04 R126; enum; off] -/
  xtal : Xtal
  /-- XTALFB of W04. [04 R127; 1 bit; 0] -/
  xtalfb : Bool
  /-- Sensings repeated after a failed CRC-10. [04 R121; 2 bits; 0] -/
  idTries : Nat
  /-- Every identity sensing failed: the device stops. [04 R121; 1 bit; 0] -/
  idFailed : Bool
  /-- Flash probe attempts made. [04 R130; 4 bits; 0] -/
  probes : Nat
  /-- A usable flash has been found since the reset. [04 R130; 1 bit; 0] -/
  flashOk : Bool
  /-- How the fitted flash agrees with RV_REEL. [04 R129; enum; agrees, DESIGN CHOICE log 10] -/
  flashMode : Sys2Proof.FlashMode
  /-- SAFE of W04. [04 R146; 1 bit; 0] -/
  safe : Bool
  /-- RST_N is asserted and has taken effect. [04 R159; 1 bit; 0] -/
  inReset : Bool
  /-- The present reset is under warm hold. [04 R152; 1 bit; 0] -/
  warm : Bool
  /-- RCAUSE of HELLO. [16 R607; 8 bits; 0x01] -/
  rcause : Byte
  deriving DecidableEq, Repr

/-- A tri-level strap's value (R82). -/
inductive Tri where
  | low | high | opn
  deriving DecidableEq, Repr

/-- Decided straps; none is unresolved. RV order: ADDR_H, ADDR_L, GROUP, CARRIER, PHASES, FSW, ILIM, OVL, SYNC, TRACK,
BAK, REEL. T order: TUGU, TUGD, MAINS, WARMHOLD, DROPMODE, ENDNODE, SAFE. -/
structure Straps where
  /-- Codes of the twelve RV balls. [03 R78; 12 x 4 bits; 0, DESIGN CHOICE log 10] -/
  rv : Vector (Option (Fin 16)) 12
  /-- Levels of the seven T balls. [03 R82; 7 x enum; low, DESIGN CHOICE log 10] -/
  tri : Vector (Option Tri) 7
  /-- STRAPF of W04. [03 R109; 1 bit; 0] -/
  strapf : Bool
  deriving DecidableEq, Repr

/-- The regulator straps in force, which a warm-held channel keeps (R113). -/
structure RegStraps where
  /-- RV_PHASES in force. [03 R113; 4 bits; 0, DESIGN CHOICE log 10] -/
  phases : Option (Fin 16)
  /-- RV_FSW in force. [03 R113; 4 bits; 0, DESIGN CHOICE log 10] -/
  fsw : Option (Fin 16)
  /-- RV_ILIM in force. [03 R113; 4 bits; 0, DESIGN CHOICE log 10] -/
  ilim : Option (Fin 16)
  /-- RV_OVL in force. [03 R113; 4 bits; 0, DESIGN CHOICE log 10] -/
  ovl : Option (Fin 16)
  /-- RV_SYNC in force. [03 R113; 4 bits; 0, DESIGN CHOICE log 10] -/
  sync : Option (Fin 16)
  /-- RV_TRACK in force. [03 R113; 4 bits; 0, DESIGN CHOICE log 10] -/
  track : Option (Fin 16)
  deriving DecidableEq, Repr

/-- Input balls whose level the device acts on. (DESIGN CHOICE, log entry 50) -/
structure Pins where
  /-- RST_N. [02 Table BAL-5; 1 bit; 1 by its pull-up] -/
  rstN : Bool
  /-- PFAIL_N. [02 Table BAL-5; 1 bit; 1 by its pull-up] -/
  pfailN : Bool
  /-- EN_M. [02 Table BAL-5; 1 bit; 1 by its pull-up] -/
  enM : Bool
  /-- EN_A. [02 Table BAL-5; 1 bit; 1 by its pull-up] -/
  enA : Bool
  /-- VSEL2:0, settled. [11 R418; 3 bits; 0 by its pull-downs] -/
  vsel : Fin 8
  /-- RMAP1:0, settled: the map in force. [10 R399; 2 bits; 0 by its pull-downs] -/
  rmap : Fin 4
  /-- DDIR. [18 Table DRP-1; 1 bit; 0 by its pull-down] -/
  ddir : Bool
  deriving DecidableEq, Repr

/-- The TAP (R67, R68). -/
structure Tap where
  /-- Instruction register. [02 R67; 4 bits; 0xF BYPASS] -/
  ir : BitVec 4
  /-- EXTEST, CLAMP or HIGHZ has turned the channels off and the ports down. [02 R68; 1 bit; 0] -/
  forced : Bool
  /-- Boundary register. [02 R67; 128 bits, DESIGN CHOICE log 10; 0, DESIGN CHOICE log 10] -/
  boundary : BitVec 128
  deriving DecidableEq, Repr

/-! ### NVM, flash and the Reel -/

/-- One of the two NVM copies of the minimum version and key hash (file 04, Choosing and checking a slot). -/
structure NvmCopy where
  /-- Minimum version. [04 R132; 32 bits; 0 when never set] -/
  minVer : Word32
  /-- Locked key hash. [04 R134; 256 bits or none; none] -/
  keyHash : Option (BitVec 256)
  /-- The copy's CRC-16 checks. [04 R136; 1 bit; 1, DESIGN CHOICE log 10] -/
  crcOk : Bool
  deriving DecidableEq, Repr

/-- On-chip NVM (R836). -/
structure Nvm where
  /-- First copy. [04 R136; see NvmCopy; blank] -/
  copy0 : NvmCopy
  /-- Second copy. [04 R136; see NvmCopy; blank] -/
  copy1 : NvmCopy
  /-- The eight ring entries of 32 bytes; empty list: an empty entry. [13 R518; 8 x 32 bytes; empty, DESIGN CHOICE log 10] -/
  ring : Vector (List Byte) 8
  /-- The intent word of each ring entry: 8 bytes, or empty when clear. [13 R518; 8 x 8 bytes; clear, DESIGN CHOICE log 10]
  -/
  intent : Vector (List Byte) 8
  /-- Stored operating-hour count, 1/16 h. [25 R838; 24 bits; 0, DESIGN CHOICE log 10] -/
  hours : Nat
  /-- The map of FAIL is lost; both copies unreadable at a load. [04 R136; 1 bit; 0] -/
  bad : Bool
  deriving DecidableEq, Repr

/-- A DOMAIN entry (Table REL-5). -/
structure DomCfg where
  /-- 1: negotiated. [05 R170; 1 bit; from the Reel] -/
  own : Bool
  /-- Negotiated delay, 4 us units. [05 R170; 8 bits; from the Reel] -/
  delay : Nat
  /-- Idle action. [05 R170; 2 bits; from the Reel] -/
  idleAct : BitVec 2
  /-- Idle time, 16 ms units. [05 R170; 8 bits; from the Reel] -/
  idleTime : Nat
  deriving DecidableEq, Repr

/-- A retention map (Table REL-6). -/
structure RetainMap where
  /-- Kept banks of PD07 to PD12, in order. [05 R172; 6 x 16 bits; from the Reel] -/
  banks : Vector (BitVec 16) 6
  /-- Shed rank of PD07 to PD12. [05 R172; 6 x 3 bits; from the Reel] -/
  shed : Vector Nat 6
  /-- OUTRET. [05 R172; 20 bits; from the Reel] -/
  outret : BitVec 20
  deriving DecidableEq, Repr

/-- A profile (Table REL-7). -/
structure Profile where
  /-- TARGET pairs. [05 R175; 40 bits; from the Reel] -/
  targets : BitVec 40
  /-- MSET. [05 R175; 3 bits; from the Reel] -/
  mset : Fin 8
  /-- MOVR. [05 R175; 1 bit; from the Reel] -/
  movr : Bool
  /-- ASET. [05 R175; 3 bits; from the Reel] -/
  aset : Fin 8
  /-- AOVR. [05 R175; 1 bit; from the Reel] -/
  aovr : Bool
  /-- EARLY. [05 R175; 1 bit; from the Reel] -/
  early : Bool
  deriving DecidableEq, Repr

/-- A setpoint (Table REL-8). -/
structure Setpoint where
  /-- RANGE: 1 is High. [05 R176; 1 bit; from the Reel] -/
  high : Bool
  /-- CODE; above 960 the setpoint is invalid (R191). [05 R176; 16 bits; from the Reel] -/
  code : Nat
  deriving DecidableEq, Repr

/-- A coefficient set (R178, R462). -/
structure CoefSet where
  /-- C0 to C6. [05 R178; 7 x 16 bits; from the Reel] -/
  c : Vector Half 7
  /-- Scale word K. [05 R178; 16 bits; from the Reel] -/
  k : Half
  deriving DecidableEq, Repr

/-- REGPOL (Table REL-9). -/
structure RegPol where
  /-- SSM. [05 R177; 4 bits; from the Reel] -/
  ssm : Nat
  /-- SSA. [05 R177; 4 bits; from the Reel] -/
  ssa : Nat
  /-- SLEW. [05 R177; 4 bits; from the Reel] -/
  slew : Nat
  /-- RETRY. [05 R177; 2 bits; from the Reel] -/
  retry : Nat
  /-- OVLT. [05 R177; 3 bits; from the Reel] -/
  ovlt : Nat
  /-- OVLP. [05 R177; 1 bit; from the Reel] -/
  ovlp : Nat
  /-- SHED bit 0. [05 R177; 1 bit; from the Reel] -/
  shedOn : Bool
  /-- SHED bit 1. [05 R177; 1 bit; from the Reel] -/
  rotate : Bool
  /-- PRATE, 0.1 mV. [05 R177; 16 bits; from the Reel] -/
  prate : Nat
  /-- RSNSM, micro-ohm. [05 R177; 16 bits; from the Reel] -/
  rsnsm : Nat
  /-- RSNSA, micro-ohm. [05 R177; 16 bits; from the Reel] -/
  rsnsa : Nat
  deriving DecidableEq, Repr

/-- A MONITOR entry (Table REL-10). -/
structure MonCfg where
  /-- EN, after R181. [05 R179; 1 bit; from the Reel] -/
  en : Bool
  /-- MODE. [05 R179; 2 bits; from the Reel] -/
  mode : BitVec 2
  /-- HYST. [05 R179; 2 bits; from the Reel] -/
  hyst : BitVec 2
  /-- REFSEL. [05 R179; 1 bit; from the Reel] -/
  refsel : Bool
  /-- CLR. [05 R179; 1 bit; from the Reel] -/
  clr : Bool
  /-- TLO. [05 R179; 10 bits; from the Reel] -/
  tlo : Nat
  /-- THI. [05 R179; 10 bits; from the Reel] -/
  thi : Nat
  /-- ROUTE. [05 R179; 5 bits; from the Reel] -/
  route : BitVec 5
  deriving DecidableEq, Repr

/-- A QUEUE override (R186). -/
structure QOverride where
  /-- Queue tag. [05 R186; 16 bits; from the Reel] -/
  tag : Nat
  /-- Cell limit; 0 is out of range. [05 R186; 16 bits; from the Reel] -/
  limit : Nat
  /-- Ageing time. [05 R186; 16 bits; from the Reel] -/
  age : Nat
  deriving DecidableEq, Repr

/-- QUEUE (Table REL-13). -/
structure QueueCfg where
  /-- DROPLIM. [05 R186; 16 bits; from the Reel] -/
  dropLim : Nat
  /-- HOLDLIM. [05 R186; 16 bits; from the Reel] -/
  holdLim : Nat
  /-- NOTRES. [05 R186; 16 bits; from the Reel] -/
  notRes : Nat
  /-- DROPAGE, s. [05 R186; 16 bits; from the Reel] -/
  dropAge : Nat
  /-- HOLDAGE, ms. [05 R186; 16 bits; from the Reel] -/
  holdAge : Nat
  /-- Overrides, in section order. [05 R186; up to 1,024; from the Reel] -/
  overrides : List QOverride
  deriving DecidableEq, Repr

/-- A TALLY entry (R187). -/
structure TallyCfg where
  /-- Queue tag. [05 R187; 16 bits; from the Reel] -/
  tag : Nat
  /-- Frame threshold FT. [05 R187; 16 bits; from the Reel] -/
  ft : Nat
  /-- Byte threshold BT, 256-byte units. [05 R187; 16 bits; from the Reel] -/
  bt : Nat
  /-- Wake-pin mask. [05 R187; 4 bits; from the Reel] -/
  mask : BitVec 4
  /-- Cause code. [05 R187; 8 bits; from the Reel] -/
  cause : Byte
  deriving DecidableEq, Repr

/-- The loaded Reel in the AON shadow (file 05). -/
structure Reel where
  /-- VERSION. [05 R165; 32 bits; none loaded] -/
  version : Word32
  /-- MINVER. [05 R165; 32 bits; none loaded] -/
  minVer : Word32
  /-- BOOTPROF. [05 R165; 3 bits; none loaded] -/
  bootProf : Fin 8
  /-- Short hash. [05 R196; 16 bits; none loaded] -/
  shash : Half
  /-- Slot it runs from. [05 R207; 1 bit; none loaded] -/
  slot : Fin 2
  /-- DOMAIN. [05 R170; 20 entries; none loaded] -/
  doms : Vector DomCfg 20
  /-- RETAIN. [05 R172; 4 maps; none loaded] -/
  maps : Vector RetainMap 4
  /-- PROFILE. [05 R175; 8 profiles; none loaded] -/
  profiles : Vector Profile 8
  /-- SETPOINT, main. [05 R176; 8; none loaded] -/
  spMain : Vector Setpoint 8
  /-- SETPOINT, auxiliary. [05 R176; 8; none loaded] -/
  spAux : Vector Setpoint 8
  /-- COMP, main. [05 R178; 8; none loaded] -/
  compMain : Vector CoefSet 8
  /-- COMP, auxiliary. [05 R178; 8; none loaded] -/
  compAux : Vector CoefSet 8
  /-- REGPOL. [05 R177; see RegPol; none loaded] -/
  pol : RegPol
  /-- MONITOR. [05 R179; 24; none loaded] -/
  mons : Vector MonCfg 24
  /-- GMASK. [05 R182; 16 bits; none loaded] -/
  gmask : Half
  /-- MCLASS. [05 R182; 16 bits; none loaded] -/
  mclass : Half
  /-- TCLASS. [05 R182; 16 bits; none loaded] -/
  tclass : Half
  /-- KWAKE. [05 R183; 128 bits; none loaded] -/
  kwake : BitVec 128
  /-- KMGMT. [05 R183; 128 bits; none loaded] -/
  kmgmt : BitVec 128
  /-- KLABEL. [05 R183; 64 bits; none loaded] -/
  klabel : BitVec 64
  /-- QUEUE. [05 R186; see QueueCfg; none loaded] -/
  queue : QueueCfg
  /-- TALLY. [05 R187; up to 256; none loaded] -/
  tally : List TallyCfg
  /-- REELF of W04. [05 R190; 1 bit; none loaded] -/
  fieldFault : Bool
  /-- RULES, AUTOMATA and ASSOC are consistent. [05 R185; 1 bit; none loaded] -/
  tablesOk : Bool
  deriving DecidableEq, Repr

/-- A Reel delivery in progress (R208 to R214). -/
structure Transfer where
  /-- XFER. [16 R613; 16 bits; none] -/
  xfer : Half
  /-- Target slot. [05 R207; 1 bit; none] -/
  slot : Fin 2
  /-- Port on which its latest part arrived (Table DOM-6). [10 R377; 1 bit; none] -/
  port : Sys2Proof.Port
  /-- End of the contiguous bytes accepted in order. [05 R211; 32 bits; none] -/
  next : Nat
  /-- End of the contiguous bytes programmed. [05 R211; 32 bits; none] -/
  programmed : Nat
  /-- Last offset confirmed by a progress notice. [05 R211; 32 bits; none] -/
  confirmed : Nat
  /-- Data of parts accepted and still being programmed, oldest first. [16 R627; list; none] -/
  inFlash : List (List Byte)
  /-- Parts accepted, with offset and length, for the repeat test of R616. [16 R616; list; none] -/
  parts : List (Nat × Nat)
  /-- Parts programmed since the last progress notice. [05 R211; 4 bits; none] -/
  sinceNotice : Nat
  /-- The last part has been accepted. [05 R212; 1 bit; none] -/
  last : Bool
  /-- Activation was asked. [05 R212; 1 bit; none] -/
  act : Bool
  deriving DecidableEq, Repr

/-! ### Front ends, rule memory and engines -/

/-- A word or monitor event that waits for the slow-stream engine (R258, R292). -/
inductive SlowItem where
  | word (fe : Sys2Proof.FrontEnd) (body : Word32)
  | event (mon : Fin 24) (code : Byte)
  deriving DecidableEq, Repr

/-- The front ends and the AON word checks (file 06). -/
structure Front where
  /-- Watermarks of mains words, one per group. [06 R231; 16 x 8 bits or unset; unset] -/
  wmMains : Vector (Option Byte) 16
  /-- Watermarks of tug words. [06 R231; 16 x 8 bits or unset; unset] -/
  wmTug : Vector (Option Byte) 16
  /-- Safe-mode watermarks. [04 R147; 16 x 8 bits or unset; unset] -/
  wmSafe : Vector (Option Byte) 16
  /-- KLABEL under which the watermarks were set. [06 R232; 64 bits or none; none] -/
  label : Option (BitVec 64)
  /-- Last committed SETNO under that label (R327). [08 R327; 16 bits or none; none] -/
  lastSetno : Option Half
  /-- Ticks of the latest MAC failures, per front end, newest first. [06 R235; 3 lists; empty] -/
  macFails : Vector (List Nat) 3
  /-- MACF of W04. [06 R235; 1 bit; 0] -/
  macf : Bool
  /-- A candidate is being decoded, from its preamble lock to its last CRC bit, per front end. [06 R843; 3 x 1 bit; 0] -/
  locked : Vector Bool 3
  /-- The word waiting to be relayed out of U. [06 R240; 56 bits or none; none] -/
  relayU : Option (Word32 × Half)
  /-- The word waiting to be relayed out of D. [06 R240; 56 bits or none; none] -/
  relayD : Option (Word32 × Half)
  /-- The last word relayed, per port, as sent: body, MAC and CRC. [06 R238; 56 bits or none; none] -/
  lastRelay : Option (Sys2Proof.Port × Word32 × Half × Byte)
  deriving DecidableEq, Repr

/-- One epoch of the tables (R270): where logical lines lie, and the start lines. -/
structure Tables where
  /-- Epoch number, counted from the load. [07 R270; model's own count; 0] -/
  epoch : Nat
  /-- Lines that an update has placed: logical line and its place, a remap entry where the two differ. [08 R329; up to
  8,192 remap entries; empty] -/
  remap : List (Nat × Nat)
  /-- Logical lines below the load's end that a FREE made unassigned. [08 R328; list; empty] -/
  freed : List Nat
  /-- Start line of FRAME. [08 R308; 15 bits; 0x7FFF] -/
  sframe : Nat
  /-- Start line of HOST. [08 R308; 15 bits; 0x7FFF] -/
  shost : Nat
  /-- Start line of SLOW. [08 R308; 15 bits; 0x7FFF] -/
  sslow : Nat
  deriving DecidableEq, Repr

/-- One line as a place of the memory or a cache holds it (R307). -/
structure MemLine where
  /-- The data bytes, in line order. [08 R307; 64 x 8 bits; none] -/
  bytes : List Byte
  /-- The parity bits: bit k covers byte k, four to each 32-bit word. [08 R307; 16 x 4 bits; none] -/
  par : BitVec 64
  deriving DecidableEq, Repr

/-- An open update set (R271, R327). -/
structure OpenSet where
  /-- SETNO. [08 R327; 16 bits; none open] -/
  setno : Half
  /-- Port on which its latest word arrived (Table DOM-6). [10 R377; 1 bit; none open] -/
  port : Sys2Proof.Port
  /-- Staged lines: logical line and the free place that it is staged into. [07 R271; up to 1,024; none open] -/
  lines : List (Nat × Nat)
  /-- Lines a FREE word names. [08 R328; list; none open] -/
  frees : List Nat
  /-- Start lines changed: automaton and line. [08 R328; list; none open] -/
  starts : List (Nat × Nat)
  deriving DecidableEq, Repr

/-- A set whose commit word was accepted and that waits for step 5 of Sequence ENG-1. -/
structure CommitWait where
  /-- SETNO. [08 R327; 16 bits; none waits] -/
  setno : Half
  /-- The tables that become current. [07 R271; see Tables; none waits] -/
  tables : Tables
  /-- Places the set wrote. [07 R271; list; none waits] -/
  places : List Nat
  /-- Logical lines the set changes. [07 R274; list; none waits] -/
  changed : List Nat
  /-- Snoops not yet acknowledged. [07 R274; list; none waits] -/
  snoops : List (Fin 4 × Nat)
  deriving DecidableEq, Repr

/-- Rule and automata memory, PD07 (files 07, 08). -/
structure RuleMem where
  /-- Contents of the line places. [08 R304; 32,768 x 64 bytes and 64 parity bits; empty] -/
  places : List (Nat × MemLine)
  /-- N of R305. [08 R305; 15 bits; 0] -/
  nline : Nat
  /-- R of R305. [08 R305; 13 bits; 0] -/
  nrule : Nat
  /-- NMAP. [08 R308; 5 bits; 0] -/
  nmap : Nat
  /-- MAPLINE entries in use. [08 R308; 16 x 15 bits; empty] -/
  mapline : List Nat
  /-- The current epoch. [07 R272; see Tables; empty] -/
  cur : Tables
  /-- The previous epoch, while a stream of it remains. [07 R272; see Tables; none] -/
  prev : Option Tables
  /-- The open set. [07 R271; see OpenSet; none] -/
  openSet : Option OpenSet
  /-- Sets that wait for step 5, oldest first. [07 R275; list; empty] -/
  commits : List CommitWait
  /-- SETNO of a refused set whose later words are discarded. [08 R327; 16 bits or none; none] -/
  refused : Option Half
  /-- Places whose line is marked lost: the version there stays lost until the line is written elsewhere. [07 R279; list;
  empty] -/
  lost : List Nat
  /-- Logical lines changed by a committed update since the load. [07 R279; list; empty] -/
  changed : List Nat
  /-- Next place the scan reads. [07 R278; 15 bits; 0] -/
  scan : Nat
  /-- Place whose reread from flash is in progress. [07 R279; 15 bits or none; none] -/
  repair : Option Nat
  /-- Places whose word failed parity and is not yet repaired. [07 R280; list; empty] -/
  badPlaces : List Nat
  /-- A reload from the Reel runs (R25, R331). [01 R25; 1 bit; 0] -/
  reloading : Bool
  /-- The reload is of the whole memory (return from off). [07 R276; 1 bit; 0] -/
  reloadAll : Bool
  deriving DecidableEq, Repr

/-- State of a cached line (R281). -/
inductive CacheState where
  | current | old | invalid
  deriving DecidableEq, Repr

/-- The stream kinds of Table ENG-4, with the source that the wake-cause word needs. -/
inductive StreamKind where
  | frame (p : Sys2Proof.Port)
  | host
  | word (fe : Sys2Proof.FrontEnd)
  | event
  deriving DecidableEq, Repr

/-- One line of a state cache (R281); a cache lists its lines least recently used first. -/
structure CacheLine where
  /-- Logical line. [07 R281; 15 bits; empty cache] -/
  line : Nat
  /-- State. [07 R281; enum; empty cache] -/
  st : CacheState
  /-- The streams of the engine that an old copy is pinned to, by kind. [07 R283; list; empty cache] -/
  pinned : List StreamKind
  /-- The line. [07 R281; 64 bytes and their parity; empty cache] -/
  data : MemLine
  deriving DecidableEq, Repr

/-- A transaction of the directory on one or more lines (R284). -/
inductive Trans where
  /-- A FILL that is not answered: engine, line and epoch (Table ENG-6). -/
  | fill (eng : Fin 4) (line epoch : Nat)
  /-- A commit from step 1 to step 5 of Sequence ENG-1: SETNO and the lines it changes. -/
  | commit (setno : Half) (lines : List Nat)
  /-- A scan repair of a loaded line at its place (R334). -/
  | repair (line : Nat)
  deriving DecidableEq, Repr

/-- The frame a stream belongs to, for W2D, notices and tallies: FSRC, FDST, FSSEQ, FQTAG, TYPE. -/
structure FrameName where
  /-- SRC. [16 R619; 8 bits; none] -/
  fsrc : Byte
  /-- DST. [16 R619; 8 bits; none] -/
  fdst : Byte
  /-- SSEQ. [16 R619; 16 bits; none] -/
  fsseq : Half
  /-- QTAG. [16 R619; 16 bits; none] -/
  fqtag : Half
  /-- TYPE. [16 R595; 4 bits; none] -/
  typ : BitVec 4
  deriving DecidableEq, Repr

/-- A stream in progress (R270, R296). -/
structure Stream where
  /-- Kind. [07 R261; 3 bits; none] -/
  kind : StreamKind
  /-- Context key. [07 R261; 48 bits; none] -/
  key : Key48
  /-- Epoch it runs under. [07 R270; model's own count; none] -/
  epoch : Nat
  /-- The copy FIFO: bytes that the engine has not taken, oldest first. [07 R257; up to 32 bytes; none] -/
  fifo : List Byte
  /-- Bytes that have not reached the copy FIFO. [07 R260; list; none] -/
  bytes : List Byte
  /-- Bytes taken. [07 R296; 12 bits; none] -/
  taken : Nat
  /-- State line; none is DEAD. [08 R312; 15 bits; none] -/
  st : Option Nat
  /-- End rules collected. [07 R265; list; none] -/
  collected : List Nat
  /-- Immediate rules that have won. [07 R264; list; none] -/
  won : List Nat
  /-- Matching has stopped to the stream's end. [07 R280; 1 bit; none] -/
  stopped : Bool
  /-- A result of the stream has passed. [07 R298; 1 bit; none] -/
  passed : Bool
  /-- Its frame has ended before the end decision (R579). [15 R579; 1 bit; none] -/
  late : Bool
  /-- Checkpoint: bytes taken, state, collected set. [07 R296; 16 bytes apart; none] -/
  chk : Nat × Option Nat × List Nat
  /-- The frame concerned. [16 R619; 52 bits; none] -/
  name : Option FrameName
  /-- Lines read by the stream (R283). [07 R283; list; none] -/
  read : List Nat
  /-- The word or event carried, for R298. [07 R298; see SlowItem; none] -/
  item : Option SlowItem
  deriving DecidableEq, Repr

/-- One pattern engine (Table ENG-1). -/
structure Engine where
  /-- Failed until the next reset. [07 R295; 1 bit; 0] -/
  failed : Bool
  /-- State cache. [07 R281; 256 lines; empty] -/
  cache : List CacheLine
  /-- Stream in progress. [07 R270; see Stream; none] -/
  run : Option Stream
  /-- A line stream that a whole slow stream interrupts, or the paused host stream. [07 R292; see Stream; none] -/
  paused : List Stream
  /-- Streams since the last self-check. [07 R294; 12 bits; 0] -/
  since : Nat
  /-- A self-check is due. [07 R294; 1 bit; 0] -/
  checkDue : Bool
  /-- Line bytes taken since a slow stream was last placed between them, saturating at 128. [07 R292; 8 bits; 128] -/
  lineBytes : Nat
  deriving DecidableEq, Repr

/-- Which engine carries each stream (Table NOD-3, R297). -/
structure Assign where
  /-- Port U ingress. [01 R23; 2 bits or none; by variant] -/
  portU : Option (Fin 4)
  /-- Port D ingress. [01 R23; 2 bits or none; by variant] -/
  portD : Option (Fin 4)
  /-- Drop-port ingress. [01 R23; 2 bits or none; by variant] -/
  host : Option (Fin 4)
  /-- Slow streams. [01 R23; 2 bits or none; by variant] -/
  slow : Option (Fin 4)
  deriving DecidableEq, Repr

/-- A disposition (Table AUT-6). -/
inductive Disp where
  | dflt | forward | deliver | copy | discard
  deriving DecidableEq, Repr

/-- An end decision handed to the switch core (R268, R337). -/
structure Decision where
  /-- Disposition. [08 R318; 3 bits; none] -/
  disp : Disp
  /-- Override tag. [08 R318; 16 bits or none; none] -/
  qtag : Option Half
  deriving DecidableEq, Repr

/-- The engines, their directory and their assignment (file 07). -/
structure Engines where
  /-- E0 to E3. [07 R257; 4 engines; empty] -/
  eng : Vector Engine 4
  /-- Assignment of streams. [01 R23; see Assign; none before identity] -/
  assign : Assign
  /-- Engines failed so far, to tell the first from later ones. [07 R297; count; 0] -/
  failures : Nat
  /-- Directory: engines that hold each line. [07 R282; list; empty] -/
  holders : List (Fin 4 × Nat)
  /-- The directory's transactions that have not ended, in order of arrival. [07 R284; list; empty] -/
  trans : List Trans
  /-- Selected words and events that wait for the slow-stream engine, oldest first. [07 R292; list; empty] -/
  slowQ : List SlowItem
  /-- End decision on the frame arriving on U. [07 R268; see Decision; none] -/
  decU : Option Decision
  /-- End decision on the frame arriving on D. [07 R268; see Decision; none] -/
  decD : Option Decision
  /-- End decision on the host frame. [07 R268; see Decision; none] -/
  decHost : Option Decision
  deriving DecidableEq, Repr

/-! ### Wake actions -/

/-- Associated data (Table AUT-6). -/
structure Assoc where
  /-- PROF. [08 R318; 3 bits; from the tables] -/
  prof : Fin 8
  /-- PEN. [08 R318; 1 bit; from the tables] -/
  pen : Bool
  /-- WMASK. [08 R318; 4 bits; from the tables] -/
  wmask : BitVec 4
  /-- CAUSE. [08 R318; 8 bits; from the tables] -/
  cause : Byte
  /-- DISP; a reserved code is taken as default (DESIGN CHOICE log 11). [08 R318; 3 bits; from the tables] -/
  disp : Disp
  /-- QOVR. [08 R318; 1 bit; from the tables] -/
  qovr : Bool
  /-- NOTE. [08 R318; 1 bit; from the tables] -/
  note : Bool
  /-- TOWN. [08 R318; 1 bit; from the tables] -/
  town : Bool
  /-- QTAG. [08 R318; 16 bits; from the tables] -/
  qtag : Half
  /-- TTAG. [08 R318; 16 bits; from the tables] -/
  ttag : Half
  /-- TINC. [08 R318; 8 bits; from the tables] -/
  tinc : Nat
  /-- NCODE. [08 R318; 8 bits; from the tables] -/
  ncode : Byte
  deriving DecidableEq, Repr

/-- A result for the action sequencer (R267, R298, R347, R147). -/
inductive Result where
  | rule (num : Nat) (a : Assoc) (kind : StreamKind) (isEnd : Bool) (name : Option FrameName)
  | tally (mask : BitVec 4) (cause : Byte)
  | engineLost
  deriving DecidableEq, Repr

/-- Why a wake pin is held low (R341). -/
inductive HeldLow where
  | no | railFailed | cancelled
  deriving DecidableEq, Repr

/-- One wake-cause word, its pin and its snapshot (R340, R341, R344). -/
structure WakeWord where
  /-- CAUSE. [09 R340; 8 bits; 0x00] -/
  cause : Byte
  /-- SRC. [09 R340; 3 bits; 0b000] -/
  src : BitVec 3
  /-- COUNT, 0 to 15. [09 R340; 4 bits; 0x0] -/
  count : Nat
  /-- PEND. [09 R340; 1 bit; 0] -/
  pend : Bool
  /-- The pin asks to be high (R341); VIO gates the ball (R49). [09 R341; 1 bit; 0] -/
  pin : Bool
  /-- Held-low mark. [09 R341; enum; no] -/
  held : HeldLow
  /-- The pin is in the low pulse of a WACK that left causes, and rises again. [09 R344; 1 bit; 0] -/
  again : Bool
  /-- COUNT at the last read. [09 R345; 4 bits; 0] -/
  snap : Nat
  deriving DecidableEq, Repr

/-- A set of rail attempts on PD17 or PD18 (R354, R358). -/
structure RailTry where
  /-- A set of attempts runs. [09 R354; 1 bit; 0] -/
  running : Bool
  /-- The gap of Sequence ACT-2 runs. [09 R354; 1 bit; 0] -/
  gap : Bool
  /-- Retries made. [09 R354; 2 bits; 0] -/
  retries : Nat
  /-- Pins of the results that wait. [09 R354; 4 bits; 0] -/
  mask : BitVec 4
  deriving DecidableEq, Repr

/-- The action sequencer (file 09). -/
structure Act where
  /-- Results waiting, oldest first. [09 R336; up to 64; empty] -/
  queue : List Result
  /-- Results that engines hold back while the queue is full, in order of their decisions. [09 R336; list; empty] -/
  late : List (Fin 4 × Result)
  /-- W0C to W0F. [09 R340; 4 words; zero] -/
  wake : Vector WakeWord 4
  /-- CAUSE of the most recently recorded wake cause. [13 R515; 8 bits; 0x00, DESIGN CHOICE log 10] -/
  lastCause : Byte
  /-- Pins on which 0x83 is recorded once they have been raised (R359). [09 R359; 4 bits; 0] -/
  after83 : BitVec 4
  /-- Attempts on PD17. [09 R354; see RailTry; none] -/
  main : RailTry
  /-- Attempts on PD18. [09 R358; see RailTry; none] -/
  aux : RailTry
  /-- Profile recorded while the outage sequence runs, with its pins. [01 R37; 3 bits or none; none] -/
  outProfile : Option (Fin 8 × BitVec 4)
  deriving DecidableEq, Repr

/-! ### Domains and Bridle -/

/-- A domain's state (R364). -/
inductive DS where
  | off | ret | on
  deriving DecidableEq, Repr

/-- Origin of a request (Table DOM-7). -/
inductive Origin where
  | host | seq | idle | dev
  deriving DecidableEq, Repr

/-- A request on one domain (R39, R381). -/
structure Req where
  /-- Origin. [10 R381; 2 bits; none] -/
  origin : Origin
  /-- State asked for. [10 R364; enum; none] -/
  target : DS
  /-- Job it belongs to; 0 when none. [10 R385; model's own number; none] -/
  job : Nat
  /-- A host command on this domain that answered 10 waits for it. [10 R392; 1 bit; none] -/
  hostCmd : Bool
  /-- A return on demand (R406). [10 R406; 1 bit; none] -/
  demand : Bool
  deriving DecidableEq, Repr

/-- How far the request in progress has come (Sequences DOM-1, DOM-2). -/
inductive Stage where
  /-- Step 1 of Sequence DOM-1: ASK or DRAIN not yet sent. -/
  | wait
  /-- ASK received by the block. -/
  | asked
  /-- HOLD received by Bridle. -/
  | held
  /-- DRAIN received by the block. -/
  | draining
  /-- Steps 2 and 3 of Sequence DOM-2. -/
  | rising
  /-- LIVE received; a required domain is not on. -/
  | live
  deriving DecidableEq, Repr

/-- One domain as Bridle holds it. -/
structure Dom where
  /-- State. [10 R364; 2 bits; off] -/
  st : DS
  /-- Request in progress. [10 R370; see Req; none] -/
  cur : Option (Req × Stage)
  /-- Requests that wait, oldest first. [10 R39; list; empty] -/
  reqs : List Req
  /-- Faulty until the next reset. [10 R380; 1 bit; 0] -/
  faulty : Bool
  /-- The idle policy took it out of on, and no later request set its state. [10 R406; 1 bit; 0] -/
  idleTook : Bool
  /-- Reason of the last refused return on demand. [10 R396; 4 bits or none; none] -/
  demandRefused : Option (BitVec 4)
  /-- Banks that hold their contents (memory domains). [10 R368; 16 bits; 0] -/
  banks : BitVec 16
  deriving DecidableEq, Repr

/-- A profile on its way through Bridle (R349, R385). -/
structure Job where
  /-- Number. [10 R385; model's own number; none] -/
  id : Nat
  /-- Origin. [10 R381; 2 bits; none] -/
  origin : Origin
  /-- Profile named last. [10 R385; 3 bits; none] -/
  prof : Fin 8
  /-- TARGET after R349's merge. [10 R349; 40 bits; none] -/
  targets : BitVec 40
  /-- Setpoint fields after R349's merge. [11 R417; 9 bits; none] -/
  fields : Profile
  /-- Pins of the results that passed it. [09 R359; 4 bits; none] -/
  mask : BitVec 4
  /-- Targets outstanding. [10 R385; count; none] -/
  left : Nat
  /-- A target escalated or failed. [10 R387; 1 bit; none] -/
  failed : Bool
  /-- A target was refused. [10 R387; 1 bit; none] -/
  refused : Bool
  /-- Reason of the last target not done. [10 R396; 4 bits; none] -/
  reason : BitVec 4
  /-- A host command that answered 10 waits for it. [10 R392; 1 bit; none] -/
  hostCmd : Bool
  deriving DecidableEq, Repr

/-- W0B (Table DOM-11). -/
structure W0B where
  /-- SEL. [10 R395; 5 bits; 0b00000] -/
  sel : BitVec 5
  /-- ORIGIN. [10 R395; 2 bits; 0b00] -/
  origin : BitVec 2
  /-- RESULT. [10 R395; 2 bits; 0b00] -/
  result : BitVec 2
  /-- REASON. [10 R395; 4 bits; 0x0] -/
  reason : BitVec 4
  /-- CNT, saturating at 7. [10 R395; 3 bits; 0b000] -/
  cnt : Nat
  /-- The entry has not been read. [10 R397; 1 bit; 0] -/
  unread : Bool
  deriving DecidableEq, Repr

/-- Bridle (file 10). -/
structure Bridle where
  /-- PD00 to PD19. [10 R364; 20 domains; off] -/
  doms : Vector Dom 20
  /-- Profiles that have reached Bridle and are not started, oldest first. [10 R385; list; empty] -/
  waiting : List Job
  /-- Host commands on a domain that wait behind a profile that names it and is not started: the profile's number, the
  domain and the state asked for. [10 R412; list; empty] -/
  behind : List (Nat × Fin 20 × DS)
  /-- Profiles started and not complete. [10 R385; list; empty] -/
  jobs : List Job
  /-- Number of the next job. [10 R385; model's own number; 1, DESIGN CHOICE log 10] -/
  nextJob : Nat
  /-- W0B. [10 R395; 16 bits; 0] -/
  w0b : W0B
  /-- PACK. [10 R389; 1 bit; 0] -/
  pack : Bool
  /-- PRES1:0. [10 R389; 2 bits; 0b00] -/
  pres : BitVec 2
  /-- Latched setpoint fields; none before the first profile starts. [11 R417; 8 bits or none; none] -/
  latched : Option (Fin 8 × Bool × Fin 8 × Bool)
  deriving DecidableEq, Repr

/-! ### Regulator -/

/-- What a stopped channel waits for (Table STW-11, code 0b101). -/
inductive WaitKind where
  | hiccup | retry | gap | thermal
  deriving DecidableEq, Repr

/-- Channel state (Table STW-11). -/
inductive ChPhase where
  | off | ramp | regulating | slewing | stopping | waiting (w : WaitKind) | latched | notSwitching
  deriving DecidableEq, Repr

/-- State of a PWM ball (Table BAL-6). -/
inductive Pwm where
  | high | low | mid
  deriving DecidableEq, Repr

/-- The switching clock (R443 to R445). -/
inductive Clock where
  | internal | acquiring | locked | gliding
  deriving DecidableEq, Repr

/-- One regulator channel (files 11 to 13). -/
structure ChanSt where
  /-- State. [19 Table STW-11; 3 bits; off] -/
  phase : ChPhase
  /-- Reference in force, microvolts. [11 R416; 0 to 3.2 V; 0] -/
  ref : Nat
  /-- The value that the ramp or slew rules give, before V_trk, microvolts. [11 R435; as ref; 0] -/
  own : Nat
  /-- Range in use: 1 is High. [11 R416; 1 bit; 0] -/
  high : Bool
  /-- Where a slew or ramp leads, microvolts. [11 R421; as ref; 0] -/
  target : Nat
  /-- Range of the target. [11 R423; 1 bit; 0] -/
  targetHigh : Bool
  /-- Where a slew changes range, microvolts. [11 R423; as ref; 0] -/
  cross : Nat
  /-- Running setpoint index. [11 R417; 3 bits; 0] -/
  idx : Fin 8
  /-- Selected index. [11 R417; 3 bits; 0] -/
  sel : Fin 8
  /-- PGOOD asserted. [11 R432; 1 bit; 0] -/
  pgood : Bool
  /-- Coefficient set in use. [12 R462; 8 x 16 bits; 0] -/
  coef : CoefSet
  /-- e[n-1] to e[n-3]. [12 R461; 3 x 8 bits; 0] -/
  e : Vector Int 3
  /-- y[n-1] to y[n-3], units of 2^-11. [12 R463; 3 x 35 bits; 0] -/
  y : Vector Int 3
  /-- D, units of 2^-16. [12 R464; 16 bits; 0] -/
  d : Nat
  /-- D of the sample before. [12 R466; 16 bits; 0] -/
  dOld : Nat
  /-- Diode emulation. [11 R429; 1 bit; 0] -/
  diode : Bool
  /-- Pulses withheld by WM00 or WM07 or a routed monitor. [12 R483; 1 bit; 0] -/
  withheld : Bool
  /-- Phases held Low after an overvoltage. [13 R498; 1 bit; 0] -/
  heldLow : Bool
  /-- Feedback on VLOC. [13 R501; 1 bit; 0] -/
  vloc : Bool
  /-- PGOOD asserted since the last hiccup record. [13 R494; 1 bit; 1] -/
  hiccupArmed : Bool
  /-- Slow-limit trips of the OVLP run so far. [13 R496; 4 bits; 0] -/
  run : Nat
  /-- Undervoltage trips of the OVLP run so far. [13 R497; 4 bits; 0] -/
  runUv : Nat
  /-- PGOOD has been asserted since the last trip of the run (the 1 s of R496 then counts). [13 R496; tick or none; none] -/
  goodSince : Option Nat
  /-- Kept running through a reset under warm hold. [04 R152; 1 bit; 0] -/
  warm : Bool
  deriving DecidableEq, Repr

/-- One derating level (R506). -/
structure Derate where
  /-- d, 0 to 4. [13 R506; 3 bits; 0] -/
  level : Nat
  /-- The input was above at some time in the present interval. [13 R506; 1 bit; 0] -/
  above : Bool
  deriving DecidableEq, Repr

/-- What PD17 and PD18 latch of the Reel for channels that run under warm hold, while the shadow holds none (R123, R152):
the windows of WM00 to WM07 and the regulator policy. -/
structure KeptCfg where
  /-- WM00 to WM07. [04 R152; 8 x 64 bits; none kept] -/
  mons : Vector MonCfg 8
  /-- REGPOL. [04 R152; see RegPol; none kept] -/
  pol : RegPol
  deriving DecidableEq, Repr

/-- The switching clock beside its source (R443 to R447). -/
structure ClockRun where
  /-- Its frequency while it follows SYNC_IN or glides, Hz. [11 R447; 21 bits; 0] -/
  freq : Nat
  /-- Place in the 64 periods of the spread; 0 is fsw x (1 - s), 16 is fsw. [11 R446; 6 bits; 16] -/
  spreadAt : Nat
  /-- Accepted edges in a row, up to 8. [11 R444; 4 bits; 0] -/
  edges : Nat
  /-- Time since the last accepted edge, ps; none: the next edge is not tested. [11 R444; time or none; none] -/
  gap : Option Nat
  deriving DecidableEq, Repr

/-- The edge generators (R466 to R470, R481). Lengths are in units of 1/3,932,160,000 of a switching period: a D of 2^-16, a
trim of 0.1 % and a slot j/m are all whole numbers of them. -/
structure Pulses where
  /-- Main phases in the slots of the present period, slot 0 first. [12 R468; up to 6; empty] -/
  slots : List (Fin 6)
  /-- Samples of the main channel since the period start. [12 R458; 0 to 4; 0] -/
  pos : Nat
  /-- What is left of the pulse: phases 1 to 6, then the auxiliary phase. [12 R469; 7 x 32 bits; 0] -/
  left : Vector Nat 7
  /-- The duty latched at the last rise, D_k. [12 R466; 7 x 32 bits; 0] -/
  duty : Vector Nat 7
  /-- The phase follows diode emulation until its next pulse. [12 R470; 7 x 1 bit; 0] -/
  emul : Vector Bool 7
  /-- Samples of the auxiliary channel before PWM_A's next rise. [11 R448; count or none; none] -/
  auxIn : Option Nat
  /-- The present period is the second of a pair (fsw / 2). [11 R448; 1 bit; 0] -/
  auxOdd : Bool
  deriving DecidableEq, Repr

/-- The fields of W13 to W15 that hold while PD17 is not on (R699). -/
structure HoldRegs where
  /-- MACT. [19 R699; 3 bits; 0] -/
  mact : Nat
  /-- MVLOC. [19 R699; 1 bit; 0] -/
  mvloc : Bool
  /-- MSYNC. [19 R699; 2 bits; 0] -/
  msync : BitVec 2
  /-- MDER. [19 R699; 3 bits; 0] -/
  mder : Nat
  /-- ADER. [19 R699; 3 bits; 0] -/
  ader : Nat
  /-- FAIL. [19 R699; 6 bits; 0] -/
  fail : BitVec 6
  /-- TLIM. [19 R699; 6 bits; 0] -/
  tlim : BitVec 6
  deriving DecidableEq, Repr

/-- The regulator (files 11 to 13). -/
structure Reg where
  /-- Main channel. [11 R416; see ChanSt; off] -/
  main : ChanSt
  /-- Auxiliary channel. [12 R485; see ChanSt; off] -/
  aux : ChanSt
  /-- Straps in force for the main channel. [03 R113; see RegStraps; 0] -/
  straps : RegStraps
  /-- Straps in force for the auxiliary channel. [03 R113; see RegStraps; 0] -/
  strapsA : RegStraps
  /-- The Reel's values that channels under warm hold run on. [04 R152; see KeptCfg; none] -/
  kept : Option KeptCfg
  /-- Active main phases in ring order, first of the set first. [12 R479; up to 6; empty] -/
  active : List (Fin 6)
  /-- Rotation offset r. [12 R479; 3 bits; 0] -/
  r : Nat
  /-- Trims, 0.1 %. [12 R474; 6 x 7 bits; 0] -/
  trim : Vector Int 6
  /-- Consecutive updates at a trim limit. [12 R476; 6 x 8 bits; 0] -/
  pinned : Vector Nat 6
  /-- Consecutive intervals of implausible sense. [13 R509; 6 x 3 bits; 0] -/
  implaus : Vector Nat 6
  /-- Phase failed. [13 R510; 6 x 1 bit; 0] -/
  failed : Vector Bool 6
  /-- The balancing interval is to be skipped. [12 R475; 1 bit; 0] -/
  skip : Bool
  /-- Swaps due. [12 R480; count; 0] -/
  swapsDue : Nat
  /-- A swap's second step is due. [12 R480; 1 bit; 0] -/
  swapShed : Bool
  /-- Phases all to be made active once WM00 deasserts (Table RGL-3). [12 R486; 1 bit; 0] -/
  restoreDue : Bool
  /-- Consecutive samples with the error at or above the undershoot limit. [12 R482; 2 bits; 0] -/
  underCount : Nat
  /-- Consecutive truncated periods: phases 1 to 6, then the auxiliary phase. [13 R493; 7 x 4 bits; 0] -/
  trunc : Vector Nat 7
  /-- PCLk tripped outside its pulse in the last period. [13 R509; 6 x 1 bit; 0] -/
  offTrip : Vector Bool 6
  /-- The clock. [11 R444; enum; internal] -/
  clock : Clock
  /-- V(TRK) as sampled, microvolts. [11 R436; 0 to 1.65 V; 0] -/
  trk : Nat
  /-- V_trk as it acts on the auxiliary reference, microvolts. [11 R436; as ref; 0] -/
  vtrk : Nat
  /-- The clock's frequency, spread and SYNC_IN edges. [11 R444; see ClockRun; internal] -/
  clk : ClockRun
  /-- The edge generators. [12 R468; see Pulses; no pulse] -/
  pulse : Pulses
  /-- Time since the active set last changed, ns, up to 200,000. [12 R477; 18 bits; 0] -/
  dwell : Nat
  /-- Mean sense voltages over the last period, 0.03125 mV: phases 1 to 6, then the auxiliary phase. [12 R471; 7 x 12 bits;
  0] -/
  sense : Vector Half 7
  /-- WM05's level. [13 R506; see Derate; 0] -/
  der5 : Derate
  /-- WM06's level. [13 R506; see Derate; 0] -/
  der6 : Derate
  /-- Both channels leave on together: the auxiliary stops first. [11 R440; 1 bit; 0] -/
  descent : Bool
  /-- PWM1 to PWM6. [02 R57; 6 x enum; MID] -/
  pwm : Vector Pwm 6
  /-- PWM_A. [02 R57; enum; MID] -/
  pwmA : Pwm
  /-- Held fields of W13 to W15. [19 R699; see HoldRegs; 0] -/
  hold : HoldRegs
  deriving DecidableEq, Repr

/-! ### Fault record, alarms and monitors -/

/-- A captured fault record (Table RGP-2) before its SEQ and DROP are known. -/
structure FaultRec where
  /-- Cause code. [13 R515; 5 bits; none] -/
  code : BitVec 5
  /-- Phase number, 0 when none. [13 R515; 3 bits; none] -/
  phase : BitVec 3
  /-- CHAN. [13 R515; 1 bit; none] -/
  aux : Bool
  /-- HOURS. [13 R515; 24 bits; none] -/
  hours : Nat
  /-- INFO bits [2:0], [4] and [7:6]. [13 R515; 6 bits; none] -/
  info : Byte
  /-- DERATE bits [5:0]. [13 R515; 6 bits; none] -/
  derate : BitVec 6
  /-- Captures lost before this record. [13 R514; 2 bits; none] -/
  drop : Nat
  /-- I1 to I6, the main phases. [13 R515; 6 x 16 bits; none] -/
  i : Vector Half 6
  /-- The auxiliary phase, I1 of its records. [13 R515; 16 bits; none] -/
  iAux : Half
  /-- Other analogue readings. [13 R515; 6 bytes; none] -/
  snap : Sys2Proof.Snap
  /-- REF word. [13 R515; 16 bits; none] -/
  ref : Half
  /-- DOMS. [13 R515; 8 bits; none] -/
  doms : Byte
  /-- WCAUSE. [13 R515; 8 bits; none] -/
  wcause : Byte
  /-- Asserts FAULT_N rather than ALERT_N (Table RGP-1). [13 R512; 1 bit; none] -/
  toFault : Bool
  /-- Notice entry that shares its NOTICE (reasons 0x41, 0x42), empty when none. [16 R621; up to 12 bytes; none] -/
  companion : List Byte
  /-- The condition in the column "Ends when" of Table RGP-1 has ended. [13 R512; 1 bit; none] -/
  ended : Bool
  deriving DecidableEq, Repr

/-- An alarm cause set by a record (R512). -/
structure RecAlarm where
  /-- Cause code. [13 R512; 5 bits; none] -/
  code : BitVec 5
  /-- CHAN. [13 R512; 1 bit; none] -/
  aux : Bool
  /-- Holds FAULT_N rather than ALERT_N. [13 R512; 1 bit; none] -/
  toFault : Bool
  /-- W16 was read while the group held the record or a later one. [13 R512; 1 bit; none] -/
  read : Bool
  /-- The condition in the column "Ends when" of Table RGP-1 has ended. [13 R512; 1 bit; none] -/
  ended : Bool
  deriving DecidableEq, Repr

/-- Alarm causes other than records and monitor latches. -/
inductive Alarm where
  | boot | identity | tickFail | strapFault | strapAlert | safeMode | nvmBad | warmDiffer | macFail | crystal | w0b
  | linkDown (p : Sys2Proof.Port) | lockFail (p : Sys2Proof.Port) | engineFail (e : Fin 4) | lineLost | lostMatch
  | gdrift | reelField | addrClash (p : Sys2Proof.Port)
  deriving DecidableEq, Repr

/-- Alarms and the record latch (files 13, 19). -/
structure Prot where
  /-- Captured records that wait for commit, oldest first. [13 R514; up to 4; empty] -/
  latch : List FaultRec
  /-- Captures lost since the last captured record. [13 R514; 2 bits; 0] -/
  lostCaptures : Nat
  /-- SEQ of the next record. [13 R518; 16 bits; 1] -/
  nextSeq : Half
  /-- The most recently committed record. [13 R521; 32 bytes; empty] -/
  latest : List Byte
  /-- Ticks of the commits of the last hour, newest first (R837). [25 R837; up to 64; empty] -/
  commitTimes : List Nat
  /-- Alarm causes set by records. [13 R512; list; empty] -/
  recAlarms : List RecAlarm
  /-- Other causes that hold FAULT_N. [02 R62; list; boot] -/
  faults : List Alarm
  /-- Other causes that hold ALERT_N. [02 R62; list; empty] -/
  alerts : List Alarm
  deriving DecidableEq, Repr

/-- A monitor's state for its events (R545). -/
inductive MonPos where
  | inside | above | below
  deriving DecidableEq, Repr

/-- One window monitor (file 14). -/
structure MonSt where
  /-- Its settling time has ended. [14 R533; 1 bit; 0] -/
  settled : Bool
  /-- Upper comparator asserted. [14 R526; 1 bit; 0] -/
  above : Bool
  /-- Lower comparator asserted. [14 R526; 1 bit; 0] -/
  below : Bool
  /-- Latch. [14 R537; 1 bit; 0] -/
  latch : Bool
  /-- State last recorded as an event. [14 R545; enum; inside] -/
  recorded : MonPos
  /-- The 1 ms after the previous event runs. [14 R545; 1 bit; 0] -/
  holdoff : Bool
  deriving DecidableEq, Repr

/-- The monitors and comparator latches (file 14). -/
structure Mons where
  /-- WM00 to WM23. [14 R526; 24; deasserted] -/
  mon : Vector MonSt 24
  /-- Latches of PCL1 to PCL6 and PCLA. [14 R538; 7 bits; 0] -/
  pcl : Vector Bool 7
  /-- Snapshot of W10. [14 R540; 16 bits; 0] -/
  snap10 : Half
  /-- Snapshot of W11. [14 R540; 16 bits; 0] -/
  snap11 : Half
  deriving DecidableEq, Repr

/-! ### Tether, queues and drop port -/

/-- A frame in cells (R632): header, payload and CRC-32 as stored. -/
structure QFrame where
  /-- Model's own number of the accepted frame, shared by its copies. [17 R656; model's own number; none] -/
  id : Nat
  /-- Stored bytes. [17 R632; 20 to 2,068 bytes; none] -/
  bytes : List Byte
  /-- Cells, first first. [17 R633; 1 to 9; none] -/
  cells : List Nat
  /-- STAMP, ms. [17 R633; 32 bits; none] -/
  stamp : Nat
  /-- BUSY of the head frame. [17 R636; 1 bit; none] -/
  busy : Bool
  /-- Port it was accepted on, for FREED. [15 R575; 1 bit or none; none] -/
  inPort : Option Sys2Proof.Port
  /-- Queue tag after any override, for notices. [16 R618; 16 bits; none] -/
  tag : Half
  deriving DecidableEq, Repr

/-- State of a port (Table TLK-7). -/
inductive LinkState where
  | down | training | up | lockFailed
  deriving DecidableEq, Repr

/-- Credit counters of one class (R575). -/
structure Credit where
  /-- FREED of frames received. [15 R575; 16 bits; 0] -/
  freed : Half
  /-- LIMIT last sent. [15 R575; 16 bits; 0] -/
  limit : Half
  /-- SENT. [15 R575; 16 bits; 0] -/
  sent : Half
  /-- FREED last received. [15 R575; 16 bits; 0] -/
  pfreed : Half
  /-- LIMIT last received. [15 R575; 16 bits; 0] -/
  plimit : Half
  /-- Cells accepted since link-up. [17 R640; 16 bits; 0] -/
  taken : Nat
  /-- FREED last sent. [15 R575; 16 bits; 0] -/
  freedSent : Half
  deriving DecidableEq, Repr

/-- One tether port (file 15). -/
structure Link where
  /-- STATE. [15 R588; 2 bits; down] -/
  st : LinkState
  /-- Step of Sequence TLK-1 reached. [15 R561; 4 bits; 0] -/
  step : Nat
  /-- PE, own pre-emphasis. [15 R588; 2 bits; 0b00] -/
  pe : BitVec 2
  /-- PEREQ asked of the partner. [15 R563; 2 bits; 0b00] -/
  pereq : BitVec 2
  /-- EQ. [15 R588; 4 bits; 0x0] -/
  eq : BitVec 4
  /-- POL. [15 R588; 1 bit; 0] -/
  pol : Bool
  /-- PSAFE. [15 R588; 1 bit; 0] -/
  psafe : Bool
  /-- ERR, saturating at 15. [15 R588; 4 bits; 0x0] -/
  err : Nat
  /-- Settlings made in this training. [15 R561; 2 bits; 0] -/
  settlings : Nat
  /-- E, next expected HSEQ. [15 R567; 8 bits; 0] -/
  e : Byte
  /-- HSEQ of the next new sequenced frame. [15 R569; 8 bits; 0] -/
  next : Byte
  /-- Outstanding frames with their HSEQ, oldest first. [15 R569; up to 32; empty] -/
  out : List (Byte × QFrame)
  /-- Frames of out that wait to be resent, by HSEQ. [15 R571; list; empty] -/
  resend : List Byte
  /-- An ACK is due. [15 R570; 1 bit; 0] -/
  ackDue : Bool
  /-- The due ACK carries NAK. [15 R567; 1 bit; 0] -/
  nak : Bool
  /-- The NAK for the present E has been sent. [15 R567; 1 bit; 0] -/
  nakSent : Bool
  /-- Consecutive go-backs with no ACK advancing. [15 R572; 5 bits; 0] -/
  goBacks : Nat
  /-- A resend is due and not started (one go-back, R571). [15 R571; 1 bit; 0] -/
  goBackDue : Bool
  /-- Control-class credit. [15 R575; see Credit; 0] -/
  ctl : Credit
  /-- Bulk-class credit. [15 R575; see Credit; 0] -/
  bulk : Credit
  /-- FRESH of the next HELLO. [16 R607; 1 bit; 1] -/
  fresh : Bool
  /-- CREDIT sent at this link-up. [15 R561; 1 bit; 0] -/
  creditSent : Bool
  /-- The control hold queue is served next rather than the notice queue. [17 R646; 1 bit; 0] -/
  altHold : Bool
  /-- Ageing counter when the port went down. [17 R649; 32 bits; 0] -/
  downAt : Nat
  /-- Last frame sent, as on the line. [16 R593; bytes; empty] -/
  tx : List Byte
  /-- Its end delimiter. [16 R594; enum; EOF, DESIGN CHOICE log 10] -/
  txEnd : Sys2Proof.EndDelim
  /-- Number of the first frame accepted at this link-up (R576). [15 R576; model's own number; 0] -/
  sinceId : Nat
  deriving DecidableEq, Repr

/-- The tether as a whole (files 15, 16). -/
structure Tether where
  /-- Port U. [15 R588; see Link; down] -/
  u : Link
  /-- Port D. [15 R588; see Link; down] -/
  d : Link
  /-- Loop mode. [15 R580; 1 bit; 0] -/
  loop : Bool
  /-- H is D. [15 R581; 1 bit; 0] -/
  hIsD : Bool
  /-- SSEQ of the next originated frame. [16 R603; 16 bits; 0] -/
  sseq : Half
  /-- NSEQ of the next NOTICE. [16 R618; 16 bits; 0] -/
  nseq : Half
  deriving DecidableEq, Repr

/-- Per-source watermarks (R657). -/
structure SrcMark where
  /-- Source address. [17 R657; 8 bits; none] -/
  src : Nat
  /-- AHW. [17 R657; 16 bits; 0, DESIGN CHOICE log 10] -/
  ahw : Half
  /-- HELD. [17 R657; 16 bits; 0] -/
  held : Nat
  /-- DLW. [17 R657; 16 bits; 0, DESIGN CHOICE log 10] -/
  dlw : Half
  deriving DecidableEq, Repr

/-- A TALLY accumulator (R652). -/
structure TallySt where
  /-- FR, saturating. [17 R652; 16 bits; 0] -/
  fr : Nat
  /-- BY, saturating. [17 R652; 32 bits; 0] -/
  bytes : Nat
  deriving DecidableEq, Repr

/-- Queues, cells and notices (file 17, R621). -/
structure Queues where
  /-- Non-empty queues by tag, ascending; tags 0xFFF0 to 0xFFF4 are the device's. [17 R635; list; empty] -/
  qs : List (Nat × List QFrame)
  /-- Allocated cells, ascending: the free-cell map. [17 R634; 65,536 bits; empty] -/
  alloc : List Nat
  /-- Number of the next accepted frame. [17 R656; model's own number; 0] -/
  nextId : Nat
  /-- Accumulators, one per TALLY entry. [17 R652; up to 256; empty] -/
  tally : List TallySt
  /-- Entries of the NOTICE being gathered. [16 R621; up to 127; empty] -/
  gather : List (List Byte)
  /-- Notice entries lost. [17 R653; 32 bits; 0] -/
  lostEntries : Nat
  /-- Per-source watermarks, ascending. [17 R657; 255 sources; empty] -/
  marks : List SrcMark
  /-- Stored earliest ageing time, ms. [17 R662; 32 bits or none; none] -/
  earliest : Option Nat
  /-- Entries not naming frames kept while PD08 or PD15 is faulty. [21 R755; up to 16; empty] -/
  kept : List (List Byte)
  /-- Notices of reason codes that wait for a port (R214, R333 and safe mode). [05 R214; list; empty] -/
  deferred : List (List Byte)
  deriving DecidableEq, Repr

/-- A drop-port verdict (R682). -/
structure Verdict where
  /-- Accepted. [18 R677; 1 bit; none] -/
  ok : Bool
  /-- Refusal reason. [18 R677; 8 bits; none] -/
  reason : Byte
  /-- SSEQ given. [18 R677; 16 bits; none] -/
  value : Half
  deriving DecidableEq, Repr

/-- One word on the drop port with its parity and marks (R668, R669). -/
structure DropWord where
  /-- DQ15:0. [18 R668; 16 bits; none] -/
  dq : Half
  /-- DP1:0. [18 R668; 2 bits; none] -/
  dp : BitVec 2
  /-- DSOF. [18 R669; 1 bit; none] -/
  sof : Bool
  /-- DEOF. [18 R669; 1 bit; none] -/
  eof : Bool
  deriving DecidableEq, Repr

/-- An egress unit in progress (R673, R677). -/
structure Egress where
  /-- Words not yet sent. [18 R669; list; none] -/
  words : List DropWord
  /-- Queue of the frame; none for a status unit. [18 R673; 16 bits or none; none] -/
  tag : Option Nat
  deriving DecidableEq, Repr

/-- The drop port (file 18). -/
structure DropPort where
  /-- Direction in force: 1 is ingress. [18 R672; 1 bit; 0] -/
  ingressDir : Bool
  /-- Words of the ingress unit so far. [18 R681; list; empty] -/
  words : List DropWord
  /-- An ingress unit is in progress. [18 R669; 1 bit; 0] -/
  inUnit : Bool
  /-- Its DSOF word came after step 1 of the outage sequence. [18 R681; 1 bit; 0] -/
  afterOutage : Bool
  /-- Its DSOF word found 4 verdicts waiting. [18 R683; 1 bit; 0] -/
  overFour : Bool
  /-- Units whose verdict is not ready, oldest first: the bytes and the refusal reason, 0x00 for a frame that passed
  checks 1 to 7 and waits for its end decision. [18 R682; list; empty] -/
  waiting : List (List Byte × Byte)
  /-- Verdicts that wait, oldest first. [18 R683; up to 4; empty] -/
  verdicts : List Verdict
  /-- Egress unit in progress. [18 R674; see Egress; none] -/
  egress : Option Egress
  /-- Last word presented on DQ. [18 R670; see DropWord; 0] -/
  dq : DropWord
  /-- Last drop queue served. [18 R675; 16 bits; 0xFFEF, DESIGN CHOICE log 10] -/
  lastTag : Nat
  /-- Queue named for pull. [18 R676; 16 bits or none; none] -/
  pull : Option Half
  /-- Reason of Empty units while no queue is named: 0x00, 0x01 or 0x0B. [18 R677; 8 bits; 0x00] -/
  pullReason : Byte
  deriving DecidableEq, Repr

/-! ### Status window, outage, integrity and pace -/

/-- The status window's own registers (file 19). -/
structure Window where
  /-- Latch of W08 to W0A. [19 R696; 3 x 16 bits; 0x0000] -/
  g08 : Vector Half 3
  /-- Latch of W13 to W15. [19 R696; 3 x 16 bits; 0x0000] -/
  g13 : Vector Half 3
  /-- Latch of W16 to W1F. [19 R696; 10 x 16 bits; 0x0000] -/
  g16 : Vector Half 10
  /-- Latch of W2E and W2F. [19 R696; 2 x 16 bits; 0x0000] -/
  g2e : Vector Half 2
  /-- HEAD of W3F. [19 R697; 6 bits; 0b000000] -/
  head : BitVec 6
  /-- GCNT of W3F, modulo 1,024. [19 R697; 10 bits; 0x000] -/
  gcnt : Nat
  /-- W24 ECRC. [19 R703; 16 bits; 0x0000] -/
  ecrc : Nat
  /-- W25 ECOR. [19 R703; 16 bits; 0x0000] -/
  ecor : Nat
  /-- W26 EUNC. [19 R703; 16 bits; 0x0000] -/
  eunc : Nat
  /-- W27 EPAR. [19 R703; 16 bits; 0x0000] -/
  epar : Nat
  /-- W2D. [19 R702; 16 bits; 0x0000] -/
  w2d : Half
  /-- W2E ITEM. [19 R704; 4 bits; 0x0] -/
  item : BitVec 4
  /-- W2E CNT, saturating at 15. [19 R704; 4 bits; 0x0] -/
  icnt : Nat
  /-- W2E REASON. [19 R704; 8 bits; 0x00] -/
  ireason : Byte
  /-- W2F ID. [19 R704; 16 bits; 0x0000] -/
  iid : Half
  /-- The word a counted read last drove on QD15:0. [19 R692; 16 bits; 0, DESIGN CHOICE log 10] -/
  qd : Half
  /-- QCS_N, as the read strobe sees it. [19 R690; 1 bit; 1 by its pull-up] -/
  qcsN : Bool
  /-- QOE_N, as the read strobe sees it. [19 R690; 1 bit; 1 by its pull-up] -/
  qoeN : Bool
  /-- Die temperature of W22. [19 R698; 16 bits; 0x0000] -/
  tdie : Half
  /-- W28 as PD15 held it when its clamps applied. [10 Table DOM-4; 16 bits; 0x0000] -/
  hold28 : Nat
  /-- W29 as PD15 held it when its clamps applied. [10 Table DOM-4; 16 bits; 0x0000] -/
  hold29 : Nat
  deriving DecidableEq, Repr

/-- The charge gauge and supply selector (file 20). -/
structure Gauge where
  /-- BSEL: the island runs from VBAK. [20 R712; 1 bit; 0] -/
  onVbak : Bool
  /-- VBAK of W21, mV. [20 R715; 13 bits; 0] -/
  vbak : Nat
  /-- Q, in nC. [20 R716; count; 0, DESIGN CHOICE log 10] -/
  q : Nat
  /-- Q has been based on a reading since the device POR (log entry 38). [20 R717; 1 bit; 0] -/
  based : Bool
  /-- Q reached 0; the next reading re-bases. [20 R717; 1 bit; 0] -/
  rebaseDue : Bool
  /-- GDRIFT. [20 R718; 1 bit; 0] -/
  gdrift : Bool
  /-- Stages whose threshold the last reading lay below. [20 R734; 4 bits; 0] -/
  below : Nat
  /-- Stages that have acted in this outage. [20 R734; 4 bits; 0] -/
  acted : Nat
  deriving DecidableEq, Repr

/-- The starters of Table OUT-2. -/
inductive Starter where
  | pfail | wm04 | vaon
  deriving DecidableEq, Repr

/-- The outage sequence (file 20). -/
structure Outage where
  /-- Step of Sequence OUT-1 in progress; 0 when no outage runs. [20 R723; 3 bits; 0] -/
  step : Nat
  /-- The sequence has reached its last step. [20 R727; 1 bit; 0] -/
  last : Bool
  /-- The input has returned, and the step in progress is still to be finished. [20 R730; 1 bit; 0] -/
  returned : Bool
  /-- Undo step in progress in the reversal. [20 R730; 3 bits or none; none] -/
  undo : Option Nat
  /-- Starters fired since step 1. [20 R720; 3 bits; empty] -/
  fired : List Starter
  /-- Domain states saved at step 1. [20 R724; 20 x 2 bits; off] -/
  saved : Vector DS 20
  /-- Selections kept from step 6 to U6, oldest first. [20 R729; up to 8; empty] -/
  kept : List SlowItem
  /-- Ageing counter at step 1. [17 R650; 32 bits; 0] -/
  startMs : Nat
  /-- The kept selections of a finished reversal are being matched; their profiles are recorded. [20 R729; 1 bit; 0] -/
  settle : Bool
  deriving DecidableEq, Repr

/-- Losses and the watermark report (file 21). -/
structure Integ where
  /-- Lost banks: memory domain and bank. [21 R750; list; empty] -/
  banks : List (Fin 20 × Nat)
  /-- Frames whose queue descriptor is lost, in cells still allocated. [21 R750; list; empty] -/
  orphans : List QFrame
  /-- Numbers the watermark report has still to name: source and SSEQ, in order, with the reason. [21 R754; list; empty] -/
  cursor : List (Nat × Half × Byte)
  deriving DecidableEq, Repr

/-- One pace rail (Table LAT-2). -/
structure PaceRail where
  /-- Steps of 6.25 mV above 0.55 V, 0 to 48. [22 R765; 6 bits; 48] -/
  level : Nat
  /-- Held at 0.85 V after a canary stall. [22 R768; 1 bit; 0] -/
  stalled : Bool
  deriving DecidableEq, Repr

/-- The state of the GK-480 block. -/
structure State where
  /-- Commands that wait, first in first out (the model's own queue). [task; list; empty] -/
  pending : List Instr
  /-- Tick periods passed (the model's own clock, log 3). [04 The tick; count; 0] -/
  now : Nat
  /-- Free values used so far (the model's own counter, log 5). [model; count; 0, DESIGN CHOICE log 5] -/
  free : Nat
  /-- Supplies above their thresholds. [04 R116; 8 bits; 0] -/
  sup : Sys2Proof.Supplies
  /-- Boot state. [04 R119; see Boot; POR] -/
  boot : Boot
  /-- Sensed identity. [25 R831; 64 bits; 0, DESIGN CHOICE log 10] -/
  ident : BitVec 64
  /-- Straps. [03 R87; see Straps; undecided] -/
  straps : Straps
  /-- Input balls. [02 R54; see Pins; pulls] -/
  pins : Pins
  /-- TAP. [02 R67; see Tap; BYPASS] -/
  tap : Tap
  /-- Operating-hour count, 1/16 h, saturating at 0xFFFFFF. [25 R838; 24 bits; 0, DESIGN CHOICE log 10] -/
  hours : Nat
  /-- NVM. [25 R836; see Nvm; blank] -/
  nvm : Nvm
  /-- Serial flash: bytes other than 0xFF, by address. [05 R163; 8 MiB; erased, DESIGN CHOICE log 12] -/
  flash : List Host.Cell
  /-- The loaded Reel. [04 R133; see Reel; none] -/
  reel : Option Reel
  /-- Reel delivery in progress. [05 R208; see Transfer; none] -/
  xfer : Option Transfer
  /-- Front ends. [06 R220; see Front; unset] -/
  front : Front
  /-- Rule memory. [08 R304; see RuleMem; empty] -/
  rules : RuleMem
  /-- Engines. [07 R257; see Engines; empty] -/
  engs : Engines
  /-- Action sequencer. [09 R336; see Act; empty] -/
  act : Act
  /-- Bridle. [10 R364; see Bridle; off] -/
  bridle : Bridle
  /-- Regulator. [11 R416; see Reg; off] -/
  reg : Reg
  /-- Record latch and alarms. [13 R513; see Prot; boot fault] -/
  prot : Prot
  /-- Monitors. [14 R526; see Mons; deasserted] -/
  mons : Mons
  /-- Tether. [15 R561; see Tether; down] -/
  tether : Tether
  /-- Queues. [17 R635; see Queues; empty] -/
  queues : Queues
  /-- Drop port. [18 R666; see DropPort; idle] -/
  drop : DropPort
  /-- Status window. [19 R690; see Window; zero] -/
  win : Window
  /-- Gauge and selector. [20 R712; see Gauge; zero] -/
  gauge : Gauge
  /-- Outage sequence. [20 R723; see Outage; none] -/
  outage : Outage
  /-- Losses. [21 R749; see Integ; empty] -/
  integ : Integ
  /-- Pace rails: engine, switch and queue, memory periphery. [22 R765; 3 rails; 0.85 V] -/
  pace : Vector PaceRail 3
  deriving DecidableEq, Repr

/-- A fault of the block: the manual describes none that ends it (raising an alarm is a next state), so no command
faults. -/
inductive Fault where
  /-- Raised by no command. Safe. -/
  | none
  deriving DecidableEq, Repr

/-- Why a command has no meaning. -/
inductive Refusal where
  /-- A row without a meaning yet, raised by its arm of exec. Safe. -/
  | notModelled (mnemonic : String)
  /-- POWER_ON and IDENTITY_RESENSE sense an identity that checks but is not a stepping-B1 part of the family: no
  statement of the manual binds it (R16), or the device never reports it (R2). Safe. -/
  | notBound
  deriving DecidableEq, Repr

/-! ### The state after reset -/

/-- A wake-cause word at its reset value (Table ACT-2). -/
def WakeWord.zero : WakeWord := ⟨0, 0, 0, false, false, .no, false, 0⟩

/-- No set of rail attempts. -/
def RailTry.idle : RailTry := ⟨false, false, 0, 0⟩

/-- A domain that is off with nothing outstanding (R413). -/
def Dom.zero : Dom := ⟨.off, none, [], false, false, none, 0⟩

/-- An all-zero coefficient set. -/
def CoefSet.zero : CoefSet := ⟨Vector.replicate 7 0, 0⟩

/-- A channel of a domain that is off. -/
def ChanSt.zero : ChanSt :=
  ⟨.off, 0, 0, false, 0, false, 0, 0, 0, false, CoefSet.zero, Vector.replicate 3 0, Vector.replicate 3 0, 0, 0, false, false,
   false, false, true, 0, 0, none, false⟩

/-- A monitor at reset. -/
def MonSt.zero : MonSt := ⟨false, false, false, false, .inside, false⟩

/-- An engine at reset. -/
def Engine.zero : Engine := ⟨false, [], none, [], 0, false, 128⟩

/-- Credit counters at link-up (R575). -/
def Credit.zero : Credit := ⟨0, 0, 0, 0, 0, 0, 0⟩

/-- A port at reset (Table TLK-7). -/
def Link.zero : Link :=
  ⟨.down, 0, 0, 0, 0, false, false, 0, 0, 0, 0, [], [], false, false, false, 0, false, Credit.zero, Credit.zero, true, false,
   false, 0, [], .eof, 0⟩

/-- An empty epoch. -/
def Tables.zero : Tables := ⟨0, [], [], 0x7FFF, 0x7FFF, 0x7FFF⟩

/-- Rule memory without contents. -/
def RuleMem.zero : RuleMem :=
  ⟨[], 0, 0, 0, [], Tables.zero, none, none, [], none, [], [], 0, none, [], false, false⟩

/-- The engines with nothing assigned. -/
def Engines.zero : Engines :=
  ⟨Vector.replicate 4 Engine.zero, ⟨none, none, none, none⟩, 0, [], [], [], none, none, none⟩

/-- The status window at reset (R710). -/
def Window.zero : Window :=
  ⟨Vector.replicate 3 0, Vector.replicate 3 0, Vector.replicate 10 0, Vector.replicate 2 0, 0, 0, 0, 0, 0, 0, 0, 0, 0, 0, 0, 0, true, true, 0, 0, 0⟩

/-- The drop port with nothing in progress. -/
def DropPort.zero : DropPort :=
  ⟨false, [], false, false, false, [], [], none, ⟨0, 0, false, false⟩, 0xFFEF, none, 0⟩

/-- The monitors deasserted. -/
def Mons.zero : Mons := ⟨Vector.replicate 24 MonSt.zero, Vector.replicate 7 false, 0, 0⟩

/-- No pulse. -/
def Pulses.zero : Pulses :=
  ⟨[], 0, Vector.replicate 7 0, Vector.replicate 7 0, Vector.replicate 7 false, none, false⟩

/-- The regulator with both domains off. -/
def Reg.zero : Reg :=
  { main := ChanSt.zero, aux := ChanSt.zero, straps := ⟨some 0, some 0, some 0, some 0, some 0, some 0⟩, strapsA := ⟨some 0, some 0, some 0, some 0, some 0, some 0⟩, kept := none, active := [], r := 0,
    trim := Vector.replicate 6 0, pinned := Vector.replicate 6 0, implaus := Vector.replicate 6 0,
    failed := Vector.replicate 6 false, skip := false, swapsDue := 0, swapShed := false, restoreDue := false, underCount := 0,
    trunc := Vector.replicate 7 0, offTrip := Vector.replicate 6 false, clock := .internal, trk := 0, vtrk := 0,
    clk := ⟨0, 16, 0, none⟩, pulse := Pulses.zero, dwell := 0, sense := Vector.replicate 7 0,
    der5 := ⟨0, false⟩, der6 := ⟨0, false⟩, descent := false, pwm := Vector.replicate 6 .mid, pwmA := .mid,
    hold := ⟨0, false, 0, 0, 0, 0, 0⟩ }

/-- Queues without a frame. -/
def Queues.zero : Queues := ⟨[], [], 0, [], [], 0, [], none, [], []⟩

/-- No outage. -/
def Outage.zero : Outage := ⟨0, false, false, none, [], Vector.replicate 20 .off, [], 0, false⟩

/-- The gauge before its first reading. -/
def Gauge.zero : Gauge := ⟨false, 0, 0, false, false, false, 0, 0⟩

/-- The front ends with every watermark unset (R232). -/
def Front.zero : Front :=
  ⟨Vector.replicate 16 none, Vector.replicate 16 none, Vector.replicate 16 none, none, none, Vector.replicate 3 [], false,
   Vector.replicate 3 false, none, none, none⟩

/-- Bridle after every reset (R413). -/
def Bridle.zero : Bridle :=
  ⟨Vector.replicate 20 Dom.zero, [], [], [], 1, ⟨0, 0, 0, 0, 0, false⟩, false, 0, none⟩

/-- Pace rails at 0.85 V (R767). -/
def paceReset : Vector PaceRail 3 := Vector.replicate 3 ⟨48, false⟩

/-- A blank NVM copy (R132: 0 when never set). -/
def NvmCopy.blank : NvmCopy := ⟨0, none, true⟩

/-- The device in POR with no supply: the state before any command. (DESIGN CHOICE, log entry 10) -/
def State.reset : State :=
  { pending := [], now := 0, free := 0,
    sup := ⟨false, false, false, false, false, false, false, false⟩,
    boot := ⟨.por, .off, false, 0, false, 0, false, .agrees, false, false, false, 1⟩,
    ident := 0, straps := ⟨Vector.replicate 12 (some 0), Vector.replicate 7 (some .low), false⟩,
    pins := ⟨true, true, true, true, 0, 0, false⟩, tap := ⟨0xF, false, 0⟩, hours := 0,
    nvm := ⟨NvmCopy.blank, NvmCopy.blank, Vector.replicate 8 [], Vector.replicate 8 [], 0, false⟩,
    flash := [], reel := none, xfer := none, front := Front.zero, rules := RuleMem.zero, engs := Engines.zero,
    act := ⟨[], [], Vector.replicate 4 WakeWord.zero, 0, 0, RailTry.idle, RailTry.idle, none⟩, bridle := Bridle.zero, reg := Reg.zero,
    prot := ⟨[], 0, 1, [], [], [], [.boot], []⟩, mons := Mons.zero,
    tether := ⟨Link.zero, Link.zero, false, false, 0, 0⟩, queues := Queues.zero, drop := DropPort.zero, win := Window.zero,
    gauge := Gauge.zero, outage := Outage.zero, integ := ⟨[], [], []⟩, pace := paceReset }

end Sys2Proof.Machine
end

