-- ==== Sys2Proof/Machine/Bits.lean ====
section
/-! DEFINITION. Byte lists, big-endian fields, the CRCs of the manual, and small list and vector helpers. -/

namespace Sys2Proof.Machine

/-! ### Byte lists (every multi-byte field is stored most significant byte first, R165) -/

/-- The n bytes from offset k; a byte beyond the end reads as 0. -/
def sliceBytes (bs : List Byte) (k n : Nat) : List Byte :=
  let t := (bs.drop k).take n
  t ++ List.replicate (n - t.length) 0

/-- The number that bytes spell, most significant first. -/
def beNat (bs : List Byte) : Nat := bs.foldl (fun a b => a * 256 + b.toNat) 0

/-- The field of n bytes at offset k. -/
def field (bs : List Byte) (k n : Nat) : Nat := beNat (sliceBytes bs k n)

/-- Byte k, 0 beyond the end. -/
def byteAt (bs : List Byte) (k : Nat) : Byte := bs.getD k 0

/-- A number as n bytes, most significant first. -/
def toBe : Nat → Nat → List Byte
  | 0, _ => []
  | n + 1, v => BitVec.ofNat 8 (v / 256 ^ n) :: toBe n v

/-- Bits [hi:lo] of a number. -/
def natBits (v hi lo : Nat) : Nat := v / 2 ^ lo % 2 ^ (hi + 1 - lo)

/-- One bit as a number. -/
def bit (b : Bool) : Nat := if b then 1 else 0

/-- 16 bits as a signed number. -/
def signed16 (v : Nat) : Int := (BitVec.ofNat 16 v).toInt

/-- The bits of a byte, most significant first. -/
def byteBits (b : Byte) : List Bool :=
  [b.getLsbD 7, b.getLsbD 6, b.getLsbD 5, b.getLsbD 4, b.getLsbD 3, b.getLsbD 2, b.getLsbD 1, b.getLsbD 0]

/-- The bits of a byte, least significant first. -/
def byteBitsLsb (b : Byte) : List Bool :=
  [b.getLsbD 0, b.getLsbD 1, b.getLsbD 2, b.getLsbD 3, b.getLsbD 4, b.getLsbD 5, b.getLsbD 6, b.getLsbD 7]

/-! ### CRCs -/

/-- One bit into a CRC that shifts left. -/
def crcBit {w : Nat} (poly r : BitVec w) (b : Bool) : BitVec w :=
  if r.msb != b then (r <<< 1) ^^^ poly else r <<< 1

/-- A CRC over bits, most significant register bit first. -/
def crcBits {w : Nat} (poly init : BitVec w) (bs : List Bool) : BitVec w := bs.foldl (crcBit poly) init

/-- A CRC over bytes, most significant bit first. -/
def crcBytes {w : Nat} (poly init : BitVec w) (bs : List Byte) : BitVec w :=
  bs.foldl (fun r b => crcBits poly r (byteBits b)) init

/-- CRC-8 of a wake word (R229). -/
def crc8 (bs : List Byte) : BitVec 8 := crcBytes 0x07 0 bs

/-- CRC-10 of the identity, over bits [63:10] (R832). -/
def crc10 (id : BitVec 64) : BitVec 10 := crcBits 0x233 0 ((List.range 54).map fun k => id.getLsbD (63 - k))

/-- CRC-16 of a tether header and of the NVM copies. -/
def crc16 (bs : List Byte) : BitVec 16 := crcBytes 0x1021 0xFFFF bs

/-- One bit into the reflected CRC-32. -/
def crc32Bit (r : BitVec 32) (b : Bool) : BitVec 32 :=
  if r.getLsbD 0 != b then (r >>> 1) ^^^ 0xEDB88320 else r >>> 1

/-- CRC-32 of IEEE 802.3 (R166). -/
def crc32 (bs : List Byte) : BitVec 32 :=
  bs.foldl (fun r b => (byteBitsLsb b).foldl crc32Bit r) 0xFFFFFFFF ^^^ 0xFFFFFFFF

/-! ### Lists and vectors -/

/-- A vector element by number; `d` beyond the end. -/
def vget {α : Type} {n : Nat} (v : Vector α n) (d : α) (k : Nat) : α := if h : k < n then v[k] else d

/-- A vector with element k replaced; unchanged beyond the end. -/
def vset {α : Type} {n : Nat} (v : Vector α n) (k : Nat) (x : α) : Vector α n :=
  if h : k < n then v.set k x else v

/-- A vector with element k passed through f. -/
def vmod {α : Type} {n : Nat} (v : Vector α n) (k : Nat) (f : α → α) : Vector α n :=
  if h : k < n then v.set k (f v[k]) else v

/-- A vector filled by number. -/
def vgen {α : Type} (n : Nat) (f : Nat → α) : Vector α n := Vector.ofFn fun k => f k.val

/-- A list with x at its end, unless it holds x. -/
def addNew {α : Type} [DecidableEq α] (l : List α) (x : α) : List α := if x ∈ l then l else l ++ [x]

/-- A key's value in a list of pairs. -/
def assoc {β : Type} (l : List (Nat × β)) (k : Nat) : Option β := (l.find? fun p => p.1 == k).map (·.2)

/-- A list of pairs with rising keys, with k set to v. -/
def assocPut {β : Type} : List (Nat × β) → Nat → β → List (Nat × β)
  | [], k, v => [(k, v)]
  | (a, x) :: t, k, v =>
    if k < a then (k, v) :: (a, x) :: t else if k = a then (k, v) :: t else (a, x) :: assocPut t k v

/-- A list of pairs without key k. -/
def assocDel {β : Type} (l : List (Nat × β)) (k : Nat) : List (Nat × β) := l.filter fun p => p.1 != k

/-- A list of numbers in rising order with k put in. -/
def insNat : List Nat → Nat → List Nat
  | [], k => [k]
  | a :: t, k => if k < a then k :: a :: t else if k = a then a :: t else a :: insNat t k

/-- A number, not above a bound (saturating counters). -/
def satur (bound v : Nat) : Nat := min bound v

/-- A signed number kept between two bounds. -/
def clampInt (lo hi v : Int) : Int := max lo (min hi v)

/-- The distance from a to b going up, modulo 65,536. -/
def ahead16 (a b : Half) : Nat := (b - a).toNat

end Sys2Proof.Machine
end

