-- ==== Sys2Proof/Machine/Crypto.lean ====
section
/-! DEFINITION. The published algorithms that the manual names: AES-128 with its CMAC (R230) and key wrap (R137, RFC
3394), SHA-256 (R193) and ECDSA over P-256 (R194). -/

namespace Sys2Proof.Machine

/-! ### AES-128 (FIPS 197) -/

/-- The S-box, its 256 bytes as one number. -/
def aesSbox : Nat :=
  0x637C777BF26B6FC53001672BFED7AB76CA82C97DFA5947F0ADD4A2AF9CA472C0B7FD9326363FF7CC34A5E5F171D8311504C723C31896059A071280E2EB27B27509832C1A1B6E5AA0523BD6B329E32F8453D100ED20FCB15B6ACBBE394A4C58CFD0EFAAFB434D338545F9027F503C9FA851A3408F929D38F5BCB6DA2110FFF3D2CD0C13EC5F974417C4A77E3D645D197360814FDC222A908846EEB814DE5E0BDBE0323A0A4906245CC2D3AC629195E479E7C8376D8DD54EA96C56F4EA657AAE08BA78252E1CA6B4C6E8DD741F4BBD8B8A703EB5664803F60E613557B986C11D9EE1F8981169D98E949B1E87E9CE5528DF8CA1890DBFE6426841992D0FB054BB16

/-- The inverse S-box, its 256 bytes as one number. -/
def aesInvSbox : Nat :=
  0x52096AD53036A538BF40A39E81F3D7FB7CE339829B2FFF87348E4344C4DEE9CB547B9432A6C2233DEE4C950B42FAC34E082EA16628D924B2765BA2496D8BD12572F8F66486689816D4A45CCC5D65B6926C704850FDEDB9DA5E154657A78D9D8490D8AB008CBCD30AF7E45805B8B34506D02C1E8FCA3F0F02C1AFBD0301138A6B3A9111414F67DCEA97F2CFCEF0B4E67396AC7422E7AD3585E2F937E81C75DF6E47F11A711D29C5896FB7620EAA18BE1BFC563E4BC6D279209ADBC0FE78CD5AF41FDDA8338807C731B11210592780EC5F60517FA919B54A0D2DE57A9F93C99CEFA0E03B4DAE2AF5B0C8EBBB3C83539961172B047EBA77D626E169146355210C7D

/-- Byte k of a table of 256 bytes. -/
def boxByte (t : Nat) (x : Byte) : Byte := BitVec.ofNat 8 (t >>> (8 * (255 - x.toNat)))

/-- Multiplication by x in GF(2^8). -/
def xtime (b : Byte) : Byte := if b.msb then (b <<< 1) ^^^ 0x1B else b <<< 1

/-- Multiplication in GF(2^8) by a number of four bits. -/
def gmul (k : Nat) (b : Byte) : Byte :=
  (if k % 2 = 1 then b else 0) ^^^ (if k / 2 % 2 = 1 then xtime b else 0) ^^^
    (if k / 4 % 2 = 1 then xtime (xtime b) else 0) ^^^ (if k / 8 % 2 = 1 then xtime (xtime (xtime b)) else 0)

/-- XOR of byte lists. -/
def xorBytes (a b : List Byte) : List Byte := List.zipWith (· ^^^ ·) a b

/-- The next round key from the present one and the round constant. -/
def aesNextKey (k : List Byte) (rc : Byte) : List Byte :=
  let t := (sliceBytes k 12 4).map (boxByte aesSbox)
  let w0 := xorBytes (sliceBytes k 0 4) [byteAt t 1 ^^^ rc, byteAt t 2, byteAt t 3, byteAt t 0]
  let w1 := xorBytes (sliceBytes k 4 4) w0
  let w2 := xorBytes (sliceBytes k 8 4) w1
  let w3 := xorBytes (sliceBytes k 12 4) w2
  w0 ++ w1 ++ w2 ++ w3

/-- The round keys that follow k. -/
def aesKeysFrom : Nat → List Byte → Byte → List (List Byte)
  | 0, k, _ => [k]
  | n + 1, k, rc => k :: aesKeysFrom n (aesNextKey k rc) (xtime rc)

/-- The eleven round keys. -/
def aesKeys (key : BitVec 128) : List (List Byte) := aesKeysFrom 10 (toBe 16 key.toNat) 1

/-- ShiftRows, or its inverse, as the source places of the sixteen bytes. -/
def permute (p : List Nat) (s : List Byte) : List Byte := p.map (byteAt s)

/-- One column through a circulant matrix. -/
def mixColumn (a b c d : Nat) (s : List Byte) (k : Nat) : List Byte :=
  let x := byteAt s k
  let y := byteAt s (k + 1)
  let z := byteAt s (k + 2)
  let w := byteAt s (k + 3)
  [gmul a x ^^^ gmul b y ^^^ gmul c z ^^^ gmul d w, gmul d x ^^^ gmul a y ^^^ gmul b z ^^^ gmul c w,
    gmul c x ^^^ gmul d y ^^^ gmul a z ^^^ gmul b w, gmul b x ^^^ gmul c y ^^^ gmul d z ^^^ gmul a w]

/-- Every column through a circulant matrix. -/
def mixColumns (a b c d : Nat) (s : List Byte) : List Byte :=
  mixColumn a b c d s 0 ++ mixColumn a b c d s 4 ++ mixColumn a b c d s 8 ++ mixColumn a b c d s 12

/-- SubBytes and ShiftRows. -/
def aesSubShift (s : List Byte) : List Byte :=
  permute [0, 5, 10, 15, 4, 9, 14, 3, 8, 13, 2, 7, 12, 1, 6, 11] (s.map (boxByte aesSbox))

/-- The rounds after the first key addition. -/
def aesRounds : List (List Byte) → List Byte → List Byte
  | [], s => s
  | [k], s => xorBytes (aesSubShift s) k
  | k :: ks, s => aesRounds ks (xorBytes (mixColumns 2 3 1 1 (aesSubShift s)) k)

/-- AES-128 encryption of one block. -/
def aesEncrypt (key : BitVec 128) (block : List Byte) : List Byte :=
  match aesKeys key with
  | [] => block
  | k :: ks => aesRounds ks (xorBytes block k)

/-- Inverse ShiftRows and SubBytes. -/
def aesInvSubShift (s : List Byte) : List Byte :=
  (permute [0, 13, 10, 7, 4, 1, 14, 11, 8, 5, 2, 15, 12, 9, 6, 3] s).map (boxByte aesInvSbox)

/-- The inverse rounds, last key first. -/
def aesInvRounds : List (List Byte) → List Byte → List Byte
  | [], s => s
  | [k], s => xorBytes (aesInvSubShift s) k
  | k :: ks, s => aesInvRounds ks (mixColumns 14 11 13 9 (xorBytes (aesInvSubShift s) k))

/-- AES-128 decryption of one block. -/
def aesDecrypt (key : BitVec 128) (block : List Byte) : List Byte :=
  match (aesKeys key).reverse with
  | [] => block
  | k :: ks => aesInvRounds ks (xorBytes block k)

/-! ### AES-CMAC (SP 800-38B) -/

/-- Doubling of a subkey. -/
def cmacDouble (x : BitVec 128) : BitVec 128 := if x.msb then (x <<< 1) ^^^ 0x87 else x <<< 1

/-- The chain over n further blocks, the last one completed with a subkey. -/
def cmacChain (key k1 k2 : BitVec 128) : Nat → List Byte → List Byte → List Byte
  | 0, x, _ => x
  | n + 1, x, m =>
    if m.length > 16 then cmacChain key k1 k2 n (aesEncrypt key (xorBytes x (m.take 16))) (m.drop 16)
    else if m.length = 16 then aesEncrypt key (xorBytes x (xorBytes m (toBe 16 k1.toNat)))
    else aesEncrypt key (xorBytes x (xorBytes (sliceBytes (m ++ [0x80]) 0 16) (toBe 16 k2.toNat)))

/-- AES-CMAC of a message, 16 bytes. -/
def cmac (key : BitVec 128) (m : List Byte) : List Byte :=
  let k1 := cmacDouble (BitVec.ofNat 128 (beNat (aesEncrypt key (List.replicate 16 0))))
  cmacChain key k1 (cmacDouble k1) (m.length / 16 + 1) (List.replicate 16 0) m

/-! ### AES key wrap (RFC 3394, default IV) -/

/-- One wrap step: the register A and the six blocks, step counter t. -/
def wrapStep (key : BitVec 128) (s : List Byte × List (List Byte)) (t : Nat) : List Byte × List (List Byte) :=
  match s.2 with
  | [] => s
  | r :: rs =>
    let b := aesEncrypt key (s.1 ++ r)
    (xorBytes (sliceBytes b 0 8) (toBe 8 t), rs ++ [sliceBytes b 8 8])

/-- One unwrap step, undoing step t. -/
def unwrapStep (key : BitVec 128) (s : List Byte × List (List Byte)) (t : Nat) : List Byte × List (List Byte) :=
  match s.2.reverse with
  | [] => s
  | r :: rs =>
    let b := aesDecrypt key (xorBytes s.1 (toBe 8 t) ++ r)
    (sliceBytes b 0 8, sliceBytes b 8 8 :: rs.reverse)

/-- Blocks of eight bytes, six of them. -/
def sixBlocks (bs : List Byte) : List (List Byte) := (List.range 6).map fun k => sliceBytes bs (8 * k) 8

/-- The default initial value. -/
def wrapIv : List Byte := List.replicate 8 0xA6

/-- The 56-byte wrap of a 48-byte section (R200). -/
def keyWrap (key : BitVec 128) (plain : List Byte) : List Byte :=
  let s := ((List.range 36).map (· + 1)).foldl (wrapStep key) (wrapIv, sixBlocks plain)
  s.1 ++ s.2.flatten

/-- The section that a 56-byte wrap holds, when its integrity check is correct (R201). -/
def keyUnwrap (key : BitVec 128) (w : List Byte) : Option (List Byte) :=
  let s := ((List.range 36).reverse.map (· + 1)).foldl (unwrapStep key) (sliceBytes w 0 8, sixBlocks (w.drop 8))
  if s.1 = wrapIv then some s.2.flatten else none

/-! ### SHA-256 (FIPS 180-4) -/

/-- The 64 round constants as one number. -/
def shaK : Nat :=
  0x428A2F9871374491B5C0FBCFE9B5DBA53956C25B59F111F1923F82A4AB1C5ED5D807AA9812835B01243185BE550C7DC372BE5D7480DEB1FE9BDC06A7C19BF174E49B69C1EFBE47860FC19DC6240CA1CC2DE92C6F4A7484AA5CB0A9DC76F988DA983E5152A831C66DB00327C8BF597FC7C6E00BF3D5A7914706CA63511429296727B70A852E1B21384D2C6DFC53380D13650A7354766A0ABB81C2C92E92722C85A2BFE8A1A81A664BC24B8B70C76C51A3D192E819D6990624F40E3585106AA07019A4C1161E376C082748774C34B0BCB5391C0CB34ED8AA4A5B9CCA4F682E6FF3748F82EE78A5636F84C878148CC7020890BEFFFAA4506CEBBEF9A3F7C67178F2

/-- The initial hash value as one number. -/
def shaH : Nat := 0x6A09E667BB67AE853C6EF372A54FF53A510E527F9B05688C1F83D9AB5BE0CD19

/-- Word t of a table of n 32-bit words. -/
def shaWord (tab n t : Nat) : BitVec 32 := BitVec.ofNat 32 (tab >>> (32 * (n - 1 - t)))

/-- XOR of three rotations. -/
def shaRot (x : BitVec 32) (a b c : Nat) : BitVec 32 := x.rotateRight a ^^^ x.rotateRight b ^^^ x.rotateRight c

/-- XOR of two rotations and a shift. -/
def shaShr (x : BitVec 32) (a b c : Nat) : BitVec 32 := x.rotateRight a ^^^ x.rotateRight b ^^^ (x >>> c)

/-- The next word of the message schedule from the sixteen before it, oldest first. -/
def shaNext (w : List (BitVec 32)) : BitVec 32 :=
  shaShr (w.getD 14 0) 17 19 10 + w.getD 9 0 + shaShr (w.getD 1 0) 7 18 3 + w.getD 0 0

/-- One round on the eight working variables. -/
def shaRound (v : List (BitVec 32)) (k w : BitVec 32) : List (BitVec 32) :=
  match v with
  | [a, b, c, d, e, f, g, h] =>
    let t1 := h + shaRot e 6 11 25 + ((e &&& f) ^^^ (~~~e &&& g)) + k + w
    let t2 := shaRot a 2 13 22 + ((a &&& b) ^^^ (a &&& c) ^^^ (b &&& c))
    [t1 + t2, a, b, c, d + t1, e, f, g]
  | _ => v

/-- Rounds t, t + 1, ... of a block: n rounds, with the window of sixteen schedule words. -/
def shaRounds : Nat → Nat → List (BitVec 32) → List (BitVec 32) → List (BitVec 32)
  | 0, _, v, _ => v
  | n + 1, t, v, w => shaRounds n (t + 1) (shaRound v (shaWord shaK 64 t) (w.getD 0 0)) (w.drop 1 ++ [shaNext w])

/-- One block into the hash value. -/
def shaBlock (h : List (BitVec 32)) (b : List Byte) : List (BitVec 32) :=
  List.zipWith (· + ·) h
    (shaRounds 64 0 h ((List.range 16).map fun k => BitVec.ofNat 32 (field b (4 * k) 4)))

/-- n blocks into the hash value. -/
def shaBlocks : Nat → List (BitVec 32) → List Byte → List (BitVec 32)
  | 0, h, _ => h
  | n + 1, h, m => shaBlocks n (shaBlock h (m.take 64)) (m.drop 64)

/-- SHA-256 of a message. -/
def sha256 (m : List Byte) : BitVec 256 :=
  let pad := m ++ 0x80 :: List.replicate ((119 - m.length % 64) % 64) 0 ++ toBe 8 (8 * m.length)
  let h := shaBlocks (pad.length / 64) ((List.range 8).map (shaWord shaH 8)) pad
  BitVec.ofNat 256 (h.foldl (fun a w => a * 2 ^ 32 + w.toNat) 0)

/-! ### ECDSA over P-256 (FIPS 186-4) -/

/-- The field prime. -/
def p256P : Nat := 0xFFFFFFFF00000001000000000000000000000000FFFFFFFFFFFFFFFFFFFFFFFF

/-- The group order. -/
def p256N : Nat := 0xFFFFFFFF00000000FFFFFFFFFFFFFFFFBCE6FAADA7179E84F3B9CAC2FC632551

/-- The curve constant b. -/
def p256B : Nat := 0x5AC635D8AA3A93E7B3EBBD55769886BC651D06B0CC53B0F63BCE3C3E27D2604B

/-- The base point. -/
def p256G : Nat × Nat :=
  (0x6B17D1F2E12C4247F8BCE6E563A440F277037D812DEB33A0F4A13945D898C296,
    0x4FE342E2FE1A7F9B8EE7EB4A7C0F9E162BCE33576B315ECECBB6406837BF51F5)

/-- base^e mod m, over the n low bits of e. -/
def powMod (m : Nat) : Nat → Nat → Nat → Nat
  | 0, _, _ => 1 % m
  | n + 1, base, e =>
    let r := powMod m n (base * base % m) (e / 2)
    if e % 2 = 1 then base * r % m else r

/-- The inverse modulo a prime. -/
def invMod (m a : Nat) : Nat := powMod m 256 (a % m) (m - 2)

/-- Subtraction modulo m of numbers below m. -/
def subMod (m a b : Nat) : Nat := (a + m - b) % m

/-- A point in Jacobian coordinates; z = 0 is the point at infinity. -/
structure JPoint where
  x : Nat
  y : Nat
  z : Nat
  deriving DecidableEq, Repr

/-- Doubling on P-256 (a = -3). -/
def jDouble (p : JPoint) : JPoint :=
  let m := p256P
  let d := p.z * p.z % m
  let g := p.y * p.y % m
  let b := p.x * g % m
  let a := 3 * (subMod m p.x d * ((p.x + d) % m) % m) % m
  let x := subMod m (a * a % m) (8 * b % m)
  let z := subMod m (subMod m ((p.y + p.z) % m * ((p.y + p.z) % m) % m) g) d
  let y := subMod m (a * subMod m (4 * b % m) x % m) (8 * (g * g % m) % m)
  ⟨x, y, z⟩

/-- Addition on P-256. -/
def jAdd (p q : JPoint) : JPoint :=
  if p.z = 0 then q
  else if q.z = 0 then p
  else
    let m := p256P
    let z1 := p.z * p.z % m
    let z2 := q.z * q.z % m
    let u1 := p.x * z2 % m
    let u2 := q.x * z1 % m
    let s1 := p.y * (z2 * q.z % m) % m
    let s2 := q.y * (z1 * p.z % m) % m
    if u1 = u2 then if s1 = s2 then jDouble p else ⟨1, 1, 0⟩
    else
      let h := subMod m u2 u1
      let r := subMod m s2 s1
      let h2 := h * h % m
      let h3 := h * h2 % m
      let v := u1 * h2 % m
      let x := subMod m (subMod m (r * r % m) h3) (2 * v % m)
      ⟨x, subMod m (r * subMod m v x % m) (s1 * h3 % m), h * (p.z * q.z % m) % m⟩

/-- k times a point, over the n low bits of k. -/
def jMul : Nat → Nat → JPoint → JPoint
  | 0, _, _ => ⟨1, 1, 0⟩
  | n + 1, k, p =>
    let r := jMul n (k / 2) (jDouble p)
    if k % 2 = 1 then jAdd p r else r

/-- A point lies on the curve, with coordinates in range. -/
def onCurve (x y : Nat) : Bool :=
  x < p256P && y < p256P && y * y % p256P == (x * x * x + (p256P - 3) * x + p256B) % p256P

/-- ECDSA P-256: the signature (r, s) over hash value e checks under the key (x, y). -/
def ecdsaVerify (x y r s e : Nat) : Bool :=
  if onCurve x y && 0 < r && r < p256N && 0 < s && s < p256N then
    let w := invMod p256N s
    let pt := jAdd (jMul 256 (e * w % p256N) ⟨p256G.1, p256G.2, 1⟩) (jMul 256 (r * w % p256N) ⟨x, y, 1⟩)
    if pt.z = 0 then false
    else
      let zi := invMod p256P pt.z
      pt.x * (zi * zi % p256P) % p256P % p256N == r
  else false

end Sys2Proof.Machine
end

