-- ==== Sys2Proof/Machine/Operands.lean ====
section
/-! DEFINITION. What the identity, the straps and the operands of commands mean (files 00, 03 and 25). -/

namespace Sys2Proof.Machine

/-! ### Identity and variant -/

/-- The variant code of the identity (Table PKG-4). -/
def varCode (id : BitVec 64) : Nat := natBits id.toNat 17 14

/-- The variant that the device acts as: the field of an identity that checked; of one that never checked the field
carries no meaning (R17), and the variant is whatever the part is. (DESIGN CHOICE, log entry 145) -/
def variant (s : State) : Nat :=
  if s.boot.idFailed || s.boot.step == .idRetry then [8, 6, 4, 2].getD Config.blindVariant.val 8 else varCode s.ident

/-- The stepping of the identity (Table PKG-4). -/
def stepCode (id : BitVec 64) : Nat := natBits id.toNat 13 10

/-- The identity CRC-10 checks (R121, R832). -/
def identOk (id : BitVec 64) : Bool := crc10 id == BitVec.ofNat 10 id.toNat

/-- Domains that a variant lacks (Table SCP-1). -/
def absentDoms (var : Nat) : List Nat :=
  if var = 6 then [2, 14]
  else if var = 4 then [5, 6, 11, 12, 18]
  else if var = 2 then [1, 2, 4, 5, 6, 8, 9, 10, 11, 12, 13, 14, 16, 18]
  else []

/-- The variant has the domain. -/
def present (s : State) (d : Nat) : Bool := !(absentDoms (variant s)).contains d

/-- Main phases of a variant (Table SCP-1). -/
def phaseMax (var : Nat) : Nat := if var = 4 then 4 else if var = 2 then 2 else 6

/-- The variant has the tether port. -/
def hasPort (s : State) (p : Port) : Bool := present s (match p with | .u => 13 | .d => 14)

/-- The general monitors of a variant (Table SCP-1); WM00 to WM07 are always there. -/
def hasMon (s : State) (k : Nat) : Bool := variant s != 2 || k < 16

/-- The engines of each stream per variant (Table NOD-3). -/
def assignFor (var : Nat) : Assign :=
  if var = 6 then ⟨some 0, none, some 2, some 3⟩
  else if var = 4 then ⟨some 0, some 1, some 0, some 1⟩
  else if var = 2 then ⟨none, none, none, some 0⟩
  else ⟨some 0, some 1, some 2, some 3⟩

/-! ### Decoding the straps -/

/-- The acceptance bands of codes 0 to 14, in ohms (Table STP-1). -/
def rvBands : List (Nat × Nat) :=
  [(0, 200), (900, 1100), (1323, 1617), (1935, 2365), (2844, 3476), (4176, 5104), (6129, 7491), (9000, 11000)] ++
  [(13230, 16170), (19350, 23650), (28440, 34760), (41760, 51040), (61290, 74910), (90000, 110000), (132300, 161700)]

/-- The code of a measured resistance in ohms; a guard reading has none (R78). -/
def rvCode (ohms : Nat) : Option (Fin 16) :=
  if ohms ≥ 300000 then some 15
  else (rvBands.findIdx? fun b => b.1 ≤ ohms && ohms ≤ b.2).map fun k => Fin.ofNat 16 k

/-- The value of a pair of reads of a tri-level ball; a guard reading has none (R82). -/
def triValue (p : PullReading) : Option Tri :=
  match p.underPullUp, p.underPullDown with
  | true, true => some .high
  | false, false => some .low
  | true, false => some .opn
  | false, true => none

/-- Two or more of three readings that are the same value (R87). -/
def vote {α : Type} [DecidableEq α] (a b c : Option α) : Option α :=
  if a.isSome && (a == b || a == c) then a else if b.isSome && b == c then b else none

/-- A code that Table STP-11 reserves, or that exceeds the variant (R93, R101, R110). -/
def rvReserved (var : Nat) (fsw : Option (Fin 16)) (ball : Nat) (code : Fin 16) : Bool :=
  if ball = 4 then code.val > phaseMax var
  else if ball = 9 then
    (6 ≤ code.val && code.val ≤ 14) ||
      (3 ≤ code.val && code.val ≤ 5 && (match fsw with | some f => f.val ≤ 2 | none => false))
  else false

/-- The variant does not sample this tri-level strap (Table BAL-9). -/
def triUnsampled (var ball : Nat) : Bool :=
  if var = 6 then ball = 1 else if var = 2 then ball = 0 || ball = 1 || ball = 4 || ball = 5 else false

/-- The variant does not sample RV_TRACK (R100). -/
def trackUnsampled (var : Nat) : Bool := var = 4 || var = 2

/-- The decided code of one RV ball (R87, R112). -/
def decideRv (var : Nat) (fsw : Option (Fin 16)) (ball : Nat) (r : Vector Nat 3) : Option (Fin 16) :=
  if ball = 9 && trackUnsampled var then some 0
  else match vote (rvCode r[0]) (rvCode r[1]) (rvCode r[2]) with
    | some c => if rvReserved var fsw ball c then none else some c
    | none => none

/-- The decided level of one tri-level ball (R87, R112). -/
def decideTri (var ball : Nat) (r : Vector PullReading 3) : Option Tri :=
  if triUnsampled var ball then some .low else vote (triValue r[0]) (triValue r[1]) (triValue r[2])

/-! ### What the decided straps mean -/

/-- The code of an RV ball. -/
def rv (s : State) (ball : Nat) : Option (Fin 16) := vget s.straps.rv none ball

/-- The level of a tri-level ball, with the outcome of Table STP-10 where it is unresolved. -/
def tri (s : State) (ball : Nat) : Tri :=
  match vget s.straps.tri none ball with
  | some t => t
  | none => if ball = 4 then .opn else if ball = 6 then .high else .low

/-- The address that RV_ADDR_H and RV_ADDR_L give, valid or not (R90). -/
def rawAddr (s : State) : Option Nat :=
  match rv s 0, rv s 1 with
  | some h, some l => some (16 * h.val + l.val)
  | _, _ => none

/-- The stall address; none leaves the device unaddressed (R90). -/
def stallAddr (s : State) : Option Nat :=
  match rawAddr s with
  | some a => if a = 0 || a = 255 then none else some a
  | none => none

/-- The stall address as a byte, 0 when unaddressed. -/
def ownAddr (s : State) : Byte := BitVec.ofNat 8 ((stallAddr s).getD 0)

/-- The strapped group (R91). -/
def strapGroup (s : State) : Option Nat := (rv s 2).map (·.val)

/-- Warm hold is strapped (R61). -/
def warmHold (s : State) : Bool := tri s 3 == .high

/-- Port D is not cabled (Table STP-9, T_ENDNODE). -/
def endNode (s : State) : Bool := tri s 5 == .high

/-- The drop port pulls by tag (Table STP-9, T_DROPMODE). -/
def pullMode (s : State) : Bool := tri s 4 == .high

/-- A tether port that the variant has and that is cabled. -/
def cabled (s : State) (p : Port) : Bool := hasPort s p && !(p == .d && endNode s)

/-- The gauge is off (R103, Table STP-10). -/
def gaugeOff (s : State) : Bool :=
  match rv s 10 with
  | some c => c.val = 0 || c.val = 15
  | none => true

/-- A strap fault that asserts FAULT_N (Table STP-10, R109). -/
def strapFaultN (s : State) : Bool :=
  (stallAddr s).isNone || (rv s 4).isNone || (rv s 5).isNone || (rv s 6).isNone || (rv s 7).isNone || (rv s 8).isNone ||
    (rv s 9).isNone || (vget s.straps.tri none 6).isNone

/-- An unresolved strap that asserts ALERT_N (Table STP-10). -/
def strapAlertN (s : State) : Bool :=
  (rv s 2).isNone || (rv s 3).isNone || (rv s 10).isNone || (rv s 11).isNone ||
    [0, 1, 2, 3, 4, 5].any fun k => (vget s.straps.tri none k).isNone

/-- The mains carrier in Hz; none while RV_CARRIER is unresolved (R92, Table STP-2). -/
def carrierHz (s : State) : Option Nat := (rv s 3).map fun c => 95000 + 3500 * c.val

/-- The RV_REEL code used: 15 when unresolved (Table STP-10). -/
def reelCode (s : State) : Nat := ((rv s 11).map (·.val)).getD 15

/-- The flash clock of a code in kHz (R104). -/
def reelClockKhz (n : Nat) : Nat := [80000, 50000, 25000, 12500].getD (n % 4) 12500

/-- A code selects 4-byte addressing (R104). -/
def reelAddr4 (n : Nat) : Bool := !n.testBit 2

/-- A code selects quad I/O (R104). -/
def reelQuad (n : Nat) : Bool := !n.testBit 3

/-- The byte rate B of a code in kB/s (Table BOO-3). -/
def reelRateKbs (n : Nat) : Nat := if reelQuad n then reelClockKhz n / 2 else reelClockKhz n / 8

/-- How a flash agrees with the strapped interface (R104, R129, R131). -/
def flashAgrees (s : State) (f : FlashPart) : FlashMode :=
  let n := reelCode s
  if !(if reelAddr4 n then f.takes4 else f.takes3) then .widthDiffers
  else if reelQuad n && !f.quadOn then .quadClear
  else .agrees

/-! ### Regulator straps in force -/

/-- The regulator straps as last decided. -/
def regStrapsOf (s : State) : RegStraps := ⟨rv s 4, rv s 5, rv s 6, rv s 7, rv s 8, rv s 9⟩

/-- RV_PHASES in force: the strapped phase count. -/
def phases (r : RegStraps) : Nat := (r.phases.map (·.val)).getD 0

/-- The main channel is disabled by its straps (R93, R94, R111). -/
def mainDisabled (r : RegStraps) : Bool :=
  phases r = 0 || r.fsw.isNone || r.ilim.isNone || r.ovl.isNone || r.sync.isNone

/-- The auxiliary channel is off by its straps (Table STP-10). -/
def auxDisabled (r : RegStraps) : Bool :=
  r.phases.isNone || r.fsw.isNone || r.ilim.isNone || r.ovl.isNone || r.sync.isNone || r.track.isNone

/-- The straps that set the switching clock: those of a channel that still runs on values from before a reset count while
the main channel does not switch (R95, R113). -/
def clockStraps (s : State) : RegStraps :=
  if s.reg.aux.warm && !s.reg.main.warm then s.reg.strapsA else s.reg.straps

/-- fsw in kHz (Table STP-3). -/
def fswKhz (r : RegStraps) : Nat :=
  [150, 200, 250, 300, 350, 400, 450, 500, 600, 700, 800, 900, 1000, 1100, 1250, 1500].getD ((r.fsw.map (·.val)).getD 0) 150

/-- The fast limit in mV (Table STP-4). -/
def ilimMv (r : RegStraps) : Nat :=
  [10, 13, 16, 19, 22, 25, 28, 31, 34, 37, 40, 44, 48, 52, 56, 60].getD ((r.ilim.map (·.val)).getD 0) 10

/-- V_OVL in mV (R97). -/
def ovlMv (r : RegStraps) : Nat := 4 + 2 * (r.ovl.map (·.val)).getD 0

/-- The tracking mode of the auxiliary channel. -/
inductive Tracking where
  | independent | ratiometric | coincident
  deriving DecidableEq, Repr

/-- Tracking mode (Table STP-6). -/
def tracking (r : RegStraps) : Tracking :=
  match (r.track.map (·.val)).getD 0 with
  | 1 | 4 => .ratiometric
  | 2 | 5 => .coincident
  | _ => .independent

/-- The auxiliary channel runs at fsw / 2 (Table STP-6). -/
def auxHalf (r : RegStraps) : Bool := let c := (r.track.map (·.val)).getD 0; 3 ≤ c && c ≤ 5

/-- RV_SYNC in force. -/
def syncCode (r : RegStraps) : Nat := (r.sync.map (·.val)).getD 0

/-- The clock source is SYNC_IN (Table STP-5). -/
def syncExternal (r : RegStraps) : Bool := 6 ≤ syncCode r && syncCode r ≤ 12

/-- The spread in percent, 0 for none (Table STP-5). -/
def spreadPct (r : RegStraps) : Nat :=
  match syncCode r with
  | 2 | 3 => 5
  | 4 | 5 => 10
  | _ => 0

/-- SYNC_OUT's phase in degrees; none when off (Table STP-5). -/
def syncOut (r : RegStraps) : Option Nat :=
  match syncCode r with
  | 1 | 3 | 5 | 10 => some 180
  | 7 => some 0
  | 8 | 13 => some 90
  | 9 | 14 => some 120
  | 11 => some 240
  | 12 => some 270
  | _ => none

end Sys2Proof.Machine
end

