-- ==== Sys2Proof/Machine/Ops.lean ====
section
/-! DEFINITION. Named operations over the flash, the alarms, the free values and the small registers of the block. -/

namespace Sys2Proof.Machine

/-! ### Flash: a list of (address, byte) pairs; an unlisted address reads as 0xFF (erased) -/

/-- The byte at an address. (DESIGN CHOICE, log entry 12) -/
def Memory.get (m : List Host.Cell) (a : Nat) : Byte :=
  match m with
  | [] => 0xFF
  | (b, v) :: t => if b = a then v else Memory.get t a

/-- The memory with one byte written, in canonical form. -/
def Memory.put (m : List Host.Cell) (a : Nat) (v : Byte) : List Host.Cell :=
  match m with
  | [] => if v = 0xFF then [] else [(a, v)]
  | (b, x) :: t =>
    if a < b then if v = 0xFF then (b, x) :: t else (a, v) :: (b, x) :: t
    else if a = b then if v = 0xFF then t else (a, v) :: t
    else (b, x) :: Memory.put t a v

/-- Addresses rise from a bound on, and no entry equals what an unlisted address reads as. -/
def Memory.wfFrom (lo : Nat) (m : List Host.Cell) : Bool :=
  match m with
  | [] => true
  | (a, v) :: t => lo ≤ a && v != 0xFF && Memory.wfFrom (a + 1) t

/-- The canonical form. -/
def Memory.wf (m : List Host.Cell) : Bool := Memory.wfFrom 0 m

/-- The memory with bytes written from an address on (page program, Table BOO-2). -/
def Memory.program (m : List Host.Cell) (a : Nat) (bs : List Byte) : List Host.Cell :=
  match bs with
  | [] => m
  | b :: t => Memory.program (Memory.put m a b) (a + 1) t

/-- The memory with n bytes from an address erased (sector erase, Table BOO-2). -/
def Memory.erase (m : List Host.Cell) (a n : Nat) : List Host.Cell := m.filter fun c => !(a ≤ c.1 && c.1 < a + n)

/-- n bytes from address a on, of a memory without a lower address. -/
def Memory.walk (m : List Host.Cell) (a n : Nat) : List Byte :=
  match n with
  | 0 => []
  | n + 1 =>
    match m with
    | [] => 0xFF :: Memory.walk [] (a + 1) n
    | (b, v) :: t => if b = a then v :: Memory.walk t (a + 1) n else 0xFF :: Memory.walk ((b, v) :: t) (a + 1) n

/-- n bytes from address a on. -/
def Memory.read (m : List Host.Cell) (a n : Nat) : List Byte := Memory.walk (m.dropWhile fun c => c.1 < a) a n

/-- The bytes a flash read returns: the stored ones, or whatever the flash returns when it and the device disagree on
address width (R129). -/
def flashRead (s : State) (a n : Nat) : List Byte :=
  if s.boot.flashMode = .widthDiffers then (List.range n).map fun k => Config.flashByte (a + k)
  else Memory.read s.flash a n

/-- Flash address of a slot (file 05, Layout of a slot). -/
def slotBase (slot : Fin 2) : Nat := if slot = 0 then 0 else 0x400000

/-- The other slot. -/
def otherSlot (slot : Fin 2) : Fin 2 := if slot = 0 then 1 else 0

/-! ### Free values (log entry 5) -/

/-- The next free value, and the state that has used it. -/
def takeFree (s : State) : BitVec 64 × State := (Config.freeValue s.free, { s with free := s.free + 1 })

/-! ### Alarms (R62, R512) -/

/-- FAULT_N gains a cause. -/
def addFault (s : State) (a : Alarm) : State := { s with prot.faults := addNew s.prot.faults a }

/-- FAULT_N loses a cause. -/
def dropFault (s : State) (a : Alarm) : State := { s with prot.faults := s.prot.faults.filter fun x => x != a }

/-- ALERT_N gains a cause. -/
def addAlert (s : State) (a : Alarm) : State := { s with prot.alerts := addNew s.prot.alerts a }

/-- ALERT_N loses a cause. -/
def dropAlert (s : State) (a : Alarm) : State := { s with prot.alerts := s.prot.alerts.filter fun x => x != a }

/-! ### Domains -/

/-- A domain as Bridle holds it. -/
def dom (s : State) (d : Nat) : Dom := vget s.bridle.doms Dom.zero d

/-- A domain's state. -/
def domSt (s : State) (d : Nat) : DS := (dom s d).st

/-- The domain is on. -/
def isOn (s : State) (d : Nat) : Bool := domSt s d == .on

/-- A domain changed by f. -/
def modDom (s : State) (d : Nat) (f : Dom → Dom) : State := { s with bridle.doms := vmod s.bridle.doms d f }

/-! ### Channels -/

/-- A channel. -/
def chan (s : State) (c : Chan) : ChanSt := match c with | .main => s.reg.main | .aux => s.reg.aux

/-- A channel changed by f. -/
def modChan (s : State) (c : Chan) (f : ChanSt → ChanSt) : State :=
  match c with
  | .main => { s with reg.main := f s.reg.main }
  | .aux => { s with reg.aux := f s.reg.aux }

/-- The regulator straps in force for a channel (R113). -/
def strapsOf (s : State) (c : Chan) : RegStraps := match c with | .main => s.reg.straps | .aux => s.reg.strapsA

/-- The domain of a channel. -/
def chanDom (c : Chan) : Nat := match c with | .main => 17 | .aux => 18

/-- The enable ball of a channel is high. -/
def enabled (s : State) (c : Chan) : Bool := match c with | .main => s.pins.enM | .aux => s.pins.enA

/-! ### Ports -/

/-- A tether port. -/
def link (s : State) (p : Port) : Link := match p with | .u => s.tether.u | .d => s.tether.d

/-- A port changed by f. -/
def modLink (s : State) (p : Port) (f : Link → Link) : State :=
  match p with
  | .u => { s with tether.u := f s.tether.u }
  | .d => { s with tether.d := f s.tether.d }

/-- The other port. -/
def otherPort (p : Port) : Port := match p with | .u => .d | .d => .u

/-- The SerDes domain of a port. -/
def portDom (p : Port) : Nat := match p with | .u => 13 | .d => 14

/-- The tug domain of a port. -/
def tugDom (p : Port) : Nat := match p with | .u => 1 | .d => 2

/-- The port is up. -/
def portUp (s : State) (p : Port) : Bool := (link s p).st == .up

/-! ### Pace rails (R765, R767) -/

/-- A rail is on: some domain it feeds is on (Table LAT-2). -/
def paceOn (s : State) (k : Nat) : Bool :=
  (if k = 0 then [3, 4, 5, 6] else if k = 1 then [13, 14, 15, 16] else [7, 8, 9, 10, 11, 12]).any (isOn s)

/-- Floor of a rail in steps of 6.25 mV above 0.55 V (Table LAT-2). -/
def paceFloor (s : State) (k : Nat) : Nat := if k = 0 || portUp s .u || portUp s .d || isOn s 16 then 8 else 0

/-- A rail rises before a demand on it does, at least to its floor; how far is left open (R767, log entry 136). -/
def raiseRail (s : State) (k : Nat) : State :=
  let r := vget s.pace ⟨48, false⟩ k
  if !paceOn s k || r.stalled then s
  else
    let (f, t) := takeFree s
    let least := min 48 (max r.level (paceFloor s k))
    { t with pace := vset t.pace k { r with level := least + f.toNat % (49 - least) } }

/-- The rail that feeds a domain (Table LAT-2). -/
def railOf (d : Nat) : Option Nat :=
  if 3 ≤ d && d ≤ 6 then some 0 else if 13 ≤ d && d ≤ 16 then some 1 else if 7 ≤ d && d ≤ 12 then some 2 else none

/-- The rail of a domain that is to report LIVE rises (R767). -/
def raiseFor (s : State) (d : Nat) : State := match railOf d with | some k => raiseRail s k | none => s

/-- A port number as PORT fields code it: 0 for U, 1 for D. -/
def portNum (p : Port) : Nat := match p with | .u => 0 | .d => 1

/-! ### Boot -/

/-- Step 11 has been reached (R123). -/
def isReady (s : State) : Bool := s.boot.step == .ready || s.boot.step == .running

/-- Step 12 has been reached, outside safe mode. -/
def isRunning (s : State) : Bool := s.boot.step == .running && !s.boot.safe

/-- The device acts on the balls of the VIO bank: VIO is up, and neither POR nor RST_N holds (R48, Table BAL-5).
(DESIGN CHOICE, log entry 67) -/
def pinsLive (s : State) : Bool :=
  s.sup.vio && !s.boot.inReset &&
    match s.boot.step with
    | .por | .tickWait | .idRetry | .held => false
    | _ => true

/-- An outage sequence, its dwell included, is in progress (file 20). -/
def inOutage (s : State) : Bool := s.outage.step != 0

/-! ### Time -/

/-- Milliseconds of the ageing counter: 32,768 ticks a second (R648). -/
def msNow (s : State) : Nat := s.now * 1000 / 32768

/-- A clock that acquires SYNC_IN or glides back may be there after a period: the manual bounds the time, and does not fix
it (R444, R445, log entry 5). -/
def clockSettles (s : State) : State :=
  let settles (k : Clock) : State :=
    let (f, t) := takeFree s
    if f.getLsbD 0 then { t with reg.clock := k } else t
  match s.reg.clock with
  | .acquiring => settles .locked
  | .gliding => settles .internal
  | .internal | .locked => s

end Sys2Proof.Machine
end

