-- ==== Sys2Proof/Machine/Reel.lean ====
section
/-! DEFINITION. Reading a Reel from a slot: header, sections, seal, verification, field ranges and the rule memory at
load (files 04, 05 and 08). -/

namespace Sys2Proof.Machine

/-! ### Header and section table -/

/-- A section-table entry (Table REL-3). -/
structure Sect where
  typ : Nat
  off : Nat
  len : Nat
  crc : Nat
  deriving DecidableEq, Repr

/-- A header (Table REL-2) with its section table. -/
structure Header where
  version : Nat
  minVer : Nat
  totLen : Nat
  sigOff : Nat
  nsect : Nat
  bootProf : Nat
  sects : List Sect
  deriving DecidableEq, Repr

/-- The section types of Table REL-4. -/
def sectTypes : List Nat :=
  [0x10, 0x11, 0x12, 0x20, 0x21, 0x22, 0x30, 0x40] ++ [0x41, 0x50, 0x51, 0x52, 0x60, 0x61, 0x70]

/-- The length of Table REL-4 is met, as far as R169 has it bear on the header: RULES, AUTOMATA and ASSOC are judged by
R321. (DEDUCED, log entry 147) -/
def sectLenOk (e : Sect) : Bool :=
  match e.typ with
  | 0x10 => e.len = 80
  | 0x11 => e.len = 80
  | 0x12 => e.len = 64
  | 0x20 => e.len = 64
  | 0x21 => e.len = 256
  | 0x22 => e.len = 32
  | 0x30 => e.len = 192
  | 0x40 => e.len = 16
  | 0x41 => e.len = 48
  | 0x50 => e.len ≥ 64
  | 0x51 => e.len ≥ 64
  | 0x60 => e.len ≥ 16 && e.len ≤ 16 + 8 * 1024 && (e.len - 16) % 8 = 0
  | 0x61 => e.len ≥ 8 && e.len ≤ 8 * 256 && e.len % 8 = 0
  | 0x70 => e.len = 64
  | _ => true

/-- Two ranges share a byte. -/
def overlaps (a n b m : Nat) : Bool := a < b + m && b < a + n && 0 < n && 0 < m

/-- The bytes a section takes for the overlap test: WAKEKEY its whole sector (R169). -/
def sectSpan (e : Sect) : Nat := if e.typ = 0x41 then 4096 else e.len

/-- No two sections of a list overlap. -/
def noOverlap (l : List Sect) : Bool :=
  match l with
  | [] => true
  | e :: t => (t.all fun f => !overlaps e.off (sectSpan e) f.off (sectSpan f)) && noOverlap t

/-- The fields of the first 64 bytes that can be checked before the section table has arrived (R169, R209). -/
def headerFieldsOk (h : List Byte) : Bool :=
  field h 0x3C 4 = (crc32 (h.take 0x3C)).toNat && field h 0 4 = 0x474B524C && field h 4 2 = 1 && field h 6 2 = 0x40 &&
    field h 8 4 ≠ 0 && field h 0xC 4 ≤ field h 8 4 && field h 0x10 4 = field h 0x14 4 + 128 && field h 0x14 4 % 16 = 0 &&
    field h 0x14 4 ≤ 0x3FEF80 && 12 ≤ field h 0x18 2 && field h 0x18 2 ≤ 15 && field h 0x1A 1 ≤ 7

/-- The header that 64 bytes and n entries spell. -/
def parseHeader (h tab : List Byte) : Header :=
  { version := field h 8 4, minVer := field h 0xC 4, totLen := field h 0x10 4, sigOff := field h 0x14 4,
    nsect := field h 0x18 2, bootProf := field h 0x1A 1,
    sects := (List.range (field h 0x18 2)).map fun k =>
      ⟨field tab (16 * k) 2, field tab (16 * k + 4) 4, field tab (16 * k + 8) 4, field tab (16 * k + 12) 4⟩ }

/-- The entry of a type. -/
def findSect (h : Header) (t : Nat) : Option Sect := h.sects.find? fun e => e.typ == t

/-- The section table is well formed (R169). -/
def tableOk (h : Header) : Bool :=
  let tabEnd := 0x40 + 16 * h.nsect
  (h.sects.all fun e => sectTypes.contains e.typ && sectLenOk e && e.off % 4 = 0 && tabEnd ≤ e.off &&
      e.off + sectSpan e ≤ h.sigOff && (e.typ != 0x41 || e.off % 4096 = 0)) &&
    (h.sects.map (·.typ)).Nodup && (sectTypes.take 12).all (fun t => (findSect h t).isSome) && noOverlap h.sects

/-- R rounded up to whole lines of four (R305). -/
def roundUp4 (r : Nat) : Nat := (r + 3) / 4 * 4

/-- Bytes of a section of a slot. -/
def sectBytes (s : State) (slot : Fin 2) (h : Header) (t : Nat) : List Byte :=
  match findSect h t with
  | some e => flashRead s (slotBase slot + e.off) e.len
  | none => []

/-- The three rule sections fit in the rule memory, counted as R309 states. -/
def rulesFit (s : State) (slot : Fin 2) (h : Header) : Bool :=
  let n := field (sectBytes s slot h 0x51) 0 2
  let r := field (sectBytes s slot h 0x50) 0 2
  64 * (n + roundUp4 r / 2) ≤ 2097152

/-- The header of a slot, when it is well formed (R169); under a clear quad-enable bit none is (R131). -/
def slotHeader (s : State) (slot : Fin 2) : Option Header :=
  if s.boot.flashMode = .quadClear then none
  else
    let b := flashRead s (slotBase slot) 64
    if headerFieldsOk b then
      let h := parseHeader b (flashRead s (slotBase slot + 64) (16 * field b 0x18 2))
      if tableOk h && rulesFit s slot h then some h else none
    else none

/-! ### The wake-key section and its seal (R200 to R203) -/

/-- Where the wake-key section of a slot was recovered from. -/
inductive KeyForm where
  | sealedOnly | sealedAndPlain | plainOnly
  deriving DecidableEq, Repr

/-- The section that a usable seal record holds (R201). -/
def unsealed (s : State) (slot : Fin 2) (e : Sect) : Option (List Byte) :=
  let r := flashRead s (slotBase slot + 0x3FF000) 4096
  if field r 0 4 = 0x5345414C && field r 4 2 = 1 && field r 0xFFC 4 = (crc32 (r.take 0xFFC)).toNat &&
      field r 8 8 = s.ident.toNat && field r 0x10 4 = e.off && field r 0x14 4 = e.crc then
    match keyUnwrap Config.dieKey (sliceBytes r 0x18 56) with
    | some p => if (crc32 p).toNat = e.crc then some p else none
    | none => none
  else none

/-- The plain wake-key section, when its sector holds it (R202). -/
def plainKey (s : State) (slot : Fin 2) (e : Sect) : Option (List Byte) :=
  let p := flashRead s (slotBase slot + e.off) e.len
  if (crc32 p).toNat = e.crc then some p else none

/-- The wake-key sector is erased: all 4,096 bytes read 0xFF (R202). -/
def keyErased (s : State) (slot : Fin 2) (e : Sect) : Bool :=
  (flashRead s (slotBase slot + e.off) 4096).all fun b => b == 0xFF

/-- The wake-key section of a slot and its form (R138, R202, R203): without a seal an erased sector fails, whatever the
entry's CRC. -/
def recoverKey (s : State) (slot : Fin 2) (h : Header) : Option (List Byte × KeyForm) :=
  match findSect h 0x41 with
  | none => none
  | some e =>
    let plain := if keyErased s slot e then none else plainKey s slot e
    match unsealed s slot e, plain with
    | some p, some _ => some (p, .sealedAndPlain)
    | some p, none => some (p, .sealedOnly)
    | none, some p => some (p, .plainOnly)
    | none, none => none

/-- The seal record of a section (Table REL-14). -/
def sealRecord (s : State) (e : Sect) (plain : List Byte) : List Byte :=
  let b := toBe 4 0x5345414C ++ toBe 2 1 ++ toBe 2 56 ++ toBe 8 s.ident.toNat ++ toBe 4 e.off ++ toBe 4 e.crc ++
    keyWrap Config.dieKey plain ++ List.replicate 4012 0
  b ++ toBe 4 (crc32 b).toNat

/-- Sealing a slot: the sealed copy is written, read back and checked, and only then is the plain sector erased (R137,
R138). (DEDUCED, log entry 60) -/
def sealSlot (s : State) (slot : Fin 2) (h : Header) (key : List Byte × KeyForm) : State :=
  match findSect h 0x41 with
  | none => s
  | some e =>
    let base := slotBase slot
    match key.2 with
    | .sealedOnly => s
    | .sealedAndPlain => { s with flash := Memory.erase s.flash (base + e.off) 4096 }
    | .plainOnly =>
      let f := Memory.program (Memory.erase s.flash (base + 0x3FF000) 4096) (base + 0x3FF000) (sealRecord s e key.1)
      let s1 := { s with flash := f }
      if unsealed s1 slot e = some key.1 then { s1 with flash := Memory.erase f (base + e.off) 4096 } else s1

/-! ### Verification (R132, R193 to R196) -/

/-- The NVM copy in use: the first whose CRC-16 checks (R136). -/
def nvmCopy (s : State) : Option NvmCopy :=
  if s.nvm.copy0.crcOk then some s.nvm.copy0 else if s.nvm.copy1.crcOk then some s.nvm.copy1 else none

/-- The bytes that the digest covers, with the plain wake-key sector in place (R193). (DEDUCED, log entry 63) -/
def digestBytes (s : State) (slot : Fin 2) (h : Header) (key : List Byte) : List Byte :=
  let b := flashRead s (slotBase slot) h.sigOff
  match findSect h 0x41 with
  | some e => b.take e.off ++ key ++ List.replicate (4096 - key.length) 0xFF ++ b.drop (e.off + 4096)
  | none => b

/-- SHA-256 of the key a Reel carries (R195). -/
def reelKeyHash (s : State) (slot : Fin 2) (h : Header) : BitVec 256 :=
  sha256 (flashRead s (slotBase slot + h.sigOff) 64)

/-- verify of R132, with the NVM key hash. -/
def verifySlot (s : State) (slot : Fin 2) (h : Header) (keyHash : Option (BitVec 256)) : Bool :=
  match recoverKey s slot h with
  | none => false
  | some k =>
    let sig := flashRead s (slotBase slot + h.sigOff) 128
    (h.sects.all fun e => e.typ == 0x41 || (crc32 (flashRead s (slotBase slot + e.off) e.len)).toNat == e.crc) &&
      ecdsaVerify (field sig 0 32) (field sig 32 32) (field sig 64 32) (field sig 96 32)
        (sha256 (digestBytes s slot h k.1)).toNat &&
      (match keyHash with | some q => sha256 (sig.take 64) == q | none => true)

/-- The candidates of R132, in the order they are tried. (DEDUCED, log entry 66) -/
def candidates (s : State) (minVer : Nat) : List (Fin 2 × Header) :=
  let c (k : Fin 2) : List (Fin 2 × Header) :=
    match slotHeader s k with
    | some h => if h.version ≥ minVer then [(k, h)] else []
    | none => []
  let c1 := if tri s 6 == .opn then [] else c 1
  match c 0, c1 with
  | a :: _, b :: _ => if b.2.version > a.2.version then [b, a] else [a, b]
  | a, b => a ++ b

/-- The slot that R132 chooses. -/
def chooseSlot (s : State) (n : NvmCopy) : Option (Fin 2 × Header) :=
  (candidates s n.minVer.toNat).find? fun c => verifySlot s c.1 c.2 n.keyHash

/-! ### Rule memory at load (R305) and its consistency (R321) -/

/-- Halfword k of a line. -/
def halfOf (line : List Byte) (k : Nat) : Nat := field line (2 * k) 2

/-- Body line k of AUTOMATA. -/
def bodyLine (au : List Byte) (k : Nat) : List Byte := sliceBytes au (64 + 64 * k) 64

/-- The lines of the first NMAP maps. -/
def mapLines (au : List Byte) : List Nat :=
  ((List.range (field au 2 1)).map fun k => (List.range 4).map fun j => field au (12 + 2 * k) 2 + j).flatten

/-- Next lines that a state line's slots name, DEAD left out. -/
def slotTargets (au : List Byte) (n : Nat) : List Nat :=
  let l := bodyLine au n
  let narrow := (List.range 30).map fun c => natBits (halfOf l (2 + c)) 14 0
  let all := if halfOf l 0 / 2 ^ 14 = 1 then
      narrow ++ (List.range 32).map fun c => natBits (halfOf (bodyLine au (n + 1)) c) 14 0
    else narrow
  all.filter (· != 0x7FFF)

/-- State lines reachable from a work list; at most `fuel` lines are taken. -/
def reachStates (au : List Byte) (n : Nat) (fuel : Nat) (todo seen : List Nat) : List Nat :=
  match fuel with
  | 0 => seen
  | fuel + 1 =>
    match todo with
    | [] => seen
    | l :: t =>
      if seen.contains l || n ≤ l then reachStates au n fuel t (insNat seen l)
      else reachStates au n fuel ((slotTargets au l).eraseDups ++ t) (insNat seen l)

/-- A rule-list chain: its lines, or none when it leaves the body, exceeds 4 lines or names a rule at or above R. -/
def listChain (au : List Byte) (n r : Nat) (fuel : Nat) (line : Nat) : Option (List Nat) :=
  match fuel with
  | 0 => none
  | fuel + 1 =>
    if n ≤ line then none
    else
      let l := bodyLine au line
      let es := ((List.range 31).map (halfOf l)).takeWhile fun e => e / 2 ^ 15 = 1
      if es.any fun e => natBits e 11 0 ≥ r then none
      else if halfOf l 31 / 2 ^ 15 = 1 then
        (listChain au n r fuel (natBits (halfOf l 31) 14 0)).map (line :: ·)
      else some [line]

/-- One state line is valid (R321). -/
def stateLineOk (au : List Byte) (n r k : Nat) : Bool :=
  let l := bodyLine au k
  let h0 := halfOf l 0
  k < n && h0 / 2 ^ 14 ≤ 1 && (h0 / 2 ^ 14 = 0 || k + 1 < n) && natBits h0 12 9 < field au 2 1 &&
    (!(h0 / 2 ^ 13 % 2 = 1) || (listChain au n r 4 (natBits (halfOf l 1) 14 0)).isSome)

/-- RULES, AUTOMATA and ASSOC are consistent (R321). (DEDUCED, log entry 62) -/
def tablesConsistent (au ru as : List Byte) : Bool :=
  let n := field au 0 2
  let m := field au 2 1
  let r := field ru 0 2
  let starts := ([field au 4 2, field au 6 2, field au 8 2].map fun v => natBits v 15 0).filter (· != 0x7FFF)
  let maps := mapLines au
  let states := reachStates au n (64 * n + 64) starts []
  let seconds := (states.filter fun k => halfOf (bodyLine au k) 0 / 2 ^ 14 = 1).map (· + 1)
  let lists := ((states.filter fun k => halfOf (bodyLine au k) 0 / 2 ^ 13 % 2 = 1).map fun k =>
    (listChain au n r 4 (natBits (halfOf (bodyLine au k) 1) 14 0)).getD []).flatten
  1 ≤ n && n ≤ 32767 && 1 ≤ m && m ≤ 16 && 1 ≤ r && r ≤ 4096 && au.length = 64 + 64 * n && ru.length = 64 + 16 * r &&
    as.length = 16 * r && ((List.range m).all fun k => field au (12 + 2 * k) 2 + 3 < n) &&
    (maps.all fun k => (bodyLine au k).all fun b => b.toNat % 64 ≤ 61) &&
    (states.all fun k => stateLineOk au n r k && !maps.contains k && !seconds.contains k && !lists.contains k) &&
    (lists.all fun k => !maps.contains k && !seconds.contains k) &&
    ((List.range r).all fun k => byteAt ru (64 + 16 * k + 5) &&& 7 == 0) &&
    ((List.range r).all fun k => (byteAt as (16 * k + 2)).toNat % 8 ≤ 4 &&
      ((byteAt as (16 * k)).toNat / 16 = 0 ||
        (1 ≤ (byteAt as (16 * k + 1)).toNat && (byteAt as (16 * k + 1)).toNat ≤ 0x7F)))

/-- Four entries of 16 bytes as one line; entries at or above R are 0x00 (R306). -/
def entryLine (bs : List Byte) (line : Nat) : List Byte := sliceBytes bs (64 * line) 64

/-- The odd parity bits of a line's bytes (R307). -/
def lineParity (b : List Byte) : BitVec 64 :=
  BitVec.ofNat 64 ((b.zip (List.range 64)).foldl (fun a x =>
    a + bit ((byteBits x.1).foldl (fun n v => n + bit v) 0 % 2 == 0) * 2 ^ x.2) 0)

/-- A line with the parity that the device generates as it loads or stages it (R307). -/
def memLine (b : List Byte) : MemLine := ⟨b, lineParity b⟩

/-- The lines that the loader fills, by logical line (Table AUT-1). -/
def loadedLines (au ru as : List Byte) : List (Nat × List Byte) :=
  let n := field au 0 2
  let q := roundUp4 (field ru 0 2) / 4
  (List.range n).map (fun k => (k, bodyLine au k)) ++ (List.range q).map (fun k => (n + k, entryLine (ru.drop 64) k)) ++
    (List.range q).map (fun k => (n + q + k, entryLine as k))

/-- Rule memory after a load (R305). -/
def loadRules (au ru as : List Byte) : RuleMem :=
  if tablesConsistent au ru as then
    { RuleMem.zero with
      places := (loadedLines au ru as).map fun x => (x.1, memLine x.2)
      nline := field au 0 2
      nrule := field ru 0 2
      nmap := field au 2 1
      mapline := (List.range (field au 2 1)).map fun k => field au (12 + 2 * k) 2
      cur := ⟨0, [], [], field au 4 2, field au 6 2, field au 8 2⟩ }
  else RuleMem.zero

/-! ### Sections and their ranges (R170 to R192) -/

/-- A value, or its default when outside its range (R190). -/
def ranged (v lo hi d : Nat) : Nat := if lo ≤ v && v ≤ hi then v else d

/-- A DOMAIN entry (Table REL-5). -/
def parseDom (b : List Byte) (k : Nat) : DomCfg :=
  { own := (byteAt b (4 * k)).getLsbD 0
    delay := ranged (field b (4 * k + 1) 1) 0 250 25
    idleAct := BitVec.ofNat 2 (ranged (field b (4 * k + 2) 1 % 4) 0 2 0)
    idleTime := ranged (field b (4 * k + 3) 1) 1 255 16 }

/-- A field of DOMAIN lies outside its range. -/
def domBad (b : List Byte) (k : Nat) : Bool :=
  250 < field b (4 * k + 1) 1 || field b (4 * k + 2) 1 % 4 = 3 || field b (4 * k + 3) 1 = 0

/-- A retention map (Table REL-6). -/
def parseMap (b : List Byte) (k : Nat) : RetainMap :=
  let o := 20 * k
  { banks := #v[BitVec.ofNat 16 (field b o 1), BitVec.ofNat 16 (field b (o + 1) 1 % 16), BitVec.ofNat 16 (field b (o + 2) 2),
      BitVec.ofNat 16 (field b (o + 4) 2), BitVec.ofNat 16 (field b (o + 6) 2), BitVec.ofNat 16 (field b (o + 8) 2)]
    shed := vgen 6 fun j => min 5 (field b (o + 10 + j) 1)
    outret := BitVec.ofNat 20 (field b (o + 16) 1 % 16 * 2 ^ 16 + field b (o + 17) 2) }

/-- A SHED byte lies above 5 (R172). -/
def mapBad (b : List Byte) (k : Nat) : Bool := (List.range 6).any fun j => 5 < field b (20 * k + 10 + j) 1

/-- A profile (Table REL-7); a pair that names an absent domain is unchanged (R192). -/
def parseProfile (var : Nat) (b : List Byte) (k : Nat) : Profile :=
  let o := 8 * k
  let raw := BitVec.ofNat 40 (field b o 5)
  let absent := (absentDoms var).foldl (fun a d => a ||| (3#40 <<< (2 * d))) 0#40
  let c := field b (o + 5) 1
  { targets := raw ||| absent
    mset := Fin.ofNat 8 c
    movr := c / 8 % 2 = 1
    aset := Fin.ofNat 8 (c / 16)
    aovr := c / 128 % 2 = 1
    early := field b (o + 6) 1 % 2 = 1 }

/-- A setpoint (Table REL-8). -/
def parseSetpoint (b : List Byte) (k : Nat) : Setpoint := ⟨(byteAt b (4 * k)).getLsbD 0, field b (4 * k + 1) 2⟩

/-- A coefficient set (R178). -/
def parseCoef (b : List Byte) (k : Nat) : CoefSet :=
  ⟨vgen 7 fun j => BitVec.ofNat 16 (field b (16 * k + 2 * j) 2), BitVec.ofNat 16 (field b (16 * k + 14) 2)⟩

/-- REGPOL (Table REL-9). (DEDUCED, log entry 68) -/
def parsePol (b : List Byte) : RegPol :=
  { ssm := ranged (field b 0 1) 0 15 3
    ssa := ranged (field b 1 1) 0 15 3
    slew := ranged (field b 2 1) 0 15 3
    retry := ranged (field b 3 1) 0 3 2
    ovlt := ranged (field b 4 1) 0 5 2
    ovlp := ranged (field b 5 1) 0 1 0
    shedOn := (byteAt b 6).getLsbD 0
    rotate := (byteAt b 6).getLsbD 1
    prate := ranged (field b 8 2) 10 600 150
    rsnsm := ranged (field b 10 2) 100 50000 1000
    rsnsa := ranged (field b 12 2) 100 50000 1000 }

/-- A field of REGPOL lies outside its range. -/
def polBad (b : List Byte) : Bool :=
  15 < field b 0 1 || 15 < field b 1 1 || 15 < field b 2 1 || 3 < field b 3 1 || 5 < field b 4 1 || 1 < field b 5 1 ||
    field b 8 2 < 10 || 600 < field b 8 2 || field b 10 2 < 100 || 50000 < field b 10 2 || field b 12 2 < 100 ||
    50000 < field b 12 2

/-- A MONITOR entry (Table REL-10); THI below TLO loads it disabled (R181). (DEDUCED, log entry 61) -/
def parseMon (b : List Byte) (k : Nat) : MonCfg :=
  let o := 8 * k
  let c := byteAt b o
  let lo := field b (o + 1) 2 % 1024
  let hi := field b (o + 3) 2 % 1024
  { en := c.getLsbD 0 && lo ≤ hi
    mode := c.extractLsb' 1 2
    hyst := c.extractLsb' 3 2
    refsel := c.getLsbD 5
    clr := c.getLsbD 6
    tlo := lo
    thi := hi
    route := (byteAt b (o + 5)).extractLsb' 0 5 }

/-- QUEUE (Table REL-13), or its defaults when absent. -/
def parseQueue (b : List Byte) : QueueCfg :=
  if b.isEmpty then ⟨256, 1024, 512, 600, 2000, []⟩
  else
    { dropLim := ranged (field b 0 2) 1 65535 256
      holdLim := ranged (field b 2 2) 1 65535 1024
      notRes := ranged (field b 4 2) 64 4096 512
      dropAge := field b 6 2
      holdAge := field b 8 2
      overrides := (List.range ((b.length - 16) / 8)).map fun k =>
        ⟨field b (16 + 8 * k) 2, field b (18 + 8 * k) 2, field b (20 + 8 * k) 2⟩ }

/-- A field of QUEUE lies outside its range (R186). -/
def queueBad (b : List Byte) : Bool :=
  !b.isEmpty && (field b 0 2 = 0 || field b 2 2 = 0 || field b 4 2 < 64 || 4096 < field b 4 2 ||
    (List.range ((b.length - 16) / 8)).any fun k => field b (18 + 8 * k) 2 = 0)

/-- TALLY (R187). -/
def parseTally (b : List Byte) : List TallyCfg :=
  (List.range (b.length / 8)).map fun k =>
    { tag := field b (8 * k) 2
      ft := field b (8 * k + 2) 2
      bt := field b (8 * k + 4) 2
      mask := (byteAt b (8 * k + 6)).extractLsb' 0 4
      cause := byteAt b (8 * k + 7) }

/-- The Reel that a verified slot holds, with every default in place (R190). -/
def parseReel (s : State) (slot : Fin 2) (h : Header) (key : List Byte) : Reel :=
  let var := variant s
  let sec := sectBytes s slot h
  let dm := sec 0x10
  let rt := sec 0x11
  let pf := sec 0x12
  let sp := sec 0x20
  let co := sec 0x21
  let po := sec 0x22
  let mo := sec 0x30
  let wc := sec 0x40
  let qu := sec 0x60
  let ok := tablesConsistent (sec 0x51) (sec 0x50) (sec 0x52)
  { version := BitVec.ofNat 32 h.version
    minVer := BitVec.ofNat 32 h.minVer
    bootProf := Fin.ofNat 8 h.bootProf
    shash := (sha256 (digestBytes s slot h key)).extractLsb' 240 16
    slot := slot
    doms := vgen 20 (parseDom dm)
    maps := vgen 4 (parseMap rt)
    profiles := vgen 8 (parseProfile var pf)
    spMain := vgen 8 (parseSetpoint sp)
    spAux := vgen 8 fun k => parseSetpoint sp (k + 8)
    compMain := vgen 8 (parseCoef co)
    compAux := vgen 8 fun k => parseCoef co (k + 8)
    pol := parsePol po
    mons := vgen 24 (parseMon mo)
    gmask := BitVec.ofNat 16 (field wc 0 2)
    mclass := BitVec.ofNat 16 (field wc 2 2)
    tclass := BitVec.ofNat 16 (field wc 4 2)
    kwake := BitVec.ofNat 128 (field key 0 16)
    kmgmt := BitVec.ofNat 128 (field key 16 16)
    klabel := BitVec.ofNat 64 (field key 32 8)
    queue := parseQueue qu
    tally := parseTally (sec 0x61)
    fieldFault := !ok || (List.range 20).any (domBad dm) || (List.range 4).any (mapBad rt) || polBad po || queueBad qu ||
      (List.range 16).any fun k => 960 < (parseSetpoint sp k).code
    tablesOk := ok }

/-! ### What the loaded Reel says -/

/-- Profile k of the loaded Reel; every target unchanged without one. -/
def profileOf (s : State) (k : Fin 8) : Profile :=
  match s.reel with
  | some r => r.profiles[k]
  | none => ⟨BitVec.allOnes 40, 0, false, 0, false, false⟩

/-- The setpoint of a channel and index. -/
def setpointOf (s : State) (c : Chan) (k : Fin 8) : Setpoint :=
  match s.reel with
  | some r => match c with | .main => r.spMain[k] | .aux => r.spAux[k]
  | none => ⟨false, 961⟩

/-- A setpoint is valid (R191). -/
def spValid (p : Setpoint) : Bool := p.code ≤ 960

/-- The reference of a setpoint in microvolts (Table REL-8). -/
def spMicro (p : Setpoint) : Nat := if p.high then 800000 + 2500 * p.code else 400000 + 1250 * p.code

/-- The coefficient set of a channel and index (R178). -/
def coefOf (s : State) (c : Chan) (k : Fin 8) : CoefSet :=
  match s.reel with
  | some r => match c with | .main => r.compMain[k] | .aux => r.compAux[k]
  | none => CoefSet.zero

/-- REGPOL in force, as kept under warm hold, or its defaults before a load. -/
def polOf (s : State) : RegPol :=
  match s.reel with
  | some r => r.pol
  | none => match s.reg.kept with | some k => k.pol | none => parsePol (toBe 14 0x0303030202000300009603E803E8)

/-- The retention map in force (R399). -/
def mapInForce (s : State) : Option RetainMap := s.reel.map fun r => vget r.maps r.maps[0] s.pins.rmap.val

/-- The MONITOR entry of a monitor: the Reel's, or what PD17 and PD18 keep of it under warm hold (R123, R152). -/
def monCfg (s : State) (k : Nat) : Option MonCfg :=
  match s.reel with
  | some r => some (vget r.mons r.mons[0] k)
  | none => if k < 8 then s.reg.kept.map fun c => vget c.mons c.mons[0] k else none

/-- A wake, management or label key, zero before a load. -/
def kwakeOf (s : State) : BitVec 128 := (s.reel.map (·.kwake)).getD 0

/-- KMGMT of the loaded Reel. -/
def kmgmtOf (s : State) : BitVec 128 := (s.reel.map (·.kmgmt)).getD 0

/-- Rules are matched: a Reel is loaded and its tables are consistent (R185, R302). -/
def matching (s : State) : Bool := (s.reel.map (·.tablesOk)).getD false

end Sys2Proof.Machine
end

