-- ==== Sys2Proof/Machine/Requests.lean ====
section
/-! DEFINITION. Wake-cause words and pins (file 09), W0B, W2E, and requests on domains with their results (file 10). -/

namespace Sys2Proof.Machine

/-! ### Records of failures: W2E and W0B -/

/-- An in-flight failure is recorded in W2E and W2F (R704). -/
def recordW2E (s : State) (item : BitVec 4) (reason : Byte) (id : Half) : State :=
  { s with win := { s.win with item := item, ireason := reason, iid := id, icnt := satur 15 (s.win.icnt + 1) } }

/-- The code of an origin (Table DOM-7). -/
def originCode (o : Origin) : BitVec 2 :=
  match o with
  | .host => 0
  | .seq => 1
  | .idle => 2
  | .dev => 3

/-- The result of a request, a command or a profile (Table DOM-11). -/
inductive ReqResult where
  | done | refused | escalated | failed
  deriving DecidableEq, Repr

/-- The RESULT code (Table DOM-11). -/
def resultCode (r : ReqResult) : BitVec 2 :=
  match r with
  | .done => 0
  | .refused => 1
  | .escalated => 2
  | .failed => 3

/-- An entry in W0B (R397); `alert` unless it is a refusal answered on PRES (R398). -/
def w0bEntry (s : State) (sel : BitVec 5) (o : Origin) (r : ReqResult) (reason : BitVec 4) (alert : Bool) : State :=
  let w := s.bridle.w0b
  let cnt := satur 7 (w.cnt + 1)
  let keep := w.unread && w.origin == 0 && o != .host
  let w' : W0B := if keep then { w with cnt := cnt } else ⟨sel, originCode o, resultCode r, reason, cnt, true⟩
  let s1 := { s with bridle.w0b := w' }
  if alert then addAlert s1 .w0b else s1

/-! ### Wake-cause words and pins (R338 to R342) -/

/-- A wake-cause word changed by f. -/
def modWake (s : State) (k : Nat) (f : WakeWord → WakeWord) : State := { s with act.wake := vmod s.act.wake k f }

/-- f done for every pin of a mask. -/
def eachPin (s : State) (mask : BitVec 4) (f : WakeWord → WakeWord) : State :=
  { s with act.wake := vgen 4 fun k => if mask.getLsbD k then f (vget s.act.wake WakeWord.zero k)
      else vget s.act.wake WakeWord.zero k }

/-- The SRC codes of Table ACT-3 that the device and tallies use. -/
def srcDevice : BitVec 3 := 7

/-- SRC of a tally (Table ACT-3). -/
def srcTally : BitVec 3 := 6

/-- A cause is recorded on the pins of a mask (R340). -/
def recordCause (s : State) (mask : BitVec 4) (cause : Byte) (src : BitVec 3) : State :=
  let s1 := eachPin s mask fun w => { w with cause := cause, src := src, count := satur 15 (w.count + 1) }
  let s2 := if mask = 0 then s1 else { s1 with act.lastCause := cause }
  if src = srcDevice && 0x81 ≤ cause.toNat && cause.toNat ≤ 0x84 && mask != 0 then recordW2E s2 3 cause (BitVec.ofNat 16 mask.toNat) else s2

/-- The pins of a mask that pend. -/
def pendingMask (s : State) : BitVec 4 :=
  BitVec.ofNat 4 ((List.range 4).foldl (fun a k => a + if (vget s.act.wake WakeWord.zero k).pend then 2 ^ k else 0) 0)

/-- A cause other than 0x81 from the device: it raises a pin that is not pending (R341). -/
def recordDevice (s : State) (mask : BitVec 4) (cause : Byte) : State :=
  eachPin (recordCause s mask cause srcDevice) mask fun w =>
    if w.pend then w else { w with pin := true, held := .no, again := false }

/-- Cause 0x83 on pins that carry no 0x81 of the same result (R359). -/
def record83 (s : State) (mask : BitVec 4) : State :=
  let free := BitVec.ofNat 4 ((List.range 4).foldl
    (fun a k => a + if mask.getLsbD k && (vget s.act.wake WakeWord.zero k).cause != 0x81 then 2 ^ k else 0) 0)
  recordDevice s free 0x83

/-- The pins of a mask rise; PEND clears and nothing holds them low (R341, R342). Cause 0x83 follows on those that it waits
for (R359). -/
def raisePins (s : State) (mask : BitVec 4) : State :=
  let s1 := eachPin s mask fun w => { w with pend := false, pin := true, held := .no, again := false }
  if s1.act.after83 &&& mask = 0 then s1
  else record83 { s1 with act.after83 := s1.act.after83 &&& ~~~mask } (s1.act.after83 &&& mask)

/-- The pins of a mask are marked pending (R338). -/
def pendPins (s : State) (mask : BitVec 4) : State := eachPin s mask fun w => { w with pend := true }

/-- Pending pins of a mask rise (R339, R350, R359). -/
def releasePins (s : State) (mask : BitVec 4) : State := raisePins s (mask &&& pendingMask s)

/-- Step 6 of Sequence ACT-2: cause 0x81 or 0x82 for the pins of a failed rail. A pin that is low under 0x81 stays low, and
what was due on it is not recorded (R341, R355, R358, R359). -/
def railCause (s : State) (c : Chan) (mask : BitVec 4) : State :=
  match c with
  | .main =>
    eachPin (recordCause { s with act.after83 := s.act.after83 &&& ~~~mask } mask 0x81 srcDevice) mask fun w =>
      if w.pin then { w with pend := false } else { w with pend := false, held := .railFailed, again := false }
  | .aux => recordDevice s mask 0x82

/-- A rail of a channel has failed for the last time, and the record of it waits for its commit (Sequence ACT-2 step 5). -/
def railFailing (s : State) (c : Chan) : Bool := s.prot.latch.any fun r => r.code == 0x0C && r.aux == (c == .aux)

/-- A result that arises in the AON island waits for the action sequencer, even beyond 64. (DESIGN CHOICE, log entry
160) -/
def pushResult (s : State) (r : Result) : State := { s with act.queue := s.act.queue ++ [r] }

/-- A result of an engine waits for the action sequencer; while 64 wait the engine holds it back (R336). -/
def pushFrom (s : State) (e : Fin 4) (r : Result) : State :=
  if s.act.queue.length < 64 && s.act.late.isEmpty then pushResult s r else { s with act.late := s.act.late ++ [(e, r)] }

/-- The oldest result that an engine holds back enters the queue once there is room (R336). -/
def takeLate (s : State) : State :=
  match s.act.late with
  | (_, r) :: rest => if s.act.queue.length < 64 then pushResult { s with act.late := rest } r else s
  | [] => s

/-! ### What a domain needs and who holds it off -/

/-- Domains that a domain requires, absent ones left out (Table DOM-2, R383). -/
def required (s : State) (d : Nat) : List Nat :=
  (if 3 ≤ d && d ≤ 6 then [7] else if d = 13 || d = 14 || d = 16 then [8, 9, 15] else []).filter (present s)

/-- Domains that require a domain. -/
def requirers (s : State) (d : Nat) : List Nat := ((List.range 20).filter fun e => (required s e).contains d).filter (present s)

/-- A strap holds the domain off (Table DOM-12). -/
def strapHeld (s : State) (d : Nat) : Bool :=
  match d with
  | 0 => tri s 2 == .low || (rv s 3).isNone
  | 1 => tri s 0 == .low
  | 2 => tri s 1 == .low || endNode s
  | 14 => endNode s
  | 16 => tri s 4 == .opn
  | 18 => auxDisabled (regStrapsOf s)
  | _ => false

/-- A supply feeds a domain (Table BAL-2, Table BOO-1). -/
def feeds (x : Supply) (d : Nat) : Bool :=
  match x with
  | .vcin => 3 ≤ d && d ≤ 18
  | .vsd09 | .vsd18 => d = 13 || d = 14
  | .vana => 17 ≤ d && d ≤ 19
  | .vaon | .vbak | .vio | .vpwm => false

/-- A supply is above its threshold. -/
def supplyUp (s : State) (x : Supply) : Bool :=
  match x with
  | .vaon => s.sup.vaon
  | .vbak => s.sup.vbak
  | .vio => s.sup.vio
  | .vcin => s.sup.vcin
  | .vsd09 => s.sup.vsd09
  | .vsd18 => s.sup.vsd18
  | .vana => s.sup.vana
  | .vpwm => s.sup.vpwm

/-- Every supply that feeds the domain is above its threshold (R46). -/
def fed (s : State) (d : Nat) : Bool :=
  [Supply.vcin, .vsd09, .vsd18, .vana].all fun x => !feeds x d || supplyUp s x

/-- The engine of a domain has failed (R295). -/
def engineFailed (s : State) (d : Nat) : Bool := 3 ≤ d && d ≤ 6 && (vget s.engs.eng Engine.zero (d - 3)).failed

/-- The reason a domain cannot be turned on, strap, fault and supply alone (R384). -/
def cannotRise (s : State) (d : Nat) : Option (BitVec 4) :=
  if strapHeld s d then some 0x3
  else if (dom s d).faulty || engineFailed s d then some 0x9
  else if !fed s d then some 0x4
  else none

/-- A request of the domain that has not ended asks for it to leave on. -/
def leaving (s : State) (d : Nat) : Bool :=
  let m := dom s d
  (match m.cur with | some (q, _) => q.target != .on | none => false) || m.reqs.any fun q => q.target != .on

/-- A domain that is on, and that no request takes out of on. -/
def staysOn (s : State) (d : Nat) : Bool := isOn s d && !leaving s d

/-- The block of a domain has sent HOLD and not its final answer (R376). -/
def holding (s : State) (d : Nat) : Bool := match (dom s d).cur with | some (_, .held) => true | _ => false

/-- A block that holds starts no new work that would outlast DELAY (R376): whether a piece of work would is free, because
durations are not modelled. (DESIGN CHOICE, log entry 163) -/
def barred (s : State) (d : Nat) : Bool × State :=
  if holding s d then
    let (f, t) := takeFree s
    (f.getLsbD 0, t)
  else (false, s)

/-- The reason for which Bridle refuses a request without asking a block, none when it does not (R384, R394, R408 to
R412; the order of the tests is log entry 20). -/
def refusal (s : State) (d : Nat) (q : Req) : Option (BitVec 4) :=
  if !present s d then some 0x2
  else if s.boot.safe && q.origin != .dev then some 0xE
  else if inOutage s && q.origin != .dev then some 0xA
  else if q.target = .off then
    if domSt s d = .on && (requirers s d).any (staysOn s) then some 0xD else none
  else if strapHeld s d then some 0x3
  else if (dom s d).faulty || engineFailed s d then some 0x9
  else if q.target = .on then
    if !fed s d then some 0x4
    else match (required s d).filterMap (fun r => if isOn s r then none else cannotRise s r) with
      | r :: _ => some r
      | [] => none
  else if domSt s d = .on then if (requirers s d).any (staysOn s) then some 0xD else none
  else if domSt s d = .off && !fed s d then some 0x4
  else none

/-! ### Results of requests and profiles -/

/-- A profile is complete: its result and what follows (R387, R359, R392, R396). -/
def jobComplete (s : State) (j : Job) : State :=
  let r : ReqResult := if j.failed then .failed else if j.refused then .refused else .done
  let sel : BitVec 5 := BitVec.ofNat 5 (24 + j.prof.val)
  let id : Half := BitVec.ofNat 16 ((24 + j.prof.val) * 2048)
  let reason : Byte := BitVec.ofNat 8 j.reason.toNat
  let s1 := if r = .failed && (j.origin = .seq || j.origin = .dev) then recordW2E s 4 reason id
    else if r = .failed && j.hostCmd then recordW2E s 2 reason id else s
  let s2 := if j.hostCmd then w0bEntry s1 sel .host r j.reason true else s1
  -- a pin pending on a rail that is not on and not being tried is released (R359), but not during an outage (R360)
  let s3 := if domSt s2 17 = .on || s2.act.main.running || railFailing s2 .main || inOutage s2 then s2
    else releasePins s2 j.mask
  if r = .done || j.mask = 0 then s3
  else
    let late := j.mask &&& pendingMask s3
    record83 { s3 with act.after83 := s3.act.after83 ||| late } (j.mask &&& ~~~late)

/-- One target of a started profile has ended. -/
def jobTarget (s : State) (id : Nat) (r : ReqResult) (reason : BitVec 4) : State :=
  match s.bridle.jobs.find? fun j => j.id == id with
  | none => s
  | some j =>
    let j1 := { j with
      left := j.left - 1
      failed := j.failed || r = .failed || r = .escalated
      refused := j.refused || r = .refused
      reason := if r = .done then j.reason else reason }
    if j1.left = 0 then
      jobComplete { s with bridle.jobs := s.bridle.jobs.filter fun x => x.id != id } j1
    else { s with bridle.jobs := s.bridle.jobs.map fun x => if x.id = id then j1 else x }

/-- A request has its result: W0B (R396), the command or profile it belongs to. (DEDUCED, log entry 93) -/
def resolve (s : State) (d : Nat) (q : Req) (r : ReqResult) (reason : BitVec 4) : State :=
  let sel : BitVec 5 := BitVec.ofNat 5 d
  let s1 :=
    if q.hostCmd then
      let s0 := if r = .failed || r = .escalated then recordW2E s 2 (BitVec.ofNat 8 reason.toNat) (BitVec.ofNat 16 (d * 2048)) else s
      w0bEntry s0 sel .host r reason true
    else if r = .done || (r = .refused && q.origin = .idle) then s
    else if r = .refused && q.demand then
      if (dom s d).demandRefused = some reason then s
      else modDom (w0bEntry s sel q.origin r reason true) d fun m => { m with demandRefused := some reason }
    else w0bEntry s sel q.origin r reason true
  let s2 := if r = .done then
      modDom s1 d fun m => { m with demandRefused := none, idleTook := q.origin == .idle && q.target != .on }
    else s1
  if q.job = 0 then s2 else jobTarget s2 q.job r reason

/-! ### Memory banks -/

/-- Banks of a memory domain: 8 in PD07, 4 in PD08, 16 in PD09 to PD12 (Table DOM-2). -/
def bankCount (d : Nat) : Nat := if d = 7 then 8 else if d = 8 then 4 else if 9 ≤ d && d ≤ 12 then 16 else 0

/-- All banks of a domain. -/
def allBanks (d : Nat) : BitVec 16 := BitVec.ofNat 16 (2 ^ bankCount d - 1)

/-- Banks of a memory domain that the map in force keeps (R400), less what a stage has shed in this outage (R734). -/
def keptBanks (s : State) (d : Nat) : BitVec 16 :=
  match mapInForce s with
  | some m =>
    if 7 ≤ d && d ≤ 12 && !(inOutage s && vget m.shed 0 (d - 7) < s.gauge.acted) then vget m.banks 0 (d - 7) &&& allBanks d else 0
  | none => 0

/-- The bank of PD08 that holds the descriptor of a tag (R636). -/
def descBank (tag : Nat) : Nat := tag / 16384

/-- Queue descriptors that f names are lost: their frames are orphans, and the descriptors are empty (R637, R745). -/
def loseDescriptors (s : State) (f : Nat → Bool) : State :=
  let gone := (s.queues.qs.filter fun q => f q.1).flatMap (·.2)
  let outU := if f 0xFFF6 then s.tether.u.out.map (·.2) else []
  let outD := if f 0xFFF7 then s.tether.d.out.map (·.2) else []
  { s with
    queues.qs := s.queues.qs.filter fun q => !f q.1
    tether.u := if f 0xFFF6 then { s.tether.u with out := [], resend := [], goBackDue := false } else s.tether.u
    tether.d := if f 0xFFF7 then { s.tether.d with out := [], resend := [], goBackDue := false } else s.tether.d
    integ.orphans := s.integ.orphans ++ gone ++ outU ++ outD }

/-- A bank of PD08 to PD12 that loses its contents is recorded when live data is concerned (R749, R750). -/
def recordLoss (s : State) (d bank : Nat) : State :=
  if d = 8 then
    let s1 := loseDescriptors s fun t => descBank t == bank
    if s.queues.qs.isEmpty && s.tether.u.out.isEmpty && s.tether.d.out.isEmpty && s.integ.orphans.isEmpty then s1
    else { s1 with integ.banks := addNew s1.integ.banks (8, bank) }
  else if 9 ≤ d && d ≤ 12 && s.queues.alloc.any (fun c => c / 16384 + 9 == d && c / 1024 % 16 == bank) then
    { s with integ.banks := addNew s.integ.banks (Fin.ofNat 20 d, bank) }
  else s

/-- Banks of a domain outside a mask lose their contents, the highest-numbered first (R173, R368). -/
def loseBanks (s : State) (d : Nat) (keep : BitVec 16) : State :=
  let held := (dom s d).banks
  let lost := ((List.range (bankCount d)).filter fun b => held.getLsbD b && !keep.getLsbD b).reverse
  modDom (if d = 7 then s else lost.foldl (fun t b => recordLoss t d b) s) d fun m => { m with banks := m.banks &&& keep }

/-- PD07 goes to off: its next return loads it from the Reel (R25, R276). -/
def forgetRules (s : State) (d : Nat) (t : DS) : State := if d = 7 && t = .off then { s with rules.reloadAll := true } else s

/-! ### Requests in order (R39, R382) -/

/-- A domain's request in progress ends with a result. -/
def endCur (s : State) (d : Nat) : State := modDom s d fun m => { m with cur := none }

/-- The idle requests of a domain that have not reached step 2 of Sequence DOM-1 are cancelled (R405). -/
def dropIdle (m : Dom) : Dom :=
  { m with
    reqs := m.reqs.filter fun x => x.origin != .idle
    cur := match m.cur with
      | some (x, .wait) => if x.origin = .idle then none else m.cur
      | _ => m.cur }

/-- A request is added to a domain's order; any but an idle one cancels those of the idle policy (R405). -/
def enqueue (s : State) (d : Nat) (q : Req) : State :=
  modDom s d fun m =>
    let m1 := if q.origin = .idle then m else dropIdle m
    { m1 with reqs := m1.reqs ++ [q] }

/-- The next request of a domain reaches the head of its order; at most `fuel` requests are taken. A move from
retention to off or from off to retention completes at once; a memory domain loses what is not kept (R368). -/
def advance (s : State) (d fuel : Nat) : State :=
  match fuel with
  | 0 => s
  | fuel + 1 =>
    let m := dom s d
    match m.cur, m.reqs with
    | some _, _ => s
    | none, [] => s
    | none, q :: rest =>
      let s1 := modDom s d fun x => { x with reqs := rest }
      match refusal s1 d q with
      | some r => advance (resolve s1 d q .refused r) d fuel
      | none =>
        if m.st = q.target then advance (resolve s1 d q .done 0) d fuel
        else if m.st = .on then modDom s1 d fun x => { x with cur := some (q, .wait) }
        else if q.target = .on then modDom s1 d fun x => { x with cur := some (q, .rising) }
        else
          let s2 := if q.target = .off then forgetRules (loseBanks s1 d 0) d .off else s1
          advance (resolve (modDom s2 d fun x => { x with st := q.target }) d q .done 0) d fuel

/-- A domain's order is taken up: as many requests as it holds may end at once. -/
def takeOrder (s : State) (d : Nat) : State := advance s d (dom s d).reqs.length

/-- A request with nothing attached: origin device. -/
def devReq (t : DS) : Req := ⟨.dev, t, 0, false, false⟩

/-- A return on demand (R406). -/
def demandReq : Req := ⟨.dev, .on, 0, false, true⟩

/-- Some request of the domain that has not ended asks for on. -/
def risesLater (s : State) (d : Nat) : Bool :=
  let m := dom s d
  (match m.cur with | some (q, _) => q.target == .on | none => false) || m.reqs.any fun q => q.target == .on

/-- A domain that rises has each required domain asked for that is not on, not rising and not leaving (R383). -/
def askRequired (s : State) (d : Nat) : State :=
  match (dom s d).cur with
  | some (_, .rising) | some (_, .live) =>
    (required s d).foldl (fun t r =>
      if isOn t r || risesLater t r || leaving t r then t else takeOrder (enqueue t r (devReq .on)) r) s
  | _ => s

/-- A domain's order goes on, and what it then requires is asked for. -/
def settle (s : State) (d : Nat) : State := askRequired (takeOrder s d) d

/-- A request is made: it joins the order (R39). -/
def request (s : State) (d : Nat) (q : Req) : State := settle (enqueue s d q) d

/-- A domain is asked to return on demand, unless it is on or rising. -/
def demand (s : State) (d : Nat) : State :=
  if !present s d || isOn s d || risesLater s d then s else request s d demandReq

/-- A domain that the idle policy took out of on is returned on demand (R406). -/
def idleReturn (s : State) (d : Nat) : State := if (dom s d).idleTook then demand s d else s

end Sys2Proof.Machine
end

