-- ==== Sys2Proof/Machine/Frames.lean ====
section
/-! DEFINITION. Frames byte by byte: header fields, check values, well-formedness, classes, and the frames the device
builds (file 16). -/

namespace Sys2Proof.Machine

/-! ### Fields of a header (Table TFR-2) -/

/-- TYPE. -/
def fTyp (b : List Byte) : BitVec 4 := (byteAt b 0).extractLsb' 4 4

/-- WRAP. -/
def fWrap (b : List Byte) : Bool := (byteAt b 0).getLsbD 3

/-- HSEQ. -/
def fHseq (b : List Byte) : Byte := byteAt b 1

/-- DST. -/
def fDst (b : List Byte) : Byte := byteAt b 2

/-- SRC. -/
def fSrc (b : List Byte) : Byte := byteAt b 3

/-- QTAG. -/
def fQtag (b : List Byte) : Half := BitVec.ofNat 16 (field b 4 2)

/-- GROUP. -/
def fGroup (b : List Byte) : BitVec 4 := (byteAt b 6).extractLsb' 4 4

/-- LEN. -/
def fLen (b : List Byte) : Nat := field b 8 2

/-- SSEQ. -/
def fSseq (b : List Byte) : Half := BitVec.ofNat 16 (field b 10 2)

/-- Byte k of the payload. -/
def payByte (b : List Byte) (k : Nat) : Byte := byteAt b (16 + k)

/-- A payload field. -/
def payField (b : List Byte) (k n : Nat) : Nat := field b (16 + k) n

/-- The payload. -/
def payload (b : List Byte) : List Byte := (b.drop 16).take (fLen b)

/-- The name of a frame in notices (R619), with its queue tag after any override. -/
def nameOf (b : List Byte) (tag : Half) : FrameName := ⟨fSrc b, fDst b, fSseq b, tag, fTyp b⟩

/-! ### Check values and well-formedness (R597, R599) -/

/-- HCRC checks. -/
def hcrcOk (b : List Byte) : Bool := 16 ≤ b.length && field b 14 2 == (crc16 (b.take 14)).toNat

/-- The byte count and the CRC-32 check. -/
def crcOk (b : List Byte) : Bool :=
  b.length == 20 + fLen b && field b (b.length - 4) 4 == (crc32 (b.take (b.length - 4))).toNat

/-- LEN lies in the range of its TYPE (Table TFR-1); a reserved TYPE has none. -/
def lenOk (b : List Byte) : Bool :=
  let n := fLen b
  match (fTyp b).toNat with
  | 1 => n ≤ 2048
  | 2 => 12 ≤ n && n ≤ 2048
  | 3 => n = 24
  | 4 => n = 8
  | 5 => n = 4
  | 6 => 276 ≤ n && n ≤ 1812
  | 7 => 80 ≤ n && n ≤ 960 && n % 80 = 0
  | 8 => 4 ≤ n && n ≤ 64
  | 9 => n = 8
  | _ => false

/-- A reserved TYPE (R595). -/
def typReserved (b : List Byte) : Bool := (fTyp b).toNat = 0 || 10 ≤ (fTyp b).toNat

/-- A link-control type: not sequenced (R595). -/
def linkControl (t : BitVec 4) : Bool := 3 ≤ t.toNat && t.toNat ≤ 5

/-- The credit classes of sequenced frames (Table TLK-6). -/
inductive Cls where
  | ctl | bulk
  deriving DecidableEq, Repr

/-- The class of a type. -/
def clsOf (t : BitVec 4) : Cls := if t = 1 || t = 6 then .bulk else .ctl

/-- Cells of a frame (R574, R632). -/
def cellsOf (b : List Byte) : Nat := (b.length + 255) / 256

/-! ### Building and regenerating frames (R598) -/

/-- A frame with its check values. -/
def mkFrame (typ : BitVec 4) (wrap : Bool) (hseq dst src : Byte) (qtag : Half) (group : BitVec 4) (sseq : Half)
    (pay : List Byte) : List Byte :=
  let h := [typ ++ (if wrap then 8#4 else 0#4), hseq, dst, src] ++ toBe 2 qtag.toNat ++ [group ++ 0#4, 0] ++
    toBe 2 pay.length ++ toBe 2 sseq.toNat ++ [0, 0]
  let b := h ++ toBe 2 (crc16 h).toNat ++ pay
  b ++ toBe 4 (crc32 b).toNat

/-- A stored frame as it leaves: the outbound HSEQ, WRAP as given, check values afresh (R598). -/
def txBytes (b : List Byte) (hseq : Byte) (wrap : Bool) : List Byte :=
  let b0 := byteAt b 0
  let h := [if wrap then b0 ||| 8 else b0, hseq] ++ sliceBytes b 2 12
  let f := h ++ toBe 2 (crc16 h).toNat ++ payload b
  f ++ toBe 4 (crc32 f).toNat

/-- A stored frame with WRAP set (R583). -/
def withWrap (b : List Byte) : List Byte := (byteAt b 0 ||| 8) :: b.drop 1

/-- GROUP of frames the device originates (R604). -/
def ownGroup (s : State) : BitVec 4 := BitVec.ofNat 4 ((strapGroup s).getD 0)

/-- A link-control frame (R604); an unaddressed device sends SRC 0xFF (R607). -/
def linkFrame (s : State) (typ : BitVec 4) (pay : List Byte) : List Byte :=
  let src := match stallAddr s with | some a => BitVec.ofNat 8 a | none => 0xFF
  mkFrame typ false 0 0xFF src 0 0 0 pay

/-- A HELLO of a port (Table TFR-3). -/
def helloFrame (s : State) (p : Port) : List Byte :=
  let l := link s p
  let flags := bit l.fresh + 2 * bit s.boot.safe + 4 * bit s.tether.loop + 8 * bit (stallAddr s).isNone
  let ver := if s.boot.safe then 0 else ((s.reel.map Reel.version).getD 0).toNat
  let sh := if s.boot.safe then 0 else ((s.reel.map Reel.shash).getD 0).toNat
  linkFrame s 3 ([l.e, BitVec.ofNat 8 flags, s.boot.rcause, BitVec.ofNat 8 (portNum p)] ++ toBe 8 s.ident.toNat ++
    toBe 4 ver ++ toBe 2 sh ++ [BitVec.ofNat 8 ((strapGroup s).getD 0xFF)] ++ List.replicate 5 0)

/-- An ACK (R605). -/
def ackFrame (s : State) (e : Byte) (nak : Bool) : List Byte := linkFrame s 5 [e, if nak then 1 else 0, 0, 0]

/-- A CREDIT (R606). -/
def creditFrame (s : State) (c b : Credit) : List Byte :=
  linkFrame s 4 (toBe 2 c.freed.toNat ++ toBe 2 c.limit.toNat ++ toBe 2 b.freed.toNat ++ toBe 2 b.limit.toNat)

/-! ### Notice entries (Table TFR-7) -/

/-- An entry that names a frame. -/
def entryFrame (reason : Byte) (n : FrameName) (detail : List Byte) : List Byte :=
  [reason, BitVec.ofNat 8 detail.length, n.fsrc, n.fdst] ++ toBe 2 n.fsseq.toNat ++ toBe 2 n.fqtag.toNat ++ detail

/-- An entry that names no frame (R619). (DESIGN CHOICE, log entry 114) -/
def entryPlain (reason : Byte) (detail : List Byte) : List Byte :=
  [reason, BitVec.ofNat 8 detail.length, 0, 0, 0, 0, 0, 0] ++ detail

/-- The entry names a frame: by its reason (Table TFR-8, reasons 0x01 to 0x0B), or under 0x39 by its bytes 2 to 7. -/
def namesFrame (e : List Byte) : Bool :=
  let r := (byteAt e 0).toNat
  (1 ≤ r && r ≤ 0x0B) || (r = 0x39 && field e 2 6 ≠ 0)

/-- The detail of reasons 0x20 to 0x26: XFER, OFFSET, SUB. -/
def xferDetail (xfer : Half) (off sub : Nat) : List Byte := toBe 2 xfer.toNat ++ toBe 4 off ++ [BitVec.ofNat 8 sub, 0]

/-- The detail of reasons 0x30 to 0x32. -/
def setDetail (setno : Half) (sub : Nat) : List Byte := toBe 2 setno.toNat ++ [BitVec.ofNat 8 sub, 0]

end Sys2Proof.Machine
end

