-- ==== Sys2Proof/Machine/Queues.lean ====
section
/-! DEFINITION. Cells, queues, watermarks, admission, tallies and the gathering of notices (files 16, 17 and 21). -/

namespace Sys2Proof.Machine

/-! ### Credit of a class (R575) -/

/-- The credit counters of a class. -/
def creditOf (l : Link) (c : Cls) : Credit := match c with | .ctl => l.ctl | .bulk => l.bulk

/-- The credit counters of a class changed by f. -/
def modCredit (l : Link) (c : Cls) (f : Credit → Credit) : Link :=
  match c with
  | .ctl => { l with ctl := f l.ctl }
  | .bulk => { l with bulk := f l.bulk }

/-- The partner's credit lets a frame of n cells start (R575). -/
def maySend (l : Link) (c : Cls) (n : Nat) : Bool :=
  let k := creditOf l c
  n + (k.sent - k.pfreed).toNat ≤ k.plimit.toNat

/-- SENT of a frame's class advances by its cells. -/
def addSent (l : Link) (b : List Byte) : Link :=
  modCredit l (clsOf (fTyp b)) fun k => { k with sent := k.sent + BitVec.ofNat 16 (cellsOf b) }

/-- SENT of a frame's class goes back by its cells. -/
def subSent (l : Link) (b : List Byte) : Link :=
  modCredit l (clsOf (fTyp b)) fun k => { k with sent := k.sent - BitVec.ofNat 16 (cellsOf b) }

/-! ### Queues by tag (R635) -/

/-- The frames of a queue, oldest first. -/
def queueOf (s : State) (tag : Nat) : List QFrame := (assoc s.queues.qs tag).getD []

/-- A queue with other frames; an empty queue is not listed. -/
def setQueue (s : State) (tag : Nat) (l : List QFrame) : State :=
  { s with queues.qs := if l.isEmpty then assocDel s.queues.qs tag else assocPut s.queues.qs tag l }

/-- The hold queue of a port and class (Table QUE-2). -/
def holdTag (p : Port) (c : Cls) : Nat :=
  match p, c with
  | .u, .ctl => 0xFFF0
  | .u, .bulk => 0xFFF1
  | .d, .ctl => 0xFFF2
  | .d, .bulk => 0xFFF3

/-- The notice queue. -/
def noticeTag : Nat := 0xFFF4

/-- The outstanding queue of a port (Table QUE-2). -/
def outTag (p : Port) : Nat := match p with | .u => 0xFFF6 | .d => 0xFFF7

/-- Cells of a list of frames. -/
def cellSum (l : List QFrame) : Nat := l.foldl (fun a f => a + f.cells.length) 0

/-- Every stored copy. -/
def storedFrames (s : State) : List QFrame :=
  (s.queues.qs.map (·.2)).flatten ++ s.tether.u.out.map (·.2) ++ s.tether.d.out.map (·.2) ++ s.integ.orphans

/-- QUEUE of the loaded Reel, or its defaults. -/
def queueCfg (s : State) : QueueCfg := match s.reel with | some r => r.queue | none => parseQueue []

/-- LIMIT of a queue: the last override that names it, else the default of its class (R186, R188, R637). -/
def limitOf (s : State) (tag : Nat) : Nat :=
  let q := queueCfg s
  let d := if tag = noticeTag then q.notRes else if tag < 0xFFF0 then q.dropLim else q.holdLim
  match q.overrides.reverse.find? fun o => o.tag == tag with
  | some o => if o.limit = 0 then d else o.limit
  | none => d

/-- AGE of a queue in milliseconds; 0 never (R637, R649). -/
def ageOf (s : State) (tag : Nat) : Nat :=
  let q := queueCfg s
  let a := match q.overrides.reverse.find? fun o => o.tag == tag with
    | some o => o.age
    | none => if tag < 0xFFF0 then q.dropAge else q.holdAge
  if tag = noticeTag then 0 else if tag < 0xFFF0 then 1000 * a else a

/-! ### Access to stored frames (R22, R406) -/

/-- The memories that hold a frame's descriptor and its cells. -/
def frameDoms (f : QFrame) : List Nat := 8 :: [9, 10, 11, 12].filter fun d => f.cells.any fun c => c / 16384 + 9 == d

/-- The memories that hold a frame are on. -/
def canRead (s : State) (f : QFrame) : Bool := (frameDoms f).all (isOn s)

/-- An access to a frame: its memories return where the idle policy took them out of on (R406). -/
def askAccess (s : State) (f : QFrame) : State := (frameDoms f).foldl idleReturn s

/-! ### Cells (R631, R634, R639, R659) -/

/-- Quadrants whose domains are present and on. -/
def quadsOn (s : State) : List Nat := (List.range 4).filter fun q => present s (9 + q) && isOn s (9 + q)

/-- Usable cells. -/
def usableCells (s : State) : Nat := 16384 * (quadsOn s).length

/-- Up to n free cells among `fuel` cells from c on. -/
def scanCells (alloc : List Nat) (fuel c n : Nat) : List Nat :=
  match fuel with
  | 0 => []
  | fuel + 1 =>
    if n = 0 then []
    else if alloc.contains c then scanCells alloc fuel (c + 1) n
    else c :: scanCells alloc fuel (c + 1) (n - 1)

/-- Up to n free cells of the banks of a list, in order; a bank is 16 × quadrant + bank. -/
def scanBanks (alloc banks : List Nat) (n : Nat) : List Nat :=
  match banks with
  | [] => []
  | b :: t =>
    let l := scanCells alloc 1024 (1024 * b) n
    l ++ if l.length < n then scanBanks alloc t (n - l.length) else []

/-- The cell lies in a bank that the map in force keeps. -/
def cellKept (s : State) (c : Nat) : Bool := (keptBanks s (9 + c / 16384)).getLsbD (c / 1024 % 16)

/-- Up to n free cells, kept banks first, then the lowest-numbered (R659). -/
def pickCells (s : State) (n : Nat) : List Nat :=
  let banks := ((quadsOn s).map fun q => (List.range 16).map fun b => 16 * q + b).flatten
  let kept := banks.filter fun b => cellKept s (1024 * b)
  let l := scanBanks s.queues.alloc kept n
  if l.length = n then l
  else l ++ scanBanks s.queues.alloc (banks.filter fun b => !kept.contains b) (n - l.length)

/-- Cells marked allocated. -/
def allocCells (s : State) (cs : List Nat) : State := { s with queues.alloc := cs.foldl insNat s.queues.alloc }

/-- Cells released. -/
def freeCells (s : State) (cs : List Nat) : State :=
  { s with queues.alloc := s.queues.alloc.filter fun c => !cs.contains c }

/-- A frame of the device's own: NOTICE, RING or ECHO that it originated (Table QUE-4). -/
def ownControl (f : QFrame) : Bool := f.inPort.isNone && fTyp f.bytes != 1 && fTyp f.bytes != 3

/-- Bytes of the notice being gathered. -/
def gatherLen (s : State) : Nat := s.queues.gather.foldl (fun a e => a + e.length) 0

/-- Cells that the notice being gathered takes. -/
def gatherCells (s : State) : Nat := if s.queues.gather.isEmpty then 0 else (24 + gatherLen s + 255) / 256

/-- Cells of the notice reserve in use, overflow included. -/
def noticeUsed (s : State) : Nat := cellSum ((storedFrames s).filter ownControl) + gatherCells s

/-- Control reserve: 32 cells per present, cabled port (Table QUE-4). -/
def ctlReserve (s : State) : Nat := 32 * bit (cabled s .u) + 32 * bit (cabled s .d)

/-- Cells of control-class frames accepted at a port. -/
def ctlUsed (s : State) : Nat :=
  min (ctlReserve s) (cellSum ((storedFrames s).filter fun f => f.inPort.isSome && clsOf (fTyp f.bytes) == .ctl))

/-- Credit that the partner still has in a class: LIMIT last sent less the cells accepted beyond the FREED last sent
(R575, R640, log entry 21). -/
def creditLeft (c : Credit) : Nat := c.limit.toNat - ((BitVec.ofNat 16 c.taken : Half) - c.freedSent).toNat

/-- The bulk window W_p of an up port (R640). -/
def bulkWindow (s : State) (p : Port) : Nat := if portUp s p then creditLeft (link s p).bulk else 0

/-- Free cells of the general pool that no port's window has earmarked (R639, R640). -/
def generalFree (s : State) : Nat :=
  let notRes := (queueCfg s).notRes
  let used := s.queues.alloc.length + gatherCells s - min (noticeUsed s) notRes - ctlUsed s
  usableCells s - notRes - ctlReserve s - used - bulkWindow s .u - bulkWindow s .d

/-- n cells of the notice reserve, or of the general pool once it is full, are free (Table QUE-6). -/
def noticeRoom (s : State) (n : Nat) : Bool :=
  (pickCells s (n + gatherCells s)).length == n + gatherCells s &&
    (noticeUsed s + n ≤ (queueCfg s).notRes || n ≤ generalFree s)

/-- Bridle is asked for a further frame memory when fewer than 64 general cells are free (R641). -/
def askMemory (s : State) : State :=
  if !isRunning s || inOutage s || 64 ≤ generalFree s then s
  else
    match (List.range 4).find? fun q => present s (9 + q) && !isOn s (9 + q) with
    | some q => demand s (9 + q)
    | none => s

/-! ### Per-source watermarks (R657) -/

/-- The watermarks of a source. -/
def markOf (s : State) (src : Nat) : SrcMark := (s.queues.marks.find? fun m => m.src == src).getD ⟨src, 0, 0, 0⟩

/-- A list of watermarks in rising order with one put in. -/
def putMark (l : List SrcMark) (m : SrcMark) : List SrcMark :=
  match l with
  | [] => [m]
  | x :: t => if m.src < x.src then m :: x :: t else if m.src = x.src then m :: t else x :: putMark t m

/-- A counted frame: a sequenced frame accepted at a port, or a host frame; RING is not counted. -/
def counted (f : QFrame) : Bool := (f.inPort.isSome && fTyp f.bytes != 9) || (f.inPort.isNone && fTyp f.bytes == 1)

/-- A frame from a source is accepted. -/
def markAccept (s : State) (src : Nat) (sseq : Half) : State :=
  if src = 255 then s
  else
    let m := markOf s src
    let d := ahead16 m.ahw sseq
    let m1 : SrcMark := { m with
      held := m.held + 1
      dlw := if m.held = 0 then sseq else m.dlw
      ahw := if 1 ≤ d && d ≤ 32767 then sseq else m.ahw }
    { s with queues.marks := putMark s.queues.marks m1 }

/-- A frame from a source no longer holds cells. -/
def markRelease (s : State) (src : Nat) : State :=
  let m := markOf s src
  let m1 : SrcMark := { m with held := m.held - 1, dlw := if m.held = 1 then m.ahw + 1 else m.dlw }
  if src = 255 || m.held = 0 then s else { s with queues.marks := putMark s.queues.marks m1 }

/-! ### Credit and release (R575, R656) -/

/-- FREED of a port's class advances by n cells, for a frame accepted at the present link-up. -/
def creditFreed (s : State) (f : QFrame) (n : Nat) : State :=
  match f.inPort with
  | none => s
  | some p =>
    if f.id < (link s p).sinceId then s
    else modLink s p fun l =>
      match clsOf (fTyp f.bytes) with
      | .ctl => { l with ctl := { l.ctl with freed := l.ctl.freed + BitVec.ofNat 16 n } }
      | .bulk => { l with bulk := { l.bulk with freed := l.bulk.freed + BitVec.ofNat 16 n } }

/-- What follows when a copy of a frame has been removed: its cells, and with the last copy FREED and HELD (R656). -/
def afterRemoval (s : State) (f : QFrame) : State :=
  let s1 := freeCells s f.cells
  if (storedFrames s1).any fun g => g.id == f.id then s1
  else
    let s2 := creditFreed s1 f (cellsOf f.bytes)
    if counted f then markRelease s2 (fSrc f.bytes).toNat else s2

/-- A copy leaves its queue and is released. -/
def releaseCopy (s : State) (tag : Nat) (f : QFrame) : State :=
  afterRemoval (setQueue s tag ((queueOf s tag).erase f)) f

/-! ### Gathering notices (R618, R621, R653, R755) -/

/-- A frame in a queue. -/
def pushQueue (s : State) (tag : Nat) (f : QFrame) : State := setQueue s tag (queueOf s tag ++ [f])

/-- A notice can enter its queue: PD08 and PD15 are on, and cells are free in the frame memories that are on. -/
def canClose (s : State) (n : Nat) : Bool := isOn s 8 && isOn s 15 && (pickCells s n).length == n

/-- The notice being gathered closes and joins the notice queue; until the memories allow it, it waits, and those that the
idle policy took out of on return (R22, R406). (DEDUCED, log entries 113 and 162) -/
def closeNotice (s : State) : State :=
  if s.queues.gather.isEmpty then s
  else
    let es := s.queues.gather
    let b := mkFrame 2 false 0 0 (ownAddr s) 0 (ownGroup s) s.tether.sseq
      (toBe 2 s.tether.nseq.toNat ++ [BitVec.ofNat 8 es.length, 0] ++ es.flatten)
    if !canClose s (cellsOf b) then [8, 9, 10, 11, 12].foldl idleReturn s
    else
      let cs := pickCells s (cellsOf b)
      let f : QFrame := ⟨s.queues.nextId, b, cs, msNow s, false, none, 0⟩
      pushQueue
        { allocCells s cs with
          queues.gather := []
          queues.nextId := s.queues.nextId + 1
          tether.sseq := s.tether.sseq + 1
          tether.nseq := s.tether.nseq + 1 } noticeTag f

/-- These entries would not fit in the notice being gathered. -/
def noticeFull (s : State) (es : List (List Byte)) : Bool :=
  let n := es.foldl (fun a e => a + e.length) 0
  127 < s.queues.gather.length + es.length || 2048 < 4 + gatherLen s + n

/-- The notice being gathered closes when these entries would not fit in it. -/
def makeRoom (s : State) (es : List (List Byte)) : State := if noticeFull s es then closeNotice s else s

/-- W2E of an entry that names a frame (R704). -/
def entryW2E (s : State) (e : List Byte) : State :=
  if namesFrame e then recordW2E s 1 (byteAt e 0) (BitVec.ofNat 16 (field e 4 2)) else s

/-- The data path stands still: PD08 or PD15 is faulty (R755). -/
def pathFaulty (s : State) : Bool := (dom s 8).faulty || (dom s 15).faulty

/-- One entry joins the notice being gathered, or is kept, or is counted lost (R653, R755, Table QUE-6). In safe mode only
reasons 0x20 to 0x26 are sent, once a port is up (R629). -/
def addEntry (s : State) (e : List Byte) : State :=
  let s := entryW2E s e
  if variant s = 2 then s
  else if s.boot.safe && !(0x20 ≤ (byteAt e 0).toNat && (byteAt e 0).toNat ≤ 0x26) then s
  else if s.boot.safe && !(portUp s .u || portUp s .d) then { s with queues.deferred := s.queues.deferred ++ [e] }
  else if pathFaulty s then
    if !namesFrame e && field e 2 6 = 0 && s.queues.kept.length < 16 then { s with queues.kept := s.queues.kept ++ [e] }
    else { s with queues.lostEntries := s.queues.lostEntries + 1 }
  else
    let s1 := makeRoom s [e]
    let more := (24 + gatherLen s1 + e.length + 255) / 256 - gatherCells s1
    if noticeRoom s1 more && !noticeFull s1 [e] then
      let s2 := { s1 with queues.gather := s1.queues.gather ++ [e] }
      if s2.queues.gather.length = 127 then closeNotice s2 else s2
    else askMemory { s1 with queues.lostEntries := s1.queues.lostEntries + 1 }

/-- Entries that belong together share one NOTICE where its length allows (R621). -/
def addEntries (s : State) (es : List (List Byte)) : State :=
  es.foldl addEntry (if variant s = 2 || s.boot.safe || pathFaulty s then s else makeRoom s es)

/-- A notice that waits until a port is up (R214, R333). -/
def deferEntry (s : State) (e : List Byte) : State :=
  if variant s = 2 then entryW2E s e
  else if portUp s .u || portUp s .d then addEntry s e
  else { s with queues.deferred := s.queues.deferred ++ [e] }

/-! ### Frames the device originates (R577, R581, R583) -/

/-- The head-end direction H. -/
def dirH (s : State) : Port := if s.tether.hIsD then .d else .u

/-- The port an originated frame leaves by, and whether with WRAP set (R583). -/
def originPort (s : State) : Port × Bool :=
  let h := dirH s
  if !portUp s h && s.tether.loop && portUp s (otherPort h) then (otherPort h, true) else (h, false)

/-- A frame of the device's own goes to the control hold queue of a port when a cell of the notice reserve is free
(Table QUE-6). -/
def originate (s : State) (typ : BitVec 4) (dst : Byte) (pay : List Byte) (p : Port) (wrap : Bool) : State :=
  let b := mkFrame typ wrap 0 dst (ownAddr s) 0 (ownGroup s) s.tether.sseq pay
  let n := cellsOf b
  let cs := pickCells s n
  if cs.length = n && noticeUsed s + n ≤ (queueCfg s).notRes then
    let f : QFrame := ⟨s.queues.nextId, b, cs, msNow s, false, none, 0⟩
    pushQueue
      { allocCells s cs with queues.nextId := s.queues.nextId + 1, tether.sseq := s.tether.sseq + 1 } (holdTag p .ctl) f
  else s

/-! ### Tallies (R652) -/

/-- Index of the TALLY entry that names a tag, the one nearer the section's end (R188); device tags have none (R637), and
neither has a part that keeps no queues (R41, R363). -/
def tallyIdx (s : State) (tag : Nat) : Option Nat :=
  match s.reel with
  | none => none
  | some r =>
    if 0xFFF0 ≤ tag || variant s = 2 then none
    else ((List.range r.tally.length).filter fun k => (r.tally.map (·.tag)).getD k 0x10000 == tag).getLast?

/-- FR and BY of a tag's entry grow; a crossing sets both to 0 and hands over a tally result (R347, R348). -/
def tallyAdd (s : State) (tag frames bytes : Nat) : State :=
  match tallyIdx s tag, s.reel with
  | some k, some r =>
    match r.tally[k]? with
    | none => s
    | some c =>
      let t := s.queues.tally.getD k ⟨0, 0⟩
      let fr := satur 0xFFFF (t.fr + frames)
      let by_ := satur 0xFFFFFFFF (t.bytes + bytes)
      let crossed := (c.ft ≠ 0 && c.ft ≤ fr) || (c.bt ≠ 0 && 256 * c.bt ≤ by_)
      let s1 := { s with queues.tally := s.queues.tally.set k (if crossed then ⟨0, 0⟩ else ⟨fr, by_⟩) }
      if crossed && c.mask ≠ 0 then
        pushResult s1 (.tally c.mask (if 1 ≤ c.cause.toNat && c.cause.toNat ≤ 0x7F then c.cause else 0x86))
      else s1
  | _, _ => s

/-! ### Descriptors and cell tags (R633, R636, R637) -/

/-- The frames of a queue, the outstanding ones of a port under its tag (Table QUE-2). -/
def framesAt (s : State) (tag : Nat) : List QFrame :=
  if tag = 0xFFF6 then s.tether.u.out.map (·.2) else if tag = 0xFFF7 then s.tether.d.out.map (·.2) else queueOf s tag

/-- CLASS of a tag (Table QUE-3): 1 drop, 2 hold, 3 notice or outstanding. -/
def classOf (tag : Nat) : Nat := if tag < 0xFFF0 then 1 else if tag < 0xFFF4 then 2 else 3

/-- The 16 bytes of a queue's descriptor as Table QUE-3 lays them out; of an empty queue HEAD and TAIL are 0. -/
def descriptorBytes (s : State) (tag : Nat) : List Byte :=
  let l := framesAt s tag
  let cells := l.flatMap (·.cells)
  let age := if tag < 0xFFF0 then ageOf s tag / 1000 else ageOf s tag
  toBe 2 (cells.headD 0) ++ toBe 2 (cells.getLastD 0) ++ toBe 2 l.length ++ toBe 2 cells.length ++
    [BitVec.ofNat 8 (classOf tag + 4 * bit (match l with | f :: _ => f.busy | [] => false)), 0] ++ toBe 2 (limitOf s tag) ++
    toBe 2 age ++ [BitVec.ofNat 8 (bit (tallyIdx s tag).isSome), BitVec.ofNat 8 ((tallyIdx s tag).getD 0)]

/-- Where a tag's descriptor lies in PD08: bank and byte offset (R636). -/
def descriptorPlace (tag : Nat) : Nat × Nat := (tag / 16384, 16 * (tag % 16384))

/-- Where a cell lies: domain, bank and byte offset (R631). -/
def cellPlace (c : Nat) : Nat × Nat × Nat := (9 + c / 16384, c / 1024 % 16, 256 * (c % 1024))

/-- The chain of a queue: each cell with FIRST, LAST, USED and STAMP (Table QUE-1). -/
def chainOf (l : List QFrame) : List (Nat × Bool × Bool × Nat × Nat) :=
  l.flatMap fun f => (List.range f.cells.length).map fun k =>
    let last := k + 1 == f.cells.length
    (f.cells.getD k 0, k == 0, last, if last then f.bytes.length - 256 * k else 256, if k = 0 then f.stamp else 0)

/-- The tag of the k-th cell of a queue's chain (Table QUE-1); NEXT of the last cell is 0. -/
def cellTag (s : State) (tag k : Nat) : BitVec 64 :=
  let chain := chainOf (framesAt s tag)
  match chain[k]? with
  | none => 0
  | some (_, first, last, used, stamp) =>
    let next := ((chain[k + 1]?).map (·.1)).getD 0
    BitVec.ofNat 64 (next * 2 ^ 48 + bit first * 2 ^ 47 + bit last * 2 ^ 46 + used * 2 ^ 37 + stamp % 2 ^ 32)

/-! ### Admission (Tables QUE-5 and QUE-6) -/

/-- A frame that has been accepted, with the cells it keeps for its first copy. -/
structure Accepted where
  bytes : List Byte
  cells : List Nat
  inPort : Option Port
  id : Nat
  deriving DecidableEq, Repr

/-- A copy of a frame, with its place. -/
inductive CopyTo where
  | drop (tag : Nat)
  | hold (p : Port) (wrap : Bool)
  | cut (p : Port)
  deriving DecidableEq, Repr

/-- The queue has room for n more cells (Table QUE-6). -/
def queueRoom (s : State) (tag n : Nat) : Bool := cellSum (queueOf s tag) + n ≤ limitOf s tag

/-- The copy's queue admits it, its cells apart. -/
def copyRoom (s : State) (n : Nat) (c : CopyTo) (cls : Cls) : Bool :=
  match c with
  | .drop tag => tri s 4 != .opn && queueRoom s tag n
  | .hold p _ => queueRoom s (holdTag p cls) n
  | .cut _ => true

/-- The local tag of a frame: its own or the override; a device tag goes to 0x0000 (R643). -/
def localTag (b : List Byte) (q : Option Half) : Nat :=
  let t := (q.getD (fQtag b)).toNat
  if 0xFFF0 ≤ t then 0 else t

/-- One stored copy. -/
def copyFrame (s : State) (a : Accepted) (cs : List Nat) (tag : Half) (wrap : Bool) : QFrame :=
  ⟨a.id, if wrap then withWrap a.bytes else a.bytes, cs, msNow s, false, a.inPort, tag⟩

/-- A copy is placed in its queue; a drop queue with a TALLY entry counts it (R652). -/
def placeCopy (s : State) (a : Accepted) (cs : List Nat) (c : CopyTo) (tag : Half) : State :=
  match c with
  | .drop t => tallyAdd (pushQueue s t (copyFrame s a cs tag false)) t 1 (16 + fLen a.bytes)
  | .hold p w => pushQueue s (holdTag p (clsOf (fTyp a.bytes))) (copyFrame s a cs tag w)
  | .cut p =>
    modLink s p fun l =>
      { addSent l a.bytes with
        out := l.out ++ [(l.next, copyFrame s a cs tag false)]
        next := l.next + 1
        txEnd := .eof
        tx := txBytes a.bytes l.next (fWrap a.bytes) }

/-- An entry about a frame, unless it is a RING or link-control frame (R622); FDST and FQTAG are 0 under reasons 0x07
and 0x08 (Table TFR-8). -/
def reportFrame (s : State) (b : List Byte) (tag : Half) (reason : Byte) : State :=
  if fTyp b = 9 || linkControl (fTyp b) then s
  else
    let n := nameOf b tag
    addEntry s (entryFrame reason (if reason = 0x07 || reason = 0x08 then { n with fdst := 0, fqtag := 0 } else n) [])

/-- The copies of an accepted frame are admitted one by one: the first admitted keeps the frame's cells, a further one
takes new cells of the general pool; a copy that is not admitted is reported with reason 0x01 (R644). -/
def admitCopies (s : State) (a : Accepted) (cs : List CopyTo) (tag : Half) : State :=
  let n := cellsOf a.bytes
  let r := cs.foldl (fun (acc : State × Bool) c =>
    let (t, used) := acc
    let room := copyRoom t n c (clsOf (fTyp a.bytes))
    if !used && room then (placeCopy t a a.cells c tag, true)
    else
      let extra := pickCells t n
      if used && room && n ≤ generalFree t && extra.length = n then (placeCopy (allocCells t extra) a extra c tag, true)
      else (reportFrame t a.bytes tag 0x01, used)) (s, false)
  if r.2 then r.1
  else
    let s1 := freeCells r.1 a.cells
    let f := copyFrame s a a.cells tag false
    let s2 := creditFreed s1 f n
    if counted f then markRelease s2 (fSrc a.bytes).toNat else s2

/-- An accepted frame that makes no copy is consumed: its cells are released at once (R656). -/
def consume (s : State) (a : Accepted) : State :=
  let f := copyFrame s a a.cells 0 false
  let s2 := creditFreed (freeCells s a.cells) f (if typReserved a.bytes then 0 else cellsOf a.bytes)
  if counted f then markRelease s2 (fSrc a.bytes).toNat else s2

/-- A stored frame is reported failed and released, wherever it stands (R638, R656). -/
def failFrame (s : State) (tag : Nat) (f : QFrame) (reason : Byte) : State :=
  releaseCopy (reportFrame s f.bytes f.tag reason) tag f

end Sys2Proof.Machine
end

