-- ==== Sys2Proof/Machine/Records.lean ====
section
/-! DEFINITION. The regulator's shared facts, the capture and commit of fault records and their alarms (file 13), and
the way of a word or monitor event to the slow-stream engine (files 06, 07 and 14). -/

namespace Sys2Proof.Machine

/-! ### Facts about the channels -/

/-- Available main phases in ascending order: the ring (R479). -/
def ring (s : State) : List (Fin 6) :=
  ([0, 1, 2, 3, 4, 5] : List (Fin 6)).filter fun k => k.val < phases s.reg.straps && !s.reg.failed[k]

/-- A channel that switches: in a ramp, regulating, slewing or stopping. -/
def switching (c : ChanSt) : Bool :=
  match c.phase with
  | .ramp | .regulating | .slewing | .stopping => true
  | .off | .waiting _ | .latched | .notSwitching => false

/-- Derating level of a channel (R507). -/
def derateOf (s : State) (c : Chan) : Nat :=
  match c with
  | .main => max s.reg.der5.level s.reg.der6.level
  | .aux => s.reg.der5.level

/-- Clock state, codes of INFO SYNC (Table RGP-2). -/
def syncState (s : State) : BitVec 2 :=
  match s.reg.clock with
  | .internal => if spreadPct (clockStraps s) = 0 then 0 else 1
  | .locked => 2
  | .acquiring | .gliding => 3

/-- V_aset in microvolts: the reference of the auxiliary channel's setpoint (R434); with no Reel in the shadow, that of the
setpoint it was left on. -/
def vAset (s : State) : Nat :=
  match s.reel with
  | some _ => spMicro (setpointOf s .aux s.reg.aux.idx)
  | none => s.reg.aux.target

/-- The tracking target V_trk in microvolts, of V(TRK) up to 1.650 V (Table RGS-1, R436). -/
def trackTarget (s : State) : Nat :=
  let v := vAset s
  match tracking s.reg.strapsA with
  | .independent => v
  | .ratiometric => min v (v * s.reg.trk / 1200000)
  | .coincident => min v s.reg.trk

/-- TRK bounds the auxiliary reference (Table RGS-1). -/
def tracks (s : State) : Bool := tracking s.reg.strapsA != .independent

/-- The LSB of a range in microvolts (R416). -/
def lsbOf (high : Bool) : Nat := if high then 2500 else 1250

/-- A value moves toward another by at most one step. -/
def toward (r t step : Nat) : Nat := if r ≤ t then min t (r + step) else max t (r - step)

/-- Where a slew to the other range changes range (the procedure of R423). -/
def crossPoint (r t : Nat) : Nat :=
  if r < 800000 then 800000
  else if 1600000 < r then 1600000
  else 800000 + 2500 * (if r < t then (r - 800000 + 2499) / 2500 else (r - 800000) / 2500)

/-- One step of the reference of a slew or of a stop sequence: at most one LSB of the range in use toward the crossing point,
the change of range there, then toward the target (R421, R423, R424). -/
def refStep (x : ChanSt) : ChanSt :=
  if x.high = x.targetHigh then { x with own := toward x.own x.target (lsbOf x.high) }
  else if x.own = x.cross then { x with high := x.targetHigh }
  else { x with own := toward x.own x.cross (lsbOf x.high) }

/-- A number of steps. -/
def refSteps : Nat → ChanSt → ChanSt
  | 0, x => x
  | n + 1, x => refSteps n (refStep x)

/-- A ramp after a number of LSB of its setpoint's range: it reaches the setpoint at its end and not before (R427, R428). -/
def rampSteps (n : Nat) (x : ChanSt) : ChanSt :=
  { x with own := max x.own (min (x.own + n * lsbOf x.targetHigh) (x.target - lsbOf x.targetHigh)) }

/-- The reference in force: the value of the ramp and slew rules, for a tracking auxiliary channel at most V_trk (R435). -/
def settleRef (s : State) (c : Chan) : State :=
  modChan s c fun x =>
    { x with ref := match c with | .main => x.own | .aux => if tracks s then min x.own s.reg.vtrk else x.own }

/-- A ramp, a slew or a stop sequence is some steps further on than when it was last looked at; how many is open, because no
command stands for a step (log entry 22). -/
def moveRef (s : State) (c : Chan) : State :=
  match (chan s c).phase with
  | .slewing | .stopping =>
    let (f, s1) := takeFree s
    settleRef (modChan s1 c (refSteps (f.toNat % 4096))) c
  | .ramp =>
    let (f, s1) := takeFree s
    settleRef (modChan s1 c (rampSteps (f.toNat % 4096))) c
  | _ => s

/-- The reference in force now, with the state in which it stands. -/
def presentRef (s : State) (c : Chan) : Nat × State :=
  let s1 := moveRef s c
  ((chan s1 c).ref, s1)

/-! ### Alarms of records (R512) -/

/-- Alarm causes whose record was read and whose condition has ended are dropped. -/
def pruneAlarms (s : State) : State :=
  { s with prot.recAlarms := s.prot.recAlarms.filter fun a => !(a.read && a.ended) }

/-- The conditions of some codes of a channel end, for alarms and for records that wait for commit (Table RGP-1). -/
def endAlarms (s : State) (codes : List (BitVec 5)) (aux : Bool) : State :=
  let l := s.prot.recAlarms.map fun a => { a with ended := a.ended || (codes.contains a.code && a.aux == aux) }
  let w := s.prot.latch.map fun a => { a with ended := a.ended || (codes.contains a.code && a.aux == aux) }
  pruneAlarms { s with prot.recAlarms := l, prot.latch := w }

/-- The condition of these codes has ended as soon as the record is read. -/
def endsAtRead (code : BitVec 5) : Bool := [0x09, 0x0A, 0x0C, 0x0D, 0x0E].contains code.toNat

/-- A record asserts its alarm. -/
def recordAlarm (s : State) (code : BitVec 5) (aux toFault ended : Bool) : State :=
  { s with prot.recAlarms := s.prot.recAlarms ++ [⟨code, aux, toFault, false, ended⟩] }

/-! ### Capture (R513 to R515) -/

/-- DOMS (Table RGP-2). -/
def domsByte (s : State) : Byte :=
  let g (l : List Nat) : Nat := bit (l.any (isOn s))
  BitVec.ofNat 8 (g [0, 1, 2] + 2 * g [3, 4, 5, 6] + 4 * g [7] + 8 * g [8, 9, 10, 11, 12] + 16 * g [13, 14] + 32 * g [15] +
    64 * g [16] + 128 * g [19])

/-- A record is captured; a capture that finds the latch full is lost, with its alarm at once (R514). -/
def capture (s : State) (code : BitVec 5) (phase : Nat) (c : Chan) (toFault : Bool) (snap : Snap)
    (companion : List Byte) : State :=
  let aux := c == .aux
  if 4 ≤ s.prot.latch.length then
    let s1 := recordAlarm { s with prot.lostCaptures := satur 3 (s.prot.lostCaptures + 1) } code aux toFault (endsAtRead code)
    if companion.isEmpty then s1 else addEntry s1 companion
  else
    let (r, s1) := presentRef s c
    let ch := chan s c
    let rec_ : FaultRec :=
      { code := code
        phase := BitVec.ofNat 3 phase
        aux := aux
        hours := s.hours
        info := BitVec.ofNat 8 (s.reg.active.length + 8 * bit aux + 16 * bit s.reg.main.vloc) |||
          (syncState s ++ 0#6)
        derate := BitVec.ofNat 6 (derateOf s .main + 8 * derateOf s .aux)
        drop := s.prot.lostCaptures
        i := vgen 6 fun k => if s.reg.active.any (fun a => a.val == k) then vget s.reg.sense 0 k else 0
        iAux := s.reg.sense[6]
        snap := snap
        ref := BitVec.ofNat 16 (ch.sel.val * 8192 + r / 500 % 8192)
        doms := domsByte s
        wcause := s.act.lastCause
        toFault := toFault
        companion := companion
        ended := endsAtRead code }
    { s1 with prot.latch := s1.prot.latch ++ [rec_], prot.lostCaptures := 0 }

/-- The 32 bytes of a record (Table RGP-2). -/
def recordBytes (r : FaultRec) (seq : Half) : List Byte :=
  let i1 := if r.aux then r.iAux else r.i[0]
  let b := toBe 2 seq.toNat ++ toBe 3 r.hours ++ [r.phase ++ r.code, r.info, BitVec.ofNat 2 r.drop ++ r.derate] ++
    toBe 2 i1.toNat ++ (r.i.toList.drop 1).flatMap (fun v => toBe 2 v.toNat) ++ toBe 2 r.snap.vin.toNat ++
    toBe 2 r.snap.vout.toNat ++ toBe 2 r.ref.toNat ++ [r.snap.tdie, r.snap.text, r.doms, r.wcause]
  b ++ toBe 2 (crc16 b).toNat

/-- The SEQ after another: 65,535 is followed by 1 (Table RGP-2). -/
def seqAfter (q : Half) : Half := if q = 0xFFFF then 1 else q + 1

/-- The ring entry of a SEQ (R518). -/
def ringEntry (q : Half) : Nat := (q.toNat + 7) % 8

/-! ### Words and events for the slow-stream engine (R24, R258, R298, R302) -/

/-- The item waits for its stream; a newer event of a monitor replaces a waiting one (R545). -/
def addSlow (s : State) (i : SlowItem) : State :=
  let q := match i with
    | .event m _ => s.engs.slowQ.filter fun x => match x with | .event n _ => n != m | .word _ _ => true
    | .word _ _ => s.engs.slowQ
  { s with engs.slowQ := q ++ [i] }

/-- An item goes to the slow-stream engine, whose domain and PD07 return to on (R24); without an engine, with PD07
faulty, or with no stream matched, the action sequencer takes the engine-lost result (R298, R302). From step 6 of the
outage sequence to U6 it is kept, the latest eight (R729). -/
def presentSlow (s : State) (i : SlowItem) : State :=
  if s.boot.safe || s.boot.step ≠ .running then s
  else if 6 ≤ s.outage.step && s.outage.undo.isNone then
    let l := s.outage.kept ++ [i]
    { s with outage.kept := l.drop (l.length - 8) }
  else
    match s.engs.assign.slow with
    | none => pushResult s .engineLost
    | some e =>
      if (dom s 7).faulty || !matching s then pushResult s .engineLost
      else demand (demand (addSlow s i) (3 + e.val)) 7

end Sys2Proof.Machine
end

