-- ==== Sys2Proof/Machine/RegOps.lean ====
section
/-! DEFINITION. Shared operations of the regulator: selection of a setpoint, starting and stopping a channel, the ring
of phases, derating, and the live outputs of the monitors (files 11 to 14). -/

namespace Sys2Proof.Machine

/-! ### Monitors: what is enabled and what is live -/

/-- The domain of a monitor (Table WIN-1). -/
def monDom (k : Nat) : Nat := if k < 7 then 17 else if k = 7 then 18 else 19

/-- The channel whose state latches keep a monitor acting under warm hold (Table RGP-3, R152). -/
def monWarm (s : State) (k : Nat) : Bool :=
  ((k = 0 || k = 2 || k = 3) && s.reg.main.warm) || (k = 7 && s.reg.aux.warm)

/-- The monitor is present and enabled (R181, R552, R554). -/
def monEnabled (s : State) (k : Nat) : Bool :=
  hasMon s k && present s (monDom k) && (match monCfg s k with | some m => m.en | none => false) &&
    ((isReady s && !s.boot.safe) || monWarm s k)

/-- The monitor uses this side (Table WIN-1, R528); WM03 ignores TLO and THI (R501). -/
def sideUsed (s : State) (k : Nat) (side : Side) : Bool :=
  match monCfg s k with
  | none => false
  | some m =>
    if k = 3 then true
    else match side with
      | .upper => k ≠ 1 && m.thi ≠ 1023
      | .lower => (k = 1 || k = 4 || 8 ≤ k) && m.tlo ≠ 0

/-- A monitor. -/
def mon (s : State) (k : Nat) : MonSt := vget s.mons.mon MonSt.zero k

/-- A monitor changed by f. -/
def modMon (s : State) (k : Nat) (f : MonSt → MonSt) : State := { s with mons.mon := vmod s.mons.mon k f }

/-- The live output (R526, R533, R548, R552). -/
def live (s : State) (k : Nat) : Bool :=
  let m := mon s k
  monEnabled s k && (isOn s (monDom k) || monWarm s k) && m.settled && (m.above || m.below)

/-- The channel whose reference a monitor follows (R530). -/
def monChan (k : Nat) : Option Chan := if k < 3 then some .main else if k = 7 then some .aux else none

/-- V_FS of a monitor in microvolts (Table WIN-1, R527). -/
def fullScale (s : State) (k : Nat) (m : MonReading) : Nat :=
  if k < 3 then 2 * s.reg.main.ref
  else if k = 7 then 2 * s.reg.aux.ref
  else if 8 ≤ k && (match monCfg s k with | some q => q.refsel | none => false) then m.vref
  else 1200000

/-- V_THI or V_TLO of a monitor, in microvolts times 1,024 (R527); WM03's window is fixed at 40 mV (R501). -/
def threshold (s : State) (k : Nat) (side : Side) (m : MonReading) : Int :=
  match monCfg s k with
  | none => 0
  | some q =>
    if k = 3 then (match side with | .upper => 40000 * 1024 | .lower => -40000 * 1024)
    else fullScale s k m * (match side with | .upper => q.thi | .lower => q.tlo)

/-- The threshold lies in the linear range of the input: 4.0 V at VSP, VLOC and FB_A, VANA less 0.1 V at TS_EXT and the AIN
balls; one above it never asserts (R535, R806). -/
def inRange (s : State) (k : Nat) (side : Side) (m : MonReading) : Bool :=
  if k < 3 || k = 7 then threshold s k side m ≤ 4000000 * 1024
  else if k = 6 || 8 ≤ k then threshold s k side m ≤ ((m.vana : Int) - 100000) * 1024
  else true

/-- The hysteresis H of a monitor in microvolts (Table REL-10, R180, R532). -/
def hystUv (s : State) (k : Nat) : Nat :=
  if k = 5 || k = 6 then 12000
  else match monCfg s k with
    | some q => [0, 4000, 12000, 30000].getD q.hyst.toNat 0
    | none => 0

/-- A monitor whose thresholds follow a reference has one to follow: from its domain reaching on to the start of its channel
none is in force, and it does not assert. (DEDUCED, log entry 166) -/
def follows (s : State) (k : Nat) : Bool := match monChan k with | some c => (chan s c).ref != 0 | none => true

/-- A comparator of the side asserts at this reading (R526 to R528, R806). -/
def crosses (s : State) (k : Nat) (side : Side) (m : MonReading) : Bool :=
  sideUsed s k side && inRange s k side m && follows s k &&
    match side with
    | .upper => threshold s k side m < m.input * 1024
    | .lower => m.input * 1024 < threshold s k side m

/-- An asserted comparator of the side deasserts at this reading: the input is back by the hysteresis (R532). -/
def recrosses (s : State) (k : Nat) (side : Side) (m : MonReading) : Bool :=
  let h : Int := 1024 * hystUv s k
  match side with
  | .upper => m.input * 1024 < threshold s k side m - h
  | .lower => threshold s k side m + h < m.input * 1024

/-- The reference that a monitor follows is looked at. -/
def moveRefFor (s : State) (k : Nat) : State := match monChan k with | some c => moveRef s c | none => s

/-- The output lies in the rail window of a channel (R431): WM01's lower to WM02's upper threshold, or 90 % of the auxiliary
reference to WM07's upper threshold, whether those monitors are enabled or not. (DEDUCED, log entry 165) -/
def inWindow (s : State) (c : Chan) (feedback : Nat) : Bool :=
  let m : MonReading := ⟨feedback, 0, 0⟩
  let v : Int := 1024 * feedback
  match c with
  | .main => threshold s 1 .lower m ≤ v && v ≤ threshold s 2 .upper m
  | .aux => 9 * s.reg.aux.ref ≤ 10 * feedback && v ≤ threshold s 7 .upper m

/-- ROUTE of a monitor. -/
def routeOf (s : State) (k : Nat) : BitVec 5 := match monCfg s k with | some m => m.route | none => 0

/-- A trip holds back the pulses of a channel: WM00 or WM07, or a general monitor routed to it (R483, R544). -/
def tripped (s : State) (c : Chan) : Bool :=
  live s (match c with | .main => 0 | .aux => 7) ||
    (List.range 16).any fun j => live s (8 + j) && (routeOf s (8 + j)).getLsbD (match c with | .main => 0 | .aux => 1)

/-! ### PWM balls -/

/-- Every PWM ball of a channel takes a state. -/
def setPwm (s : State) (c : Chan) (v : Pwm) : State :=
  match c with
  | .main => { s with reg.pwm := Vector.replicate 6 v }
  | .aux => { s with reg.pwmA := v }

/-- Main phases outside a mask keep their balls; those in it take what f gives. -/
def mapPwm (s : State) (f : Nat → Pwm → Pwm) : State := { s with reg.pwm := vgen 6 fun k => f k (vget s.reg.pwm .mid k) }

/-- The phase is in the active set. -/
def isActive (s : State) (k : Nat) : Bool := s.reg.active.any fun a => a.val == k

/-- No pulse of a channel is in progress any more. -/
def endPulses (s : State) (c : Chan) : State :=
  match c with
  | .main => { s with reg.pulse.left := vgen 7 fun k => if k < 6 then 0 else vget s.reg.pulse.left 0 k }
  | .aux => { s with reg.pulse.left := vset s.reg.pulse.left 6 0 }

/-- A trip ends every pulse in progress Low, and the phases follow diode emulation (R483, R544). -/
def tripPulses (s : State) (c : Chan) : State :=
  let fall (p : Pwm) : Pwm := match p with | .high => .low | x => x
  let s1 := endPulses s c
  match c with
  | .main =>
    { mapPwm s1 (fun _ p => fall p) with
      reg.pulse.emul := vgen 7 fun k => vget s.reg.pulse.emul false k || (k < 6 && isActive s k) }
  | .aux => { s1 with reg.pwmA := fall s1.reg.pwmA, reg.pulse.emul := vset s1.reg.pulse.emul 6 true }

/-! ### The ring of main phases (R479, R481, R487) -/

/-- The ring from position r. -/
def ringFrom (s : State) : List (Fin 6) := (ring s).drop s.reg.r ++ (ring s).take s.reg.r

/-- The phase after the set in the ring, unless it is active. -/
def nextPhase (s : State) : Option (Fin 6) :=
  match s.reg.active.getLast? with
  | none => none
  | some l =>
    let g := ring s
    let after := g.filter (fun k => l.val < k.val) ++ g.filter (fun k => k.val ≤ l.val)
    match after with
    | k :: _ => if s.reg.active.contains k then none else some k
    | [] => none

/-- The active set changes: joining phases start with trim 0, phases outside keep none (R476), the interval is skipped
(R475), the dwell starts afresh (R477), and a phase that is shed follows diode emulation to MID once its pulse has ended
(R481). The slots follow at the next period start (R468). -/
def setSet (s : State) (l : List (Fin 6)) : State :=
  let keep (k : Nat) : Bool := l.any (fun a => a.val == k) && isActive s k
  { s with
    reg.trim := vgen 6 fun k => if keep k then vget s.reg.trim 0 k else 0
    reg.pinned := vgen 6 fun k => if keep k then vget s.reg.pinned 0 k else 0
    reg.implaus := vgen 6 fun k => if keep k then vget s.reg.implaus 0 k else 0
    reg.pulse.emul := vgen 7 fun k => vget s.reg.pulse.emul false k || (k < 6 && isActive s k && !keep k)
    reg.active := l
    reg.dwell := 0
    reg.skip := true }

/-- One phase is added after the set (R479). -/
def addPhase (s : State) : State := match nextPhase s with | some k => setSet s (s.reg.active ++ [k]) | none => s

/-- Shedding is paused (R478). -/
def shedPaused (s : State) : Bool := s.reg.main.phase != .regulating || live s 0 || s.reg.main.warm

/-- A swap that is due begins: the ring phase after the set is added (R480). -/
def beginSwap (s : State) : State :=
  if s.reg.swapsDue = 0 || s.reg.swapShed || shedPaused s then s
  else
    let s1 := { s with reg.swapsDue := s.reg.swapsDue - 1 }
    match nextPhase s with
    | none => s1
    | some k => { setSet s1 (s.reg.active ++ [k]) with reg.swapShed := true }

/-- An undershoot may restore phases: during a ramp or a slew too, not under warm hold (R482). -/
def mayRestore (s : State) : Bool :=
  let x := s.reg.main
  !x.warm && (x.phase == .ramp || x.phase == .regulating || x.phase == .slewing)

/-- Every available phase is made active; a swap's second step is cancelled (R482, Table RGL-3). -/
def restoreAll (s : State) : State :=
  { setSet s (ringFrom s) with reg.swapShed := false, reg.restoreDue := false, reg.underCount := 0 }

/-! ### Stopping (R442) -/

/-- The reference keeps the value it has now. -/
def freezeRef (s : State) (c : Chan) : State :=
  modChan (moveRef s c) c fun x => { x with target := x.own, targetHigh := x.high }

/-- A channel that no longer switches takes the strapped values afresh (R111, R113). -/
def refreshStraps (s : State) : State :=
  { s with
    reg.straps := if switching s.reg.main then s.reg.straps else regStrapsOf s
    reg.strapsA := if switching s.reg.aux then s.reg.strapsA else regStrapsOf s }

/-- PGOOD of a channel is low; a run of trips ends when PGOOD had stayed for 1 s (R496). -/
def dropPgood (s : State) (c : Chan) : State :=
  modChan s c fun x =>
    let long := x.pgood && (match x.goodSince with | some t => 32768 ≤ s.now - t | none => false)
    { x with
      pgood := false
      goodSince := none
      run := if long then 0 else x.run
      runUv := if long then 0 else x.runUv }

/-- A channel stops with its PWM balls in MID and comes to a phase. (DEDUCED, log entry 142) -/
def stopChan (s : State) (c : Chan) (ph : ChPhase) : State :=
  let s1 := dropPgood (freezeRef s c) c
  let s2 := setPwm (endPulses (modChan s1 c fun x => { x with phase := ph, diode := false, withheld := false }) c) c .mid
  let s3 := match c with
    | .main =>
      { setSet s2 [] with reg.swapShed := false, reg.restoreDue := false, reg.underCount := 0, reg.pulse.slots := [] }
    | .aux => { s2 with reg.pulse.auxIn := none }
  refreshStraps s3

/-- The latch of a channel is released: its records' conditions end (R505, R512). -/
def endLatch (s : State) (c : Chan) : State := endAlarms s [2, 3, 4, 6, 0xB] (c == .aux)

/-! ### Feed-forward and duty (R464, R465) -/

/-- The strapped switching frequency in Hz (Table STP-1). -/
def nominalHz (s : State) : Nat := 1000 * fswKhz (clockStraps s)

/-- The frequency of the switching clock in Hz: the strapped one, with its spread where RV_SYNC asks for one (R446), or what
the clock has while it follows SYNC_IN or glides back. -/
def clockHz (s : State) : Nat :=
  match s.reg.clock with
  | .internal =>
    let p := spreadPct (clockStraps s)
    let n := s.reg.clk.spreadAt
    nominalHz s * (1600 - 16 * p + p * (if n ≤ 32 then n else 64 - n)) / 1600
  | _ => s.reg.clk.freq

/-- The switching frequency of a channel in Hz (R448). -/
def chanHz (s : State) (c : Chan) : Nat :=
  if c = .aux && auxHalf (strapsOf s c) then clockHz s / 2 else clockHz s

/-- D_max in units of 2^-16: min(0.95, 1 - 80 ns x f) (R465). -/
def dMax (s : State) (c : Chan) : Nat := min 62259 (65536 - (999999999 + 65536 * 80 * chanHz s c) / 1000000000)

/-- RFF of a scale word. -/
def rffOf (k : Half) : Nat := k.toNat % 4096

/-- SH of a scale word. -/
def shOf (k : Half) : Nat := k.toNat / 4096

/-- A quotient at the resolution of the unit; which of the two neighbours an inexact one takes is not stated (log entry
5). -/
def roundFree (s : State) (n d : Int) : Int × State :=
  if n % d = 0 then (n / d, s)
  else
    let (f, s1) := takeFree s
    (n / d + (if f.getLsbD 0 then 1 else 0), s1)

/-- D_ff in units of 2^-16 for a reference and V(VIN_SNS) in microvolts, measured up to 1.600 V (R464). -/
def dutyFf (s : State) (c : Chan) (ref vin : Nat) : Int × State :=
  let rff := rffOf (chan s c).coef.k
  if vin < 50000 || rff = 0 then (0, s) else roundFree s (64 * ref * rff : Nat) (min vin 1600000 : Nat)

/-! ### Setpoints and slews (R417 to R424, R452) -/

/-- The reference of a channel stands at a value of its own rules, in a range. -/
def placeRef (s : State) (c : Chan) (v : Nat) (high : Bool) : State :=
  settleRef (modChan s c fun x => { x with own := v, high := high }) c

/-- The reference of a channel equals that of its selected setpoint; only the auxiliary channel's PGOOD asks for it
(R437). -/
def atSetpoint (s : State) (c : Chan) : Bool := match c with | .main => true | .aux => s.reg.aux.ref == vAset s

/-- PGOOD_A falls while the reference is not at V_aset (R437). -/
def goodAtSetpoint (s : State) (c : Chan) : State := if atSetpoint s c then s else dropPgood s c

/-- A slew of a channel ends: the steps that were left have brought the reference to its target (R424, R425). -/
def endSlew (s : State) (c : Chan) : State :=
  let x := chan s c
  let s1 := placeRef (modChan s c fun y => { y with phase := .regulating }) c x.target x.targetHigh
  goodAtSetpoint (if c = .main then { s1 with reg.skip := true } else s1) c

/-- A slew to the selected setpoint begins, or an earlier one turns toward it from where it is (R419, R420, R422, R423). -/
def startSlew (s : State) (c : Chan) (k : Fin 8) : State :=
  let s1 := moveRef s c
  let sp := setpointOf s c k
  let r := (chan s1 c).own
  let s2 := modChan s1 c fun x =>
    { x with
      phase := .slewing, idx := k, sel := k, target := spMicro sp, targetHigh := sp.high, cross := crossPoint r (spMicro sp)
      coef := coefOf s c k }
  let s3 := goodAtSetpoint (if c = .main then { s2 with reg.skip := true } else s2) c
  if r = spMicro sp then endSlew s3 c else s3

/-- A channel's selected index changes. A running channel stays at its setpoint when the new one is invalid; one that is off
records the index, valid or not, and stays off at an invalid one (R191, R419, R452). -/
def selectIndex (s : State) (c : Chan) (k : Fin 8) : State :=
  let x := chan s c
  let valid := spValid (setpointOf s c k)
  if x.warm then s
  else match x.phase with
    | .regulating | .slewing => if k = x.sel || !valid then s else startSlew s c k
    | .ramp => if valid then modChan s c fun y => { y with sel := k } else s
    | _ => modChan s c fun y => { y with sel := k }

/-- The index that the latched fields or the value taken from VSEL2:0 select (R417). -/
def wantedIndex (s : State) (c : Chan) : Fin 8 :=
  match s.bridle.latched with
  | none => s.pins.vsel
  | some (m, mo, a, ao) =>
    match c with
    | .main => if mo then m else s.pins.vsel
    | .aux => if ao then a else s.pins.vsel

/-! ### Starting (R426 to R430) -/

/-- Some strap keeps the channel from switching (R94, R111, Table STP-10). -/
def strapDisabled (s : State) (c : Chan) : Bool :=
  match c with
  | .main => mainDisabled s.reg.straps
  | .aux => auxDisabled s.reg.strapsA

/-- The conditions of R426, with R505, R507 and R510: the channel waits for nothing and may start. -/
def startOk (s : State) (c : Chan) : Bool :=
  let x := chan s c
  x.phase == .notSwitching && isOn s (chanDom c) && enabled s c && !strapDisabled s c && s.sup.vpwm &&
    spValid (setpointOf s c x.sel) && !s.tap.forced && derateOf s c < 4 && !x.heldLow && !x.warm && (c == .aux || !(ring s).isEmpty)

/-- The ramp of a channel ends at its setpoint: continuous conduction begins with the next pulses, and a selection made
during the ramp slews (R426, R429, R452, R470). -/
def endRamp (s : State) (c : Chan) : State :=
  let y := chan s c
  let s1 := placeRef (modChan s c fun x => { x with phase := .regulating, diode := false }) c y.target y.targetHigh
  let s2 := if c = .main then { s1 with reg.skip := true } else s1
  let x := chan s2 c
  if x.sel = x.idx then s2 else startSlew s2 c x.sel

/-- Feedback goes to VLOC: a sense loss, with its record (R454, R460, R501). -/
def moveToVloc (s : State) (snap : Snap) : State :=
  if s.reg.main.vloc then s else modChan (capture s 0x05 0 .main false snap []) .main fun y => { y with vloc := true }

/-- Steps 2 and 3 of Sequence RGS-1: V_start, histories at 0, D at D_ff of the reference in force, every available phase
active, the ramp begun (R427, R435, R464, R467, R476, R479, R493, R502). -/
def beginRamp (s : State) (c : Chan) (m : StartReading) : State :=
  let x := chan s c
  let sp := setpointOf s c x.sel
  let fb := if c == .main && x.vloc then m.vloc else m.feedback
  let set := spMicro sp
  let lsb := lsbOf sp.high
  let v := min set ((fb / lsb + 1) * lsb)
  let s1 := modChan s c fun y =>
    { y with
      phase := .ramp, target := set, targetHigh := sp.high, idx := y.sel, coef := coefOf s c y.sel
      e := Vector.replicate 3 0, y := Vector.replicate 3 0, diode := true, heldLow := false }
  let s2 := match c with
    | .main =>
      let s0 := { s1 with
        reg.active := [], reg.underCount := 0
        reg.trunc := vgen 7 fun k => if k < 6 then 0 else vget s1.reg.trunc 0 k
        reg.pulse := { s1.reg.pulse with slots := [], pos := 0 } }
      let s0 := setSet s0 (ringFrom s0)
      if x.vloc then s0 else endAlarms s0 [5] false
    | .aux =>
      let s0 := { s1 with reg.trunc := vset s1.reg.trunc 6 0, reg.pulse.auxIn := none }
      { s0 with reg.vtrk := trackTarget s0 }
  let s3 := placeRef s2 c v sp.high
  let (ff, s4) := dutyFf s3 c (chan s3 c).ref m.vin
  let d := (clampInt 0 (dMax s4 c) ff).toNat
  let s5 := setPwm (endPulses (modChan s4 c fun y => { y with d := d, dOld := d, withheld := tripped s4 c }) c) c .mid
  if set ≤ fb then endRamp s5 c else s5

/-! ### Derating and failed phases (R506, R507, R509, R510) -/

/-- A channel whose level is 4 stops; one whose level fell below 4 may start again. -/
def derateChan (s : State) (c : Chan) (snap : Snap) : State :=
  if derateOf s c = 4 then
    if switching (chan s c) then stopChan (capture s 0x08 0 c true snap []) c (.waiting .thermal) else s
  else
    let s1 := endAlarms s [8] (c == .aux)
    if (chan s1 c).phase = .waiting .thermal then modChan s1 c fun x => { x with phase := .notSwitching } else s1

/-- A derating level takes a value: WM05's (ext false) or WM06's. -/
def setLevel (s : State) (ext : Bool) (n : Nat) (snap : Snap) : State :=
  let old := (if ext then s.reg.der6 else s.reg.der5).level
  let put (t : State) : State :=
    if ext then { t with reg.der6 := { t.reg.der6 with level := n } } else { t with reg.der5 := { t.reg.der5 with level := n } }
  let s1 := put s
  let s2 := derateChan (derateChan s1 .main snap) .aux snap
  let s3 := if old = 0 && n = 1 then capture s2 0x07 0 .main false snap [] else s2
  if s3.reg.der5.level = 0 && s3.reg.der6.level = 0 then endAlarms s3 [7] false else s3

/-- A main phase fails (R487, R510); with no phase left the channel stops and latches with 0x0B. -/
def failPhase (s : State) (k : Fin 6) (code : BitVec 5) (snap : Snap) : State :=
  let last := (ring s).length ≤ 1
  let s0 := if last then capture s 0x0B 0 .main true snap [] else s
  let s1 := capture s0 code (k.val + 1) .main false snap []
  let s2 := { s1 with reg.failed := s1.reg.failed.set k true }
  if last then stopChan s2 .main .latched
  else
    let s3 := { s2 with reg.r := s2.reg.r % (ring s2).length }
    if s3.reg.active.contains k then
      let nx := nextPhase s3
      let l := s3.reg.active.filter fun x => x != k
      let l := match nx with | some j => l ++ [j] | none => if l.isEmpty then (ring s3).take 1 else l
      let s4 := setSet s3 l
      { s4 with
        reg.pwm := s4.reg.pwm.set k .mid
        reg.pulse.left := vset s4.reg.pulse.left k.val 0
        reg.pulse.emul := vset s4.reg.pulse.emul k.val false }
    else { s3 with reg.pwm := s3.reg.pwm.set k .mid }

/-- A phase may be failed: two available phases or more, an interval that R475 does not skip, no warm hold (R509,
R523). -/
def mayFail (s : State) : Bool :=
  2 ≤ (ring s).length && !s.reg.skip && s.reg.main.phase == .regulating && !s.reg.main.warm

/-! ### Overvoltage and trips -/

/-- A channel's PWM balls are held Low and it latches, with record 0x04 (R498, R499); the balls of a channel that its straps
disable stay in MID (R94, R111). -/
def overvoltage (s : State) (c : Chan) (snap : Snap) : State :=
  let s1 := stopChan (capture s 0x04 0 c true snap []) c .latched
  let s2 := modChan s1 c fun x => { x with heldLow := true }
  if strapDisabled s2 c || s2.tap.forced then s2
  else match c with
    | .main => { s2 with reg.pwm := vgen 6 fun k => if k < phases s2.reg.straps then .low else .mid }
    | .aux => { s2 with reg.pwmA := .low }

/-- The pulses of a channel follow its trips: a trip ends pulses in progress and withholds new ones; at its end they resume
at each phase's next slot (R483, R544). -/
def applyTrips (s : State) (c : Chan) : State :=
  let x := chan s c
  let t := tripped s c
  if !switching x || t = x.withheld then s
  else
    let s1 := modChan s c fun y => { y with withheld := t }
    if t then
      let s2 := tripPulses s1 c
      if c = .main then { s2 with reg.skip := true } else s2
    else s1

/-! ### The edge generators (R466 to R470, R481) -/

/-- A switching period in the units of a pulse's length. -/
def periodUnits : Nat := 3932160000

/-- D_k (R469), in those units: D with the phase's trim, at most D_max. -/
def phaseDuty (s : State) (c : Chan) (k d : Nat) : Nat :=
  let t : Int := match c with | .main => vget s.reg.trim 0 k | .aux => 0
  60 * min (d * (1000 + t).toNat) (1000 * dMax s c)

/-- D_k x T is below 40 ns (R469). -/
def tooShort (s : State) (c : Chan) (dk : Nat) : Bool := 1000000000 * dk < 40 * periodUnits * chanHz s c

/-- A time of less than 100 ns. -/
def under100ns (s : State) (c : Chan) (time : Nat) : Bool := 1000000000 * time < 100 * periodUnits * chanHz s c

/-- The D that a rise latches: the latest one available. A sample's D is available within 100 ns of it (R466); whether it is
so at a rise less than 100 ns after the sample is open (log entry 5). `since` is the time from the sample to the rise. -/
def latchedDuty (s : State) (c : Chan) (since : Nat) : Nat × State :=
  let x := chan s c
  if under100ns s c since && x.d ≠ x.dOld then
    let (f, s1) := takeFree s
    (if f.getLsbD 0 then x.d else x.dOld, s1)
  else (x.d, s)

/-- A phase's ball takes a state. -/
def putPwm (s : State) (k : Nat) (v : Pwm) : State :=
  if k < 6 then { s with reg.pwm := vset s.reg.pwm k v } else { s with reg.pwmA := v }

/-- The phase is in diode emulation (R470). -/
def emulates (s : State) (k : Nat) : Bool :=
  (if k < 6 then s.reg.main.diode else s.reg.aux.diode) || vget s.reg.pulse.emul false k

/-- A phase's slot passed `ago` ago: it rose with the D latched there, unless the pulse is too short, in which case it is Low
in continuous conduction and MID in diode emulation (R466, R468, R469). -/
def risePhase (s : State) (c : Chan) (k since ago : Nat) : State :=
  let (d, s1) := latchedDuty s c since
  let dk := phaseDuty s1 c k d
  let s2 := { s1 with reg.pulse.duty := vset s1.reg.pulse.duty k dk, reg.pulse.left := vset s1.reg.pulse.left k (dk - ago) }
  if tooShort s2 c dk then
    let s3 := { s2 with reg.pulse.left := vset s2.reg.pulse.left k 0 }
    if emulates s3 k then s3 else putPwm s3 k .low
  else
    putPwm { s2 with reg.pulse.emul := vset s2.reg.pulse.emul k false } k (if dk ≤ ago then .low else .high)

/-- A pulse in progress is a time further on: it falls at its end (R468). -/
def runPulse (s : State) (k time : Nat) : State :=
  let l := vget s.reg.pulse.left 0 k
  let s1 := { s with reg.pulse.left := vset s.reg.pulse.left k (l - time) }
  if 0 < l && l ≤ time then putPwm s1 k .low else s1

/-- A channel may start a pulse: it switches, and no trip withholds it (R483). -/
def mayPulse (s : State) (c : Chan) : Bool := switching (chan s c) && !(chan s c).withheld

/-- A main phase from one place of the period to a later one, in eighths: its pulse runs on, and it rises when its slot lies
between them. A phase that is shed pulses no more (R481). -/
def runPhase (s : State) (from_ to_ : Nat) (k : Nat) : State :=
  let e := periodUnits / 8
  let s1 := runPulse s k ((to_ - from_) * e)
  match s.reg.pulse.slots.findIdx? (fun a => a.val == k) with
  | none => s1
  | some j =>
    let at_ := j * (periodUnits / s.reg.pulse.slots.length)
    if mayPulse s1 .main && isActive s1 k && from_ * e < at_ && at_ ≤ to_ * e then
      risePhase s1 .main k (if from_ = 0 then at_ + e else at_ - from_ * e) (to_ * e - at_)
    else s1

/-- Every main phase goes on through the period. -/
def runPhases (s : State) (from_ to_ : Nat) : State := (List.range 6).foldl (fun t k => runPhase t from_ to_ k) s

/-- The place of a number of samples in the period, in eighths (R458). -/
def samplePlace (n : Nat) : Nat := if n = 0 then 0 else 2 * n - 1

/-- The main channel comes to its next sample of the period. -/
def runToSample (s : State) : State :=
  let n := s.reg.pulse.pos
  if 4 ≤ n then s
  else { runPhases s (samplePlace n) (samplePlace (n + 1)) with reg.pulse.pos := n + 1 }

/-- The auxiliary channel comes to its next sample: PWM_A rose an eighth of its period ago when its rise was due (R448,
R485). (DESIGN CHOICE, log entry 130) -/
def runAuxToSample (s : State) : State :=
  let e := periodUnits / 8
  let s1 := runPulse s 6 (2 * e)
  match s.reg.pulse.auxIn with
  | none => s1
  | some (n + 1) => { s1 with reg.pulse.auxIn := some n }
  | some 0 =>
    let s2 := { s1 with reg.pulse.auxIn := none }
    if mayPulse s2 .aux then risePhase s2 .aux 6 e e else s2

/-! ### The switching clock (R443 to R447) -/

/-- The clock runs: PD17 or PD18 is on, or a channel is under warm hold (R443, R455). -/
def clockRuns (s : State) : Bool := isOn s 17 || isOn s 18 || s.reg.main.warm || s.reg.aux.warm

/-- A clock that follows SYNC_IN or glides has some frequency between two bounds; which one is open (log entry 5). -/
def freqWithin (s : State) (lo hi : Nat) : State :=
  if hi < lo then s
  else
    let (v, s1) := takeFree s
    { s1 with reg.clk.freq := lo + v.toNat % (hi + 1 - lo) }

/-- The shortest and the longest period are 0.76 / fsw and 1.43 / fsw (R447). -/
def freqLow (s : State) : Nat := (100 * nominalHz s + 142) / 143

/-- The frequency of the shortest period. -/
def freqHigh (s : State) : Nat := 100 * nominalHz s / 76

/-- The frequency of the next period: the period changes by at most 1 % of itself (R447). -/
def nextFreq (s : State) : State :=
  freqWithin s (max ((100 * s.reg.clk.freq + 100) / 101) (freqLow s)) (min (100 * s.reg.clk.freq / 99) (freqHigh s))

/-- The next period begins: the spread goes one place on, and a clock that follows SYNC_IN or glides changes its period by at
most 1 % and may have arrived (R444 to R447). A glide has arrived only within 1 % of fsw. -/
def nextPeriod (s : State) : State :=
  match s.reg.clock with
  | .internal => { s with reg.clk.spreadAt := (s.reg.clk.spreadAt + 1) % 64 }
  | _ =>
    let s1 := nextFreq s
    let f := s1.reg.clk.freq
    let n := nominalHz s1
    if s1.reg.clock = .gliding && !(100 * n ≤ 101 * f && 99 * f ≤ 100 * n) then s1 else clockSettles s1

/-- A tick period of some switching periods: the place in the spread is open, and so is the frequency of a clock that follows
SYNC_IN or glides, which may have arrived (R444 to R447, log entry 5). -/
def somePeriods (s : State) : State :=
  match s.reg.clock with
  | .internal =>
    if spreadPct (clockStraps s) = 0 then s
    else
      let (v, s1) := takeFree s
      { s1 with reg.clk.spreadAt := v.toNat % 64 }
  | _ => clockSettles (freqWithin s (freqLow s) (freqHigh s))

/-- The period start of the switching clock (R448, R458, R468, R481, R482): a restore that is due makes every available phase
active, the main phases take their slots in ascending number, and phase 1's slot begins. -/
def periodStart (s : State) (sense : Vector Half 7) : State :=
  let s1 := nextPeriod s
  let s2 := { s1 with
    reg.sense := vgen 7 fun k => BitVec.ofInt 16 (clampInt (-1920) 1920 (vget sense 0 k).toInt)
    reg.dwell := min 200000 (1000000000 / clockHz s1 + s1.reg.dwell)
    reg.pulse.auxOdd := !s1.reg.pulse.auxOdd
    reg.pulse.auxIn :=
      if !auxHalf s1.reg.strapsA then some 2 else if s1.reg.pulse.auxOdd then some 1 else s1.reg.pulse.auxIn }
  let s3 := runPhases s2 (samplePlace s2.reg.pulse.pos) 8
  let s4 := if s3.reg.restoreDue && !live s3 0 && mayRestore s3 then restoreAll s3 else s3
  let l := ([0, 1, 2, 3, 4, 5] : List (Fin 6)).filter fun k => isActive s4 k.val
  let s5 := { s4 with reg.pulse := { s4.reg.pulse with slots := l, pos := 0 } }
  match l with
  | [] => s5
  | k :: _ => if mayPulse s5 .main then risePhase s5 .main k.val (periodUnits / 8) 0 else s5

end Sys2Proof.Machine
end

