-- ==== Sys2Proof/Machine/Regulator.lean ====
section
/-! DEFINITION. The commands of the regulator's start, slews, clock, loop and phases (files 11 and 12), and the
operating hour. A command whose event cannot occur in the present state has no effect (log entry 2). -/

namespace Sys2Proof.Machine

/-! ### Start, ramp and PGOOD (Sequence RGS-1) -/

/-- CHANNEL_START (R426 to R430, R454, R467, R479, R502): with WM03 out of its window the start is measured on VLOC, which is
a sense loss; with VLOC lost as well the channel does not start, and it latches. (DEDUCED, log entry 164) -/
def execChannelStart (c : Chan) (m : StartReading) (snap : Snap) (s : State) : Host.Outcome State Fault Refusal :=
  .next (if !startOk s c then s
  else if c == .main && monEnabled s 3 && !m.wm03In then
    let s1 := moveToVloc s snap
    if m.vlocOk then beginRamp s1 c m
    else modChan (capture s1 0x06 0 .main true snap []) .main fun x => { x with phase := .latched }
  else beginRamp (modChan s c fun x => { x with vloc := false }) c m)

/-- RAMP_COMPLETE (R426, R430, R452, R470). -/
def execRampComplete (c : Chan) (s : State) : Host.Outcome State Fault Refusal :=
  .next (if (chan s c).phase = .ramp then endRamp s c else s)

/-- PGOOD_ASSERT (R431, R432, R437): the output is inside the rail window. The set of rail attempts ends (R354), the
conditions of records 0x01 to 0x03 end (R512), and a hiccup may be recorded again (R494). -/
def execPgoodAssert (c : Chan) (feedback : Nat) (s : State) : Host.Outcome State Fault Refusal :=
  let s0 := moveRef s c
  let x := chan s0 c
  .next (if !x.pgood && (x.phase = .regulating || x.phase = .slewing) && atSetpoint s0 c && inWindow s0 c feedback then
    let s1 := modChan s0 c fun y => { y with pgood := true, goodSince := some s0.now, hiccupArmed := true }
    let s2 := match c with
      | .main => { s1 with act.main := RailTry.idle }
      | .aux => { s1 with act.aux := RailTry.idle }
    endAlarms s2 [1, 2, 3] (c == .aux)
  else s0)

/-- PGOOD_DEASSERT (R431, R432): the output leaves the rail window. -/
def execPgoodDeassert (c : Chan) (feedback : Nat) (s : State) : Host.Outcome State Fault Refusal :=
  let s0 := moveRef s c
  .next (if (chan s0 c).pgood && !inWindow s0 c feedback then dropPgood s0 c else s0)

/-- VSEL_CHANGE (R417 to R419): while the latched MOVR and AOVR are both 1, VSEL2:0 is ignored. -/
def execVselChange (v : Fin 8) (s : State) : Host.Outcome State Fault Refusal :=
  let s1 := { s with pins.vsel := v }
  .next (selectIndex (selectIndex s1 .main (wantedIndex s1 .main)) .aux (wantedIndex s1 .aux))

/-- SLEW_COMPLETE (R421 to R425). -/
def execSlewComplete (c : Chan) (s : State) : Host.Outcome State Fault Refusal :=
  .next (if (chan s c).phase = .slewing then endSlew s c else s)

/-- ENABLE_LOW (R433, R505): a switching channel stops, a latch is released. -/
def execEnableLow (c : Chan) (s : State) : Host.Outcome State Fault Refusal :=
  let s1 := match c with
    | .main => { s with pins.enM := false }
    | .aux => { s with pins.enA := false }
  let x := chan s1 c
  .next (if switching x then modChan (stopChan s1 c .notSwitching) c fun y => { y with warm := false }
    else if x.phase = .latched then endLatch (modChan s1 c fun y => { y with phase := .notSwitching, warm := false }) c
    else s1)

/-- ENABLE_HIGH (R433): CHANNEL_START follows when R426 holds. -/
def execEnableHigh (c : Chan) (s : State) : Host.Outcome State Fault Refusal :=
  let s1 := match c with
    | .main => { s with pins.enM := true }
    | .aux => { s with pins.enA := true }
  .next s1

/-! ### Clock and tracking -/

/-- An edge of SYNC_IN, a time in ps after the edge before it, is accepted: 0.70 to 1.30 of fsw, and 150 kHz to 1.5 MHz
(R444). -/
def edgeAccepted (s : State) (period : Nat) : Bool :=
  7 * nominalHz s * period ≤ 10000000000000 && 10000000000000 ≤ 13 * nominalHz s * period &&
    150000 * period ≤ 1000000000000 && 1000000000000 ≤ 1500000 * period

/-- One rising edge on SYNC_IN: the first after a time with no accepted edge is not tested and starts the count, another is
judged by its time from the last accepted one, and an edge that is not accepted ends the count (R444). -/
def syncEdge (s : State) (spacing : Nat) : State :=
  match s.reg.clk.gap with
  | none => { s with reg.clk.edges := 1, reg.clk.gap := some 0 }
  | some g =>
    if edgeAccepted s (g + spacing) then
      { s with reg.clk.edges := satur 8 (s.reg.clk.edges + 1), reg.clk.gap := some 0 }
    else { s with reg.clk.edges := 0, reg.clk.gap := some (g + spacing) }

/-- SYNC_LOCK (R444): rising edges on SYNC_IN under RV_SYNC codes 6 to 12, each with its time in ps from the edge before it;
with eight accepted in a row the clock moves toward SYNC_IN. -/
def execSyncLock (spacings : List Nat) (s : State) : Host.Outcome State Fault Refusal :=
  .next (if syncExternal (clockStraps s) && clockRuns s then
    let s1 := spacings.foldl syncEdge s
    if 8 ≤ s1.reg.clk.edges then
      match s1.reg.clock with
      | .internal => { s1 with reg.clock := .acquiring, reg.clk.freq := nominalHz s1 }
      | .gliding => { s1 with reg.clock := .acquiring }
      | .acquiring | .locked => s1
    else s1
  else s)

/-- SYNC_LOSS (R445): three missing edges in a row; the next edge is a first one again, and a clock that follows SYNC_IN
glides back. -/
def execSyncLoss (s : State) : Host.Outcome State Fault Refusal :=
  let s1 := { s with reg.clk.edges := 0, reg.clk.gap := none }
  .next (if s.reg.clock = .locked || s.reg.clock = .acquiring then { s1 with reg.clock := .gliding } else s1)

/-- TRK_CHANGE (R434 to R437): the sampled voltage, and the half microseconds in which V_trk has acted on the reference
since, one LSB in each. -/
def execTrkChange (uv steps : Nat) (s : State) : Host.Outcome State Fault Refusal :=
  .next (if !present s 18 || !tracks s then s
  else
    let s1 := moveRef { s with reg.trk := min uv 1650000 } .aux
    let s2 := { s1 with reg.vtrk := toward s1.reg.vtrk (trackTarget s1) (steps * lsbOf s1.reg.aux.high) }
    if switching s2.reg.aux then goodAtSetpoint (settleRef s2 .aux) .aux else s2)

/-! ### The loop (R458 to R467) -/

/-- The error code (R459): units of 0.625 mV; the rounding of an error between two codes is not stated (log entry 5). -/
def errorCode (s : State) (ref feedback : Nat) : Int × State :=
  let (e, s1) := roundFree s (ref - feedback : Int) 625
  (clampInt (-128) 127 e, s1)

/-- A sum in units of 2^-22 rounded to 2^-11, to nearest, ties away from zero (R463). -/
def round11 (v : Int) : Int := if 0 ≤ v then (v + 1024) / 2048 else -((-v + 1024) / 2048)

/-- y before the clamp (R461, R463): a 35-bit number in units of 2^-11. -/
def compSum (k : CoefSet) (e0 : Int) (e y : Vector Int 3) : Int :=
  let c (j : Nat) : Int := (vget k.c 0 j).toInt
  let sum := 2048 * (c 0 * e0 + c 1 * e[0] + c 2 * e[1] + c 3 * e[2]) + (c 4 * y[0] + c 5 * y[1] + c 6 * y[2])
  clampInt (-17179869184) 17179869183 (round11 sum)

/-- The sampled error is at or above min(0.03 × V_ref, 79.375 mV) (R482). -/
def undershoots (ref : Nat) (e0 : Int) : Bool := 127 ≤ e0 || 3 * (ref : Int) ≤ 62500 * e0

/-- The feedback in use (R460): VLOC after a sense loss. -/
def feedbackOf (s : State) (c : Chan) (feedback vloc : Nat) : Nat :=
  match c with | .main => if s.reg.main.vloc then vloc else feedback | .aux => feedback

/-- The value stored as y[n] when the clamp acts (R465): the one that gives the clamped D, of two neighbours the one that is
not beyond the clamp. -/
def clampedY (d dc ff sh : Int) : Int :=
  let v := (dc - ff) * sh
  if dc < d then v / 2 else -((-v) / 2)

/-- COMPENSATOR_SAMPLE (R458 to R467, R482, R484): the pulses come to the sample's place in the period, then D, the histories
and the undershoot count follow. While pulses are withheld, D clamps at 0. -/
def execCompensatorSample (c : Chan) (feedback vloc vin : Nat) (s : State) : Host.Outcome State Fault Refusal :=
  let x := chan s c
  .next (if !switching x then s
  else
    let s0 := match c with | .main => runToSample s | .aux => runAuxToSample s
    let (ref, s1) := presentRef s0 c
    let (e0, s2) := errorCode s1 ref (feedbackOf s c feedback vloc)
    let y0 := compSum x.coef e0 x.e x.y
    let (ff, s3) := dutyFf s2 c ref vin
    let sh : Int := (2 ^ shOf x.coef.k : Nat)
    let (u, s4) := roundFree s3 (2 * y0) sh
    let d := ff + u
    let dc := clampInt 0 (if x.withheld then 0 else dMax s4 c) d
    let yc := if d = dc then y0 else clampedY d dc ff sh
    let s5 := modChan s4 c fun z =>
      { z with d := dc.toNat, dOld := z.d, e := #v[e0, x.e[0], x.e[1]], y := #v[yc, x.y[0], x.y[1]] }
    if c = .main then
      { s5 with reg.underCount := if undershoots ref e0 then satur 2 (s5.reg.underCount + 1) else 0 }
    else s5)

/-- ZERO_CROSSING (R429, R470, R481): in diode emulation a phase that is Low goes to MID. -/
def execZeroCrossing (c : Chan) (phase : Fin 6) (s : State) : Host.Outcome State Fault Refusal :=
  let k := match c with | .main => phase.val | .aux => 6
  let ball := match c with | .main => s.reg.pwm[phase] | .aux => s.reg.pwmA
  .next (if switching (chan s c) && emulates s k && ball == .low then putPwm s k .mid else s)

/-! ### Balancing and shedding (R474 to R482) -/

/-- The phase current in uA: the sense voltage, in 0.03125 mV, over RSNSM or RSNSA (R471). -/
def phaseCurrent (s : State) (k : Nat) : Int :=
  31250000 * (vget s.reg.sense 0 k).toInt / (if k < 6 then (polOf s).rsnsm else (polOf s).rsnsa)

/-- The sum of the active phases' mean sense voltages, units of 0.03125 mV. -/
def activeSum (s : State) (i : Vector Half 6) : Int := s.reg.active.foldl (fun a k => a + i[k].toInt) 0

/-- The trim step of one active phase (R474), units of 0.1 %. -/
def trimStep (s : State) (i : Vector Half 6) (k : Fin 6) : Int :=
  let m : Int := s.reg.active.length
  let p : Int := (polOf s).prate
  let t := s.reg.trim[k]
  let x := 500 * i[k].toInt * m
  let mean := 500 * activeSum s i
  if mean + 32 * p * m < x && -60 < t then t - 1
  else if x < mean - 32 * p * m && t < 60 then t + 1
  else t

/-- Trims and their counts after one update (R474, R476). -/
def updateTrims (s : State) (i : Vector Half 6) : State :=
  let act (k : Nat) : Bool := s.reg.active.any fun a => a.val == k
  let t : Vector Int 6 := vgen 6 fun k => if act k then trimStep s i (Fin.ofNat 6 k) else vget s.reg.trim 0 k
  { s with
    reg.trim := t
    reg.pinned := vgen 6 fun k =>
      if act k && (vget t 0 k = 60 || vget t 0 k = -60) then satur 128 (vget s.reg.pinned 0 k + 1) else 0 }

/-- The sense of a phase is implausible in this interval (R509 case 1). -/
def implausible (s : State) (i : Vector Half 6) (k : Fin 6) : Bool :=
  let p : Int := (polOf s).prate
  let x := i[k].toInt
  let others := activeSum s i - x
  let m : Int := s.reg.active.length
  s.reg.active.contains k && 1 < m && !emulates s k.val && 5 * periodUnits ≤ 100 * phaseDuty s .main k.val s.reg.main.d &&
    25 * max x (-x) < 4 * p && 8 * p * (m - 1) < 5 * others

/-- Phases are failed one by one in ascending number for implausible sense or a pinned trim (R509 cases 1 and 2). -/
def failChecks (s : State) (snap : Snap) : State :=
  ([0, 1, 2, 3, 4, 5] : List (Fin 6)).foldl (fun t k =>
    if 2 ≤ (ring t).length && t.reg.active.contains k && (4 ≤ t.reg.implaus[k] || 128 ≤ t.reg.pinned[k]) then
      failPhase t k 0x09 snap
    else t) s

/-- What makes R475 skip an update still holds when it comes: the next interval begins with it. -/
def stillSkips (s : State) : Bool :=
  s.reg.main.phase != .regulating || s.reg.main.warm || s.reg.main.withheld

/-- BALANCE_UPDATE (R474 to R476, R509). (DEDUCED, log entry 129) -/
def execBalanceUpdate (i : Vector Half 6) (snap : Snap) (s : State) : Host.Outcome State Fault Refusal :=
  let s0 := { s with reg.skip := stillSkips s }
  .next (if s.reg.skip || s0.reg.skip || s.reg.active.length < 2 then s0
  else
    let s1 := updateTrims s0 i
    let s2 := { s1 with
      reg.implaus := vgen 6 fun k =>
        if implausible s i (Fin.ofNat 6 k) then satur 4 (vget s.reg.implaus 0 k + 1) else 0 }
    failChecks s2 snap)

/-- R477 adds a phase at these currents. -/
def wouldAdd (s : State) (i : Vector Half 6) : Bool :=
  s.reg.active.length < (ring s).length && 256 * (s.reg.active.length : Int) * (polOf s).prate ≤ 100 * activeSum s i

/-- R477 sheds a phase at these currents. -/
def wouldShed (s : State) (i : Vector Half 6) : Bool :=
  let m : Int := s.reg.active.length
  let p : Int := (polOf s).prate
  1 < m && 100 * activeSum s i ≤ 256 * (m - 1) * p - 48 * p

/-- SHED_DECISION (R477, R478, R480, R486): a swap that waited begins here; otherwise 200 us have passed since the set last
changed. -/
def execShedDecision (i : Vector Half 6) (s : State) : Host.Outcome State Fault Refusal :=
  .next (if shedPaused s then s
  else if s.reg.swapsDue ≠ 0 && !s.reg.swapShed then beginSwap s
  else if !(polOf s).shedOn || s.reg.dwell < 200000 then s
  else if wouldAdd s i then addPhase s
  else if wouldShed s i then setSet s s.reg.active.dropLast
  else s)

/-- SWAP_SHED (R480): the swap's second step, 200 us after its add at the earliest, unless R477 would add a phase at this
moment. -/
def execSwapShed (i : Vector Half 6) (s : State) : Host.Outcome State Fault Refusal :=
  .next (if !s.reg.swapShed || shedPaused s || s.reg.dwell < 200000 then s
  else
    let s1 := { s with reg.swapShed := false }
    if (polOf s1).shedOn && wouldAdd s1 i then s1 else setSet s1 s1.reg.active.tail)

/-- The hour count has reached a whole hour: with SHED bit 1 set, r advances, and a swap is due when some available
phase is shed; with every phase active the set starts from the new r (R479, R480). -/
def wholeHour (s : State) : State :=
  let n := (ring s).length
  if !(polOf s).rotate || n = 0 then s
  else
    let s1 := { s with reg.r := (s.reg.r + 1) % n }
    if s1.reg.active.isEmpty then s1
    else if s1.reg.active.length < n || s1.reg.swapShed then beginSwap { s1 with reg.swapsDue := s1.reg.swapsDue + 1 }
    else { s1 with reg.active := ringFrom s1 }

/-- HOUR_PASS (R480, R838): the hour count and the clock reach the next whole hour. -/
def execHourPass (s : State) : Host.Outcome State Fault Refusal :=
  .next (if s.boot.step = .por then s
  else
    wholeHour { s with
      now := 7372800 * (s.now / 7372800 + (16 - s.hours % 16))
      hours := satur 0xFFFFFF ((s.hours / 16 + 1) * 16) })

/-- UNDERSHOOT_RESTORE (R482, R486): two samples at or above the limit; every available phase becomes active at the next
period start, or at the first one after WM00's output has deasserted. A swap's second step is cancelled. -/
def execUndershootRestore (s : State) : Host.Outcome State Fault Refusal :=
  .next (if s.reg.underCount < 2 || !mayRestore s then s
  else { s with reg.restoreDue := true, reg.swapShed := false, reg.underCount := 0 })

end Sys2Proof.Machine
end

