-- ==== Sys2Proof/Machine/Protection.lean ====
section
/-! DEFINITION. The commands of the regulator's protections and of the record writer (file 13, R836 to R838). -/

namespace Sys2Proof.Machine

/-! ### Fast limit -/

/-- A phase's count of truncated periods reaches 8: the channel enters a hiccup; the first after PGOOD is recorded
(R493, R494). -/
def hiccup (s : State) (c : Chan) (snap : Snap) : State :=
  let x := chan s c
  let s1 := if x.hiccupArmed then
      modChan (capture s 0x01 0 c true snap []) c fun y => { y with hiccupArmed := false }
    else s
  stopChan s1 c (.waiting .hiccup)

/-- A trip during the pulse: the phase goes Low, and eight periods in a row are a hiccup (R492, R493). -/
def truncate (s : State) (c : Chan) (k : Nat) (successive : Bool) (snap : Snap) : State :=
  let n := if successive then vget s.reg.trunc 0 k + 1 else 1
  let s1 := { s with reg.trunc := vset s.reg.trunc k (satur 8 n) }
  let s2 := match c with
    | .main => { putPwm s1 k .low with reg.skip := true, reg.offTrip := vset s1.reg.offTrip k false }
    | .aux => putPwm s1 6 .low
  let s2 := { s2 with reg.pulse.left := vset s2.reg.pulse.left k 0 }
  if 8 ≤ n then hiccup s2 c snap else s2

/-- FAST_LIMIT_TRIP (R491 to R494, R509, R538): in the phase's pulse it truncates, outside it two periods in a row fail
the phase with 0x0A. Every trip sets the comparator's latch. -/
def execFastLimitTrip (c : Chan) (phase : Fin 6) (inPulse successive : Bool) (snap : Snap) (s : State) :
    Host.Outcome State Fault Refusal :=
  let k := match c with | .main => phase.val | .aux => 6
  .next (if !switching (chan s c) || (c == .main && !s.reg.active.contains phase) then s
  else
    let s1 := { s with mons.pcl := vset s.mons.pcl k true }
    if inPulse then truncate s1 c k successive snap
    else if c = .aux then s1
    else if successive && s.reg.offTrip[phase] && mayFail s1 then failPhase s1 phase 0x0A snap
    else { s1 with reg.offTrip := s1.reg.offTrip.set phase true })

/-- HICCUP_RESTART (R493, R523): the wait ends; CHANNEL_START follows. -/
def execHiccupRestart (c : Chan) (s : State) : Host.Outcome State Fault Refusal :=
  let x := chan s c
  .next (if x.phase = .waiting .hiccup && !x.warm then modChan s c fun y => { y with phase := .notSwitching } else s)

/-! ### Slow limit and undervoltage -/

/-- A trip of a run under OVLP: the channel latches or waits for its retry; the first trip and the latching one are
recorded (R496, R497). (DEDUCED, log entry 128) -/
def overloadTrip (s : State) (c : Chan) (code : BitVec 5) (uv : Bool) (snap : Snap) : State :=
  let x := chan s c
  let long := x.pgood && (match x.goodSince with | some t => 32768 ≤ s.now - t | none => false)
  let n := if long then 1 else (if uv then x.runUv else x.run) + 1
  let latch := (polOf s).ovlp = 0 || 8 ≤ n
  let s1 := if n = 1 || latch then capture s code 0 c true snap [] else s
  let s2 := stopChan s1 c (if latch then .latched else .waiting .retry)
  modChan s2 c fun y =>
    if uv then { y with runUv := if latch then 0 else n } else { y with run := if latch then 0 else n }

/-- SLOW_LIMIT_TRIP (R495, R496): the average, in units of 0.03125 mV, exceeds L = V_OVL × n × (1 − d/8). -/
def execSlowLimitTrip (c : Chan) (average : Nat) (snap : Snap) (s : State) : Host.Outcome State Fault Refusal :=
  let x := chan s c
  let n := match c with | .main => (ring s).length | .aux => 1
  .next (if (x.phase = .ramp || x.phase = .regulating || x.phase = .slewing) && !x.warm &&
      4 * ovlMv (strapsOf s c) * n * (8 - derateOf s c) < average then overloadTrip s c 0x02 false snap else s)

/-- UNDERVOLTAGE (R497): WM01 stays asserted, or the auxiliary feedback below 90 % of its reference, for 4 ms outside ramps,
slews and stops. -/
def execUndervoltage (c : Chan) (feedback : Nat) (snap : Snap) (s : State) : Host.Outcome State Fault Refusal :=
  let x := chan s c
  let low := match c with | .main => live s 1 | .aux => decide (10 * feedback < 9 * x.ref)
  .next (if x.phase = .regulating && !x.warm && low then overloadTrip s c 0x03 true snap else s)

/-- PROTECTION_RETRY (R496, R497). -/
def execProtectionRetry (c : Chan) (s : State) : Host.Outcome State Fault Refusal :=
  .next (if (chan s c).phase = .waiting .retry then modChan s c fun y => { y with phase := .notSwitching } else s)

/-! ### Overvoltage and sense lines -/

/-- AUX_OVERVOLTAGE (R499): WM07 asserted for 10 µs. -/
def execAuxOvervoltage (snap : Snap) (s : State) : Host.Outcome State Fault Refusal :=
  .next (if live s 7 && !s.reg.aux.heldLow then overvoltage s .aux snap else s)

/-- OVERVOLTAGE_RELEASE (R498, R499): the feedback, in microvolts, is below half the reference. -/
def execOvervoltageRelease (c : Chan) (feedback : Nat) (s : State) : Host.Outcome State Fault Refusal :=
  let x := chan s c
  .next (if x.heldLow && 2 * feedback < x.ref then setPwm (modChan s c fun y => { y with heldLow := false }) c .mid else s)

/-- SENSE_LOSS (R501): feedback moves to VLOC; the loop goes on. -/
def execSenseLoss (snap : Snap) (s : State) : Host.Outcome State Fault Refusal :=
  .next (if switching s.reg.main && live s 3 then moveToVloc s snap else s)

/-- VLOC counts as lost (R503): it is below a quarter of the reference outside ramps, or more than a tenth of the reference
away from V_est = D x V(VIN_SNS) x RFF / 1,024. `dv` is the average of D x V(VIN_SNS) over 32 periods. -/
def vlocLost (s : State) (vloc dv : Nat) : Bool :=
  let x := s.reg.main
  let rff := rffOf x.coef.k
  let est := dv * rff / 1024
  (x.phase != .ramp && 4 * vloc < x.ref) || (rff ≠ 0 && x.ref < 10 * (max vloc est - min vloc est))

/-- VLOC_LOST (R503): the channel latches. -/
def execVlocLost (vloc dv : Nat) (snap : Snap) (s : State) : Host.Outcome State Fault Refusal :=
  let s0 := moveRef s .main
  .next (if switching s0.reg.main && s0.reg.main.vloc && vlocLost s0 vloc dv then
    stopChan (capture s0 0x06 0 .main true snap []) .main .latched
  else s0)

/-! ### Derating -/

/-- WM05 or WM06 goes above: the interval counts as above, and a level of 0 goes to 1 at once; the new interval begins above
(R506). -/
def hotter (s : State) (ext : Bool) (snap : Snap) : State :=
  let s1 : State := if ext then { s with reg.der6.above := true } else { s with reg.der5.above := true }
  if (if ext then s.reg.der6 else s.reg.der5).level = 0 && !s.reg.main.warm then
    setLevel s1 ext 1 snap
  else s1

/-- DERATE_INTERVAL (R180, R506 to R508, R523): the lowest and the highest input of the interval in microvolts. It was above
when the comparator was asserted at any time in it, and below when it stayed under V_TLO less 12 mV. -/
def execDerateInterval (ext : Bool) (low high vana : Nat) (snap : Snap) (s : State) : Host.Outcome State Fault Refusal :=
  let k := if ext then 6 else 5
  let q := if ext then s.reg.der6 else s.reg.der5
  let at_ (v : Nat) : MonReading := ⟨v, 0, vana⟩
  let above := q.above || (mon s k).above || (low ≤ high && crosses s k .upper (at_ high))
  let below := (high : Int) * 1024 < threshold s k .lower (at_ high) - 1024 * hystUv s k
  .next (if !monEnabled s k || !isOn s 17 || s.reg.main.warm then s
  else
    let now := (mon s k).above
    let s1 : State := if ext then { s with reg.der6.above := now } else { s with reg.der5.above := now }
    if above then setLevel s1 ext (min (q.level + 1) 4) snap
    else if below then setLevel s1 ext (q.level - 1) snap
    else s1)

/-! ### The record writer -/

/-- The writer may commit: NVM is sensed, not more than 64 commits in the last hour, and none before step 11 under warm
hold (R153, R518, R837). -/
def mayCommit (s : State) : Bool :=
  (match s.boot.step with | .por | .tickWait | .idRetry => false | _ => true) &&
    (isReady s || !(s.reg.main.warm || s.reg.aux.warm)) &&
    (s.prot.commitTimes.filter fun t => s.now < 117964800 + t).length < 64

/-- The pins on which the commit of a failed rail's record puts its cause: WMASK of the notice that goes with it (Sequence
ACT-2 step 6). -/
def railPins (r : FaultRec) : BitVec 4 := (byteAt r.companion (r.companion.length - 1)).extractLsb' 0 4

/-- RECORD_COMMIT (R354, R512, R517, R518, R521, R700): the oldest captured record enters the ring, its alarm and its notice
follow, and the hour count is stored (Table PKG-8). (DEDUCED, log entry 127) (DESIGN CHOICE, log entry 137) -/
def execRecordCommit (s : State) : Host.Outcome State Fault Refusal :=
  .next (match s.prot.latch with
  | [] => s
  | r :: rest =>
    if !mayCommit s then s
    else
      let q := s.prot.nextSeq
      let b := recordBytes r q
      let recent := s.prot.commitTimes.filter fun t => s.now < 117964800 + t
      let s1 := { s with
        nvm.ring := vset s.nvm.ring (ringEntry q) b
        nvm.intent := vset s.nvm.intent (ringEntry q) []
        nvm.hours := s.hours
        prot.latch := rest
        prot.latest := b
        prot.nextSeq := seqAfter q
        prot.commitTimes := s.now :: recent }
      let s2 := recordAlarm s1 r.code r.aux r.toFault r.ended
      let s2 := if r.code = 0x0C then railCause s2 (if r.aux then .aux else .main) (railPins r) else s2
      addEntries s2 (entryPlain 0x40 b :: if r.companion.isEmpty then [] else [r.companion]))

/-- HOUR_COUNT_STORE (R836): every 16 h. -/
def execHourCountStore (s : State) : Host.Outcome State Fault Refusal :=
  .next (if s.boot.step = .por then s else { s with nvm.hours := s.hours })

end Sys2Proof.Machine
end

