-- ==== Sys2Proof/Machine/Monitors.lean ====
section
/-! DEFINITION. The commands of the window monitors and of their latches (file 14). -/

namespace Sys2Proof.Machine

/-! ### Events (R545, R549) -/

/-- The state of a monitor for its events; both sides asserted count as above (Table WIN-4). -/
def monPos (s : State) (k : Nat) : MonPos :=
  if !live s k then .inside else if (mon s k).above then .above else .below

/-- The event code of a state (Table ENG-3). -/
def posCode (p : MonPos) : Byte := match p with | .inside => 0x03 | .above => 0x01 | .below => 0x02

/-- An event is recorded when ROUTE bit 2 is set, the domain is on, the state differs from the last one recorded, and
1 ms has passed since the previous event. -/
def recordEvent (s : State) (k : Fin 24) : State :=
  let m := mon s k.val
  let p := monPos s k.val
  if !(routeOf s k.val).getLsbD 2 || !monEnabled s k.val || !isOn s (monDom k.val) || m.holdoff || p = m.recorded then s
  else presentSlow (modMon s k.val fun x => { x with recorded := p, holdoff := true }) (.event k (posCode p))

/-- Both channels follow their trips. -/
def tripsNow (s : State) : State := applyTrips (applyTrips s .main) .aux

/-! ### Live outputs -/

/-- One comparator of a settled monitor asserts: the latch sets, and the fixed action of Table WIN-1 follows. -/
def monActs (s : State) (k : Fin 24) (side : Side) (snap : Snap) : State :=
  let s1 := modMon s k.val fun m =>
    match side with
    | .upper => { m with above := true, latch := true }
    | .lower => { m with below := true, latch := true }
  let s2 :=
    if side = .upper then
      match k.val with
      | 2 => overvoltage s1 .main snap
      | 5 => hotter s1 false snap
      | 6 => hotter s1 true snap
      | _ => s1
    else s1
  recordEvent (tripsNow s2) k

/-- The monitor acts now: enabled, its domain on, settled. -/
def monActive (s : State) (k : Nat) : Bool :=
  monEnabled s k && (isOn s (monDom k) || monWarm s k) && (mon s k).settled

/-- The comparator of a side is asserted. -/
def sideOn (m : MonSt) (side : Side) : Bool := match side with | .upper => m.above | .lower => m.below

/-- MONITOR_ASSERT (R483, R498, R506, R526 to R530, R537, R543 to R545, R806). -/
def execMonitorAssert (k : Fin 24) (side : Side) (m : MonReading) (snap : Snap) (s : State) :
    Host.Outcome State Fault Refusal :=
  let s0 := moveRefFor s k.val
  .next (if monActive s0 k.val && crosses s0 k.val side m && !sideOn (mon s0 k.val) side then monActs s0 k side snap else s0)

/-- MONITOR_DEASSERT (R180, R483, R532, R544, R545): pulses resume. -/
def execMonitorDeassert (k : Fin 24) (side : Side) (m : MonReading) (s : State) : Host.Outcome State Fault Refusal :=
  let s0 := moveRefFor s k.val
  .next (if sideOn (mon s0 k.val) side && recrosses s0 k.val side m then
    let s1 := modMon s0 k.val fun x => match side with | .upper => { x with above := false } | .lower => { x with below := false }
    recordEvent (tripsNow s1) k
  else s0)

/-- EVENT_HOLDOFF_END (R545). -/
def execEventHoldoffEnd (k : Fin 24) (s : State) : Host.Outcome State Fault Refusal :=
  .next (recordEvent (modMon s k.val fun m => { m with holdoff := false }) k)

/-- MONITOR_SETTLED (R533, R548, R549): the live output starts to follow the comparators. -/
def execMonitorSettled (k : Fin 24) (m : MonReading) (snap : Snap) (s : State) : Host.Outcome State Fault Refusal :=
  let s0 := moveRefFor s k.val
  .next (if monEnabled s0 k.val && isOn s0 (monDom k.val) && !(mon s0 k.val).settled then
    let s1 := modMon s0 k.val fun x => { x with settled := true, above := false, below := false }
    let s2 := if crosses s1 k.val .upper m then monActs s1 k .upper snap else s1
    if crosses s2 k.val .lower m then monActs s2 k .lower snap else s2
  else s0)

/-! ### Latches (R537 to R541) -/

/-- CLR of a monitor (Table REL-10). -/
def clrOf (s : State) (k : Nat) : Bool := match monCfg s k with | some m => m.clr | none => false

/-- Monitor latches for which f holds are cleared; a live output sets its latch again at once (R537). -/
def clearLatches (s : State) (f : Nat → Bool) : State :=
  { s with
    mons.mon := vgen 24 fun k =>
      let m := mon s k
      if f k then { m with latch := live s k } else m }

/-- LATCH_PERIOD_CLEAR (R468, R469, R471, R481, R482, R537, R539): a period start of the switching clock, or a tick period
while none runs: the latches of monitors with CLR clear, the regulator takes the mean sense voltages of the period that ends,
and a new period begins. -/
def execLatchPeriodClear (sense : Vector Half 7) (s : State) : Host.Outcome State Fault Refusal :=
  let s1 := clearLatches s (clrOf s)
  .next (if clockRuns s1 then periodStart s1 sense else s1)

/-- The low pulse of a WACK that left causes ends: the pin rises, unless it pends or is held low meanwhile (R344). -/
def pinsRiseAgain (s : State) : State :=
  eachPin s 0xF fun w => if w.again then { w with again := false, pin := !w.pend && w.held == .no } else w

/-- What a tick period brings to the switching clock: while it runs, some periods have passed; while none runs, the latches
of monitors with CLR clear (R444, R445, R477, R539). -/
def clockTick (s : State) : State :=
  if clockRuns s then { somePeriods s with reg.dwell := min 200000 (30517 + s.reg.dwell) } else clearLatches s (clrOf s)

/-- One tick period passes (log entry 3): the hour count advances in 1/16 h units while the AON island is powered, and
acts as HOUR_PASS does when it reaches a whole hour (R480, R838); the low pulse of a WACK ends (R344). -/
def tickOnce (s : State) : State :=
  let n := s.now + 1
  let t := pinsRiseAgain (clockTick s)
  if s.boot.step ≠ .por && n % 7372800 = 0 then
    let h := satur 0xFFFFFF (s.hours + 1)
    let t1 : State := { t with now := n, hours := h }
    if h % 16 = 0 && h ≠ s.hours then wholeHour t1 else t1
  else { t with now := n }

/-- W10 (Table WIN-3). -/
def word10 (s : State) : Half :=
  BitVec.ofNat 16 ((List.range 16).foldl (fun a k => a + 2 ^ k * bit (mon s k).latch) 0)

/-- W11 (Table WIN-3). -/
def word11 (s : State) : Half :=
  BitVec.ofNat 16 ((List.range 8).foldl (fun a k => a + 2 ^ k * bit (mon s (16 + k)).latch) 0 +
    (List.range 7).foldl (fun a k => a + 2 ^ (8 + k) * bit (vget s.mons.pcl false k)) 0)

/-- CLRW (R540, R541): the snapshot's latches are cleared and the snapshot becomes empty. -/
def execClrw (qsel : BitVec 6) (s : State) : Host.Outcome State Fault Refusal :=
  .next (if !pinsLive s then s
  else if qsel = 0x10 then
    let s1 := clearLatches s fun k => k < 16 && s.mons.snap10.getLsbD k && !clrOf s k
    { s1 with mons.snap10 := 0 }
  else if qsel = 0x11 then
    let s1 := clearLatches s fun k => 16 ≤ k && s.mons.snap11.getLsbD (k - 16) && !clrOf s k
    { s1 with
      mons.pcl := vgen 7 fun k => vget s.mons.pcl false k && !s.mons.snap11.getLsbD (8 + k)
      mons.snap11 := 0 }
  else s)

/-- READ_LATCH_WORD (R540, R691): the word is read and becomes its snapshot. -/
def execReadLatchWord (second : Bool) (s : State) : Host.Outcome State Fault Refusal :=
  .next (if !pinsLive s then s
  else if second then
    let w := if isReady s then word11 s else 0
    { s with mons.snap11 := w, win.qd := w, win.qcsN := true, win.qoeN := true }
  else
    let w := if isReady s then word10 s else 0
    { s with mons.snap10 := w, win.qd := w, win.qcsN := true, win.qoeN := true })

/-- A domain leaves on: its monitors hold no state but their latches (R548, R549). -/
def monitorsLeave (s : State) (d : Nat) : State :=
  { s with
    mons.mon := vgen 24 fun k =>
      let m := mon s k
      if monDom k = d then { m with settled := false, above := false, below := false, recorded := .inside, holdoff := false } else m }

end Sys2Proof.Machine
end

