-- ==== Sys2Proof/Machine/LinkOps.lean ====
section
/-! DEFINITION. Shared operations of the tether ports: link down, go-back, acknowledgement, credit, and the hop
acceptance of a received frame (files 15 and 16). -/

namespace Sys2Proof.Machine

/-- ERR of a port counts n (Table TLK-7). -/
def addErr (s : State) (p : Port) (n : Nat) : State := modLink s p fun l => { l with err := satur 15 (l.err + n) }

/-- Code errors in a frame that arrives on an up port count in ERR (R559, R588). -/
def countCode (s : State) (p : Port) (rx : RxFrame) : State :=
  if portUp s p && rx.codeErrors ≠ 0 then addErr s p rx.codeErrors else s

/-! ### Link down (R565, R566, R581, R582) -/

/-- The CAUSE byte of a RING break report (Table TFR-4). -/
def causeCode (c : DownCause) : Byte :=
  match c with
  | .goingDown => 1
  | .lossOfSignal => 2
  | .lossOfSync => 3
  | .partnerRetrains => 4
  | .exhaustion => 5
  | .ownDomain => 6
  | .clockLoss => 7

/-- The down is orderly (Table TLK-5). -/
def orderlyDown (c : DownCause) : Bool := match c with | .goingDown | .ownDomain => true | _ => false

/-- A port is not up any more: it trains again, or is lock-failed, or is down with its domain. -/
def resetLink (s : State) (p : Port) (st : LinkState) (step : Nat) : State :=
  modLink s p fun l =>
    { l with
      st := st, step := step, settlings := 0, resend := [], goBackDue := false, goBacks := 0, ackDue := false, nak := false
      nakSent := false, creditSent := false, ctl := Credit.zero, bulk := Credit.zero, downAt := msNow s }

/-- RING frames that wait for a port are discarded when it is not up (R612). -/
def dropRings (s : State) (p : Port) : State :=
  ((queueOf s (holdTag p .ctl)).filter fun f => fTyp f.bytes == 9).foldl (fun t f => releaseCopy t (holdTag p .ctl) f) s

/-- A port goes down, orderly or not (R566): H, the alert and notice 0x50, the break report, and its credits; loss of sync is
16 code errors (Table TLK-5). -/
def portDownAs (s : State) (p : Port) (c : DownCause) (orderly : Bool) : State :=
  let o := otherPort p
  let s1 := match c with
    | .clockLoss => resetLink s p .lockFailed 0
    | .ownDomain => if isOn s (portDom p) then resetLink s p .training 2 else resetLink s p .down 0
    | .lossOfSync => addErr (resetLink s p .training 2) p 16
    | _ => resetLink s p .training 2
  let s1 := dropRings s1 p
  let s2 := if s1.tether.loop && p = .u then { s1 with tether.hIsD := true } else s1
  let pay : List Byte :=
    [2, if orderly then 2 else 0, BitVec.ofNat 8 (portNum p), causeCode c, 0, 0, 0, 0]
  let s3 := if portUp s2 o && (!orderly || s2.tether.loop) then originate s2 9 0 pay o false else s2
  if orderly then s3
  else
    let s4 := addAlert s3 (.linkDown p)
    let s5 := if portUp s4 o then addEntry s4 (entryPlain 0x50 [BitVec.ofNat 8 (portNum p), causeCode c, 0, 0]) else s4
    if c = .clockLoss then
      let s6 := addAlert s5 (.lockFail p)
      if portUp s6 o then addEntry s6 (entryPlain 0x51 [BitVec.ofNat 8 (portNum p), 0, 0, 0]) else s6
    else s5

/-- An up port goes down for a cause of Table TLK-5. (DEDUCED, log entry 119) -/
def portDown (s : State) (p : Port) (c : DownCause) : State := portDownAs s p c (orderlyDown c)

/-! ### Go-back and acknowledgement (R570 to R572) -/

/-- Outstanding frames wait to be resent from the oldest; SENT is rewound for those not yet rewound (R571, R575). -/
def rewind (l : Link) : Link :=
  let l1 := l.out.foldl (fun m x => if l.resend.contains x.1 then m else subSent m x.2.bytes) l
  { l1 with resend := l.out.map (·.1), goBackDue := !l.out.isEmpty }

/-- A go-back; the sixteenth in a row takes the port down (R571, R572). -/
def goBack (s : State) (p : Port) : State :=
  let l := link s p
  if l.out.isEmpty || l.goBackDue then s
  else if 15 ≤ l.goBacks then portDown s p .exhaustion
  else modLink s p fun m => { rewind m with goBacks := m.goBacks + 1 }

/-- The oldest k outstanding frames are acknowledged and released (R570, R647); a frame that waited to be resent counts
as sent. -/
def ackOldest (s : State) (p : Port) (k : Nat) : State :=
  let l := link s p
  let gone := l.out.take k
  let s1 := modLink s p fun m =>
    let m1 := gone.foldl (fun a x => if m.resend.contains x.1 then addSent a x.2.bytes else a) m
    { m1 with
      out := m.out.drop k
      resend := m.resend.filter fun h => !(gone.map (·.1)).contains h
      goBacks := if gone.isEmpty then m.goBacks else 0 }
  let s2 := if (link s1 p).resend.isEmpty then modLink s1 p fun m => { m with goBackDue := false } else s1
  gone.foldl (fun t x => afterRemoval t x.2) s2

/-- An ACK with E (R570): one outside the outstanding range, plus one, is ignored. -/
def takeAck (s : State) (p : Port) (e : Byte) (nak : Bool) : State :=
  let l := link s p
  let first := match l.out with | x :: _ => x.1 | [] => l.next
  let k := (e - first).toNat
  if l.out.length < k then s
  else
    let s1 := ackOldest s p k
    if nak then goBack s1 p else s1

/-- A due ACK leaves (R570). -/
def sendAck (s : State) (p : Port) : State :=
  modLink s p fun l => { l with ackDue := false, nak := false, tx := ackFrame s l.e l.nak, txEnd := .eof }

/-! ### Hop acceptance (R567, R599) -/

/-- An HSEQ at E or later: up to 127 ahead (DEDUCED, log entry 23). -/
def atOrAfter (h e : Byte) : Bool := (h - e).toNat < 128

/-- A sequenced frame is discarded: a NAK once for E, or the last ACK again; a frame that ends with EAB gives neither
(R567). (DEDUCED, log entry 139) (DEDUCED, log entry 143) -/
def discardReply (s : State) (p : Port) (rx : RxFrame) : State :=
  modLink s p fun l =>
    if rx.ending = .eab then l
    else if atOrAfter (fHseq rx.bytes) l.e then
      if l.nakSent then l else { l with ackDue := true, nak := true, nakSent := true }
    else { l with ackDue := true, nak := l.nakSent }

/-- W24 counts a frame whose HCRC, CRC-32 or byte count fails (Table STW-13). -/
def countCrc (s : State) : State := { s with win.ecrc := satur 0xFFFF (s.win.ecrc + 1) }

/-- The check values and the byte count are right, and the frame ends with EOF. -/
def rxGood (rx : RxFrame) : Bool := rx.ending == .eof && hcrcOk rx.bytes && crcOk rx.bytes

/-- A check value or the byte count fails; another end pair counts as a CRC-32 failure (R594, R599). -/
def rxBad (rx : RxFrame) : Bool :=
  !hcrcOk rx.bytes || (rx.ending != .eab && (!crcOk rx.bytes || rx.ending == .badPair))

/-- The frame is of a reserved TYPE or its LEN is out of range (R600). -/
def malformed (b : List Byte) : Bool := typReserved b || !lenOk b

/-- A frame is discarded: counted in W24 where a check failed, and answered as R567 states when it is sequenced. -/
def discardFrame (s : State) (p : Port) (rx : RxFrame) : State :=
  let s1 := if rxBad rx then countCrc s else s
  if linkControl (fTyp rx.bytes) then s1 else discardReply s1 p rx

/-- The frame lies within the credit of its class; one of a reserved TYPE is not tested (R567, R600). -/
def inCredit (s : State) (p : Port) (b : List Byte) : Bool :=
  typReserved b || cellsOf b ≤ creditLeft (creditOf (link s p) (clsOf (fTyp b)))

/-- A sequenced frame that ended with EOF and checks is accepted when its HSEQ is E and it lies within its credit; else
it is discarded (R567, R576). The accepted frame holds its cells. -/
def hopReceive (s : State) (p : Port) (rx : RxFrame) : State × Option Accepted :=
  let b := rx.bytes
  if !portUp s p then (s, none)
  else if !rxGood rx || fHseq b ≠ (link s p).e then (discardFrame s p rx, none)
  else
    let n := if typReserved b then 0 else cellsOf b
    let cs := pickCells s n
    if !inCredit s p b || cs.length < n then (addErr (discardReply s p rx) p 1, none)
    else
      let s1 := modLink s p fun l =>
        let l1 := { l with e := l.e + 1, ackDue := true, nak := false, nakSent := false }
        modCredit l1 (clsOf (fTyp b)) fun k => { k with taken := k.taken + n }
      let a : Accepted := ⟨b, cs, some p, s.queues.nextId⟩
      let s2 := { allocCells s1 cs with queues.nextId := s.queues.nextId + 1 }
      (if fTyp b = 9 then s2 else markAccept s2 (fSrc b).toNat (fSseq b), some a)

/-- In safe mode a frame that arrives leaves the other port unchanged (R147, R629). -/
def repeatFrame (s : State) (p : Port) (rx : RxFrame) : State :=
  let o := otherPort p
  if portUp s p && portUp s o && cabled s o then modLink s o fun l => { l with tx := rx.bytes, txEnd := rx.ending } else s

/-- The deferred notices are queued once a port is up (R214, R333). -/
def flushDeferred (s : State) : State :=
  let es := s.queues.deferred
  es.foldl addEntry { s with queues.deferred := [] }

end Sys2Proof.Machine
end

