-- ==== Sys2Proof/Machine/Link.lean ====
section
/-! DEFINITION. The commands of link bring-up, link down, acknowledgement, credit and sending (files 15 to 17). -/

namespace Sys2Proof.Machine

/-! ### Bring-up (Sequence TLK-1) -/

/-- The port trains and has reached this step. -/
def atStep (s : State) (p : Port) (k : Nat) : Bool := (link s p).st == .training && (link s p).step == k

/-- PLL_LOCK (R561 step 2). -/
def execPllLock (p : Port) (s : State) : Host.Outcome State Fault Refusal :=
  .next (if atStep s p 1 then modLink s p fun l => { l with step := 2, pe := 0, pereq := 0 } else s)

/-- PLL_LOCK_TIMEOUT (R562). -/
def execPllLockTimeout (p : Port) (s : State) : Host.Outcome State Fault Refusal :=
  .next (if atStep s p 1 then
    let s1 := addAlert (modLink s p fun l => { l with st := .lockFailed, step := 0 }) (.lockFail p)
    if portUp s1 (otherPort p) then addEntry s1 (entryPlain 0x51 [BitVec.ofNat 8 (portNum p), 0, 0, 0]) else s1
  else s)

/-- SYMBOL_LOCK (R558, R561 step 3): the polarity, and byte 3 of the partner's TS1. -/
def execSymbolLock (p : Port) (inverted : Bool) (addr flags : Byte) (s : State) : Host.Outcome State Fault Refusal :=
  let clash := addr != 0 && stallAddr s == some addr.toNat
  .next (if atStep s p 2 then
    let s1 := modLink s p fun l => { l with step := 3, pol := inverted, psafe := flags.getLsbD 4, settlings := 0 }
    if clash then addAlert s1 (.addrClash p) else s1
  else s)

/-- EQUALISER_SETTLE (R561 step 4, R563): the boost in steps of 0.8 dB and the partner's PECUR. -/
def execEqualiserSettle (p : Port) (boost : BitVec 4) (partnerPe : BitVec 2) (s : State) : Host.Outcome State Fault Refusal :=
  .next (if (atStep s p 3 || atStep s p 4) && (link s p).settlings < 3 then
    modLink s p fun l =>
      { l with
        step := 4
        eq := boost
        settlings := l.settlings + 1
        pereq := if 13 ≤ boost.toNat && partnerPe.toNat < 2 then partnerPe + 1
          else if boost.toNat ≤ 3 && 0 < partnerPe.toNat then partnerPe - 1 else l.pereq }
  else s)

/-- PARTNER_PEREQ_APPLIED (R561 step 5). -/
def execPartnerPereqApplied (p : Port) (pereq : BitVec 2) (s : State) : Host.Outcome State Fault Refusal :=
  .next (if atStep s p 4 then modLink s p fun l => { l with step := 5, pe := pereq } else s)

/-- TRAINING_DONE (R561 step 6, R607): HELLO is sent. -/
def execTrainingDone (p : Port) (s : State) : Host.Outcome State Fault Refusal :=
  .next (if atStep s p 5 then modLink s p fun l => { l with step := 6, tx := helloFrame s p, txEnd := .eof, fresh := false } else s)

/-- HELLO_TIMEOUT (R564): back to symbol lock. -/
def execHelloTimeout (p : Port) (s : State) : Host.Outcome State Fault Refusal :=
  .next (if atStep s p 6 then modLink s p fun l => { l with step := 2, settlings := 0 } else s)

/-- A link-control frame of a type is well formed; one that is not is discarded, counted in W24 or in ERR (R600). -/
def linkControlOk (rx : RxFrame) (typ : BitVec 4) : Bool := rxGood rx && fTyp rx.bytes == typ && lenOk rx.bytes

/-- What a link-control frame that is not well formed leaves behind: ERR counts it when a condition of R599 fails (R600), W24
when a check value or the byte count does. -/
def badLinkControl (s : State) (p : Port) (rx : RxFrame) : State :=
  let s1 := if rxBad rx then countCrc s else s
  if !hcrcOk rx.bytes || !lenOk rx.bytes || rx.bytes.length ≠ 20 + fLen rx.bytes then addErr s1 p 1 else s1

/-- Cells that a port's earlier frames of a class still hold here (R576). -/
def heldCells (s : State) (p : Port) (c : Cls) : Nat :=
  cellSum ((storedFrames s).filter fun f =>
    f.inPort == some p && f.id < (link s p).sinceId && clsOf (fTyp f.bytes) == c)

/-- LIMIT of the control class: 32 cells less those of earlier frames (Table TLK-6, R576). -/
def ctlLimit (s : State) (p : Port) : Nat := 32 - heldCells s p .ctl

/-- The bulk window after a CREDIT (R640): it rises towards 128 by at most half of the free general cells, the amount
being the device's choice (log entry 5), and to 9 where that is possible. -/
def bulkRaise (s : State) (p : Port) : Nat × State :=
  let c := (link s p).bulk
  let w := c.limit.toNat - ((BitVec.ofNat 16 c.taken : Half) - c.freed).toNat
  let g := generalFree s
  let (f, s1) := takeFree s
  let a := f.toNat % (min (128 - w) (g / 2) + 1)
  let w1 := w + a
  (if w1 < 9 && 9 - w1 ≤ g - a then 9 else w1, s1)

/-- A CREDIT leaves (R575, R576, R606, R640); LIMIT is never lowered. -/
def sendCredit (s : State) (p : Port) : State :=
  let (w, s1) := bulkRaise s p
  let limC := ctlLimit s1 p
  modLink s1 p fun l =>
    let held := ((BitVec.ofNat 16 l.bulk.taken : Half) - l.bulk.freed).toNat
    let b := { l.bulk with limit := BitVec.ofNat 16 (max l.bulk.limit.toNat (w + held)), freedSent := l.bulk.freed }
    let k := { l.ctl with limit := BitVec.ofNat 16 (max l.ctl.limit.toNat limC), freedSent := l.ctl.freed }
    { l with ctl := k, bulk := b, creditSent := true, tx := creditFrame s1 k b, txEnd := .eof }

/-- The held frames of a port are renumbered from 0 (R568). -/
def renumber (l : Link) : Link :=
  { l with
    out := (List.range l.out.length).zipWith (fun k x => (BitVec.ofNat 8 k, x.2)) l.out
    next := BitVec.ofNat 8 l.out.length }

/-- The resume point of R568; a partner that announces FRESH numbers its own frames from 0 (DEDUCED, log entry 24), and
with nothing held the next frame takes the partner's E (DEDUCED, log entry 33). -/
def resume (s : State) (p : Port) (e : Byte) (fresh : Bool) : State :=
  if fresh then modLink s p fun l => { renumber l with e := 0 }
  else
    let l := link s p
    match l.out with
    | [] => modLink s p fun m => { m with next := e }
    | x :: _ =>
      let k := (e - x.1).toNat
      if l.out.length < k then s else ackOldest s p k

/-- A local copy of a HELLO under deliver or copy (R642, log entry 25). -/
def helloCopy (s : State) (b : List Byte) (d : Decision) : State :=
  let tag := localTag b d.qtag
  let n := cellsOf b
  let cs := pickCells s n
  if (d.disp = .deliver || d.disp = .copy) && copyRoom s n (.drop tag) .ctl && n ≤ generalFree s && cs.length = n then
    let f : QFrame := ⟨s.queues.nextId, b, cs, msNow s, false, none, BitVec.ofNat 16 tag⟩
    tallyAdd (pushQueue { allocCells s cs with queues.nextId := s.queues.nextId + 1 } tag f) tag 1 (16 + fLen b)
  else s

/-- The end decision on the frame of a port, which it leaves; default when none was made (R268). A stream that still
runs no longer gives one (R579). -/
def takeDecision (s : State) (p : Port) : Decision × State :=
  let d := match p with | .u => s.engs.decU | .d => s.engs.decD
  let s1 := match p with
    | .u => { s with engs.decU := none }
    | .d => { s with engs.decD := none }
  (d.getD ⟨.dflt, none⟩, s1)

/-- HELLO (R561 step 7, R568, R576, R590, R607): only during bring-up. -/
def execHello (p : Port) (rx : RxFrame) (s : State) : Host.Outcome State Fault Refusal :=
  let b := rx.bytes
  .next (if !linkControlOk rx 3 then badLinkControl (countCode s p rx) p rx
  else if !atStep s p 6 then countCode s p rx
  else
    let (d, s1) := takeDecision s p
    let flags := payByte b 1
    let s2 := modLink (resume s1 p (payByte b 0) (flags.getLsbD 0)) p fun l =>
      { l with step := 7, psafe := l.psafe || flags.getLsbD 1, ctl := Credit.zero, bulk := Credit.zero, sinceId := s1.queues.nextId }
    let s3 := if stallAddr s2 = some (fSrc b).toNat then addAlert s2 (.addrClash p) else s2
    if s3.boot.safe then s3
    else helloCopy (sendCredit s3 p) b d)

/-- CREDIT (R561 step 8, R571, R575): FREED and LIMIT per class; in bring-up the port comes up, its held frames wait to
be resent, deferred notices are queued, the pace rails have risen (R767), and the tug receiver of the port hears no more of a
candidate (R241). In safe mode it leaves the other port unchanged (R147). -/
def execCredit (p : Port) (rx : RxFrame) (s : State) : Host.Outcome State Fault Refusal :=
  let b := rx.bytes
  let half (k : Nat) : Half := BitVec.ofNat 16 (payField b k 2)
  .next (if s.boot.safe && portUp s p then repeatFrame (countCode s p rx) p rx
  else if !linkControlOk rx 4 then badLinkControl (countCode s p rx) p rx
  else
    let put (t : State) : State := modLink t p fun l =>
      { l with
        ctl := { l.ctl with pfreed := half 0, plimit := half 2 }
        bulk := { l.bulk with pfreed := half 4, plimit := half 6 } }
    if portUp s p then put (countCode s p rx)
    else if atStep s p 7 then
      let s1 := modLink (put { s with front.locked := vset s.front.locked (tugDom p) false }) p fun l =>
        { l with st := .up, step := 8, resend := l.out.map (·.1), goBackDue := !l.out.isEmpty }
      flushDeferred ([0, 1, 2].foldl raiseRail s1)
    else s)

/-! ### Link down -/

/-- LINK_DOWN (R565, R566). -/
def execLinkDown (p : Port) (c : DownCause) (s : State) : Host.Outcome State Fault Refusal :=
  .next (if portUp s p then portDown s p c else s)

/-! ### Acknowledgement and credit -/

/-- ACK (R570, R571, R605). -/
def execAck (p : Port) (rx : RxFrame) (s : State) : Host.Outcome State Fault Refusal :=
  let s0 := countCode s p rx
  .next (if !portUp s p then s
  else if s.boot.safe then repeatFrame s0 p rx
  else if !linkControlOk rx 5 then badLinkControl s0 p rx
  else takeAck s0 p (payByte rx.bytes 0) ((payByte rx.bytes 1).getLsbD 0))

/-- ACK_SEND (R570). -/
def execAckSend (p : Port) (s : State) : Host.Outcome State Fault Refusal :=
  .next (if portUp s p && (link s p).ackDue && !s.boot.safe then sendAck s p else s)

/-- GO_BACK_TIMEOUT (R571, R572). -/
def execGoBackTimeout (p : Port) (s : State) : Host.Outcome State Fault Refusal :=
  .next (if portUp s p then goBack s p else s)

/-- CREDIT_SEND (R576, R640). -/
def execCreditSend (p : Port) (s : State) : Host.Outcome State Fault Refusal :=
  .next (if portUp s p && !s.boot.safe then sendCredit s p else s)

/-! ### Sending (R646) -/

/-- The port serves the notice queue: it is H, or H is down in loop mode (R646, R583). -/
def servesNotices (s : State) (p : Port) : Bool :=
  dirH s == p || (s.tether.loop && !portUp s (dirH s))

/-- The head of a queue, when the partner's credit lets it start. -/
def headOf (s : State) (p : Port) (tag : Nat) : Option (Nat × QFrame) :=
  match queueOf s tag with
  | f :: _ => if maySend (link s p) (clsOf (fTyp f.bytes)) (cellsOf f.bytes) then some (tag, f) else none
  | [] => none

/-- The next new frame of a port in its send order (R646): control hold and notice queues in turn, then bulk hold; during
an outage the notice queue alone (R725, R730). -/
def nextNew (s : State) (p : Port) : Option (Nat × QFrame) :=
  let hold := if inOutage s then none else headOf s p (holdTag p .ctl)
  let note := if servesNotices s p then headOf s p noticeTag else none
  let first := if (link s p).altHold then hold.orElse (fun _ => note) else note.orElse (fun _ => hold)
  first.orElse (fun _ => if inOutage s then none else headOf s p (holdTag p .bulk))

/-- What a read of a frame's cells finds is counted in W25 and W26 (R654, R655). (DEDUCED, log entry 118) -/
def countEcc (s : State) (e : EccResult) : State :=
  let addC (t : State) : State := { t with win.ecor := satur 0xFFFF (t.win.ecor + 1) }
  let addU (t : State) : State := { t with win.eunc := satur 0xFFFF (t.win.eunc + 1) }
  match e with
  | .clean => s
  | .corrected => addC s
  | .uncorrectable => addU s
  | .tagCorrected => addU s
  | .tagsUncorrectable => addU (addU s)
  | .descriptor => s

/-- The descriptor of a queue fails parity: counted in W27, its frames await resolution, and it is empty (R745). -/
def loseQueue (s : State) (tag : Nat) : State :=
  loseDescriptors { s with win.epar := satur 0xFFFF (s.win.epar + 1) } fun t => t == tag

/-- The read fails the frame (R654, R655). -/
def eccFails (e : EccResult) : Bool := match e with | .uncorrectable | .tagsUncorrectable => true | _ => false

/-- A queued frame fails with reason 0x06; when both tag copies failed, every later frame of its queue is reported with
0x07 (R655). -/
def eccFail (s : State) (tag : Nat) (f : QFrame) (e : EccResult) : State :=
  let later := ((queueOf s tag).dropWhile fun g => g != f).drop 1
  let s1 := failFrame s tag f 0x06
  if e = .tagsUncorrectable then later.foldl (fun t g => failFrame t tag g 0x07) s1 else s1

/-- A frame that was outstanding fails as it is resent: its HSEQ is not consumed, so the later ones move up (R573). -/
def outFail (s : State) (p : Port) (h : Byte) (f : QFrame) (e : EccResult) : State :=
  let l := link s p
  let before := l.out.takeWhile fun x => x.1 != h
  let after := (l.out.dropWhile fun x => x.1 != h).drop 1
  let bad := if e = .tagsUncorrectable then after.map (·.2) else []
  let rest := if e = .tagsUncorrectable then [] else after.map fun x => (x.1 - 1, x.2)
  let s1 := reportFrame s f.bytes f.tag 0x06
  let s2 := bad.foldl (fun t g => reportFrame t g.bytes g.tag 0x07) s1
  let s3 := modLink s2 p fun m =>
    { m with
      out := before ++ rest
      next := m.next - BitVec.ofNat 8 (1 + bad.length)
      resend := (before.map (·.1)).filter (m.resend.contains ·) ++ rest.map (·.1) }
  (f :: bad).foldl afterRemoval s3

/-- In safe mode a port sends the notices of R629 and nothing else of its own; the manual states no acknowledgement for
them there, so the frame is released as it leaves (log entry 31). -/
def sendSafe (s : State) (p : Port) : State :=
  match queueOf s noticeTag with
  | f :: _ =>
    if dirH s = p then
      releaseCopy (modLink s p fun l => { l with next := l.next + 1, tx := txBytes f.bytes l.next false, txEnd := .eof }) noticeTag f
    else s
  | [] => s

/-- The next frame of a port's send order starts; a due ACK comes first. A frame whose memories are not on waits for
them. -/
def sendNext (p : Port) (e : EccResult) (s : State) : State :=
  let l := link s p
  if !portUp s p then s
  else if s.boot.safe then sendSafe s p
  else if l.ackDue then sendAck s p
  else
    match l.out.find? fun x => l.resend.contains x.1 with
    | some (h, f) =>
      if !maySend l (clsOf (fTyp f.bytes)) (cellsOf f.bytes) then s
      else if !canRead s f then askAccess s f
      else if e = .descriptor then loseQueue s (outTag p)
      else
        let s1 := countEcc s e
        if eccFails e then outFail s1 p h f e
        else modLink s1 p fun m =>
          { addSent m f.bytes with
            resend := m.resend.filter fun k => k != h
            goBackDue := false
            txEnd := .eof
            tx := txBytes f.bytes h (fWrap f.bytes) }
    | none =>
      if 32 ≤ l.out.length then s
      else
        match nextNew s p with
        | none => s
        | some (tag, f) =>
          if !canRead s f then askAccess s f
          else
          let s1 := countEcc s e
          if e = .descriptor then loseQueue s tag
          else if eccFails e then eccFail s1 tag f e
          else
            let wrap := tag == noticeTag && dirH s != p
            let g := if wrap then { f with bytes := withWrap f.bytes } else f
            modLink (setQueue s1 tag ((queueOf s1 tag).drop 1)) p fun m =>
              { addSent m g.bytes with
                out := m.out ++ [(m.next, g)]
                next := m.next + 1
                altHold := if tag = noticeTag then true else if tag = holdTag p .ctl then false else m.altHold
                txEnd := .eof
                tx := txBytes g.bytes m.next (fWrap g.bytes) }

/-- FRAME_SEND (R569, R573, R583, R598, R646, R654, R655): a block that holds may start no frame (R376). -/
def execFrameSend (p : Port) (e : EccResult) (s : State) : Host.Outcome State Fault Refusal :=
  let (bar, s1) := barred s (portDom p)
  .next (if bar then s1 else sendNext p e s1)

end Sys2Proof.Machine
end

