-- ==== Sys2Proof/Machine/FrameRows.lean ====
section
/-! DEFINITION. The commands of frames that arrive at a tether port: acceptance, dispositions, cut-through, wrap, and
the device's own handling of ECHO, RING and malformed frames (files 15 to 17). -/

namespace Sys2Proof.Machine

/-! ### Lost matches (R702) and streams of a port -/

/-- W2D records an event of a stream: PORT, WHAT and START (Table STW-13). -/
def recordW2D (s : State) (port what : Nat) (start : Nat) : State :=
  { s with win.w2d := BitVec.ofNat 16 (port * 16384 + what * 4096 + start % 4096) }

/-- The PORT code of a stream kind (Tables ENG-4 and ENG-5). -/
def kindPort (k : StreamKind) : Nat :=
  match k with
  | .frame .u => 0
  | .frame .d => 1
  | .host => 2
  | .word .tugU => 0
  | .word .tugD => 1
  | .word .mains | .event => 3

/-- A stream of a kind is in progress on some engine. -/
def streamRuns (s : State) (k : StreamKind) : Bool :=
  s.engs.eng.toList.any fun e => (e.run.toList ++ e.paused).any fun x => x.kind == k

/-- Every stream in progress of a kind changed by f. -/
def modStreams (s : State) (k : StreamKind) (f : Stream → Stream) : State :=
  let g (x : Stream) : Stream := if x.kind = k then f x else x
  { s with engs.eng := s.engs.eng.map fun e => { e with run := e.run.map g, paused := e.paused.map g } }

/-- The end decision on a frame that has ended; a stream of it that still runs is late and gives none (R579).
(DEDUCED, log entry 120) -/
def frameDecision (s : State) (p : Port) : Decision × Bool × State :=
  let (d, s1) := takeDecision s p
  if streamRuns s1 (.frame p) then
    (⟨.dflt, none⟩, true, modStreams s1 (.frame p) fun x => { x with late := true })
  else (d, false, s1)

/-! ### Where a frame goes (R577 to R585, R601, R602, R612, Table QUE-5) -/

/-- The frame is addressed to this device: its own address or, for every device, 255. -/
def forUs (s : State) (b : List Byte) : Bool := (stallAddr s).isSome && (fDst b == ownAddr s || fDst b == 0xFF)

/-- The frame is addressed to this device alone. -/
def forUsAlone (s : State) (b : List Byte) : Bool := (stallAddr s).isSome && fDst b == ownAddr s

/-- The device is the frame's originator. -/
def fromUs (s : State) (b : List Byte) : Bool := (stallAddr s).isSome && fSrc b == ownAddr s

/-- The copies that a disposition asks for: transit, local (Table QUE-5). (DEDUCED, log entry 115) -/
def copiesOf (s : State) (b : List Byte) (d : Disp) : Bool × Bool :=
  match d with
  | .dflt => (!forUsAlone s b, fTyp b == 1 && forUs s b)
  | .forward => (true, false)
  | .deliver => (false, true)
  | .copy => (true, true)
  | .discard => (false, false)

/-- A transit frame may cut through to a port (R578). -/
def cutOk (s : State) (o : Port) (b : List Byte) : Bool :=
  let l := link s o
  portUp s o && !inOutage s && l.resend.isEmpty && !l.ackDue && l.out.length < 32 && (queueOf s (holdTag o .ctl)).isEmpty &&
    (queueOf s (holdTag o .bulk)).isEmpty && !(servesNotices s o && !(queueOf s noticeTag).isEmpty) &&
    maySend l (clsOf (fTyp b)) (cellsOf b)

/-- The place of a transit copy of a frame from port p: cut through, held, or wrapped; none when it goes nowhere.
(DEDUCED, log entry 116) -/
def transitTo (s : State) (p : Port) (b : List Byte) : Option CopyTo :=
  let o := otherPort p
  if portUp s o then some (if cutOk s o b then .cut o else .hold o false)
  else if fTyp b = 9 then none
  else if s.tether.loop && fDst b ≠ 0xFF && !fWrap b && !fromUs s b then some (.hold p true)
  else if cabled s o then some (.hold o false)
  else none

/-- A copy that has cut through to a port ends there with EAB: it takes no number and keeps no credit (R573, R579).
(DESIGN CHOICE, log entry 117) -/
def endEab (s : State) (o : Port) (b : List Byte) : State :=
  modLink s o fun l => { l with tx := txBytes b l.next (fWrap b), txEnd := .eab }

/-- A frame that cuts through and whose end decision keeps it here ends with EAB (R579). -/
def abortCut (s : State) (p : Port) (b : List Byte) (d : Disp) : State :=
  let o := otherPort p
  if (d = .deliver || d = .discard) && cutOk s o b then endEab s o b else s

/-- A frame that is discarded at its end had cut through when its header checked and it was to be accepted: the copy ends
with EAB (R578, R579). (DEDUCED, log entry 170) -/
def abortBad (s : State) (p : Port) (b : List Byte) : State :=
  let o := otherPort p
  if hcrcOk b && !linkControl (fTyp b) && !malformed b && fHseq b == (link s p).e && inCredit s p b && !forUsAlone s b &&
      !(fromUs s b && !fWrap b) && cutOk s o b then endEab s o b
  else s

/-- Sequence OUT-1 runs forward: frames are admitted only into cells of kept banks (R725). -/
def outageHolds (s : State) : Bool := inOutage s && s.outage.undo.isNone

/-- The copies of an accepted frame are made (R642 to R644); a frame without a copy is consumed. A frame that no port can
carry is reported undeliverable, a broadcast apart. During an outage a frame without kept cells is not held (R725). A copy
that cut through with a code error in it ends with EAB, and the frame is held to be sent whole (R573, R579). -/
def distribute (s : State) (p : Port) (a : Accepted) (d : Decision) (late spoilt : Bool) : State :=
  let b := a.bytes
  let own := fromUs s b && fWrap b
  let (tr, lo) := if own then (true, false) else copiesOf s b d.disp
  let dest0 := if tr then transitTo s p b else none
  let (dest, s) : Option CopyTo × State := match dest0 with
    | some (.cut o) => if spoilt then (some (.hold o false), endEab s o b) else (dest0, s)
    | _ => (dest0, s)
  let tag := localTag b d.qtag
  let name := d.qtag.getD (fQtag b)
  let s1 := if late then recordW2D s (kindPort (.frame p)) 3 0 else if own then s else abortCut s p b d.disp
  let s2 := if tr && dest.isNone && fDst b ≠ 0xFF && fTyp b ≠ 9 then reportFrame s1 b name 0x03 else s1
  let cs := dest.toList ++ if lo then [CopyTo.drop tag] else []
  askMemory (if cs.isEmpty then consume s2 a
    else if outageHolds s && a.cells.any (fun c => !cellKept s c) then consume (reportFrame s2 b name 0x09) a
    else admitCopies s2 a cs name)

/-- A frame of these types arrives: hop acceptance, then what the device itself does with it, then its copies. In safe
mode it is repeated (R629); a frame of the device's own with WRAP clear is consumed (R602); one that is malformed or of
another type is not this row's. -/
def receive (s : State) (p : Port) (rx : RxFrame) (typs : List Nat) (act : State → List Byte → State) : State :=
  let b := rx.bytes
  if s.boot.safe then repeatFrame (countCode s p rx) p rx
  else if !portUp s p || linkControl (fTyp b) then s
  else
    let (d, late, s1) := frameDecision (countCode s p rx) p
    if rxGood rx && fHseq b == (link s p).e && (malformed b || !typs.contains (fTyp b).toNat) then s
    else
      let (s2, acc) := hopReceive s1 p rx
      match acc with
      | none => s2
      | some a => if fromUs s2 b && !fWrap b then consume s2 a else distribute (act s2 b) p a d late (rx.codeErrors ≠ 0)

/-! ### The rows -/

/-- A management frame that this device may not take is reported with reason 0x0B (R209, R325). -/
def managementRefused (s : State) (b : List Byte) : State :=
  let bad := match (fTyp b).toNat with
    | 6 => forUs s b && (fSrc b ≠ 0 || fDst b = 0xFF)
    | 7 => forUs s b && fSrc b ≠ 0
    | _ => false
  if bad then reportFrame s b (fQtag b) 0x0B else s

/-- DATA (R567, R577 to R585, R601, R642 to R644): DATA frames, and TABLE_UPDATE frames, whose words have rows of their
own. A queue descriptor that fails parity on the way is lost first (R745). -/
def execData (p : Port) (rx : RxFrame) (lost : Option Half) (s : State) : Host.Outcome State Fault Refusal :=
  .next (receive (match lost with | some t => if s.boot.safe then s else loseQueue s t.toNat | none => s) p rx [1, 7] managementRefused)

/-- NOTICE (R622): handled as DATA, without a local copy under the default disposition. -/
def execNotice (p : Port) (rx : RxFrame) (s : State) : Host.Outcome State Fault Refusal :=
  .next (receive s p rx [2] fun t _ => t)

/-- An ECHO frame is a request (R609). -/
def echoIsRequest (b : List Byte) : Bool := payByte b 0 == 1

/-- The reply to a request delivered from address 0 (R610). -/
def echoAct (s : State) (b : List Byte) : State :=
  if forUs s b && fSrc b = 0 then
    let (o, w) := originPort s
    originate s 8 0 (2 :: (payload b).drop 1) o w
  else s

/-- ECHO_REQUEST (R610, R627). -/
def execEchoRequest (p : Port) (rx : RxFrame) (s : State) : Host.Outcome State Fault Refusal :=
  .next (if echoIsRequest rx.bytes then receive s p rx [8] echoAct else s)

/-- ECHO_REPLY (R610): delivered to this device it has no effect, and it passes in transit. -/
def execEchoReply (p : Port) (rx : RxFrame) (s : State) : Host.Outcome State Fault Refusal :=
  .next (if echoIsRequest rx.bytes then s else receive s p rx [8] fun t _ => t)

/-- A RING frame is a break report (Table TFR-4). -/
def ringIsBreak (b : List Byte) : Bool := payByte b 0 == 2

/-- A probe acts on loop mode and on H (R580, R581); the GK-460 is never in loop mode (R591). -/
def probeAct (p : Port) (s : State) (b : List Byte) : State :=
  let s1 := if (payByte b 1).getLsbD 0 && hasPort s .d then { s with tether.loop := true } else s
  if s1.tether.loop && p = .u then { s1 with tether.hIsD := false } else s1

/-- A break report on U turns H to D in loop mode (R581). -/
def breakAct (p : Port) (s : State) (_ : List Byte) : State :=
  if s.tether.loop && p = .u then { s with tether.hIsD := true } else s

/-- RING_PROBE (R580, R581, R612). -/
def execRingProbe (p : Port) (rx : RxFrame) (s : State) : Host.Outcome State Fault Refusal :=
  .next (if ringIsBreak rx.bytes then s else receive s p rx [9] (probeAct p))

/-- RING_BREAK (R581, R612). -/
def execRingBreak (p : Port) (rx : RxFrame) (s : State) : Host.Outcome State Fault Refusal :=
  .next (if ringIsBreak rx.bytes then receive s p rx [9] (breakAct p) else s)

/-- MALFORMED_FRAME (R600): an accepted frame of a reserved TYPE or with LEN out of its range is consumed with an entry
of reason 0x0A; a link-control frame is discarded and counted in ERR. -/
def execMalformedFrame (p : Port) (rx : RxFrame) (s : State) : Host.Outcome State Fault Refusal :=
  let b := rx.bytes
  .next (if s.boot.safe then repeatFrame (countCode s p rx) p rx
  else if linkControl (fTyp b) then
    if (portUp s p || (link s p).st = .training) && rxGood rx && !lenOk b then addErr (countCode s p rx) p 1 else s
  else if !malformed b then s
  else
    let (s1, acc) := hopReceive (countCode s p rx) p rx
    match acc with
    | none => s1
    | some a => reportFrame (consume s1 a) b (fQtag b) 0x0A)

/-- FRAME_DISCARDED (R567, R594, R599): a frame that is not accepted, on an up port; its end decision is discarded
(R269), and a cut-through copy ends with EAB (R579). -/
def execFrameDiscarded (p : Port) (rx : RxFrame) (s : State) : Host.Outcome State Fault Refusal :=
  .next (if s.boot.safe then repeatFrame (countCode s p rx) p rx
  else if !portUp s p then s
  else
    let (_, _, s1) := frameDecision (countCode s p rx) p
    if linkControl (fTyp rx.bytes) then badLinkControl s1 p rx
    else if rxGood rx && fHseq rx.bytes == (link s p).e && inCredit s1 p rx.bytes then s
    else if rxGood rx && fHseq rx.bytes == (link s p).e then addErr (discardReply s1 p rx) p 1
    else discardFrame (abortBad s1 p rx.bytes) p rx)

end Sys2Proof.Machine
end

