-- ==== Sys2Proof/Machine/Delivery.lean ====
section
/-! DEFINITION. The commands of a Reel delivery over the tether (files 05 and 16), but for the end of verification. -/

namespace Sys2Proof.Machine

/-! ### One part (Table TFR-5) -/

/-- XFER of a part. -/
def partXfer (b : List Byte) : Half := BitVec.ofNat 16 (payField b 0 2)

/-- OFFSET of a part. -/
def partOff (b : List Byte) : Nat := payField b 2 4

/-- DLEN of a part. -/
def partDlen (b : List Byte) : Nat := payField b 6 2

/-- LAST of a part. -/
def partLast (b : List Byte) : Bool := (payByte b 8).getLsbD 0

/-- ACT of a part, which has a meaning with LAST only. -/
def partAct (b : List Byte) : Bool := (payByte b 8).getLsbD 1

/-- DATA of a part. -/
def partData (b : List Byte) : List Byte := (payload b).drop 20

/-- The key of a part's CMAC (R207). -/
def partKey (s : State) : BitVec 128 := if s.boot.safe then 0 else kmgmtOf s

/-- The MAC of a part checks (R614). -/
def partMacOk (s : State) (b : List Byte) : Bool :=
  (cmac (partKey s) (0x52 :: fDst b :: ((payload b).take 12 ++ partData b))).take 8 == sliceBytes (payload b) 12 8

/-- OFFSET and DLEN are aligned and within the slot, and LEN is 20 + DLEN (Table TFR-5). -/
def partAligned (b : List Byte) : Bool :=
  let o := partOff b
  let n := partDlen b
  o % 256 == 0 && 256 ≤ n && n ≤ 1792 && n % 256 == 0 && fLen b == 20 + n && o + n ≤ 0x3FF000

/-- An entry about a part. -/
def partEntry (s : State) (reason : Byte) (b : List Byte) (sub : Nat) : State :=
  addEntry s (entryPlain reason (xferDetail (partXfer b) (partOff b) sub))

/-! ### The target slot (R148, R207) -/

/-- A slot holds a valid Reel. -/
def slotValid (s : State) (k : Fin 2) : Bool :=
  match slotHeader s k with
  | some h => verifySlot s k h ((nvmCopy s).bind (·.keyHash))
  | none => false

/-- VERSION of a slot's header. -/
def slotVersion (s : State) (k : Fin 2) : Nat := match slotHeader s k with | some h => h.version | none => 0

/-- The slot that a delivery writes. -/
def targetSlot (s : State) : Fin 2 :=
  match s.reel with
  | some r => otherSlot r.slot
  | none =>
    match slotValid s 0, slotValid s 1 with
    | true, false => 1
    | false, _ => 0
    | true, true => if slotVersion s 0 < slotVersion s 1 then 0 else 1

/-- Parts are taken: a flash is usable and NVM can be read (R136, R148). (DEDUCED, log entry 123) -/
def takesParts (s : State) : Bool := s.boot.flashOk && !s.nvm.bad && isReady s && !inOutage s

/-! ### Acceptance of parts (R209, R211, R616) -/

/-- The part joins those being programmed. -/
def queuePart (t : Transfer) (b : List Byte) : Transfer :=
  { t with
    next := t.next + partDlen b
    inFlash := t.inFlash ++ [partData b]
    parts := t.parts ++ [(partOff b, partDlen b)]
    last := partLast b
    act := partLast b && partAct b }

/-- A first part: refused in the cases of R209, tested in their order there (log entry 32), or accepted. -/
def firstPart (s : State) (b : List Byte) : State :=
  let d := partData b
  let v := field d 8 4
  let running := match s.reel with | some r => r.version.toNat | none => 0
  let refuse (sub : Nat) : State := partEntry s 0x21 b sub
  if s.reel.isSome && v ≤ running then refuse 1
  else if v < ((nvmCopy s).map (·.minVer.toNat)).getD 0 then refuse 2
  else if !headerFieldsOk (d.take 64) then refuse 3
  else if s.xfer.isSome then refuse 4
  else
    let t : Transfer := ⟨partXfer b, targetSlot s, .u, 0, 0, 0, [], [], 0, false, false⟩
    partEntry { s with xfer := some (queuePart t b) } 0x20 b 0

/-- The parts accepted that lie beyond the last confirmed offset (R211). -/
def partsOut (t : Transfer) : Nat := (t.parts.filter fun q => t.confirmed ≤ q.1).length

/-- A part addressed to this device alone from address 0 (R209, R211, R616). (DEDUCED, log entry 122) -/
def takePart (s : State) (b : List Byte) : State :=
  let discard (sub : Nat) : State := partEntry s 0x23 b sub
  if !takesParts s then s
  else if !partMacOk s b then discard 1
  else if !partAligned b then discard 4
  else
    match s.xfer with
    | none => if partOff b = 0 then firstPart s b else discard 2
    | some t =>
      if partOff b = 0 && partXfer b ≠ t.xfer then firstPart s b
      else if partXfer b ≠ t.xfer then discard 2
      else if t.parts.contains (partOff b, partDlen b) && partOff b + partDlen b ≤ t.programmed then s
      else if 32 ≤ partsOut t && t.next ≤ partOff b then discard 3
      else if t.last || partOff b ≠ t.next then discard 2
      else { s with xfer := some (queuePart t b) }

/-- What the device does with a REEL_PART frame that it accepts. -/
def reelAct (s : State) (b : List Byte) : State :=
  if forUsAlone s b && fSrc b = 0 then takePart s b else managementRefused s b

/-- A REEL_PART frame: in safe mode it is repeated and a copy taken (R148, R629). -/
def receivePart (s : State) (p : Port) (rx : RxFrame) : State :=
  if s.boot.safe then
    let s1 := repeatFrame (countCode s p rx) p rx
    if portUp s p && rxGood rx && !malformed rx.bytes && fTyp rx.bytes == 6 && forUsAlone s rx.bytes && fSrc rx.bytes == 0 then
      takePart s1 rx.bytes
    else s1
  else receive s p rx [6] reelAct

/-- The delivery arrives on the port that brought its latest part (Table DOM-6). (DEDUCED, log entry 124) -/
def arrivesOn (s : State) (p : Port) (b : List Byte) : State :=
  match s.xfer with
  | some t => if t.xfer = partXfer b then { s with xfer := some { t with port := p } } else s
  | none => s

/-- REEL_PART (R209, R211, R614, R616, R629). -/
def execReelPart (p : Port) (rx : RxFrame) (s : State) : Host.Outcome State Fault Refusal :=
  .next (if partLast rx.bytes then s else arrivesOn (receivePart s p rx) p rx.bytes)

/-- REEL_PART_LAST (R211, R212): the part with LAST set. -/
def execReelPartLast (p : Port) (rx : RxFrame) (s : State) : Host.Outcome State Fault Refusal :=
  .next (if partLast rx.bytes then arrivesOn (receivePart s p rx) p rx.bytes else s)

/-! ### Programming (R210, R211) and its end -/

/-- The flash with a part written: the sectors it reaches first are erased, with the first part the seal sector too. -/
def programPart (f : List Host.Cell) (base off : Nat) (d : List Byte) : List Host.Cell :=
  let f1 := if off = 0 then Memory.erase f (base + 0x3FF000) 4096 else f
  let lo := (off + 4095) / 4096 * 4096
  let hi := (off + d.length + 4095) / 4096 * 4096
  Memory.program (Memory.erase f1 (base + lo) (hi - lo)) (base + off) d

/-- The flash after an erase or program that did not complete: the sectors that the part reaches are erased, and so is the
slot's header, so that the slot is invalid (Table REL-15). (DESIGN CHOICE, log entry 148) -/
def spoilSlot (f : List Host.Cell) (base off : Nat) (d : List Byte) : List Host.Cell :=
  Memory.erase (programPart f base off (d.map fun _ => 0xFF)) base 4096

/-- The page program in progress completes: of the part that is being programmed a free number of pages, one or more, is
in the flash (R214). (DESIGN CHOICE, log entry 149) -/
def finishPage (s : State) : State :=
  match s.xfer with
  | none => s
  | some t =>
    match t.inFlash with
    | [] => s
    | d :: _ =>
      let (x, s1) := takeFree s
      let n := 256 * (1 + x.toNat % (d.length / 256))
      { s1 with
        flash := programPart s1.flash (slotBase t.slot) t.programmed (d.take n)
        xfer := some { t with programmed := t.programmed + n, inFlash := [] } }

/-- The transfer is abandoned with an entry of reason 0x24 (R213, R214). -/
def abandonXfer (s : State) (sub : Nat) (waits : Bool) : State :=
  match s.xfer with
  | none => s
  | some t =>
    let e := entryPlain 0x24 (xferDetail t.xfer t.programmed sub)
    let s1 := { s with xfer := none }
    if waits then deferEntry s1 e else addEntry s1 e

/-- FLASH_PART_PROGRAMMED (R210, R211, Table REL-15). -/
def execFlashPartProgrammed (ok : Bool) (s : State) : Host.Outcome State Fault Refusal :=
  .next (match s.xfer with
  | none => s
  | some t =>
    match t.inFlash with
    | [] => s
    | d :: rest =>
      if !ok then abandonXfer { s with flash := spoilSlot s.flash (slotBase t.slot) t.programmed d } 3 false
      else
        let p := t.programmed + d.length
        let due := t.sinceNotice + 1 = 16 || (t.last && rest.isEmpty)
        let t1 := { t with
          inFlash := rest
          programmed := p
          confirmed := if due then p else t.confirmed
          sinceNotice := if due then 0 else t.sinceNotice + 1 }
        let s1 := { s with flash := programPart s.flash (slotBase t.slot) t.programmed d, xfer := some t1 }
        if due then addEntry s1 (entryPlain 0x22 (xferDetail t.xfer p 0)) else s1)

/-- TRANSFER_TIMEOUT (R213): while the last part has not come. -/
def execTransferTimeout (s : State) : Host.Outcome State Fault Refusal :=
  .next (match s.xfer with
  | none => s
  | some t => if t.last then s else abandonXfer s 1 false)

end Sys2Proof.Machine
end

