-- ==== Sys2Proof/Machine/QueueRows.lean ====
section
/-! DEFINITION. The commands of queues: notices, ageing, and the resolution of lost cells and descriptors (files 16, 17
and 21). -/

namespace Sys2Proof.Machine

/-! ### Notices -/

/-- NOTICE_CLOSE (R618, R621, R658). -/
def execNoticeClose (s : State) : Host.Outcome State Fault Refusal := .next (closeNotice s)

/-- An entry joins the notices if it finds room; if not, the state stays as it was. -/
def entryIfRoom (s : State) (e : List Byte) : Option State :=
  if variant s = 2 || s.boot.safe || pathFaulty s || !isReady s then none
  else
    let s1 := addEntry s e
    if s1.queues.lostEntries = s.queues.lostEntries then some s1 else none

/-- LOST_ENTRY_REPORT (R653): once a cell is free. -/
def execLostEntryReport (s : State) : Host.Outcome State Fault Refusal :=
  .next (if s.queues.lostEntries = 0 then s
  else
    match entryIfRoom s (entryPlain 0x0F (toBe 4 s.queues.lostEntries)) with
    | some s1 => { s1 with queues.lostEntries := 0 }
    | none => s)

/-! ### Ageing (R648 to R651, R662) -/

/-- When the frame of a queue is to be removed, ms. -/
def frameExpiry (s : State) (tag : Nat) (f : QFrame) : Option Nat :=
  let a := ageOf s tag
  if a = 0 then none else some (f.stamp + a)

/-- When the outstanding frames of a port are to be removed, ms (R584). -/
def outExpiry (s : State) (p : Port) : Option Nat :=
  let a := (queueCfg s).holdAge
  if portUp s p || (link s p).out.isEmpty || a = 0 then none else some ((link s p).downAt + a)

/-- The port of an outstanding queue. -/
def outPort (tag : Nat) : Option Port := if tag = 0xFFF6 then some .u else if tag = 0xFFF7 then some .d else none

/-- AGEING_EXPIRY (R22, R647, R649, R650, R656), while the memories concerned and PD15 are on (AGEING_WAKE returns them): a
frame of a drop or hold queue whose time is over, or every outstanding frame of a port that is down. -/
def execAgeingExpiry (tag : Half) (s : State) : Host.Outcome State Fault Refusal :=
  let t := tag.toNat
  .next (if inOutage s then s
  else
    match outPort t with
    | some p =>
      match outExpiry s p with
      | some x =>
        if x ≤ msNow s && isOn s 15 && (link s p).out.all (fun y => canRead s y.2) then
          let gone := (link s p).out.map (·.2)
          let s1 := gone.foldl (fun a f => reportFrame a f.bytes f.tag 0x04) s
          gone.foldl afterRemoval (modLink s1 p fun l => { l with out := [], resend := [], goBackDue := false })
        else s
      | none => s
    | none =>
      match (queueOf s t).find? fun f => !f.busy && (match frameExpiry s t f with | some x => decide (x ≤ msNow s) | none => false) with
      | some f => if isOn s 15 && canRead s f then failFrame s t f (if t < 0xFFF0 then 0x02 else 0x03) else s
      | none => s)

/-- Every removal time with the cells of its queue. -/
def expiries (s : State) : List (Nat × List Nat) :=
  let cells (l : List QFrame) : List Nat := l.flatMap (·.cells)
  (s.queues.qs.flatMap fun q => (q.2.filterMap (frameExpiry s q.1)).map fun x => (x, cells q.2)) ++
    ([Port.u, .d].flatMap fun p => ((outExpiry s p).map fun x => (x, cells ((link s p).out.map (·.2)))).toList)

/-- The earliest removal time (R662). -/
def earliestExpiry (s : State) : Option Nat := ((expiries s).map (·.1)).min?

/-- Before PD08, PD15 or a frame-memory domain leaves on outside an outage, the earliest removal time is stored (R662). -/
def storeEarliest (s : State) (d : Nat) : State :=
  if inOutage s || !(d = 8 || d = 15 || (9 ≤ d && d ≤ 12 && (storedFrames s).any fun f => f.cells.any fun c => c / 16384 + 9 == d)) then s
  else { s with queues.earliest := earliestExpiry s }

/-- AGEING_WAKE (R662): the domains needed to age the frame return to on. -/
def execAgeingWake (s : State) : Host.Outcome State Fault Refusal :=
  .next (match s.queues.earliest with
  | none => s
  | some x =>
    if inOutage s || s.boot.safe || msNow s < x then s
    else
      let cs := ((expiries s).filter fun y => y.1 ≤ x).flatMap (·.2)
      let ds := [8, 15] ++ ([9, 10, 11, 12].filter fun d => cs.any fun c => c / 16384 + 9 == d)
      ds.foldl demand { s with queues.earliest := none })

/-! ### Watermark reports (R753, R754) -/

/-- The numbers of a source from DLW to AHW. -/
def spanOf (m : SrcMark) : List Half := (List.range ((m.ahw - m.dlw).toNat + 1)).map fun k => m.dlw + BitVec.ofNat 16 k

/-- A watermark report over every source joins the cursor; HELD and DLW follow (R753). (DEDUCED, log entry 112) -/
def watermarkReport (s : State) (reason : Byte) : State :=
  let todo := s.queues.marks.filter fun m => m.held != 0
  { s with
    integ.cursor := s.integ.cursor ++ todo.flatMap fun m => (spanOf m).map fun n => (m.src, n, reason)
    queues.marks := s.queues.marks.map fun m => if m.held = 0 then m else { m with held := 0, dlw := m.ahw + 1 } }

/-- WATERMARK_REPORT_ENTRY (R753, R754): the entries kept across a reset come first (R755, log entry 141). -/
def execWatermarkReportEntry (s : State) : Host.Outcome State Fault Refusal :=
  .next (match s.queues.kept, s.integ.cursor with
  | e :: rest, _ =>
    match entryIfRoom s e with
    | some s1 => { s1 with queues.kept := rest }
    | none => s
  | [], [] => s
  | [], (src, n, reason) :: rest =>
    match entryIfRoom s (entryFrame reason ⟨BitVec.ofNat 8 src, 0, n, 0, 0⟩ []) with
    | some s1 => { s1 with integ.cursor := rest }
    | none => s)

/-! ### Loss resolution (R749 to R752) -/

/-- The cell lies in a lost bank. -/
def cellLost (s : State) (c : Nat) : Bool :=
  s.integ.banks.any fun b => b.1.val == 9 + c / 16384 && b.2 == c / 1024 % 16

/-- The first cell of a frame is not lost: its header is read; a read of one of the cells `bad` finds an uncorrectable
error, which W26 counts (R654, R751). Answers the state and whether the frame has a name. -/
def readFirst (bad : List Nat) (s : State) (f : QFrame) : State × Bool :=
  match f.cells with
  | [] => (s, true)
  | c :: _ =>
    if cellLost s c then (s, false)
    else if bad.contains c then (countEcc s .uncorrectable, false)
    else (s, true)

/-- A frame of a queue is cut short by the walk: it and every later frame leave the descriptor. The frame itself is
reported with reason 0x05 when its first cell can be read; answers the state, the frames left for the sweep, and
whether a frame stayed without a name. -/
def cutQueue (bad : List Nat) (s : State) (l : List QFrame) : State × List QFrame × Bool :=
  match l with
  | [] => (s, [], false)
  | f :: rest =>
    let (s1, named) := readFirst bad s f
    (if named then reportFrame s1 f.bytes (fQtag f.bytes) 0x05 else s1, rest, !named)

/-- The frames of a chain before the first with a lost cell, and those from it on. -/
def splitLost (s : State) (l : List QFrame) : List QFrame × List QFrame :=
  (l.takeWhile fun f => !f.cells.any (cellLost s), l.dropWhile fun f => !f.cells.any (cellLost s))

/-- The walk over one queue. -/
def walkQueue (bad : List Nat) (acc : State × List QFrame × Bool) (q : Nat × List QFrame) : State × List QFrame × Bool :=
  let (s, swept, unnamed) := acc
  let (keep, cut) := splitLost s q.2
  match cut with
  | [] => acc
  | f :: _ =>
    let (s1, rest, u) := cutQueue bad s cut
    let s2 := setQueue s1 q.1 keep
    (afterRemoval { s2 with integ.orphans := s2.integ.orphans ++ rest } f, swept ++ rest, unnamed || u)

/-- The walk over the outstanding frames of a port. -/
def walkOut (bad : List Nat) (acc : State × List QFrame × Bool) (p : Port) : State × List QFrame × Bool :=
  let (s, swept, unnamed) := acc
  let (keep, cut) := splitLost s ((link s p).out.map (·.2))
  match cut with
  | [] => acc
  | f :: _ =>
    let (s1, rest, u) := cutQueue bad s cut
    let s2 := modLink s1 p fun l =>
      { l with
        out := l.out.take keep.length
        next := l.next - BitVec.ofNat 8 cut.length
        resend := l.resend.filter fun h => ((l.out.take keep.length).map (·.1)).contains h }
    (afterRemoval { s2 with integ.orphans := s2.integ.orphans ++ rest } f, swept ++ rest, unnamed || u)

/-- The sweep over the frames that no descriptor reaches, each with its reason. -/
def sweepFrames (bad : List Nat) (l : List (Byte × QFrame)) (s : State) (unnamed : Bool) : State × Bool :=
  match l with
  | [] => (s, unnamed)
  | (reason, f) :: t =>
    let (s0, named) := readFirst bad s f
    let s1 := if named then reportFrame s0 f.bytes (fQtag f.bytes) reason else s0
    sweepFrames bad t (afterRemoval { s1 with integ.orphans := t.map (·.2) } f) (unnamed || !named)

/-- One copy of each stored frame. -/
def lastCopies (l : List QFrame) : List QFrame := l.foldl (fun a f => if a.any fun g => g.id == f.id then a else a ++ [f]) []

/-- Every cell is released: no queue holds a frame, and FREED advances for each frame accepted at a port (R656, R751). -/
def releaseAll (s : State) : State :=
  let s1 := { s with
    queues.qs := [], queues.alloc := [], integ.banks := [], integ.orphans := []
    tether.u := { s.tether.u with out := [], resend := [], goBackDue := false }
    tether.d := { s.tether.d with out := [], resend := [], goBackDue := false } }
  (lastCopies (storedFrames s)).foldl (fun t f => creditFreed t f (cellsOf f.bytes)) s1

/-- The procedure of R751. (DEDUCED, log entry 126) -/
def resolveLoss (bad : List Nat) (s : State) : State :=
  let lostAll := [0, 1, 2, 3].all fun b => s.integ.banks.contains (8, b)
  if lostAll then releaseAll (watermarkReport s 0x07)
  else
    let w := s.queues.qs.foldl (walkQueue bad) (s, [], false)
    let (s1, swept, u1) := [Port.u, .d].foldl (walkOut bad) w
    let (s3, u3) := sweepFrames bad (swept.map (fun f => (0x05, f)) ++ s.integ.orphans.map (fun f => (0x07, f))) s1 u1
    let s4 := { s3 with integ.banks := [] }
    if u3 then watermarkReport s4 0x07 else s4

/-- LOSS_RESOLUTION (R750 to R752): with PD08 and PD15 on. -/
def execLossResolution (unreadable : List Nat) (s : State) : Host.Outcome State Fault Refusal :=
  .next (if (s.integ.banks.isEmpty && s.integ.orphans.isEmpty) || !isOn s 8 || !isOn s 15 || s.outage.step ≥ 6 then s
  else resolveLoss unreadable s)

end Sys2Proof.Machine
end

