-- ==== Sys2Proof/Machine/EngOps.lean ====
section
/-! DEFINITION. Shared operations of the engines: reading the tables of an epoch, context keys, decisions, parity
repair, and what becomes of streams when an engine or the rule memory goes (files 07 and 08). -/

namespace Sys2Proof.Machine

/-! ### Lines of an epoch (R304, R305, R311 to R317) -/

/-- R4 of R305. -/
def r4Of (r : RuleMem) : Nat := roundUp4 r.nrule

/-- The first logical line that a load leaves unassigned. -/
def loadEnd (r : RuleMem) : Nat := r.nline + r4Of r / 2

/-- The place of a logical line in an epoch; none when it is unassigned. A line that no update has placed lies at its load
place (R304, R329). -/
def placeOf (r : RuleMem) (t : Tables) (line : Nat) : Option Nat :=
  match assoc t.remap line with
  | some p => some p
  | none => if line < loadEnd r && !t.freed.contains line then some line else none

/-- The 64 bytes of an assigned logical line. -/
def lineAt (r : RuleMem) (t : Tables) (line : Nat) : List Byte :=
  (((placeOf r t line).bind fun p => assoc r.places p).map MemLine.bytes).getD (List.replicate 64 0)

/-- A logical line of an epoch is marked lost (R279, R280). -/
def lineLost (r : RuleMem) (t : Tables) (line : Nat) : Bool :=
  match placeOf r t line with
  | some p => r.lost.contains p
  | none => false

/-- A loaded rule or associated-data line (Table AUT-1). -/
def ruleLine (r : RuleMem) (line : Nat) : Bool := r.nline ≤ line && line < loadEnd r

/-- An assigned automaton line (R312). -/
def automatonLine (r : RuleMem) (t : Tables) (line : Nat) : Bool :=
  line < 0x7FFF && (placeOf r t line).isSome && !ruleLine r line

/-- The map line that holds the class of a byte for a state line; none when no map is in use there. -/
def mapLineOf (r : RuleMem) (h0 : Nat) (b : Byte) : Option Nat :=
  let m := natBits h0 12 9
  if m < r.nmap then (r.mapline[m]?).map fun l => l + b.toNat / 64 else none

/-- The next state after a byte in a state line, and the lines read; none is DEAD (R312). What a map line that an update
made unassigned holds is open. (DESIGN CHOICE, log entry 35) -/
def nextState (r : RuleMem) (t : Tables) (st : Nat) (b : Byte) : Option Nat × List Nat :=
  let l := lineAt r t st
  let h0 := halfOf l 0
  match mapLineOf r h0 b with
  | none => (none, [st])
  | some ml =>
    let x := if (placeOf r t ml).isSome then byteAt (lineAt r t ml) (b.toNat % 64) else Config.unassignedByte ml (b.toNat % 64)
    let c := x.toNat % 64
    let n : Option Nat :=
      if h0 / 2 ^ 14 ≤ 1 && c ≤ 29 then some (halfOf l (2 + c))
      else if h0 / 2 ^ 14 = 1 && c ≤ 61 && automatonLine r t (st + 1) then some (halfOf (lineAt r t (st + 1)) (c - 30))
      else none
    let wide := if h0 / 2 ^ 14 = 1 && 30 ≤ c then [st + 1] else []
    match n with
    | none => (none, [st, ml] ++ wide)
    | some v =>
      let v := v % 2 ^ 15
      (if v ≠ 0x7FFF && automatonLine r t v then some v else none, [st, ml] ++ wide)

/-- The rules of a list from a line on, and the lines read; at most `fuel` lines (R315, R316). A line that is no assigned
automaton line, a rule or associated-data line among them, ends the list. (DESIGN CHOICE, log entry 150) -/
def listRules (r : RuleMem) (t : Tables) (fuel line : Nat) : List Nat × List Nat :=
  match fuel with
  | 0 => ([], [])
  | fuel + 1 =>
    if !automatonLine r t line then ([], [])
    else
      let l := lineAt r t line
      let es := ((List.range 31).map (halfOf l)).takeWhile fun e => e / 2 ^ 15 = 1
      let rs := (es.map fun e => natBits e 11 0).filter fun n => n < r4Of r
      if halfOf l 31 / 2 ^ 15 = 1 then
        let (rs2, ls2) := listRules r t fuel (natBits (halfOf l 31) 14 0)
        (rs ++ rs2, line :: ls2)
      else (rs, [line])

/-- The rules that a state lists, and the lines read (R313). -/
def rulesAt (r : RuleMem) (t : Tables) (st : Nat) : List Nat × List Nat :=
  let l := lineAt r t st
  if halfOf l 0 / 2 ^ 13 % 2 = 1 then
    let (rs, ls) := listRules r t 4 (natBits (halfOf l 1) 14 0)
    (rs.eraseDups, st :: ls)
  else ([], [st])

/-- The line of a rule's entry. -/
def ruleEntryLine (r : RuleMem) (n : Nat) : Nat := r.nline + n / 4

/-- The line of a rule's associated data. -/
def assocEntryLine (r : RuleMem) (n : Nat) : Nat := r.nline + r4Of r / 4 + n / 4

/-- A rule's 16-byte entry (Table AUT-5). -/
def ruleEntry (r : RuleMem) (t : Tables) (n : Nat) : List Byte := sliceBytes (lineAt r t (ruleEntryLine r n)) (16 * (n % 4)) 16

/-- The mask M of a rule; its reserved bits [2:0] are ignored (R11, Table AUT-5). -/
def ruleMask (r : RuleMem) (t : Tables) (n : Nat) : Key48 :=
  BitVec.ofNat 48 (field (ruleEntry r t n) 0 6) &&& ~~~(7 : Key48)

/-- The value V of a rule. -/
def ruleValue (r : RuleMem) (t : Tables) (n : Nat) : Key48 := BitVec.ofNat 48 (field (ruleEntry r t n) 6 6)

/-- An immediate rule. -/
def ruleImm (r : RuleMem) (t : Tables) (n : Nat) : Bool := (byteAt (ruleEntry r t n) 12).getLsbD 1

/-- A listed rule takes part in a stream with this key (R263, R316). -/
def ruleMatches (r : RuleMem) (t : Tables) (key : Key48) (n : Nat) : Bool :=
  (byteAt (ruleEntry r t n) 12).getLsbD 0 && key &&& ruleMask r t n == ruleValue r t n &&& ruleMask r t n

/-- The number of 1 bits of a mask. -/
def maskLen (m : Key48) : Nat := (List.range 48).foldl (fun a k => a + bit (m.getLsbD k)) 0

/-- The winner of a decision (R266): the longest mask, then the lowest number. -/
def bestRule (r : RuleMem) (t : Tables) (cands : List Nat) : Option Nat :=
  cands.foldl (fun best n =>
    match best with
    | none => some n
    | some b =>
      let ln := maskLen (ruleMask r t n)
      let lb := maskLen (ruleMask r t b)
      if lb < ln then some n else if ln = lb && n < b then some n else some b) none

/-- DISP by number (Table AUT-6). -/
def dispCode (k : Fin 5) : Disp :=
  match k with
  | 0 => .dflt
  | 1 => .forward
  | 2 => .deliver
  | 3 => .copy
  | 4 => .discard

/-- DISP: what a reserved code does is open (log entry 11). -/
def dispOf (n : Nat) : Disp := if h : n < 5 then dispCode ⟨n, h⟩ else dispCode (Config.reservedDisp n)

/-- Associated data (Table AUT-6). -/
def parseAssoc (b : List Byte) : Assoc :=
  let b0 := byteAt b 0
  let b2 := byteAt b 2
  { prof := Fin.ofNat 8 (b0.toNat % 8)
    pen := b0.getLsbD 3
    wmask := b0.extractLsb' 4 4
    cause := byteAt b 1
    disp := dispOf (b2.toNat % 8)
    qovr := b2.getLsbD 3
    note := b2.getLsbD 4
    town := b2.getLsbD 5
    qtag := BitVec.ofNat 16 (field b 3 2)
    ttag := BitVec.ofNat 16 (field b 5 2)
    tinc := (byteAt b 7).toNat
    ncode := byteAt b 8 }

/-- A rule's associated data. -/
def assocOf (r : RuleMem) (t : Tables) (n : Nat) : Assoc :=
  parseAssoc (sliceBytes (lineAt r t (assocEntryLine r n)) (16 * (n % 4)) 16)

/-- The tables of an epoch: the current ones, or the previous ones while a stream of theirs remains. -/
def tablesAt (r : RuleMem) (epoch : Nat) : Tables :=
  match r.prev with
  | some t => if t.epoch = epoch then t else r.cur
  | none => r.cur

/-! ### Places (R271, R279, R329) -/

/-- A place holds a line of some tables. -/
def placeUsed (r : RuleMem) (t : Tables) (p : Nat) : Bool :=
  t.remap.any (fun x => x.2 == p) || placeOf r t p == some p

/-- Every version of the tables whose lines hold places: the current epoch, the previous one and the sets that wait. -/
def heldTables (r : RuleMem) : List Tables := r.cur :: (r.prev.toList ++ r.commits.map (·.tables))

/-- A place that holds a line of some version of the tables. -/
def placeHeld (r : RuleMem) (p : Nat) : Bool := (heldTables r).any fun t => placeUsed r t p

/-- The logical lines that an update has put at a place, staged ones included. -/
def updatedAt (r : RuleMem) (p : Nat) : List Nat :=
  let pairs := (heldTables r).flatMap (·.remap) ++ (match r.openSet with | some o => o.lines | none => [])
  ((pairs.filter fun x => x.2 == p).map (·.1)).eraseDups

/-- A place holds the line that the Reel loaded there, of the current or the previous epoch (R279). -/
def loadedAt (r : RuleMem) (p : Nat) : Bool :=
  (r.cur :: r.prev.toList).any fun t => (assoc t.remap p).isNone && placeOf r t p == some p

/-! ### The directory's order (R284) -/

/-- The lines that a transaction is on. -/
def transLines (x : Trans) : List Nat :=
  match x with
  | .fill _ l _ => [l]
  | .commit _ ls => ls
  | .repair l => [l]

/-- An earlier transaction on a line has not ended. -/
def behind (ts : List Trans) (x : Trans) (line : Nat) : Bool :=
  (ts.takeWhile fun y => y != x).any fun y => (transLines y).contains line

/-! ### Context keys (Tables ENG-4 and ENG-5) -/

/-- A context key. -/
def mkKey (port kind src dst qtag ftype group : Nat) : Key48 :=
  BitVec.ofNat 48 (port * 2 ^ 46 + kind * 2 ^ 43 + src * 2 ^ 35 + dst * 2 ^ 27 + qtag * 2 ^ 11 + ftype * 2 ^ 7 + group * 2 ^ 3)

/-- The KIND code. -/
def kindCode (k : StreamKind) : Nat :=
  match k with
  | .frame _ => 0
  | .host => 1
  | .word .mains => 2
  | .word _ => 3
  | .event => 4

/-- The key of a frame stream; a host frame has the device's own address as SRC. (DESIGN CHOICE, log entry 34) -/
def frameKey (s : State) (k : StreamKind) (b : List Byte) : Key48 :=
  let src := match k with | .host => ownAddr s | _ => fSrc b
  mkKey (kindPort k) (kindCode k) src.toNat (fDst b).toNat (fQtag b).toNat (fTyp b).toNat (fGroup b).toNat

/-- The bytes and the key of a word or monitor event (Table ENG-2). -/
def slowStream (s : State) (i : SlowItem) : StreamKind × List Byte × Key48 :=
  match i with
  | .word fe body =>
    let src : Byte := match fe with | .mains => 1 | .tugU => 2 | .tugD => 3
    let k := StreamKind.word fe
    (k, src :: toBe 4 body.toNat,
      mkKey (kindPort k) (kindCode k) 0 (natBits body.toNat 31 24) 0 0 (natBits body.toNat 23 20))
  | .event m code =>
    let a := (ownAddr s).toNat
    (.event, [4, BitVec.ofNat 8 m.val, code], mkKey 3 4 a a 0 0 (ownGroup s).toNat)

/-! ### Engines -/

/-- An engine. -/
def eng (s : State) (e : Nat) : Engine := vget s.engs.eng Engine.zero e

/-- An engine changed by f. -/
def modEng (s : State) (e : Nat) (f : Engine → Engine) : State := { s with engs.eng := vmod s.engs.eng e f }

/-- The engine is present and has not failed. -/
def working (s : State) (e : Nat) : Bool := present s (3 + e) && !(eng s e).failed

/-- The engine and the rule memory are on. -/
def engineReady (s : State) (e : Nat) : Bool := working s e && isOn s (3 + e) && isOn s 7

/-- The start line of a stream's automaton; none starts DEAD (R258, R314). A start line that is not assigned acts as
DEAD, as a slot does (DEDUCED, log entry 35). -/
def startLine (r : RuleMem) (k : StreamKind) : Option Nat :=
  let l := match k with
    | .frame _ => r.cur.sframe
    | .host => r.cur.shost
    | _ => r.cur.sslow
  if automatonLine r r.cur l then some l else none

/-- n more bytes of a stream reach its copy FIFO. -/
def gather (x : Stream) (n : Nat) : Stream := { x with fifo := x.fifo ++ x.bytes.take n, bytes := x.bytes.drop n }

/-- A stream before its first byte, under the current epoch (R270); 16 bytes have been buffered as it starts (R260). -/
def newStream (s : State) (k : StreamKind) (key : Key48) (bytes : List Byte) (name : Option FrameName)
    (item : Option SlowItem) : Stream :=
  let st := startLine s.rules k
  gather
    { kind := k, key := key, epoch := s.rules.cur.epoch, fifo := [], bytes := bytes, taken := 0, st := st, collected := []
      won := [], stopped := false, passed := false, late := false, chk := (0, st, []), name := name, read := [], item := item } 16

/-- A line stream. -/
def isLine (k : StreamKind) : Bool := match k with | .frame _ => true | _ => false

/-- A slow stream. -/
def isSlow (k : StreamKind) : Bool := match k with | .word _ | .event => true | _ => false

/-- The stream that an engine takes up next: a line stream before a host stream (Table ENG-8). -/
def resumeNext (e : Engine) : Engine :=
  match e.paused.find? (fun x => isLine x.kind) with
  | some x => { e with run := some x, paused := e.paused.erase x }
  | none =>
    match e.paused with
    | x :: t => { e with run := some x, paused := t }
    | [] => { e with run := none }

/-- A stream joins an engine (R292): a slow stream runs at once between bytes, a line stream before a host stream. -/
def joinEngine (e : Engine) (x : Stream) : Engine :=
  match e.run with
  | none => { e with run := some x }
  | some y =>
    if isSlow x.kind && !isSlow y.kind then
      { e with run := some x, paused := e.paused ++ [y], lineBytes := if isLine y.kind then 0 else e.lineBytes }
    else if isLine x.kind && y.kind = .host then { e with run := some x, paused := e.paused ++ [y] }
    else { e with paused := e.paused ++ [x] }

/-- A slow stream may be placed on an engine: at most one per 128 bytes of a line stream in progress (Table ENG-8). -/
def slowFits (e : Engine) : Bool := !((e.run.toList ++ e.paused).any fun x => isLine x.kind) || 128 ≤ e.lineBytes

/-- Every stream in progress. -/
def allStreams (s : State) : List Stream := s.engs.eng.toList.flatMap fun e => e.run.toList ++ e.paused

/-- The previous epoch ends with its last stream (R272): its replaced lines are free, and so no longer lost. -/
def endEpoch (s : State) : State :=
  match s.rules.prev with
  | some t =>
    if (allStreams s).any fun x => x.epoch == t.epoch then s
    else
      let r := { s.rules with prev := none }
      { s with rules := { r with lost := r.lost.filter fun p => placeHeld r p } }
  | none => s

/-! ### Stopping a stream, parity and repair (R279, R280) -/

/-- A stream stops being matched from a byte on and gets no end decision; W2D records it (R280, R291). -/
def stopStream (s : State) (x : Stream) (start : Nat) : State × Stream :=
  (recordW2D s (kindPort x.kind) 2 start, { x with stopped := true, collected := [] })

/-- A line at a place is marked lost, with its alert and notice (R279). -/
def markLost (s : State) (line place sub : Nat) : State :=
  addEntry (addAlert { s with rules.lost := insNat s.rules.lost place } .lineLost)
    (entryPlain 0x33 (toBe 2 line ++ [BitVec.ofNat 8 sub, 0]))

/-- A word of a place fails parity: a line that an update put there is lost, the Reel's own line is reread from flash, and
an error in a free place is only counted (R279). (DESIGN CHOICE, log entry 83) -/
def repairPlace (s : State) (p : Nat) : State :=
  match updatedAt s.rules p with
  | l :: _ => if s.rules.lost.contains p then s else markLost s l p 1
  | [] =>
    if loadedAt s.rules p then
      demand { s with
        rules.badPlaces := addNew s.rules.badPlaces p
        rules.repair := s.rules.repair.orElse fun _ => some p
        engs.trans := addNew s.engs.trans (.repair p) } 15
    else s

/-- A parity error is counted in W27. -/
def countParity (s : State) : State := { s with win.epar := satur 0xFFFF (s.win.epar + 1) }

/-- A fill of a line of an epoch for the stream on an engine returns a word that fails parity (R280). -/
def fillFails (s : State) (e line epoch : Nat) : State :=
  let p := placeOf s.rules (tablesAt s.rules epoch) line
  let s2 := match (eng s e).run with
    | none => countParity s
    | some x =>
      let (s1, x1) := if x.stopped then (s, x) else stopStream s x x.taken
      addAlert (countParity (modEng s1 e fun g => { g with run := some x1 })) .lostMatch
  match p with
  | some p => repairPlace s2 p
  | none => s2

/-! ### Engines and rule memory that leave on, or fail (R288, R294 to R300) -/

/-- The directory no longer counts an engine as a holder, and takes its snoops as acknowledged (R288). -/
def dropHolder (s : State) (e : Nat) : State :=
  { s with
    engs.holders := s.engs.holders.filter fun h => h.1.val != e
    engs.trans := s.engs.trans.filter fun x => match x with | .fill k _ _ => k.val != e | _ => true
    rules.commits := s.rules.commits.map fun c => { c with snoops := c.snoops.filter fun h => h.1.val != e } }

/-- Streams that go unmatched to their ends; W2D records each, the running one before those that wait, so that the last
stays in the word (R299, R300). (DESIGN CHOICE, log entry 151) -/
def abandonStreams (s : State) (e : Nat) : State :=
  let s1 := ((eng s e).run.toList ++ (eng s e).paused).foldl (fun t x =>
    if x.stopped then t else recordW2D t (kindPort x.kind) 2 x.taken) s
  endEpoch (modEng s1 e fun g => { g with run := none, paused := [] })

/-- An engine's domain leaves on (R288, R299); nothing of the block is kept (R367). -/
def engineLeaves (s : State) (e : Nat) : State :=
  modEng (abandonStreams (dropHolder s e) e) e fun g => { g with cache := [], since := 0, checkDue := false, lineBytes := 128 }

/-- An engine's domain returns to on: its cache is invalid and a self-check is due (R288, R294). -/
def engineReturns (s : State) (e : Nat) : State := modEng s e fun g => { g with cache := [], checkDue := true }

/-- A set is refused with reason 0x31 (R273); its later words are discarded (R327). -/
def refuseSet (s : State) (setno : Half) (sub : Nat) : State :=
  addEntry { s with rules.openSet := none, rules.refused := some setno } (entryPlain 0x31 (setDetail setno sub))

/-- PD07 leaves on: every cache is invalid, streams go unmatched, E0's first, an open set and those that wait are refused
(R276, R300). (DEDUCED, log entries 125 and 151) -/
def ruleMemoryLeaves (s : State) : State :=
  let s1 := [0, 1, 2, 3].foldl engineLeaves s
  let s2 := match s1.rules.openSet with
    | some o => refuseSet s1 o.setno 8
    | none => s1
  s2.rules.commits.foldl (fun t c => addEntry t (entryPlain 0x31 (setDetail c.setno 8)))
    { s2 with rules.commits := [], engs.holders := [], engs.trans := [] }

/-- The lowest-numbered working engine. -/
def lowestWorking (s : State) : Option (Fin 4) := ([0, 1, 2, 3] : List (Fin 4)).find? fun e => working s e.val

/-- The assignment after an engine fails (R297); the engine is already marked failed, and `first` tells whether it is
the first. (DEDUCED, log entry 82) -/
def reassign (s : State) (e : Fin 4) (first : Bool) : Assign :=
  let a := s.engs.assign
  let slow := if a.slow = some e then lowestWorking s else a.slow
  let lineFree (t : Fin 4) : Bool := a.portU != some t && a.portD != some t
  let move (x : Option (Fin 4)) (line : Bool) : Option (Fin 4) :=
    if x ≠ some e then x
    else if !first then none
    else match slow with
      | some t => if line && !lineFree t then none else some t
      | none => none
  let u := move a.portU true
  -- a second line stream of the same engine finds the first already there
  let d := if a.portU = some e && a.portD = some e && u.isSome then none else move a.portD true
  ⟨u, d, move a.host false, slow⟩

/-- The engine that a stream of a kind has. -/
def engineFor (a : Assign) (k : StreamKind) : Option (Fin 4) :=
  match k with
  | .frame .u => a.portU
  | .frame .d => a.portD
  | .host => a.host
  | _ => a.slow

/-- A stream of a failed engine: it resumes from its checkpoint on the engine that takes over (R296), or goes
unmatched; a slow stream without an engine and without a passed result is handled under R298. -/
def moveStream (s : State) (x : Stream) : State :=
  match engineFor s.engs.assign x.kind with
  | some t =>
    if x.stopped then modEng s t.val fun g => joinEngine g x
    else
      let y := { x with st := x.chk.2.1, collected := x.chk.2.2, read := [] }
      addAlert (recordW2D (modEng s t.val fun g => joinEngine g y) (kindPort x.kind) 1 x.chk.1) .lostMatch
  | none => if isSlow x.kind && !x.passed then pushResult s .engineLost else s

/-- A stream source is left without an engine: W2D, its alert and one entry of reason 0x39, which names the frame in
progress whatever its type (R297, R619). (DESIGN CHOICE, log entry 152) -/
def leftWithout (s : State) (k : StreamKind) (l : List Stream) : State :=
  let det : List Byte := [BitVec.ofNat 8 (kindCode k), 0, 0, 0]
  let e := match (l.find? fun x => x.kind == k).bind (·.name) with
    | some n => entryFrame 0x39 n det
    | none => entryPlain 0x39 det
  addEntry (addAlert (recordW2D s (kindPort k) 3 0) .lostMatch) e

/-- An engine fails: its streams are reassigned, and those left without an engine are reported in the order port U, port
D, host (R295 to R298). (DESIGN CHOICE, log entry 151) -/
def loseEngine (s : State) (e : Fin 4) : State :=
  let l := (eng s e.val).run.toList ++ (eng s e.val).paused
  let s1 := modEng (dropHolder s e.val) e.val fun g =>
    { g with failed := true, cache := [], run := none, paused := [], checkDue := false, lineBytes := 128 }
  let old := s1.engs.assign
  let s2 := { s1 with engs.assign := reassign s1 e (s1.engs.failures == 0), engs.failures := s1.engs.failures + 1 }
  let s3 := l.foldl moveStream s2
  let s4 := [StreamKind.frame .u, .frame .d, .host].foldl (fun t k =>
    if (engineFor old k).isSome && (engineFor t.engs.assign k).isNone then leftWithout t k l else t) s3
  let s5 := if s4.engs.assign.slow.isNone then
      s4.engs.slowQ.foldl (fun t _ => pushResult t .engineLost) { s4 with engs.slowQ := [] }
    else s4
  endEpoch s5

end Sys2Proof.Machine
end

