-- ==== Sys2Proof/Machine/Engine.lean ====
section
/-! DEFINITION. The commands of streams, engines, caches, the directory and the scan (file 07). -/

namespace Sys2Proof.Machine

/-! ### Starting a stream (R258, R262, R270, R842) -/

/-- A frame stream that cannot be matched: W2D records it, and its domains return where the idle policy took them out of on
(R406, R842). -/
def unmatched (s : State) (k : StreamKind) (e : Nat) : State :=
  idleReturn (idleReturn (recordW2D s (kindPort k) 3 0) (3 + e)) 7

/-- A stream of a kind already has its engine. -/
def kindBusy (s : State) (k : StreamKind) : Bool :=
  if isSlow k then (allStreams s).any fun x => isSlow x.kind else streamRuns s k

/-- A frame or host stream starts (R260, R301, R302); an engine that holds may start none (R376). (DEDUCED, log entry
80) -/
def startFrame (s0 : State) (k : StreamKind) (b : List Byte) : State :=
  match engineFor s0.engs.assign k with
  | none => s0
  | some e =>
    let (bar, s) := barred s0 (3 + e.val)
    if !isRunning s || !matching s || kindBusy s k then s
    else if bar || !engineReady s e.val || s.rules.reloading then unmatched s k e.val
    else
      let name : FrameName := { nameOf b (fQtag b) with fsrc := match k with | .host => ownAddr s | _ => fSrc b }
      modEng s e.val fun g => joinEngine g (newStream s k (frameKey s k b) (b.take (16 + fLen b)) (some name) none)

/-- The types presented to an engine (Table TFR-1). -/
def presented (b : List Byte) : Bool := [1, 2, 3, 8, 9].contains (fTyp b).toNat

/-- A slow stream starts: the oldest waiting word or event (R24, R25, R292). -/
def startSlow (s : State) : State :=
  match s.engs.assign.slow, s.engs.slowQ with
  | some e, i :: rest =>
    if !isRunning s || !matching s || kindBusy s .event then s
    else if !engineReady s e.val then demand (demand s (3 + e.val)) 7
    else if s.rules.reloading || !slowFits (eng s e.val) then s
    else
      let (bar, s) := barred s (3 + e.val)
      if bar then s
      else
      let (k, b, key) := slowStream s i
      modEng { s with engs.slowQ := rest } e.val fun g => joinEngine g (newStream s k key b none (some i))
  | _, _ => s

/-- STREAM_START (R258, R270, R292, R842). (DEDUCED, log entry 81) -/
def execStreamStart (src : StreamSrc) (bytes : List Byte) (s : State) : Host.Outcome State Fault Refusal :=
  .next (match src with
  | .portU =>
    if (portUp s .u || (link s .u).step = 6) && hcrcOk bytes && presented bytes then startFrame s (.frame .u) bytes else s
  | .portD =>
    if (portUp s .d || (link s .d).step = 6) && hcrcOk bytes && presented bytes then startFrame s (.frame .d) bytes else s
  | .host =>
    match s.drop.waiting with
    | (b, r) :: _ => if r = 0 && s.engs.decHost.isNone then startFrame s .host b else s
    | [] => s
  | .slow => startSlow s)

/-! ### Steps (R263 to R268, R280, R291, R296, R312) -/

/-- A result of an engine's stream goes to the action sequencer (R267, R336). -/
def passResult (s : State) (e : Fin 4) (t : Tables) (x : Stream) (n : Nat) (isEnd : Bool) : State :=
  let a := assocOf s.rules t n
  let name := match x.name with
    | some m => some (if isEnd && a.qovr then { m with fqtag := a.qtag } else m)
    | none => none
  pushFrom s e (.rule n a x.kind isEnd name)

/-- The lines that the next byte of a stream reads: the state line, its map line, a wide state's second line, then the
line of the state reached, its lists and the entries of the rules listed. -/
def stepReads (r : RuleMem) (t : Tables) (x : Stream) : List Nat :=
  match x.fifo, x.st with
  | b :: _, some st =>
    if x.stopped then []
    else
      let (n, ls) := nextState r t st b
      match n with
      | some m => let (rs, ls2) := rulesAt r t m; ls ++ ls2 ++ rs.map (ruleEntryLine r)
      | none => ls
  | _, _ => []

/-- The stream of an engine after the next byte of its copy FIFO, with what the byte decides; as it is taken, a further
byte reaches the FIFO. (DESIGN CHOICE, log entry 158) -/
def stepByte (s : State) (e : Fin 4) (x : Stream) : State × Stream :=
  match x.fifo with
  | [] => (s, gather x 1)
  | b :: rest =>
    let t := tablesAt s.rules x.epoch
    let ls := stepReads s.rules t x
    let x1 := gather { x with fifo := rest, taken := x.taken + 1, read := ls.foldl addNew x.read } 1
    let mark (y : Stream) : Stream := if y.taken % 16 = 0 then { y with chk := (y.taken, y.st, y.collected) } else y
    if x.stopped then (s, x1)
    else
      match x.st with
      | none => (s, mark x1)
      | some st =>
        if ls.any (lineLost s.rules t) then stopStream s x1 x.taken
        else
          match (nextState s.rules t st b).1 with
          | none => (s, mark { x1 with st := none })
          | some m =>
            let acc := (rulesAt s.rules t m).1.filter (ruleMatches s.rules t x.key)
            let imm := acc.filter fun r => ruleImm s.rules t r && !x.won.contains r
            let ends := acc.filter fun r => !ruleImm s.rules t r
            let x2 := { x1 with st := some m, collected := ends.foldl addNew x.collected }
            match bestRule s.rules t imm with
            | none => (s, mark x2)
            | some w =>
              let al := assocEntryLine s.rules w
              if lineLost s.rules t al then stopStream s x1 x.taken
              else (passResult s e t x w false, mark { x2 with won := x.won ++ [w], passed := true, read := addNew x2.read al })

/-- The lines that a stream reads are its engine's most recently used (R281): the copies that it may use go to the end, in
the order of reading. -/
def touchLines (c : List CacheLine) (k : StreamKind) (ls : List Nat) : List CacheLine :=
  ls.foldl (fun c l =>
    let used (x : CacheLine) : Bool := x.line == l && (x.st == .current || (x.st == .old && x.pinned.contains k))
    c.filter (fun x => !used x) ++ c.filter used) c

/-- An engine after one byte: a line byte counts towards the next slow stream (Table ENG-8). -/
def afterByte (g : Engine) (x : Stream) (ls : List Nat) : Engine :=
  { g with
    run := some x
    cache := touchLines g.cache x.kind ls
    lineBytes := if isLine x.kind then satur 128 (g.lineBytes + 1) else g.lineBytes }

/-- An engine holds a result back: it waits (R336). -/
def resultWaits (s : State) (e : Fin 4) : Bool := s.act.late.any fun r => r.1 == e

/-- The copy FIFO of a stream fills, with 32 bytes: matching stops to the stream's end (R291). -/
def fifoFills (s : State) (e : Fin 4) (x : Stream) : State :=
  let (s1, x1) := stopStream s (gather x (32 - x.fifo.length)) x.taken
  addAlert (modEng s1 e.val fun g => { g with run := some x1 }) .lostMatch

/-- A stream's copy FIFO may fill: 32 bytes of it have not been taken. -/
def mayFill (x : Stream) : Bool := !x.stopped && !isSlow x.kind && 32 ≤ x.fifo.length + x.bytes.length

/-- ENGINE_STEP (R260, R264, R280, R291, R312, R336): while the engine waits with a result, its bytes gather. -/
def execEngineStep (e : Fin 4) (ev : StepEvent) (s : State) : Host.Outcome State Fault Refusal :=
  .next (match (eng s e.val).run with
  | none => s
  | some x =>
    if !engineReady s e.val then s
    else
      match ev with
      | .byte =>
        if resultWaits s e && !x.stopped then
          if mayFill x && 31 ≤ x.fifo.length then fifoFills s e x
          else modEng s e.val fun g => { g with run := some (if x.fifo.length < 32 then gather x 1 else x) }
        else
          let (s1, x1) := stepByte s e x
          modEng s1 e.val fun g => afterByte g x1 (stepReads s.rules (tablesAt s.rules x.epoch) x)
      | .fifoFull => if mayFill x then fifoFills s e x else s
      | .fillParity => match x.st with | some l => if x.stopped then s else fillFails s e.val l x.epoch | none => s)

/-! ### The end of a stream (R265, R269, R272, R287) -/

/-- The end decision is left for the frame (R268). -/
def leaveDecision (s : State) (k : StreamKind) (d : Decision) : State :=
  match k with
  | .frame .u => { s with engs.decU := some d }
  | .frame .d => { s with engs.decD := some d }
  | .host => { s with engs.decHost := some d }
  | _ => s

/-- The end decision of a stream and its effects. -/
def endDecision (s : State) (e : Fin 4) (x : Stream) (crcOk : Bool) : State :=
  let t := tablesAt s.rules x.epoch
  let none_ : State := match x.kind with
    | .host => leaveDecision s .host ⟨.dflt, none⟩
    | _ => s
  if x.stopped || x.late || (isLine x.kind && !crcOk) then none_
  else
    match bestRule s.rules t x.collected with
    | none => none_
    | some w =>
      if lineLost s.rules t (assocEntryLine s.rules w) then recordW2D none_ (kindPort x.kind) 2 x.taken
      else
        let a := assocOf s.rules t w
        leaveDecision (passResult s e t x w true) x.kind ⟨a.disp, if a.qovr then some a.qtag else none⟩

/-- The copies pinned to a stream that ends: an old copy that no other stream holds is invalid (R287). -/
def unpin (c : List CacheLine) (k : StreamKind) : List CacheLine :=
  c.map fun x =>
    if x.pinned.contains k then
      let p := x.pinned.filter (· != k)
      { x with pinned := p, st := if p.isEmpty then .invalid else x.st }
    else x

/-- The stream in progress of an engine has ended: the lines pinned to it are invalid (R287), the count of R294 advances,
and the next stream is taken up. -/
def closeStream (s : State) (e : Nat) (k : StreamKind) : State :=
  endEpoch (modEng s e fun g =>
    let n := (g.since + 1) % 4096
    resumeNext { g with run := none, since := n, checkDue := g.checkDue || n = 0, cache := unpin g.cache k })

/-- STREAM_END (R265, R269, R272, R287): every byte has been taken, or matching has stopped or the frame was cut short. -/
def execStreamEnd (e : Fin 4) (crcOk : Bool) (s : State) : Host.Outcome State Fault Refusal :=
  .next (match (eng s e.val).run with
  | none => s
  | some x =>
    if !(x.fifo.isEmpty && x.bytes.isEmpty) && !x.stopped && !x.late && (crcOk || !isLine x.kind) then s
    else closeStream (endDecision s e x crcOk) e.val x.kind)

/-- HOST_STREAM_ABANDON (R292): on a shared engine; forwarded as with no rule, and recorded. -/
def execHostStreamAbandon (s : State) : Host.Outcome State Fault Refusal :=
  .next (match s.engs.assign.host with
  | none => s
  | some e =>
    let a := s.engs.assign
    let shared := a.portU == some e || a.portD == some e || a.slow == some e
    if !shared || !streamRuns s .host then s
    else
      let g0 := eng s e.val
      let s1 := match g0.run with
        | some x => if x.kind = .host then closeStream s e.val .host else s
        | none => s
      let s2 := modEng s1 e.val fun g =>
        { g with paused := g.paused.filter fun x => x.kind != .host, cache := unpin g.cache .host }
      endEpoch (leaveDecision (recordW2D s2 2 3 0) .host ⟨.dflt, none⟩))

/-! ### Self-check and failure (R294 to R298) -/

/-- ENGINE_SELF_CHECK (R294): a mismatch leaves the check due until ENGINE_FAIL acts. -/
def execEngineSelfCheck (e : Fin 4) (ok : Bool) (s : State) : Host.Outcome State Fault Refusal :=
  .next (if working s e.val && isOn s (3 + e.val) && ok then modEng s e.val fun g => { g with checkDue := false } else s)

/-- The CAUSE code of reason 0x38 (Table TFR-8). -/
def failCode (c : EngineFailCause) : Byte := match c with | .cacheParity => 1 | .selfCheck => 2 | .unanswered => 3

/-- A domain is forced off: the request in progress ends failed with a reason, later ones are taken in their order
(R295, R380). -/
def forceOff (s : State) (d : Nat) (reason : BitVec 4) : State :=
  let m := dom s d
  let s1 := modDom s d fun x => { x with st := .off, cur := none }
  let s2 := match m.cur with
    | some (q, _) => resolve s1 d q .failed reason
    | none => s1
  takeOrder s2 d

/-- ENGINE_FAIL (R294 to R298). -/
def execEngineFail (e : Fin 4) (c : EngineFailCause) (s : State) : Host.Outcome State Fault Refusal :=
  .next (if !working s e.val || !isOn s (3 + e.val) then s
  else
    let s1 := if c = .cacheParity then countParity s else s
    let s2 := addEntry (addAlert s1 (.engineFail e)) (entryPlain 0x38 [BitVec.ofNat 8 e.val, failCode c, 0, 0])
    forceOff (loseEngine s2 e) (3 + e.val) 0x9)

/-! ### The directory and the caches (R281 to R288) -/

/-- The epoch of an engine's stream in progress, else the current one. -/
def streamEpoch (s : State) (e : Nat) : Nat := match (eng s e).run with | some x => x.epoch | none => s.rules.cur.epoch

/-- FILL (R282, R284): line n of the epoch of the engine's stream is asked for; the engine is a holder. -/
def execFill (e : Fin 4) (line : BitVec 15) (s : State) : Host.Outcome State Fault Refusal :=
  let l := line.toNat
  .next (if !engineReady s e.val || l = 0x7FFF then s
  else
    { s with
      engs.trans := addNew s.engs.trans (.fill e l (streamEpoch s e.val))
      engs.holders := addNew s.engs.holders (e, l) })

/-- The epoch of the oldest FILL of a line that an engine waits for. -/
def fillOf (s : State) (e : Fin 4) (l : Nat) : Option Nat :=
  s.engs.trans.findSome? fun x => match x with | .fill k m p => if k = e && m = l then some p else none | _ => none

/-- A line enters a cache: another copy in the same state goes, and the least recently used line that is not pinned makes
room; while every line is pinned nothing enters (R281). (DEDUCED, log entry 84) -/
def cacheAdd (c : List CacheLine) (x : CacheLine) : List CacheLine :=
  let c1 := c.filter fun y => !(y.line == x.line && (y.st == x.st || y.st == .invalid))
  if c1.length < 256 then c1 ++ [x]
  else
    match c1.find? fun y => y.pinned.isEmpty with
    | some y => c1.erase y ++ [x]
    | none => c1

/-- An engine's streams of an epoch, by kind. -/
def streamsOf (s : State) (e epoch : Nat) : List StreamKind :=
  (((eng s e).run.toList ++ (eng s e).paused).filter fun x => x.epoch == epoch).map (·.kind)

/-- DIRECTORY_DATA (R280, R282, R284, R286): the version of the epoch asked for; a FILL behind another transaction on the
line waits. -/
def execDirectoryData (e : Fin 4) (line : BitVec 15) (parityOk : Bool) (s : State) : Host.Outcome State Fault Refusal :=
  let l := line.toNat
  .next (if !engineReady s e.val then s
  else
    match fillOf s e l with
    | none => s
    | some ep =>
      if behind s.engs.trans (.fill e l ep) l then s
      else
        let s1 := { s with engs.trans := s.engs.trans.erase (.fill e l ep) }
        let t := tablesAt s1.rules ep
        if !parityOk then fillFails s1 e.val l ep
        else
          let old := ep != s1.rules.cur.epoch && placeOf s1.rules t l != placeOf s1.rules s1.rules.cur l
          modEng s1 e.val fun g =>
            { g with
              cache := cacheAdd g.cache
                ⟨l, if old then .old else .current, if old then streamsOf s1 e.val ep else [], memLine (lineAt s1.rules t l)⟩ })

/-- EVICT (R285): it also acknowledges a snoop. -/
def execEvict (e : Fin 4) (line : BitVec 15) (s : State) : Host.Outcome State Fault Refusal :=
  let l := line.toNat
  let s1 := modEng s e.val fun g => { g with cache := g.cache.filter fun c => c.line != l }
  .next { s1 with
    engs.holders := s1.engs.holders.filter fun h => h != (e, l)
    rules.commits := s1.rules.commits.map fun c => { c with snoops := c.snoops.filter fun h => h != (e, l) } }

/-- SNOOP (R283, R284): the copy becomes old and pinned to the streams of the current epoch in progress on the engine that
have read the line, else invalid. The snoop waits behind an earlier transaction on the line. -/
def execSnoop (e : Fin 4) (line : BitVec 15) (s : State) : Host.Outcome State Fault Refusal :=
  let l := line.toNat
  let reads := ((eng s e.val).run.toList ++ (eng s e.val).paused).filter fun x =>
    x.epoch == s.rules.cur.epoch && x.read.contains l
  .next (if s.rules.commits.any fun c => c.snoops.contains (e, l) && !behind s.engs.trans (.commit c.setno c.changed) l then
    modEng s e.val fun g =>
      { g with
        cache := g.cache.map fun c =>
          if c.line = l && c.st == .current then
            if reads.isEmpty then { c with st := .invalid, pinned := [] } else { c with st := .old, pinned := reads.map (·.kind) }
          else c }
  else s)

/-- SACK (R283, R285). -/
def execSack (e : Fin 4) (line : BitVec 15) (s : State) : Host.Outcome State Fault Refusal :=
  .next { s with
    rules.commits := s.rules.commits.map fun c => { c with snoops := c.snoops.filter fun h => h != (e, line.toNat) } }

/-- NHELD (R285): ignored. -/
def execNheld (_ : Fin 4) (_ : BitVec 15) (s : State) : Host.Outcome State Fault Refusal := .next s

/-! ### The scan (R278, R279) -/

/-- SCAN_READ (R278, R279). -/
def execScanRead (parityOk : Bool) (s : State) : Host.Outcome State Fault Refusal :=
  .next (if !isOn s 7 || !isReady s then s
  else
    let p := s.rules.scan
    let s1 := { s with rules.scan := (p + 1) % 32768 }
    if parityOk then s1 else repairPlace (countParity s1) p)

/-- The bytes that the running slot holds for a loaded line (R279). -/
def flashLine (s : State) (line : Nat) : Option (List Byte) :=
  match s.reel with
  | none => none
  | some r =>
    match slotHeader s r.slot with
    | none => none
    | some h => assoc (loadedLines (sectBytes s r.slot h 0x51) (sectBytes s r.slot h 0x50) (sectBytes s r.slot h 0x52)) line

/-- SCAN_REPAIR_DONE (R279, R284, R334): through PD15; the place that was read is rewritten, if it still holds the line that
the Reel loaded there. -/
def execScanRepairDone (s : State) : Host.Outcome State Fault Refusal :=
  .next (match s.rules.repair with
  | none => s
  | some p =>
    if !isOn s 15 || !isOn s 7 || behind s.engs.trans (.repair p) p then s
    else
      let rest := s.rules.badPlaces.filter (· != p)
      let places := if loadedAt s.rules p then
          match flashLine s p with | some b => assocPut s.rules.places p (memLine b) | none => s.rules.places
        else s.rules.places
      { s with
        rules.places := places
        rules.badPlaces := rest
        rules.repair := rest.head?
        engs.trans := s.engs.trans.filter (· != .repair p) })

end Sys2Proof.Machine
end

