-- ==== Sys2Proof/Machine/Updates.lean ====
section
/-! DEFINITION. The commands of table updates: words, sets, commits, and the reload of the rule memory (files 01, 07
and 08). -/

namespace Sys2Proof.Machine

/-! ### Words (Table AUT-9) -/

/-- OP. -/
def wOp (w : List Byte) : Nat := (byteAt w 0).toNat

/-- COMMIT. -/
def wCommit (w : List Byte) : Bool := (byteAt w 1).getLsbD 0

/-- SETNO. -/
def wSetno (w : List Byte) : Half := BitVec.ofNat 16 (field w 2 2)

/-- TARGET. -/
def wTarget (w : List Byte) : Nat := field w 4 2

/-- DATA. -/
def wData (w : List Byte) : List Byte := sliceBytes w 8 64

/-- The MAC of a word checks (R325). -/
def wMacOk (s : State) (dst : Byte) (w : List Byte) : Bool :=
  (cmac (kmgmtOf s) (0x55 :: dst :: w.take 72)).take 8 == sliceBytes w 72 8

/-- OP is not reserved and TARGET is valid (R326). -/
def wValid (r : RuleMem) (w : List Byte) : Bool :=
  let t := wTarget w
  match wOp w with
  | 0 => true
  | 1 | 4 => t < 0x7FFF && !ruleLine r t
  | 2 | 3 => t < r4Of r
  | 5 => t ≤ 2
  | _ => false

/-! ### Staging (R271, R328 to R330) -/

/-- The newest version of the tables: that of the latest set that waits for step 5, else the current epoch (R328). -/
def newestTables (r : RuleMem) : Tables := match r.commits.getLast? with | some c => c.tables | none => r.cur

/-- The newest version of a line; a lost one is taken as 0x00 (R328). -/
def newestLine (r : RuleMem) (line : Nat) : List Byte :=
  let t := newestTables r
  if lineLost r t line then List.replicate 64 0 else lineAt r t line

/-- Up to n places that hold no line, of `fuel` places from p on (R329). -/
def freePlaces (r : RuleMem) (taken : List Nat) (fuel p n : Nat) : List Nat :=
  match fuel with
  | 0 => []
  | fuel + 1 =>
    if n = 0 then []
    else if taken.contains p || placeHeld r p then freePlaces r taken fuel (p + 1) n
    else p :: freePlaces r taken fuel (p + 1) (n - 1)

/-- Up to n free places, lowest first: those that hold a line of no version of the tables. -/
def pickPlaces (r : RuleMem) (n : Nat) : List Nat := freePlaces r [] 32768 0 n

/-- A line's bytes written to a place: what was lost or to be repaired there is gone (R334). -/
def writePlace (r : RuleMem) (p : Nat) (b : List Byte) : RuleMem :=
  { r with
    places := assocPut r.places p (memLine b)
    lost := r.lost.filter (· != p)
    badPlaces := r.badPlaces.filter (· != p)
    repair := if r.repair = some p then (r.badPlaces.filter (· != p)).head? else r.repair }

/-- A line staged into the place that the set has for it, else into the lowest free place (R271, R329); with none the set
is refused when it is next examined. (DESIGN CHOICE, log entry 85) -/
def stageLine (r : RuleMem) (o : OpenSet) (line : Nat) (b : List Byte) : RuleMem × OpenSet :=
  let place := match assoc o.lines line with
    | some p => some p
    | none => (freePlaces r (o.lines.map (·.2)) 32768 0 1).head?
  match place with
  | some p => (writePlace r p b, { o with lines := assocPut o.lines line p, frees := o.frees.filter (· != line) })
  | none => (r, { o with frees := insNat o.frees line })

/-- The staged bytes of a line in a set, else its newest version. -/
def stagedLine (r : RuleMem) (o : OpenSet) (line : Nat) : List Byte :=
  match (assoc o.lines line).bind fun p => assoc r.places p with
  | some x => x.bytes
  | none => newestLine r line

/-- One of the four entries of a line staged; the others stay as they are (R328). -/
def stageEntry (r : RuleMem) (o : OpenSet) (line k : Nat) (b : List Byte) : RuleMem × OpenSet :=
  let old := stagedLine r o line
  stageLine r o line (old.take (16 * k) ++ b.take 16 ++ old.drop (16 * k + 16))

/-- A word staged, its COMMIT bit apart (R271, R326, R328). An ASSOC word's CAUSE is not checked: one outside 0x01 to 0x7F
is recorded as it stands. (DESIGN CHOICE, log entry 155) -/
def stageWord (r : RuleMem) (o : OpenSet) (w : List Byte) : RuleMem × OpenSet :=
  let t := wTarget w
  match wOp w with
  | 1 => stageLine r o t (wData w)
  | 2 => stageEntry r o (ruleEntryLine r t) (t % 4) (wData w)
  | 3 => stageEntry r o (assocEntryLine r t) (t % 4) (wData w)
  | 4 => (r, { o with lines := assocDel o.lines t, frees := insNat o.frees t })
  | 5 => (r, { o with starts := assocPut o.starts t (field (wData w) 0 2) })
  | _ => (r, o)

/-- The tables that a set makes. -/
def setTables (r : RuleMem) (o : OpenSet) : Tables :=
  let b := newestTables r
  { epoch := b.epoch + 1
    remap := o.frees.foldl assocDel (o.lines.foldl (fun m x => assocPut m x.1 x.2) b.remap)
    freed := (b.freed.filter fun l => !(o.lines.any fun x => x.1 == l)) ++
      o.frees.filter (fun l => l < loadEnd r && !b.freed.contains l)
    sframe := (assoc o.starts 0).getD b.sframe
    shost := (assoc o.starts 1).getD b.shost
    sslow := (assoc o.starts 2).getD b.sslow }

/-- A line that an update has placed lies away from its load place: it needs a remap entry (R329). -/
def movedAway (x : Nat × Nat) : Bool := x.1 != x.2

/-- Remap entries left (Table AUT-7). -/
def remapLeft (r : RuleMem) : Nat := 8192 - ((newestTables r).remap.filter movedAway).length

/-- Lines that a set moves away from their load place. -/
def setMoves (r : RuleMem) (o : OpenSet) : Nat :=
  (o.lines.filter fun x => movedAway x && !((newestTables r).remap.any fun y => y.1 == x.1 && movedAway y)).length

/-- The logical lines that a set changes (R330). -/
def changedLines (o : OpenSet) : List Nat := o.lines.map (·.1) ++ o.frees

/-- Why a set cannot be held: over 1,024 lines (1); fewer free places than lines changed, or fewer remap entries left than
lines moved away (2) (R273, R329, R330). (DEDUCED, log entry 159) -/
def setTooBig (r : RuleMem) (o : OpenSet) : Option Nat :=
  let n := (changedLines o).length
  if 1024 < n then some 1
  else if (pickPlaces r n).length < n || remapLeft r < setMoves r o then some 2
  else none

/-! ### Accepting a word (R273, R325 to R327, R332, R333) -/

/-- Why updates are not taken now: an outage (9), or the tables do not run (8). -/
def updatesClosed (s : State) : Option Nat :=
  if inOutage s then some 9
  else if !isRunning s || !matching s || !isOn s 7 then some 8
  else none

/-- SETNO lies 1 to 32,767 ahead of the last committed one (R327). -/
def setnoOk (s : State) (n : Half) : Bool :=
  match s.front.lastSetno with
  | some l => let d := ahead16 l n; 1 ≤ d && d ≤ 32767
  | none => true

/-- A set is committed at step 1 of Sequence ENG-1: a snoop goes to every holder of a changed line whose domain is on, and
the directory takes up its lines (R274, R284, R288, R327). -/
def acceptCommit (s : State) (o : OpenSet) : State :=
  let ch := changedLines o
  let c : CommitWait :=
    { setno := o.setno, tables := setTables s.rules o, places := o.lines.map (·.2), changed := ch
      snoops := s.engs.holders.filter fun h => ch.contains h.2 && working s h.1.val && isOn s (3 + h.1.val) }
  { s with
    rules.openSet := none
    rules.commits := s.rules.commits ++ [c]
    engs.trans := s.engs.trans ++ [.commit o.setno ch]
    front := { s.front with lastSetno := some o.setno } }

/-- The device takes update words from this address for this destination, on a port that is up (R41, R325). -/
def takesWords (s : State) (p : Port) (src dst : Byte) : Bool :=
  src = 0 && (dst = 0xFF || stallAddr s == some dst.toNat) && hasPort s p && portUp s p

/-- One update word from a TABLE_UPDATE frame. In safe mode the set is refused too, but its notice is not among those sent
(R332, R629). (DEDUCED, log entry 154) -/
def updateWord (s : State) (p : Port) (src dst : Byte) (w : List Byte) : State :=
  let n := wSetno w
  if !takesWords s p src dst then s
  else if s.rules.refused = some n then s
  else
    -- a word with another SETNO ends the open set (R327) and the discarding
    let s1 := match s.rules.openSet with
      | some o => if o.setno = n then s else refuseSet s o.setno 7
      | none => s
    let s2 := { s1 with rules.refused := none }
    let o := (s2.rules.openSet).getD ⟨n, p, [], [], []⟩
    match updatesClosed s2 with
    | some k => refuseSet s2 n k
    | none =>
      if !wMacOk s2 dst w then refuseSet s2 n 3
      else if s2.rules.openSet.isNone && !setnoOk s2 n then refuseSet s2 n 6
      else if !wValid s2.rules w then refuseSet s2 n 5
      else
        let (r1, o1) := stageWord s2.rules { o with port := p } w
        match setTooBig s2.rules o1 with
        | some k => refuseSet s2 n k
        | none =>
          let s3 := { s2 with rules := { r1 with openSet := some o1 } }
          if wCommit w then acceptCommit s3 o1 else s3

/-- A word of some OPs with COMMIT clear. -/
def plainWord (s : State) (p : Port) (src dst : Byte) (w : Vector Byte 80) (ops : Nat → Bool) : State :=
  let l := w.toList
  if ops (wOp l) && !wCommit l then updateWord s p src dst l else s

/-- UPDATE_LINE (R328). -/
def execUpdateLine (p : Port) (src dst : Byte) (w : Vector Byte 80) (s : State) : Host.Outcome State Fault Refusal :=
  .next (plainWord s p src dst w fun k => k == 1)

/-- UPDATE_RULE (R328). -/
def execUpdateRule (p : Port) (src dst : Byte) (w : Vector Byte 80) (s : State) : Host.Outcome State Fault Refusal :=
  .next (plainWord s p src dst w fun k => k == 2)

/-- UPDATE_ASSOC (R328). -/
def execUpdateAssoc (p : Port) (src dst : Byte) (w : Vector Byte 80) (s : State) : Host.Outcome State Fault Refusal :=
  .next (plainWord s p src dst w fun k => k == 3)

/-- UPDATE_FREE (R328). -/
def execUpdateFree (p : Port) (src dst : Byte) (w : Vector Byte 80) (s : State) : Host.Outcome State Fault Refusal :=
  .next (plainWord s p src dst w fun k => k == 4)

/-- UPDATE_START (R328). -/
def execUpdateStart (p : Port) (src dst : Byte) (w : Vector Byte 80) (s : State) : Host.Outcome State Fault Refusal :=
  .next (plainWord s p src dst w fun k => k == 5)

/-- UPDATE_NONE (R326): OP none; a reserved OP, with which the set is refused, comes here too. -/
def execUpdateNone (p : Port) (src dst : Byte) (w : Vector Byte 80) (s : State) : Host.Outcome State Fault Refusal :=
  .next (plainWord s p src dst w fun k => k == 0 || 6 ≤ k)

/-- UPDATE_COMMIT (R273, R274, R327): the word of any OP that ends a set. -/
def execUpdateCommit (p : Port) (src dst : Byte) (w : Vector Byte 80) (s : State) : Host.Outcome State Fault Refusal :=
  .next (if wCommit w.toList then updateWord s p src dst w.toList else s)

/-- UPDATE_SET_TIMEOUT (R273). -/
def execUpdateSetTimeout (s : State) : Host.Outcome State Fault Refusal :=
  .next (match s.rules.openSet with
  | some o => refuseSet s o.setno 4
  | none => s)

/-- EPOCH_SWITCH (R272, R274, R275, R284, R328): the oldest set that waits becomes current once its snoops are
acknowledged, no transaction on its lines precedes it and no stream of the previous epoch remains. -/
def execEpochSwitch (s : State) : Host.Outcome State Fault Refusal :=
  .next (match s.rules.commits with
  | [] => s
  | c :: rest =>
    let x := Trans.commit c.setno c.changed
    if !c.snoops.isEmpty || s.rules.prev.isSome || !isOn s 7 || c.changed.any (behind s.engs.trans x) then s
    else
      let s1 := { s with
        rules.commits := rest
        rules.cur := c.tables
        rules.prev := some s.rules.cur
        rules.changed := c.changed.foldl insNat s.rules.changed
        engs.trans := s.engs.trans.filter (· != x) }
      endEpoch (addEntry s1 (entryPlain 0x30 (setDetail c.setno 0))))

/-! ### Reload of the rule memory (R25, R276, R331) -/

/-- Lines of the current epoch with their places, that lie in a bank that does not hold its contents. -/
def lostPlaces (s : State) : List (Nat × Nat) :=
  let held := (dom s 7).banks
  let r := s.rules
  let home := (List.range (loadEnd r)).filterMap fun l => (placeOf r r.cur l).map fun p => (l, p)
  let moved := r.cur.remap.filter fun x => loadEnd r ≤ x.1
  (home ++ moved).filter fun x => !held.getLsbD (x.2 / 4096)

/-- RULE_MEMORY_RELOAD_DONE (R25, R276, R331): all lines after a return from off; else the unchanged lines of the lost
banks, the changed ones being marked lost in one notice. -/
def execRuleMemoryReloadDone (s : State) : Host.Outcome State Fault Refusal :=
  .next (if !s.rules.reloading || !isOn s 7 || !isOn s 15 then s
  else
    let full (t : State) : State := modDom t 7 fun d => { d with banks := allBanks 7 }
    if s.rules.reloadAll then
      let loaded := match s.reel with
        | none => RuleMem.zero
        | some r =>
          match slotHeader s r.slot with
          | none => RuleMem.zero
          | some h => loadRules (sectBytes s r.slot h 0x51) (sectBytes s r.slot h 0x50) (sectBytes s r.slot h 0x52)
      let s1 := full { s with rules := { loaded with refused := s.rules.refused, scan := s.rules.scan } }
      match s.front.lastSetno with
      | some n => if s.rules.cur.epoch = 0 then s1 else addEntry s1 (entryPlain 0x32 (setDetail n 0))
      | none => s1
    else
      let ls := lostPlaces s
      let bad := ls.filter fun x => !(updatedAt s.rules x.2).isEmpty && !s.rules.lost.contains x.2
      let good := ls.filter fun x => (updatedAt s.rules x.2).isEmpty
      let places := good.foldl (fun m x => match flashLine s x.1 with | some b => assocPut m x.2 (memLine b) | none => m)
        s.rules.places
      let s1 := full { s with
        rules := { s.rules with places := places, reloading := false, lost := (bad.map (·.2)).foldl insNat s.rules.lost } }
      if bad.isEmpty then s1
      else addEntries (addAlert s1 .lineLost) (bad.map fun x => entryPlain 0x33 (toBe 2 x.1 ++ [2, 0])))

end Sys2Proof.Machine
end

