-- ==== Sys2Proof/Machine/Drop.lean ====
section
/-! DEFINITION. The commands of the drop port (file 18). -/

namespace Sys2Proof.Machine

/-! ### Words and units (R668, R669) -/

/-- The odd-parity bit of a byte. -/
def oddParity (b : Byte) : Bool := (byteBits b).foldl (fun a x => a != x) true

/-- DP1:0 of a word. -/
def parityOf (w : Half) : BitVec 2 :=
  BitVec.ofBool (oddParity (w.extractLsb' 8 8)) ++ BitVec.ofBool (oddParity (w.extractLsb' 0 8))

/-- Bytes as halfwords; an odd last byte is followed by 0x00. -/
def pairBytes (bs : List Byte) : List Half :=
  match bs with
  | a :: b :: t => (a ++ b) :: pairBytes t
  | [a] => [a ++ 0#8]
  | [] => []

/-- A unit's words with parity and marks. -/
def unitWords (l : List Half) : List DropWord :=
  l.mapIdx fun k w => ⟨w, parityOf w, k == 0, k + 1 == l.length⟩

/-- The bytes of ingress words. -/
def wordBytes (l : List DropWord) : List Byte := l.flatMap fun w => [w.dq.extractLsb' 8 8, w.dq.extractLsb' 0 8]

/-- The port takes part: PD16 on and VIO in range (R667, R687). -/
def dropActive (s : State) : Bool := isOn s 16 && s.sup.vio

/-- Between units the direction of DDIR takes effect (R672). -/
def turnPipe (s : State) : State :=
  if s.drop.inUnit || s.drop.egress.isSome then s else { s with drop.ingressDir := s.pins.ddir }

/-- DDIR_CHANGE (R672). -/
def execDdirChange (level : Bool) (s : State) : Host.Outcome State Fault Refusal :=
  let s1 := { s with pins.ddir := level }
  .next (if dropActive s then turnPipe s1 else s1)

/-! ### Ingress (R681 to R684) -/

/-- Verdicts that are ready leave the waiting list, in arrival order (R683). -/
def readyVerdicts (d : DropPort) : DropPort :=
  let now := d.waiting.takeWhile fun x => x.2 != 0
  { d with
    waiting := d.waiting.dropWhile fun x => x.2 != 0
    verdicts := d.verdicts ++ now.map fun x => ⟨false, x.2, 0⟩ }

/-- The refusal reason of a unit by the checks 1 to 7 of Table DRP-3, 0x00 when it passes. -/
def ingressReason (l : List DropWord) (afterOutage gapOver : Bool) : Byte :=
  let b0 := wordBytes l
  let n := fLen b0
  let b := b0.take (20 + n)
  let marks := l.mapIdx fun k w => w.sof == (k == 0)
  let grp := byteAt b 6
  if l.any fun w => w.dp != parityOf w.dq then 0x01
  else if l.length ≠ (20 + n + 1) / 2 || l.length < 5 || marks.any (fun x => !x) then 0x02
  else if !hcrcOk b then 0x03
  else if fTyp b ≠ 1 || 2048 < n || fWrap b || fHseq b ≠ 0 || fSrc b ≠ 0 || grp.extractLsb' 4 4 ≠ 0 || fSseq b ≠ 0 then 0x05
  else if !crcOk b then 0x04
  else if afterOutage then 0x07
  else if gapOver then 0x08
  else 0x00

/-- INGRESS_UNIT (R681, R683, R685): a unit whose DSOF found four verdicts waiting leaves none. -/
def execIngressUnit (gapOver : Bool) (s : State) : Host.Outcome State Fault Refusal :=
  let d := s.drop
  .next (if !dropActive s || d.inUnit || d.words.isEmpty then s
  else
    let r := ingressReason d.words d.afterOutage gapOver
    let b := wordBytes d.words
    let d1 := { d with words := [], overFour := false, afterOutage := false }
    if d.overFour then { s with drop := d1 }
    else { s with drop := readyVerdicts { d1 with waiting := d1.waiting ++ [(b.take (20 + fLen b), r)] } })

/-- The frame as the device sends it on: SRC, GROUP and SSEQ written, check values afresh (R604, R682). -/
def hostFrame (s : State) (b : List Byte) : List Byte :=
  let g := (ownGroup s ++ (byteAt b 6).extractLsb' 0 4 : Byte)
  let h := [byteAt b 0, 0, byteAt b 2, ownAddr s] ++ sliceBytes b 4 2 ++ [g] ++ sliceBytes b 7 3 ++
    toBe 2 s.tether.sseq.toNat ++ sliceBytes b 12 2
  let f := h ++ toBe 2 (crc16 h).toNat ++ payload b
  f ++ toBe 4 (crc32 f).toNat

/-- The copies that a host frame's disposition asks for (Table QUE-5). -/
def hostCopies (s : State) (b : List Byte) (d : Decision) : List CopyTo :=
  let (o, w) := originPort s
  let tr := CopyTo.hold o w
  let lo := CopyTo.drop (localTag b d.qtag)
  match d.disp with
  | .dflt => if forUsAlone s b then [lo] else [tr]
  | .forward => [tr]
  | .deliver => [lo]
  | .copy => [tr, lo]
  | .discard => []

/-- Copies are placed, each in cells of its own. -/
def placeAll (s : State) (a : Accepted) (cs : List CopyTo) (tag : Half) : State :=
  cs.foldl (fun t c =>
    let cells := pickCells t (cellsOf a.bytes)
    placeCopy (allocCells t cells) a cells c tag) s

/-- The head frame of the waiting list is admitted with all its copies or refused with reason 0x06 (R645, R682). -/
def giveVerdict (s : State) (b : List Byte) (d : Decision) : State × Verdict :=
  let cs := hostCopies s b d
  let n := cellsOf b
  let fits := (cs.all fun c => copyRoom s n c .bulk) && n * cs.length ≤ generalFree s &&
    (pickCells s (n * cs.length)).length == n * cs.length
  if !fits then (askMemory s, ⟨false, 0x06, 0⟩)
  else
    let f := hostFrame s b
    let a : Accepted := ⟨f, [], none, s.queues.nextId⟩
    let seq := s.tether.sseq
    let s1 := markAccept
      { s with queues.nextId := s.queues.nextId + 1, tether.sseq := seq + 1 } (ownAddr s).toNat seq
    let s2 := if cs.isEmpty then markRelease s1 (ownAddr s).toNat else placeAll s1 a cs (d.qtag.getD (fQtag b))
    (askMemory s2, ⟨true, 0, seq⟩)

/-- VERDICT_READY (R642 to R645, R682, R683): once the end decision is known, or no engine matches the frame. -/
def execVerdictReady (s : State) : Host.Outcome State Fault Refusal :=
  .next (match s.drop.waiting with
  | [] => s
  | (b, _) :: rest =>
    if !dropActive s || streamRuns s .host then s
    else
      let d := s.engs.decHost.getD ⟨.dflt, none⟩
      let (s1, v) := giveVerdict { s with engs.decHost := none } b d
      { s1 with drop := readyVerdicts { s1.drop with waiting := rest, verdicts := s1.drop.verdicts ++ [v] } })

/-- PULL_WORD (R676): ignored with T_DROPMODE low. -/
def execPullWord (word : Half) (dp : BitVec 2) (s : State) : Host.Outcome State Fault Refusal :=
  .next (if !dropActive s || !s.drop.ingressDir || s.drop.inUnit || !pullMode s then s
  else if dp ≠ parityOf word then { s with drop.pull := none, drop.pullReason := 0x01 }
  else if 0xFFF0 ≤ word.toNat then { s with drop.pull := none, drop.pullReason := 0x0B }
  else { s with drop.pull := some word, drop.pullReason := 0 })

/-! ### Egress (R673 to R679) -/

/-- A status unit (Table DRP-2). -/
def statusUnit (kind reason : Nat) (value : Half) : List DropWord :=
  unitWords [BitVec.ofNat 16 (0xF000 + kind * 256 + reason), value]

/-- The drop queue that an egress fetch serves (R675, R676). -/
def chosenQueue (s : State) : Option Nat :=
  let tags := (s.queues.qs.map (·.1)).filter fun t => t < 0xFFF0
  if pullMode s then
    match s.drop.pull with
    | some t => if tags.contains t.toNat then some t.toNat else none
    | none => none
  else
    match tags.find? fun t => s.drop.lastTag < t with
    | some t => some t
    | none => tags.head?

/-- The words of an egress frame: the stored frame with the queue's tag in bytes 12 and 13 (R673). -/
def egressWords (f : QFrame) (tag : Nat) : List DropWord :=
  unitWords (pairBytes (f.bytes.take 12 ++ toBe 2 tag ++ f.bytes.drop 14))

/-- A unit starts: its first word is presented. -/
def startUnit (s : State) (l : List DropWord) (tag : Option Nat) : State :=
  match l with
  | [] => s
  | w :: rest => { s with drop.dq := w, drop.egress := some ⟨rest, tag⟩ }

/-- The head frame of a queue marked as being taken (R647). -/
def markBusy (s : State) (tag : Nat) (busy : Bool) : State :=
  setQueue s tag (match queueOf s tag with | f :: t => { f with busy := busy } :: t | [] => [])

/-- A word that cuts a unit short: DEOF high, both parity bits wrong (R679). -/
def cutWord (w : DropWord) : DropWord := { w with dp := ~~~(parityOf w.dq), eof := true }

/-- The reason and VALUE of an Empty unit (Table DRP-2). -/
def emptyUnit (s : State) : List DropWord :=
  let reason := if inOutage s then 0x07 else if pullMode s && s.drop.pull.isNone then s.drop.pullReason.toNat else 0
  statusUnit 2 reason (if pullMode s then s.drop.pull.getD 0xFFFF else 0xFFFF)

/-- The head frame of a queue starts to be taken. -/
def startFrameUnit (s : State) (tag : Nat) (ecc : EccResult) : State :=
  match queueOf s tag with
  | [] => s
  | f :: _ =>
    let s1 := countEcc { s with drop.lastTag := tag } ecc
    let l := egressWords f tag
    if eccFails ecc then
      turnPipe (eccFail { s1 with drop.dq := (l.map cutWord).headD s.drop.dq } tag f ecc)
    else startUnit (markBusy s1 tag true) l (some tag)

/-- The memories that hold the head frame of a queue are on. -/
def headReadable (s : State) (tag : Nat) : Bool := match queueOf s tag with | f :: _ => canRead s f | [] => true

/-- The head frame of a queue cannot be read: the unit waits while the memories that hold it return (R22, R406), else the
queue counts as one without a frame. (DESIGN CHOICE, log entry 161) -/
def awaitHead (s : State) (tag : Nat) : State :=
  match queueOf s tag with
  | f :: _ =>
    let s1 := askAccess s f
    if (frameDoms f).all fun d => isOn s1 d || risesLater s1 d then s1 else startUnit s1 (emptyUnit s1) none
  | [] => s

/-- EGRESS_FETCH (R22, R654, R673 to R677, R685, R745): a port that holds may start no unit (R376), and a fetch waits while a
verdict is due (R682): it is answered once that is ready. (DEDUCED, log entry 171) -/
def execEgressFetch (ecc : EccResult) (s0 : State) : Host.Outcome State Fault Refusal :=
  let (bar, s) := barred s0 16
  .next (if bar || !dropActive s || s.drop.ingressDir || s.drop.egress.isSome then s
  else
    match s.drop.verdicts with
    | v :: rest =>
      startUnit { s with drop.verdicts := rest } (statusUnit (if v.ok then 0 else 1) v.reason.toNat v.value) none
    | [] =>
      if !s.drop.waiting.isEmpty then s
      else if inOutage s then startUnit s (emptyUnit s) none
      else
        match chosenQueue s with
        | none => startUnit s (emptyUnit s) none
        | some t =>
          if !headReadable s t then awaitHead s t
          else if ecc = .descriptor then
            let s1 := loseQueue s t
            match chosenQueue s1 with
            | none => startUnit s1 (emptyUnit s1) none
            | some u => if headReadable s1 u then startFrameUnit s1 u .clean else awaitHead s1 u
          else startFrameUnit s t ecc)

/-- The frame that an egress unit takes. -/
def takenFrame (s : State) (tag : Nat) : Option QFrame := (queueOf s tag).find? (·.busy)

/-- The next word of an egress unit; an uncorrectable error cuts a frame unit short, reports the frame and ends the
unit (R654, R655, R679). -/
def egressWord (s : State) (g : Egress) (ecc : EccResult) : State :=
  match g.words with
  | [] => s
  | w :: rest =>
    match g.tag with
    | none =>
      turnPipe { s with drop.dq := w, drop.egress := if rest.isEmpty then none else some { g with words := rest } }
    | some t =>
      let s1 := countEcc s ecc
      if eccFails ecc then
        let s2 := { s1 with drop.dq := cutWord w, drop.egress := none }
        turnPipe (match takenFrame s2 t with
        | some f => eccFail (markBusy s2 t false) t { f with busy := false } ecc
        | none => s2)
      else { s1 with drop.dq := w, drop.egress := some { g with words := rest } }

/-- One word of an ingress unit (R669, R683, R685); a port that holds may take no new unit (R376). (DESIGN CHOICE, log
entry 121) -/
def ingressWord (s : State) (w : DropWord) : State :=
  let d := s.drop
  if d.inUnit then turnPipe { s with drop := { d with words := d.words ++ [w], inUnit := !w.eof } }
  else if w.sof && w.eof then turnPipe { s with drop := { d with words := [] } }
  else
    let (bar, s) := barred s 16
    if bar then s
    else turnPipe { s with
      drop := { d with
        words := [w]
        inUnit := !w.eof
        afterOutage := inOutage s
        overFour := 4 ≤ d.verdicts.length + d.waiting.length } }

/-- DROP_WORD_TRANSFER (R654, R669, R670, R679, R683). -/
def execDropWordTransfer (word : Half) (dp : BitVec 2) (dsof deof : Bool) (ecc : EccResult) (s : State) :
    Host.Outcome State Fault Refusal :=
  .next (if !dropActive s then s
  else if s.drop.ingressDir then ingressWord s ⟨word, dp, dsof, deof⟩
  else match s.drop.egress with | some g => egressWord s g ecc | none => s)

/-- EGRESS_COMPLETE (R30, R647, R656, R678). -/
def execEgressComplete (s : State) : Host.Outcome State Fault Refusal :=
  .next (match s.drop.egress with
  | some ⟨[], some t⟩ =>
    if !dropActive s then s
    else
      let s1 := { s with drop.egress := none }
      turnPipe (match takenFrame s1 t with
      | some f => releaseCopy s1 t f
      | none => s1)
  | _ => s)

/-- PD16 leaves on: the unit in progress is abandoned and every waiting verdict is lost (R686). -/
def dropLeaves (s : State) : State :=
  let s1 := match s.drop.egress with
    | some ⟨_, some t⟩ => markBusy s t false
    | _ => s
  { s1 with
    engs.decHost := none
    drop := { s1.drop with
      words := [], inUnit := false, afterOutage := false, overFour := false, waiting := [], verdicts := [], egress := none
      pull := none, pullReason := 0, lastTag := 0xFFEF } }

/-- PD16 returns to on: no queue is named, and DDIR gives the direction (R667, R686). -/
def dropReturns (s : State) : State :=
  turnPipe { s with drop := { s.drop with pull := none, pullReason := 0 } }

end Sys2Proof.Machine
end

