-- ==== Sys2Proof/Machine/FrontEnds.lean ====
section
/-! DEFINITION. The commands of the listening front ends: candidates, wake words and the tug relay (file 06). -/

namespace Sys2Proof.Machine

/-! ### Fields of a body (Tables LIS-5 and LIS-6) -/

/-- ADDR. -/
def bAddr (b : Word32) : Byte := b.extractLsb' 24 8

/-- GROUP. -/
def bGroup (b : Word32) : BitVec 4 := b.extractLsb' 20 4

/-- CLASS. -/
def bClass (b : Word32) : BitVec 4 := b.extractLsb' 16 4

/-- HOP of a tug word. -/
def bHop (b : Word32) : BitVec 4 := b.extractLsb' 12 4

/-- SEQ: bits [15:8] of a mains body, [11:4] of a tug body. -/
def bSeq (tug : Bool) (b : Word32) : Byte := if tug then b.extractLsb' 4 8 else b.extractLsb' 8 8

/-- The CRC of a word, over body and MAC in line order (R228). -/
def wordCrc (body : Word32) (mac : Half) : Byte := crc8 (toBe 4 body.toNat ++ toBe 2 mac.toNat)

/-- The MAC of a word under a key (R229): the kind byte and the body, bits [15:12] of a tug body taken as 0. -/
def wordMac (key : BitVec 128) (tug : Bool) (body : Word32) : Half :=
  let b : Word32 := if tug then body &&& 0xFFFF0FFF else body
  BitVec.ofNat 16 (field (cmac key ((if tug then 0x54 else 0x4D) :: toBe 4 b.toNat)) 0 2)

/-! ### Front ends -/

/-- The domain of a front end (Table LIS-1). -/
def feDom (fe : FrontEnd) : Nat := match fe with | .mains => 0 | .tugU => 1 | .tugD => 2

/-- The number of a front end. -/
def feNum (fe : FrontEnd) : Nat := feDom fe

/-- The tug front end of a port. -/
def feOf (p : Port) : FrontEnd := match p with | .u => .tugU | .d => .tugD

/-- The port of a tug front end. -/
def fePort (fe : FrontEnd) : Option Port := match fe with | .mains => none | .tugU => some .u | .tugD => some .d

/-- The front end listens (R221, R241, R252): its domain is on, and its port's link is not up. -/
def listens (s : State) (fe : FrontEnd) : Bool :=
  isOn s (feDom fe) &&
    match fePort fe with
    | none => s.boot.safe || s.boot.step == .running
    | some p => isRunning s && !portUp s p

/-- A front end decodes a candidate, or does not. -/
def setLocked (s : State) (fe : FrontEnd) (v : Bool) : State := { s with front.locked := vset s.front.locked (feNum fe) v }

/-- A front end decodes a candidate. -/
def locked (s : State) (fe : FrontEnd) : Bool := vget s.front.locked false (feNum fe)

/-- PREAMBLE_LOCK (R225, R843): a receiver that decodes a candidate takes every carrier as part of it. -/
def execPreambleLock (fe : FrontEnd) (s : State) : Host.Outcome State Fault Refusal :=
  .next (if listens s fe then setLocked s fe true else s)

/-- SYNC_BYTE_MISMATCH (R225, R249): the candidate is dropped and leaves no record. -/
def execSyncByteMismatch (fe : FrontEnd) (s : State) : Host.Outcome State Fault Refusal := .next (setLocked s fe false)

/-! ### Deciding on a word (R230 to R235) -/

/-- A MAC failure is counted: eight within 10 s set MACF and assert ALERT_N (R235). -/
def macFailure (s : State) (fe : FrontEnd) : State :=
  let l := (s.now :: vget s.front.macFails [] (feNum fe)).take 8
  let s1 := { s with front.macFails := vset s.front.macFails (feNum fe) l }
  match l[7]? with
  | some t => if s.now - t ≤ 327680 then addAlert { s1 with front.macf := true } .macFail else s1
  | none => s1

/-- A sequence number is fresh against a watermark (R230, R253). -/
def freshSeq (wm : Option Byte) (q : Byte) : Bool :=
  match wm with
  | none => true
  | some w => 1 ≤ (q - w).toNat && (q - w).toNat ≤ 64

/-- The device is a member of a group (R233). -/
def memberOf (s : State) (g : BitVec 4) : Bool :=
  match strapGroup s with
  | none => false
  | some k => k = g.toNat || ((s.reel.map Reel.gmask).getD 0).getLsbD g.toNat

/-- The word's class is enabled (R182, R230). -/
def classOk (s : State) (tug : Bool) (c : BitVec 4) : Bool :=
  match s.reel with
  | none => false
  | some r => (if tug then r.tclass else r.mclass).getLsbD c.toNat

/-- ADDR selects the device (R230); a broadcast mains word is not selected under T_MAINS open. -/
def addrOk (s : State) (fe : FrontEnd) (a : Byte) : Bool :=
  (match stallAddr s with | some n => a.toNat = n | none => false) ||
    (a = 0xFF && !(fe == .mains && tri s 2 == .opn))

/-- A word for relay takes the waiting place of the outbound port, or is discarded (R238 to R241).
(DEDUCED, log entry 72) -/
def queueRelay (s : State) (out : Port) (body : Word32) (mac : Half) : State :=
  let strapHigh := tri s (match out with | .u => 0 | .d => 1) == .high
  if !strapHigh || !isOn s (tugDom out) || portUp s out then s
  else
    match out with
    | .u => if s.front.relayU.isNone then { s with front.relayU := some (body, mac) } else s
    | .d => if s.front.relayD.isNone then { s with front.relayD := some (body, mac) } else s

/-- What a fresh word does outside safe mode (R230). -/
def freshWord (s : State) (fe : FrontEnd) (body : Word32) (mac : Half) : State :=
  let s1 := match fePort fe with
    | some p => if bHop body = 0 then s else queueRelay s (otherPort p) body mac
    | none => s
  if memberOf s1 (bGroup body) && classOk s1 (fePort fe).isSome (bClass body) && addrOk s1 fe (bAddr body) then
    presentSlow s1 (.word fe body)
  else s1

/-- A word outside safe mode: CRC, MAC under KWAKE, window, watermark, then its effects (R230, R231). -/
def decideWord (s : State) (fe : FrontEnd) (body : Word32) (mac : Half) (crc : Byte) : State :=
  let tug := (fePort fe).isSome
  let g := (bGroup body).toNat
  if wordCrc body mac ≠ crc then s
  else if wordMac (kwakeOf s) tug body ≠ mac then macFailure s fe
  else
    let marks := if tug then s.front.wmTug else s.front.wmMains
    if !freshSeq (vget marks none g) (bSeq tug body) then s
    else
      let m := vset marks g (some (bSeq tug body))
      let s1 := if tug then { s with front.wmTug := m } else { s with front.wmMains := m }
      freshWord s1 fe body mac

/-- A mains word in safe mode (R147, R252): the factory key, the safe-mode watermarks, and cause 0x85 on WAKE0.
(DEDUCED, log entry 70) -/
def decideSafe (s : State) (body : Word32) (mac : Half) (crc : Byte) : State :=
  let g := (bGroup body).toNat
  if wordCrc body mac ≠ crc then s
  else if wordMac 0 false body ≠ mac then macFailure s .mains
  else if !freshSeq (vget s.front.wmSafe none g) (bSeq false body) then s
  else
    let s1 := { s with front.wmSafe := vset s.front.wmSafe g (some (bSeq false body)) }
    if bAddr body = 0xFF || (match stallAddr s with | some n => (bAddr body).toNat = n | none => false) then
      recordDevice s1 1 0x85
    else s1

/-- MAINS_WORD (R230 to R237, R147): the last CRC bit of the candidate in decoding; a word whose preamble was not locked,
or whose candidate was dropped, is lost (R249, R843). (DEDUCED, log entry 69) -/
def execMainsWord (body : Word32) (mac : Half) (crc : Byte) (s : State) : Host.Outcome State Fault Refusal :=
  let s1 := setLocked s .mains false
  .next (if !listens s .mains || !locked s .mains then s
  else if s.boot.safe then decideSafe s1 body mac crc
  else decideWord s1 .mains body mac crc)

/-- TUG_WORD (R230 to R241), as MAINS_WORD. -/
def execTugWord (p : Port) (body : Word32) (mac : Half) (crc : Byte) (s : State) : Host.Outcome State Fault Refusal :=
  .next (if listens s (feOf p) && locked s (feOf p) then decideWord (setLocked s (feOf p) false) (feOf p) body mac crc else s)

/-! ### Relay (R238 to R241) -/

/-- The relayed body: HOP reduced by 1. -/
def relayBody (b : Word32) : Word32 := (b &&& 0xFFFF0FFF) ||| BitVec.ofNat 32 (((bHop b).toNat - 1) * 4096)

/-- TUG_RELAY: the waiting word is sent out of a port while its tug domain is on and its link is not up. -/
def execTugRelay (out : Port) (s : State) : Host.Outcome State Fault Refusal :=
  let w := match out with | .u => s.front.relayU | .d => s.front.relayD
  let s1 := match out with
    | .u => { s with front.relayU := none }
    | .d => { s with front.relayD := none }
  .next (match w with
    | none => s
    | some (body, mac) =>
      if isOn s (tugDom out) && !portUp s out then
        let b := relayBody body
        { s1 with front.lastRelay := some (out, b, mac, wordCrc b mac) }
      else s1)

/-- A front-end domain leaves on: a candidate is discarded, and so is a word that waits for the domain's transmitter
(R238, R249). -/
def frontLeaves (s : State) (d : Nat) : State :=
  match d with
  | 0 => setLocked s .mains false
  | 1 => { setLocked s .tugU false with front.relayU := none }
  | 2 => { setLocked s .tugD false with front.relayD := none }
  | _ => s

end Sys2Proof.Machine
end

