-- ==== Sys2Proof/Machine/BridleOps.lean ====
section
/-! DEFINITION. Shared operations of Bridle: what a domain's leaving and returning do, forced leaves, rail attempts,
profiles on their way, and the answers of negotiated blocks (files 09 and 10). -/

namespace Sys2Proof.Machine

/-! ### Rail attempts (R354, R356, R414) -/

/-- The attempts on a channel's rail. -/
def railTry (s : State) (c : Chan) : RailTry := match c with | .main => s.act.main | .aux => s.act.aux

/-- The attempts on a channel's rail changed by f. -/
def modTry (s : State) (c : Chan) (f : RailTry → RailTry) : State :=
  match c with
  | .main => { s with act.main := f s.act.main }
  | .aux => { s with act.aux := f s.act.aux }

/-- The channel of a regulator domain. -/
def domChan (d : Nat) : Option Chan := if d = 17 then some .main else if d = 18 then some .aux else none

/-- A request that is no retry asks for a state of a regulator domain: one for on starts the attempts afresh; one that
takes the domain out of on, or a pause between attempts, ends them, and pins that wait are released where the domain is
already down (R350, R356, R414). (DEDUCED, log entry 95) -/
def railAsked (s : State) (d : Nat) (t : DS) : State :=
  match domChan d with
  | none => s
  | some c =>
    if t = .on then
      if (railTry s c).gap then
        modChan (modTry s c fun y => { y with gap := false, running := false, retries := 0 }) c fun x => { x with phase := .off }
      else s
    else
      let gap := (railTry s c).gap
      let s1 := modTry s c fun _ => RailTry.idle
      if gap then
        let s2 := modChan s1 c fun x => { x with phase := .off }
        if c = .main && !inOutage s2 then releasePins s2 (pendingMask s2) else s2
      else s1

/-! ### A domain leaves on (R366 to R369) -/

/-- The fields of W13 to W15 that hold while PD17 is not on, as they stand (R699). (DEDUCED, log entry 103) -/
def holdNow (s : State) : HoldRegs :=
  let flags (f : Nat → Bool) : BitVec 6 := BitVec.ofNat 6 ((List.range 6).foldl (fun a k => a + 2 ^ k * bit (f k)) 0)
  ⟨s.reg.active.length, s.reg.main.vloc, syncState s, derateOf s .main, derateOf s .aux, flags (vget s.reg.failed false),
    flags fun k => decide (16 ≤ vget s.reg.pinned 0 k)⟩

/-- A channel whose domain leaves on: its balls in MID, its latch released (R369, R442, R505). -/
def channelLeaves (s : State) (c : Chan) (forced : Bool) : State :=
  let s0 := if forced && c == .main then { s with reg.hold := holdNow s } else s
  let s1 := if switching (chan s0 c) then stopChan s0 c .off else setPwm (dropPgood s0 c) c .mid
  let s2 := if !forced && c == .main then { s1 with reg.hold := holdNow s1 } else s1
  let s3 := endLatch (modChan s2 c fun x =>
    { x with phase := .off, ref := 0, own := 0, target := 0, diode := false, withheld := false, heldLow := false, warm := false }) c
  let s4 := match c with
    | .main => { s3 with reg.descent := false }
    | .aux => { s3 with reg.vtrk := 0 }
  refreshStraps s4

/-- A port's domain leaves on: an up port goes down, orderly unless it is forced (R565, R590; log entry 36). -/
def portLeaves (s : State) (p : Port) (forced : Bool) : State :=
  if portUp s p then portDownAs s p .ownDomain (!forced)
  else modLink s p fun l => { l with st := .down, step := 0, settlings := 0 }

/-- Drop queues that hold a frame (R658). -/
def dropQueues (s : State) : Nat := (s.queues.qs.filter fun q => q.1 < 0xFFF0 && !q.2.isEmpty).length

/-- Entries of a NOTICE frame (Table TFR-7). -/
def noticeEntries (f : QFrame) : Nat := if fTyp f.bytes = 2 && f.inPort.isNone then (payByte f.bytes 2).toNat else 0

/-- Numbers that a watermark report would name for each source with HELD not 0 (R755). -/
def heldSpans (s : State) : Nat := s.queues.marks.foldl (fun a m => a + if m.held = 0 then 0 else (spanOf m).length) 0

/-- Notice entries that have not left (R653, R658, R754, R755). -/
def backlog (s : State) : Nat :=
  satur 0xFFFF ((queueOf s noticeTag).foldl (fun a f => a + noticeEntries f) 0 + s.queues.gather.length + s.integ.cursor.length +
    s.queues.kept.length + s.queues.deferred.length + if pathFaulty s then heldSpans s else 0)

/-- The block's own part of a domain that leaves on, before its supply changes. A Reel delivery in progress as PD15 leaves
is abandoned as by an outage. (DESIGN CHOICE, log entry 157) -/
def blockLeaves (s : State) (d : Nat) (forced : Bool) : State :=
  let s1 := storeEarliest s d
  match d with
  | 0 | 1 | 2 => frontLeaves s1 d
  | 3 | 4 | 5 | 6 => engineLeaves s1 (d - 3)
  | 7 => { ruleMemoryLeaves s1 with rules.reloading := false }
  | 15 =>
    let s2 := abandonXfer { s1 with rules.repair := none, rules.reloading := false } 2 true
    { s2 with win.hold28 := dropQueues s2, win.hold29 := backlog s2 }
  | 16 => dropLeaves s1
  | 17 => monitorsLeave (channelLeaves s1 .main forced) 17
  | 18 => monitorsLeave (channelLeaves s1 .aux forced) 18
  | 19 => monitorsLeave s1 19
  | _ => s1

/-- Pins that wait on a rail that is down rise, outside an outage (R350, R360). -/
def pinsAtRailDown (s : State) (d : Nat) : State :=
  if d = 17 && !inOutage s then releasePins s (pendingMask s) else s

/-- A domain leaves on for a state: its block, its banks, its port (R366 to R369, R400, R661).
(DEDUCED, log entry 96) -/
def domLeaves (s : State) (d : Nat) (t : DS) (forced : Bool) : State :=
  let s1 := blockLeaves s d forced
  let s2 := loseBanks s1 d (if t = .ret then keptBanks s1 d else 0)
  let s3 := modDom s2 d fun m => { m with st := t }
  let s4 := forgetRules s3 d t
  if d = 13 then portLeaves s4 .u forced else if d = 14 then portLeaves s4 .d forced else s4

/-! ### A domain reaches on (R366, R367) -/

/-- PD07 reaches on: it holds its contents, or a reload runs (R25, R276, R331). -/
def ruleMemoryReturns (s : State) : State :=
  if !isReady s || s.boot.safe then modDom s 7 fun m => { m with banks := allBanks 7 }
  else if s.rules.reloadAll || !(lostPlaces s).isEmpty then demand { s with rules.reloading := true } 15
  else modDom s 7 fun m => { m with banks := allBanks 7 }

/-- A channel's domain reaches on (R417, R426, R354, R443): at an invalid setpoint it stays off (R191); a clock that did not
run starts on the internal oscillator, with no edge of SYNC_IN accepted. -/
def channelReturns (s : State) (c : Chan) : State :=
  let x := chan s c
  if x.warm then s
  else
    let k := wantedIndex s c
    let s1 := modChan s c fun y => { y with phase := .notSwitching, sel := k }
    let s2 := if isOn s 17 && isOn s 18 then s1 else { s1 with reg.clock := .internal, reg.clk := ⟨0, 16, 0, none⟩ }
    modTry s2 c fun t => { t with running := true, gap := false }

/-- A port's domain reaches on: training begins, unless boundary scan holds the ports down (R561, R68). -/
def portReturns (s : State) (p : Port) : State :=
  if s.tap.forced then s else modLink s p fun l => { l with st := .training, step := 1, settlings := 0 }

/-- A domain reaches on, its pace rail raised before (R767). -/
def domReturns (s : State) (d : Nat) : State :=
  let s1 := raiseFor (modDom s d fun m => { m with st := .on, banks := if 8 ≤ d && d ≤ 12 then allBanks d else m.banks }) d
  match d with
  | 3 | 4 | 5 | 6 => engineReturns s1 (d - 3)
  | 7 => ruleMemoryReturns s1
  | 13 => portReturns s1 .u
  | 14 => portReturns s1 .d
  | 16 => dropReturns s1
  | 17 => channelReturns s1 .main
  | 18 => channelReturns s1 .aux
  | _ => s1

/-! ### What follows when a domain has left or reached on -/

/-- A domain that has left on: a domain whose rise is past step 2 of Sequence DOM-2 and that requires it has it asked for
again (R383, R411). -/
def askAgain (s : State) (d : Nat) : State := (requirers s d).foldl askRequired s

/-- A domain stays on after all: a request to take out of on a domain that it requires, not yet begun, is refused
(R384). -/
def refuseBelow (s : State) (d : Nat) : State :=
  (required s d).foldl (fun t r =>
    match (dom t r).cur with
    | some (q, .wait) =>
      if q.target ≠ .on && staysOn t d then settle (resolve (endCur t r) r q .refused 0xD) r else t
    | _ => t) s

/-- The request in progress is done: the domain is in the state asked for. -/
def finish (s : State) (d : Nat) (q : Req) : State := settle (resolve (endCur s d) d q .done 0) d

/-- The pins of the results of the profile that turned a rail on wait on it (R355, R358). -/
def attachPins (s : State) (d : Nat) (q : Req) : State :=
  match domChan d, s.bridle.jobs.find? fun j => j.id == q.job with
  | some c, some j => modTry s c fun y => { y with mask := y.mask ||| j.mask }
  | _, _ => s

/-- A domain that has reported LIVE reaches on when every domain it requires is on (Sequence DOM-2 step 5). -/
def tryLive (s : State) (d : Nat) : State :=
  match (dom s d).cur with
  | some (q, .live) => if (required s d).all (isOn s) then finish (domReturns (attachPins s d q) d) d q else s
  | _ => s

/-- A domain ends its leave: GRANT or DRAINED (Sequence DOM-1 steps 4 to 6). -/
def leaveNow (s : State) (d : Nat) (q : Req) : State :=
  let s1 := domLeaves s d q.target false
  askAgain (pinsAtRailDown (finish s1 d q) d) d

/-- A domain is forced off with its clamps applied (R118, R380): its request in progress ends with a result, and an
attempt on its rail ends. (DEDUCED, log entry 94) -/
def forceDown (s : State) (d : Nat) (r : ReqResult) (reason : BitVec 4) : State :=
  let m := dom s d
  let s0 := match domChan d with | some c => modTry s c fun _ => RailTry.idle | none => s
  let s1 := if m.st = .on then domLeaves s0 d .off true
    else
      forgetRules (modDom (loseBanks s0 d 0) d fun x => { x with st := .off }) d .off
  let s2 := match m.cur with
    | some (q, _) => resolve (endCur s1 d) d q r reason
    | none => s1
  pinsAtRailDown s2 d

/-! ### Work that holds a domain (Table DOM-6, R404) -/

/-- A bank of a memory holds live data (Table DOM-6, R749). -/
def bankLive (s : State) (d b : Nat) : Bool :=
  if d = 8 then
    (s.queues.qs.any fun q => descBank q.1 == b && !q.2.isEmpty) || (b = 3 && !(s.tether.u.out.isEmpty && s.tether.d.out.isEmpty))
  else if 9 ≤ d && d ≤ 12 then s.queues.alloc.any fun c => c / 16384 + 9 == d && c / 1024 % 16 == b
  else false

/-- A memory would lose live data by going to a state (R377, R404). -/
def wouldLose (s : State) (d : Nat) (t : DS) : Bool :=
  (List.range (bankCount d)).any fun b => bankLive s d b && (t == .off || !(keptBanks s d).getLsbD b)

/-- A stream that the engine carries has its source up (R299): a line stream while its port is up, the host stream while
PD16 is on, and a slow stream never. (DESIGN CHOICE, log entry 153) -/
def lineSourceUp (s : State) (e : Nat) : Bool :=
  let a := s.engs.assign
  let is (x : Option (Fin 4)) : Bool := match x with | some k => k.val == e | none => false
  (is a.portU && portUp s .u) || (is a.portD && portUp s .d) || (is a.host && isOn s 16)

/-- A Reel load, delivery or repair read is in progress (Table DOM-6). -/
def loaderBusy (s : State) : Bool := !isReady s || s.xfer.isSome || s.rules.repair.isSome || s.rules.reloading

/-- The reason with which a negotiated block refuses to leave on for a state; none when it will grant (Table DOM-6). -/
def blockRefuses (s : State) (d : Nat) (t : DS) : Option (BitVec 4) :=
  if 3 ≤ d && d ≤ 6 then if lineSourceUp s (d - 3) then some 5 else none
  else if d = 7 then
    if [3, 4, 5, 6].any (isOn s) || s.rules.openSet.isSome then some 5 else none
  else if 8 ≤ d && d ≤ 12 then if wouldLose s d t then some 6 else none
  else if d = 13 || d = 14 then
    let p : Port := if d = 13 then .u else .d
    if (match s.xfer with | some t => t.port == p | none => false) ||
      (match s.rules.openSet with | some o => o.port == p | none => false) then some 5 else none
  else if d = 15 then if loaderBusy s then some 5 else none
  else none

/-- The block has come to the point at which it grants (Table DOM-6): a stream boundary, every frame acknowledged or
held, the end of the unit. -/
def mayGrant (s : State) (d : Nat) : Bool :=
  if 3 ≤ d && d ≤ 6 then (eng s (d - 3)).run.isNone && (eng s (d - 3)).paused.isEmpty
  else if d = 13 then !portUp s .u || s.tether.u.out.isEmpty
  else if d = 14 then !portUp s .d || s.tether.d.out.isEmpty
  else if d = 16 then !s.drop.inUnit && s.drop.egress.isNone
  else true

/-- The domain is negotiated now: OWN is 1, and no outage runs (R171, R373). -/
def negotiated (s : State) (d : Nat) : Bool :=
  d ≠ 17 && d ≠ 18 && !inOutage s && (match s.reel with | some r => (vget r.doms r.doms[0] d).own | none => false)

/-- DELAY of a domain. -/
def delayOf (s : State) (d : Nat) : Nat := match s.reel with | some r => (vget r.doms r.doms[0] d).delay | none => 25

/-! ### Profiles (R349, R385, R386) -/

/-- The state that a target pair asks for; none for 0b11. -/
def pairState (v : Nat) : Option DS := if v = 0 then some .off else if v = 1 then some .ret else if v = 2 then some .on else none

/-- The target pair of a domain. -/
def targetOf (t : BitVec 40) (d : Nat) : Option DS := pairState (natBits t.toNat (2 * d + 1) (2 * d))

/-- Later target pairs over earlier ones: a later 0b11 leaves the earlier pair (R349). -/
def mergeTargets (old new : BitVec 40) : BitVec 40 :=
  BitVec.ofNat 40 ((List.range 20).foldl (fun a d =>
    let v := natBits new.toNat (2 * d + 1) (2 * d)
    a + (if v = 3 then natBits old.toNat (2 * d + 1) (2 * d) else v) * 4 ^ d) 0)

/-- A profile reaches Bridle (Sequence DOM-3 step 1): one of the action sequencer merges into an earlier one of the
action sequencer that waits unstarted (R349). -/
def passProfile (s : State) (k : Fin 8) (o : Origin) (mask : BitVec 4) (hostCmd : Bool) : State :=
  let p := profileOf s k
  let j : Job := ⟨s.bridle.nextJob, o, k, p.targets, p, mask, 0, false, false, 0, hostCmd⟩
  if o = .seq && s.bridle.waiting.any fun x => x.origin == .seq then
    { s with
      bridle.waiting := s.bridle.waiting.map fun x =>
        if x.origin = .seq then
          { x with prof := k, targets := mergeTargets x.targets p.targets, fields := p, mask := x.mask ||| mask }
        else x }
  else { s with bridle.waiting := s.bridle.waiting ++ [j], bridle.nextJob := s.bridle.nextJob + 1 }

/-- A domain has a request that has not ended. -/
def outstanding (s : State) (d : Nat) : Bool := (dom s d).cur.isSome || !(dom s d).reqs.isEmpty

/-- The domains of a profile that need a request (R386), in Bridle's order: PD17, PD18, then the others. -/
def profileTargets (s : State) (t : BitVec 40) : List (Nat × DS) :=
  ([17, 18] ++ List.range 17 ++ [19]).filterMap fun d =>
    match targetOf t d with
    | some x => if present s d && (outstanding s d || domSt s d ≠ x) then some (d, x) else none
    | none => none

end Sys2Proof.Machine
end

