-- ==== Sys2Proof/Machine/OutageOps.lean ====
section
/-! DEFINITION. The charge gauge, the supply selector's moves, and the steps of the outage sequence and of its reversal
(files 17 and 20). -/

namespace Sys2Proof.Machine

/-! ### Gauge (R716 to R719) -/

/-- Capacitor codes of RV_BAK in units of 10 mF (Table STP-7). -/
def bakCap (code : Nat) : Nat := [0, 10, 22, 47, 68, 100, 150, 220, 470, 1000].getD code 0

/-- Battery codes of RV_BAK in mAh (Table STP-7). -/
def bakMah (code : Nat) : Nat := if code = 10 then 10 else if code = 11 then 25 else if code = 12 then 50 else if code = 13 then 100 else 250

/-- RV_BAK as decided, 0 when unresolved. -/
def bakCode (s : State) : Nat := ((rv s 10).map (·.val)).getD 0

/-- Q_cap in nC (Table OUT-3). -/
def qCap (s : State) : Nat :=
  if gaugeOff s then 0 else if bakCode s ≤ 9 then 30000000 * bakCap (bakCode s) else 3600000000 * bakMah (bakCode s)

/-- F(V) of Table OUT-4, in twentieths of a per mille: linear between the points. -/
def batteryF20 (mv : Nat) : Nat :=
  if 4200 ≤ mv then 20000
  else if 4000 ≤ mv then 16000 + 20 * (mv - 4000)
  else if 3800 ≤ mv then 11000 + 25 * (mv - 3800)
  else if 3700 ≤ mv then 8000 + 30 * (mv - 3700)
  else if 3600 ≤ mv then 4000 + 40 * (mv - 3600)
  else if 3400 ≤ mv then 1200 + 14 * (mv - 3400)
  else if 3000 ≤ mv then 3 * (mv - 3000)
  else 0

/-- Q(V) in nC for VBAK in mV (Table OUT-3). -/
def qOf (s : State) (mv : Nat) : Nat :=
  if gaugeOff s then 0
  else if bakCode s ≤ 9 then min (qCap s) (10000 * bakCap (bakCode s) * (mv - 2000))
  else 180000 * bakMah (bakCode s) * batteryF20 mv

/-- REMAIN: 1,000 × Q / Q_cap to the nearest whole number (R716). -/
def remain (s : State) : Nat := if qCap s = 0 then 0 else min 1000 ((2000 * s.gauge.q + qCap s) / (2 * qCap s))

/-- GDRIFT sets, with its alert (R718). -/
def setDrift (s : State) : State := addAlert { s with gauge.gdrift := true } .gdrift

/-- The gauge re-bases on the last reading (R717, R718). -/
def rebase (s : State) : State :=
  if gaugeOff s then s
  else
    let old := remain s
    let s1 := { s with gauge.q := qOf s s.gauge.vbak, gauge.rebaseDue := false, gauge.based := true }
    let new := remain s1
    if s.gauge.based && (100 < new - old || 100 < old - new) then setDrift s1 else s1

/-- The island moves back to VAON: GDRIFT ends, the stages start afresh, and the gauge re-bases (R712, R717, R718).
(DEDUCED, log entry 106) -/
def backToVaon (s : State) : State :=
  if s.gauge.onVbak then
    rebase (dropAlert { s with gauge.onVbak := false, gauge.gdrift := false, gauge.below := 0 } .gdrift)
  else s

/-! ### Step 1 (R723, R724, R411, R414, R214, R333) -/

/-- The state that a domain counts as at step 1 (R724); in safe mode the regulator domains do not count as on, whatever
warm hold has left on (R42, R155). -/
def savedState (s : State) (d : Nat) : DS :=
  if s.boot.safe && (d = 17 || d = 18) then .off
  else match (dom s d).cur with
    | some (q, g) => if g = .wait then domSt s d else q.target
    | none => domSt s d

/-- Requests of a domain that have not reached step 2 are cancelled: refused with reason 0xA (R411). -/
def cancelRequests (s : State) (d : Nat) : State :=
  let m := dom s d
  let early := match m.cur with | some (q, .wait) => [q] | _ => []
  let s1 := modDom s d fun x =>
    { x with
      reqs := []
      cur := match x.cur with | some (_, .wait) => none | c => c }
  (early ++ m.reqs).foldl (fun t q => resolve t d q .refused 0xA) s1

/-- A profile that waits unstarted is cancelled with reason 0xA; its pins stay pending (R360, R411).
(DEDUCED, log entry 97) -/
def cancelJob (s : State) (j : Job) : State :=
  let s1 := w0bEntry s (BitVec.ofNat 5 (24 + j.prof.val)) j.origin .refused 0xA true
  let late := j.mask &&& pendingMask s1
  record83 { s1 with act.after83 := s1.act.after83 ||| late } (j.mask &&& ~~~late)

/-- Host commands that wait behind a profile are cancelled with it (R411). -/
def cancelBehind (s : State) : State :=
  s.bridle.behind.foldl (fun t x => resolve t x.2.1.val ⟨.host, x.2.2, 0, true, false⟩ .refused 0xA) { s with bridle.behind := [] }

/-- The attempts on a rail end without a failure (R414). -/
def endTries (s : State) (c : Chan) : State :=
  let s1 := if (chan s c).phase = .waiting .gap then modChan s c fun x => { x with phase := .off } else s
  modTry s1 c fun _ => RailTry.idle

/-- Steps 1 and 2 of Sequence OUT-1, to the work in flight of step 3. -/
def beginOutage (s : State) (x : Starter) : State :=
  let s1 := { s with
    outage := ⟨3, false, false, none, [x], vgen 20 (savedState s), [], msNow s, false⟩
    gauge.acted := 0
    nvm.hours := s.hours }
  let s2 := (List.range 20).foldl cancelRequests s1
  let s3 := cancelBehind (s2.bridle.waiting.foldl cancelJob { s2 with bridle.waiting := [] })
  let s4 := endTries (endTries s3 .main) .aux
  let s5 := abandonXfer (finishPage s4) 2 true
  match s5.rules.openSet with
  | some o =>
    deferEntry { s5 with rules.openSet := none, rules.refused := some o.setno } (entryPlain 0x31 (setDetail o.setno 9))
  | none => s5

/-- A starter fires (R720, R721, R732): it starts the sequence, or joins those of the sequence that runs. -/
def fireStarter (s : State) (x : Starter) : State :=
  if !isReady s || s.boot.inReset then s
  else if s.outage.step = 0 then beginOutage s x
  else { s with outage.fired := addNew s.outage.fired x, outage.returned := false }

/-! ### Step 3 (R660) -/

/-- A queue's descriptor lies in a bank that the map in force keeps. -/
def descKept (s : State) (tag : Nat) : Bool := (keptBanks s 8).getLsbD (descBank tag)

/-- Free cells of kept banks. -/
def pickKept (s : State) (n : Nat) : List Nat :=
  scanBanks s.queues.alloc
    (((quadsOn s).map fun q => (List.range 16).map fun b => 16 * q + b).flatten.filter fun b => cellKept s (1024 * b)) n

/-- New cells for a frame: those in kept banks stay, the others move into free cells of kept banks; none when no such
cell is free or the descriptor is not kept. (DEDUCED, log entry 100) -/
def keptCells (s : State) (tag : Nat) (f : QFrame) : Option (List Nat) :=
  let bad := f.cells.filter fun c => !cellKept s c
  let new := pickKept s bad.length
  if !descKept s tag || new.length < bad.length then none
  else
    some (f.cells.foldl (fun (acc : List Nat × List Nat) c =>
      if cellKept s c then (acc.1 ++ [c], acc.2) else (acc.1 ++ acc.2.take 1, acc.2.drop 1)) ([], new)).1

/-- A frame with its cells moved: old cells free, new ones allocated. -/
def moveCells (s : State) (f : QFrame) (cs : List Nat) : State := allocCells (freeCells s f.cells) cs

/-- A frame of a queue is moved, or it is not held: reported with reason 0x09 and released (R660). -/
def holdQueued (tag : Nat) (s : State) (f : QFrame) : State :=
  match keptCells s tag f with
  | some cs =>
    setQueue (moveCells s f cs) tag ((queueOf s tag).map fun g => if g = f then { g with cells := cs } else g)
  | none => failFrame s tag f 0x09

/-- An outstanding frame is moved, or it is not held (R660). -/
def holdOut (p : Port) (s : State) (x : Byte × QFrame) : State :=
  match keptCells s (outTag p) x.2 with
  | some cs =>
    modLink (moveCells s x.2 cs) p fun l =>
      { l with out := l.out.map fun y => if y = x then (y.1, { y.2 with cells := cs }) else y }
  | none =>
    afterRemoval
      (modLink (reportFrame s x.2.bytes x.2.tag 0x09) p fun l =>
        { l with out := l.out.filter fun y => y ≠ x, resend := l.resend.filter fun h => h ≠ x.1 }) x.2

/-- The queue manager's part of step 3: notice, outstanding, hold, then drop queues by ascending tag (R660). -/
def flightEnds (s : State) : State :=
  let queue (t : State) (tag : Nat) : State := (queueOf t tag).foldl (holdQueued tag) t
  let s1 := queue s noticeTag
  let s2 := [Port.u, .d].foldl (fun t p => (link t p).out.foldl (holdOut p) t) s1
  let s3 := [0xFFF0, 0xFFF1, 0xFFF2, 0xFFF3].foldl queue s2
  ((s3.queues.qs.map (·.1)).filter fun t => t < 0xFFF0).foldl queue s3

/-! ### Steps 5 and 6 (R440, R726, R172, R174, R402) -/

/-- The state that a domain reaches at the retention step; none for PD00 to PD02 whose OUTRET bit is set.
(DEDUCED, log entry 99) -/
def outTarget (s : State) (d : Nat) : Option DS :=
  let set := match mapInForce s with | some m => m.outret.getLsbD d | none => false
  if d ≤ 2 then if set then none else some .off
  else if 7 ≤ d && d ≤ 12 then some .ret
  else some (if set then .ret else .off)

/-- Requests of the outage sequence join the orders of several domains at once, then each goes on. -/
def requestAll (s : State) (l : List (Nat × DS)) : State :=
  let todo := l.filter fun x => present s x.1 && (outstanding s x.1 || domSt s x.1 ≠ x.2)
  let s1 := todo.foldl (fun t x => enqueue t x.1 (devReq x.2)) s
  todo.foldl (fun t x => settle t x.1) s1

/-- Step 6: every domain is asked for its outage state. -/
def enterStep6 (s : State) : State :=
  let s1 := { s with outage.step := 6, outage.undo := none, reg.descent := false }
  requestAll s1 ((List.range 20).filterMap fun d => (outTarget s1 d).map fun t => (d, t))

/-- The rails have left on. -/
def railsDown (s : State) : Bool := !isOn s 17 && !isOn s 18 && !outstanding s 17 && !outstanding s 18

/-! ### The reversal (Sequence OUT-2) -/

/-- Ageing resumes: the suspended time is added to every STAMP and port-down time (R650). (DEDUCED, log entry 101) -/
def resumeAgeing (s : State) : State :=
  let n := msNow s - s.outage.startMs
  let later (f : QFrame) : QFrame := { f with stamp := f.stamp + n }
  let port (l : Link) : Link := { l with downAt := l.downAt + n, out := l.out.map fun x => (x.1, later x.2) }
  { s with
    queues.qs := s.queues.qs.map fun q => (q.1, q.2.map later)
    queues.earliest := s.queues.earliest.map (· + n)
    integ.orphans := s.integ.orphans.map later
    tether.u := port s.tether.u
    tether.d := port s.tether.d }

/-- What R338 does with the pins of a result whose profile has PEN set: raised at once, or pending on the rail. -/
def pinsFor (s : State) (p : Profile) (mask : BitVec 4) : State :=
  let now := p.early ||
    match targetOf p.targets 17 with
    | some .on => false
    | some _ => true
    | none => !isOn s 17
  if now then raisePins s mask else pendPins s mask

/-- The outage has ended: the kept selections go to the slow-stream engine (R729). -/
def presentKept (s : State) (l : List SlowItem) : State := l.foldl presentSlow s

/-- The most recently recorded profile is applied, and every pending pin is resolved against it (R37, R360). -/
def applyRecorded (s : State) : State :=
  let s1 := { s with outage.settle := false }
  match s1.act.outProfile with
  | some (k, mask) =>
    let t := passProfile { s1 with act.outProfile := none } k .seq mask false
    pinsFor t (profileOf t k) (pendingMask t)
  | none => if isOn s1 17 || s1.act.main.running || railFailing s1 .main then s1 else releasePins s1 (pendingMask s1)

/-- No slow stream runs and none waits. -/
def slowIdle (s : State) : Bool := s.engs.slowQ.isEmpty && !(allStreams s).any fun x => isSlow x.kind

/-- Once the kept selections are matched and no result waits, the recorded profile is applied (R37, R729). -/
def settleEnd (s : State) : State :=
  if s.outage.settle && !inOutage s && slowIdle s && s.act.queue.isEmpty then applyRecorded s else s

/-- In safe mode channels that warm hold has left on go down by the descent sequence, the auxiliary first (R155, R440). -/
def safeRailsOff (s : State) : State :=
  if s.boot.safe && (isOn s 17 || isOn s 18) then
    requestAll { s with reg.descent := isOn s 17 && isOn s 18 } ((([18, 17] : List Nat).filter (isOn s)).map fun d => (d, .off))
  else s

/-- Steps U3 to U1: an island still on VBAK moves back, the outage ends, the boot profile is applied if it waited, and
the kept selections are matched; the most recently recorded profile follows them (R37, R160, R360, R729, R730).
(DEDUCED, log entry 105) (DESIGN CHOICE, log entry 140) -/
def endOutage (s : State) : State :=
  let l := s.outage.kept
  let s1 : State := { resumeAgeing (backToVaon s) with outage := { Outage.zero with settle := true }, gauge.acted := 0 }
  let s2 := if s1.boot.step = .ready then
      let s' : State := { s1 with boot.step := .running }
      match s'.reel with
      | some r => passProfile s' r.bootProf .dev 0 false
      | none => s'
    else s1
  askMemory (safeRailsOff (if l.isEmpty then applyRecorded s2 else settleEnd (presentKept s2 l)))

/-- No domain other than PD17 and PD18 has a request that has not ended. -/
def domainsSettled (s : State) : Bool := (List.range 20).all fun d => d = 17 || d = 18 || !outstanding s d

/-- Step U5: PD17 and PD18 return to their saved states. -/
def enterU5 (s : State) : State :=
  let s1 := { s with outage.step := 5, outage.undo := some 5, reg.descent := false }
  requestAll s1 ([17, 18].map fun d => (d, vget s1.outage.saved .off d))

/-- Step 5 ends: U5 follows when the input has returned meanwhile, else step 6 (R730). -/
def descentEnds (s : State) : State :=
  if s.outage.returned then enterU5 { s with outage.returned := false, outage.fired := [] } else enterStep6 s

/-- Step 5: the descent sequence, the auxiliary channel first (R440); the rails' attempts end (R414). -/
def enterStep5 (s0 : State) : State :=
  let s := endTries (endTries s0 .main) .aux
  let s1 := { s with outage.step := 5, outage.undo := none, reg.descent := true }
  let s2 := requestAll s1 ([18, 17].filterMap fun d => if isOn s1 d || outstanding s1 d then (outTarget s1 d).map fun t => (d, t) else none)
  if railsDown s2 then descentEnds s2 else s2

/-- Step U6 ends when its domains have settled: U5 follows, or step 6 again when a starter has fired meanwhile
(R730, R732). -/
def undoGoesOn (s : State) : State :=
  if s.outage.undo = some 6 && domainsSettled s then if s.outage.fired.isEmpty then enterU5 s else enterStep6 s else s

/-- Step U6: every domain other than PD17 and PD18 returns to its saved state. -/
def enterU6 (s : State) : State :=
  let s1 := { s with outage.step := 6, outage.undo := some 6, outage.returned := false, outage.fired := [] }
  undoGoesOn (requestAll s1 (((List.range 17) ++ [19]).map fun d => (d, vget s1.outage.saved .off d)))

/-- Step 5 has ended when both rails have left on. -/
def descentGoesOn (s : State) : State :=
  if s.outage.step = 5 && s.outage.undo.isNone && railsDown s then descentEnds s else s

/-- What a domain's settling does to the outage sequence and its reversal (R723, R726, R730). -/
def outageGoesOn (s : State) : State := undoGoesOn (descentGoesOn s)

end Sys2Proof.Machine
end

