-- ==== Sys2Proof/Machine/Bridle.lean ====
section
/-! DEFINITION. The commands of Bridle: profiles, host command pins, the handshake with the blocks, the idle policy and
the retention map (file 10). -/

namespace Sys2Proof.Machine

/-! ### Applying a profile (Sequence DOM-3) -/

/-- A setpoint that a profile selects for a channel, by its fields or by the value taken from VSEL2:0, is invalid (R191). -/
def badSetpoint (s : State) (p : Profile) (c : Chan) : Bool :=
  match c with
  | .main => !spValid (setpointOf s .main (if p.movr then p.mset else s.pins.vsel))
  | .aux => present s 18 && !spValid (setpointOf s .aux (if p.aovr then p.aset else s.pins.vsel))

/-- An invalid setpoint of a profile is refused with reason 0x7 (R191, Table DOM-10). (DESIGN CHOICE, log entry 90) -/
def refuseSetpoint (s : State) (j : Job) (c : Chan) : State × Job :=
  if badSetpoint s j.fields c && !(j.origin = .host && !j.hostCmd) then
    (w0bEntry s (BitVec.ofNat 5 (chanDom c)) j.origin .refused 0x7 true, { j with refused := true, reason := 0x7 })
  else (s, j)

/-- The host commands that waited for a profile's start join the orders of their domains (R39, R412). -/
def takeBehind (s : State) (k : Nat) : State :=
  let l := s.bridle.behind.filter fun x => x.1 == k
  l.foldl (fun t x => request (railAsked t x.2.1.val x.2.2) x.2.1.val ⟨.host, x.2.2, 0, true, false⟩)
    { s with bridle.behind := s.bridle.behind.filter fun x => x.1 != k }

/-- A profile starts with VSEL2:0 at `v`: setpoint fields latched, the value of VSEL2:0 taken where it selects (R418), PD17
and PD18 first, then every other target at once (R385, R386). -/
def startJob (s : State) (j : Job) (v : Fin 8) : State :=
  let p := j.fields
  let s1 := { s with
    bridle.latched := some (p.mset, p.movr, p.aset, p.aovr)
    pins.vsel := if p.movr && p.aovr then s.pins.vsel else v }
  let (s2, j2) := refuseSetpoint s1 j .main
  let (s3, j3) := refuseSetpoint s2 j2 .aux
  let s4 := selectIndex (selectIndex s3 .main (wantedIndex s3 .main)) .aux (wantedIndex s3 .aux)
  let asked (t : State) (d : Nat) : State := match targetOf j.targets d with | some x => railAsked t d x | none => t
  let s5 := asked (asked s4 17) 18
  let l := profileTargets s5 j.targets
  let both := (l.any fun x => x.1 == 17 && x.2 != .on) && (l.any fun x => x.1 == 18 && x.2 != .on)
  let s6 := if both && isOn s5 17 && isOn s5 18 then { s5 with reg.descent := true } else s5
  if l.isEmpty then takeBehind (jobComplete s6 j3) j.id
  else
    let s7 := { s6 with bridle.jobs := s6.bridle.jobs ++ [{ j3 with left := l.length }] }
    let req (x : DS) : Req := ⟨j.origin, x, j.id, false, false⟩
    let rails := l.filter fun x => x.1 == 17 || x.1 == 18
    let others := l.filter fun x => !(x.1 == 17 || x.1 == 18)
    let s8 := rails.foldl (fun t x => request t x.1 (req x.2)) s7
    let s9 := others.foldl (fun t x => enqueue t x.1 (req x.2)) s8
    takeBehind (others.foldl (fun t x => settle t x.1) s9) j.id

/-- PROFILE_START (R385): the profile at the head of Bridle's order. -/
def execProfileStart (vsel : Fin 8) (s : State) : Host.Outcome State Fault Refusal :=
  .next (match s.bridle.waiting with
  | [] => s
  | j :: rest => if !isRunning s || inOutage s then s else startJob { s with bridle.waiting := rest } j vsel)

/-! ### Host command pins (R388 to R392, R143, R147, R411, R412) -/

/-- PACK rises with PRES1:0. -/
def hostAnswer (s : State) (pres : BitVec 2) : State := { s with bridle.pack := true, bridle.pres := pres }

/-- A command is refused on PRES: an entry in W0B, without ALERT_N (R396, R398). -/
def hostRefuse (s : State) (sel : BitVec 5) (reason : BitVec 4) : State :=
  hostAnswer (w0bEntry s sel .host .refused reason false) 1

/-- A rising edge of PSTB acts (R389). -/
def hostTaken (s : State) : Bool := pinsLive s && !s.bridle.pack

/-- The last profile that waits unstarted and names a domain. -/
def lastNaming (s : State) (d : Nat) : Option Nat :=
  ((s.bridle.waiting.filter fun j => (targetOf j.targets d).isSome).map (·.id)).getLast?

/-- A command that asks for a domain's state (R390). One that arrives behind a profile that names the domain and is not
started, the boot profile between steps 11 and 12 above all, waits for its start (R39, R412). -/
def hostState (s : State) (d : Fin 20) (t : DS) : State :=
  let sel : BitVec 5 := BitVec.ofNat 5 d.val
  let q : Req := ⟨.host, t, 0, true, false⟩
  if !hostTaken s then s
  else if !isReady s then hostRefuse s sel 0x1
  else match refusal s d.val q with
    | some r => hostRefuse (settle (modDom s d.val dropIdle) d.val) sel r
    | none =>
      match lastNaming s d.val with
      | some k => hostAnswer { modDom s d.val dropIdle with bridle.behind := s.bridle.behind ++ [(k, d, t)] } 2
      | none =>
        if !outstanding s d.val && domSt s d.val = t then hostAnswer (railAsked s d.val t) 0
        else request (railAsked (hostAnswer s 2) d.val t) d.val q

/-- HOST_OFF (R390). -/
def execHostOff (d : Fin 20) (s : State) : Host.Outcome State Fault Refusal := .next (hostState s d .off)

/-- HOST_RETENTION (R390). -/
def execHostRetention (d : Fin 20) (s : State) : Host.Outcome State Fault Refusal := .next (hostState s d .ret)

/-- HOST_ON (R390). -/
def execHostOn (d : Fin 20) (s : State) : Host.Outcome State Fault Refusal := .next (hostState s d .on)

/-- HOST_QUERY (R391): no action. (DEDUCED, log entry 92) -/
def execHostQuery (d : Fin 20) (s : State) : Host.Outcome State Fault Refusal :=
  let sel : BitVec 5 := BitVec.ofNat 5 d.val
  .next (if !hostTaken s then s
  else if !isReady s then hostRefuse s sel 0x1
  else if !present s d.val then hostRefuse s sel 0x2
  else if (dom s d.val).faulty then hostAnswer s 3
  else if outstanding s d.val || s.bridle.behind.any (fun x => x.2.1 == d) then hostAnswer s 2
  else hostAnswer s 0)

/-- HOST_APPLY (R390): a profile whose every target holds, with nothing outstanding for the domains that it names, answers
00, or 01 with reason 0x7 where it selects an invalid setpoint; its setpoint fields are applied all the same. (DEDUCED,
log entries 90 and 91) -/
def execHostApply (k : Fin 8) (s : State) : Host.Outcome State Fault Refusal :=
  let sel : BitVec 5 := BitVec.ofNat 5 (24 + k.val)
  let p := profileOf s k
  let named (j : Job) : Bool := (List.range 20).any fun d => (targetOf j.targets d).isSome && (targetOf p.targets d).isSome
  .next (if !hostTaken s then s
  else if !isReady s then hostRefuse s sel 0x1
  else if s.boot.safe then hostRefuse s sel 0xE
  else if inOutage s then hostRefuse s sel 0xA
  else if (profileTargets s p.targets).isEmpty && !(s.bridle.waiting.any named) then
    if badSetpoint s p .main || badSetpoint s p .aux then passProfile (hostRefuse s sel 0x7) k .host 0 false
    else passProfile (hostAnswer s 0) k .host 0 false
  else passProfile (hostAnswer s 2) k .host 0 true)

/-- HOST_INVALID_COMMAND (R388). -/
def execHostInvalidCommand (psel : BitVec 5) (pcmd : BitVec 2) (s : State) : Host.Outcome State Fault Refusal :=
  let bad := (20 ≤ psel.toNat && psel.toNat ≤ 23) || (24 ≤ psel.toNat && pcmd ≠ 3)
  .next (if !hostTaken s || !bad then s
  else if !isReady s then hostRefuse s psel 0x1
  else hostRefuse s psel 0x8)

/-- The command that PSEL4:0 and PCMD1:0 encode (Table DOM-8). -/
def hostCommand (psel : BitVec 5) (pcmd : BitVec 2) : Instr :=
  if h : psel.toNat < 20 then
    let d : Fin 20 := ⟨psel.toNat, h⟩
    if pcmd = 0 then .hostOff d else if pcmd = 1 then .hostRetention d else if pcmd = 2 then .hostOn d else .hostQuery d
  else if 24 ≤ psel.toNat && pcmd = 3 then .hostApply (Fin.ofNat 8 (psel.toNat - 24))
  else .hostInvalidCommand psel pcmd

/-- PSTB_FALL (R389): PACK falls and PRES1:0 return to 0b00. -/
def execPstbFall (s : State) : Host.Outcome State Fault Refusal :=
  .next (if pinsLive s then { s with bridle.pack := false, bridle.pres := 0 } else s)

/-! ### The handshake (R370 to R380) -/

/-- The request of a domain goes to a stage. -/
def toStage (s : State) (d : Nat) (q : Req) (g : Stage) : State := modDom s d fun m => { m with cur := some (q, g) }

/-- Step 2 of Sequence DOM-1 may come: every domain that requires this one is not on, and in an outage none of them is past
step 2 of its rise, which completes first (R411). -/
def freeToLeave (s : State) (d : Nat) : Bool :=
  (requirers s d).all fun e => !isOn s e &&
    !(inOutage s && match (dom s e).cur with | some (_, .rising) | some (_, .live) => true | _ => false)

/-- ASK (R375, R376). -/
def execAsk (d : Fin 20) (s : State) : Host.Outcome State Fault Refusal :=
  .next (match (dom s d.val).cur with
  | some (q, .wait) => if negotiated s d.val && freeToLeave s d.val then toStage s d.val q .asked else s
  | _ => s)

/-- Step 2 of Sequence RGS-2: PGOOD low, diode emulation, the reference on its way to 0 V (R438). -/
def beginStop (s : State) (c : Chan) : State :=
  if switching (chan s c) then
    let s1 := modChan (freezeRef (dropPgood s c) c) c fun x =>
      { x with phase := .stopping, target := 0, targetHigh := x.high, diode := true, warm := false }
    match c with
    | .main => { s1 with reg.swapShed := false, reg.restoreDue := false, reg.underCount := 0 }
    | .aux => s1
  else modChan s c fun x => { x with warm := false }

/-- The descent sequence holds the main channel's stop until the auxiliary domain has left on (R440). -/
def descentHolds (s : State) (d : Nat) : Bool := d = 17 && s.reg.descent && isOn s 18

/-- DRAIN (R373, R378, R438, R440). -/
def execDrain (d : Fin 20) (s : State) : Host.Outcome State Fault Refusal :=
  .next (match (dom s d.val).cur with
  | some (q, .wait) =>
    if !negotiated s d.val && freeToLeave s d.val && !descentHolds s d.val then
      let s1 := toStage s d.val q .draining
      match domChan d.val with
      | some c => beginStop s1 c
      | none => s1
    else s
  | _ => s)

/-- The domain has an ASK without a final answer: the request to leave on. -/
def askedFor (s : State) (d : Nat) : Option Req :=
  match (dom s d).cur with
  | some (q, .asked) | some (q, .held) => if q.target = .on then none else some q
  | _ => none

/-- GRANT (R370, R376, R377): a block that refuses, or whose work goes on, sends none. -/
def execGrant (d : Fin 20) (s : State) : Host.Outcome State Fault Refusal :=
  .next (match askedFor s d.val with
  | some q => if (blockRefuses s d.val q.target).isNone && mayGrant s d.val then outageGoesOn (leaveNow s d.val q) else s
  | none => s)

/-- REFUSE (R376, R377, R384, R404): with the reason of Table DOM-6; requests on domains that this one requires are then
refused too. -/
def execRefuse (d : Fin 20) (s : State) : Host.Outcome State Fault Refusal :=
  .next (match askedFor s d.val with
  | some q =>
    match blockRefuses s d.val q.target with
    | some r => outageGoesOn (settle (refuseBelow (resolve (endCur s d.val) d.val q .refused r) d.val) d.val)
    | none => s
  | none => s)

/-- HOLD (R376): a block whose DELAY is 0 never sends it. -/
def execHold (d : Fin 20) (s : State) : Host.Outcome State Fault Refusal :=
  .next (match (dom s d.val).cur with
  | some (q, .asked) => if delayOf s d.val = 0 then s else toStage s d.val q .held
  | _ => s)

/-- LIVE (R370, R383): the domain reaches on once every domain it requires is on, and so do those that waited for it. -/
def execLive (d : Fin 20) (s : State) : Host.Outcome State Fault Refusal :=
  .next (match (dom s d.val).cur with
  | some (q, .rising) =>
    if fed s d.val then
      let s1 := tryLive (toStage s d.val q .live) d.val
      outageGoesOn ((requirers s1 d.val).foldl tryLive s1)
    else s
  | _ => s)

/-! ### Faulty domains (R379, R380, R298, R415) -/

/-- The words and events that wait for, or run on, a rule memory that is faulty are handled without matching (R298). -/
def slowLost (s : State) : State :=
  let run := (allStreams s).filter fun x => isSlow x.kind && !x.passed
  let s1 := (run.map fun _ => ()).foldl (fun t _ => pushResult t .engineLost) s
  s1.engs.slowQ.foldl (fun t _ => pushResult t .engineLost) { s1 with engs.slowQ := [] }

/-- Requests that reach the head while the domain is being declared faulty fail with reason 0x9 (R415). -/
def failWaiting (s : State) (d : Nat) : State :=
  let l := (dom s d).reqs
  l.foldl (fun t q => resolve t d q .failed 0x9) (modDom s d fun m => { m with reqs := [] })

/-- DOMAIN_FAULTY (R379, R380): a block has missed its answer, its DRAINED or its LIVE. -/
def execDomainFaulty (d : Fin 20) (snap : Snap) (s : State) : Host.Outcome State Fault Refusal :=
  .next (match (dom s d.val).cur with
  | some (_, .wait) | some (_, .live) | none => s
  | some (q, _) =>
    let c : Chan := if d.val = 18 then .aux else .main
    let note := entryPlain 0x42 [BitVec.ofNat 8 d.val, BitVec.ofNat 8 (originCode q.origin).toNat, 0x0B, 0]
    let s0 := if d.val = 7 then slowLost s else s
    -- an engine whose domain is faulty counts as failed (R295)
    let s1 := if h : 3 ≤ d.val ∧ d.val ≤ 6 then
        if working s0 (d.val - 3) then loseEngine s0 ⟨d.val - 3, by omega⟩ else s0
      else s0
    let s2 := capture s1 0x0E 0 c (d.val = 17 || d.val = 18) snap note
    let s3 := forceDown (modDom s2 d.val fun m => { m with faulty := true }) d.val .escalated 0xB
    outageGoesOn (askAgain (failWaiting s3 d.val) d.val))

/-! ### Idle policy (R403 to R407) -/

/-- The idle condition of Table DOM-2, as far as the state shows it: accesses and edges on DREQ leave no trace, and the
command tells that none came. -/
def idleNow (s : State) (d : Nat) : Bool :=
  if 3 ≤ d && d ≤ 6 then (eng s (d - 3)).run.isNone && (eng s (d - 3)).paused.isEmpty && !lineSourceUp s (d - 3)
  else if d = 7 then !([3, 4, 5, 6].any (isOn s)) && s.rules.openSet.isNone
  else if d = 13 then !portUp s .u
  else if d = 14 then !portUp s .d
  else if d = 15 then !([13, 14, 16].any (isOn s)) && !loaderBusy s
  else if d = 19 then !((List.range 16).any fun k => monEnabled s (8 + k))
  else true

/-- The state of an IDLEACT code (Table REL-5). -/
def idleTarget (s : State) (d : Nat) : Option DS :=
  match s.reel with
  | none => none
  | some r =>
    let a := (vget r.doms r.doms[0] d).idleAct
    if a = 1 then some .ret else if a = 2 then some .off else none

/-- IDLE_REQUEST (R403, R404, R407): the idle condition has held for IDLETIME × 16 ms. -/
def execIdleRequest (d : Fin 20) (s : State) : Host.Outcome State Fault Refusal :=
  .next (if !isRunning s || inOutage s || !present s d.val || !isOn s d.val || d.val ≤ 2 || d.val = 17 || d.val = 18 ||
      !idleNow s d.val then s
  else
    match idleTarget s d.val with
    | some t =>
      if 8 ≤ d.val && d.val ≤ 12 && wouldLose s d.val t then s
      else request s d.val ⟨.idle, t, 0, false, false⟩
    | none => s)

/-! ### The retention map (R399, R400) -/

/-- RMAP_CHANGE (R399, R400): banks of memories in retention whose bit is now clear lose their contents at once. -/
def execRmapChange (v : Fin 4) (s : State) : Host.Outcome State Fault Refusal :=
  let s1 := { s with pins.rmap := v }
  .next ([7, 8, 9, 10, 11, 12].foldl (fun t d => if domSt t d = .ret then loseBanks t d (keptBanks t d) else t) s1)

/-- DRAINED (R370, R378, R438). -/
def execDrained (d : Fin 20) (s : State) : Host.Outcome State Fault Refusal :=
  .next (match (dom s d.val).cur with
  | some (q, .draining) => if q.target = .on then s else outageGoesOn (leaveNow s d.val q)
  | _ => s)

end Sys2Proof.Machine
end

