-- ==== Sys2Proof/Machine/Outage.lean ====
section
/-! DEFINITION. The commands of an outage, of its reversal and of the backup store (file 20). -/

namespace Sys2Proof.Machine

/-! ### Starters (R720, R721, R732, Table OUT-2) -/

/-- PFAIL_ASSERT (R65, R720). -/
def execPfailAssert (s : State) : Host.Outcome State Fault Refusal := .next (fireStarter { s with pins.pfailN := false } .pfail)

/-- WM04_LOW (R547): its lower comparator has stayed asserted, while WM04 acts and PD17 is on. -/
def execWm04Low (s : State) : Host.Outcome State Fault Refusal :=
  .next (if monActive s 4 && (mon s 4).below && isOn s 17 then fireStarter s .wm04 else s)

/-- VAON_LOSS (R712, Table OUT-1): VAON falls below 1.62 V with VBAK above 1.85 V. -/
def execVaonLoss (s : State) : Host.Outcome State Fault Refusal :=
  .next (if s.sup.vaon && s.sup.vbak then fireStarter { s with sup.vaon := false, gauge.onVbak := true } .vaon else s)

/-! ### The sequence (Sequence OUT-1) -/

/-- Steps 3 and 4 of Sequence OUT-1 end; in safe mode they are empty (R740). -/
def endFlight (s : State) : State := if s.boot.safe then s else closeNotice (flightEnds s)

/-- The input has returned during step 3 or 4: the one in progress ends (R730, Table OUT-7). Which of them is in progress is
left free: after step 3 alone no notice is closed. (DEDUCED, log entry 172) -/
def endFlightEarly (s : State) : State :=
  let (f, t) := takeFree s
  if f.getLsbD 0 then endFlight t else if t.boot.safe then t else flightEnds t

/-- OUTAGE_FLIGHT_DONE (R723, R725, R660, R440): steps 3 and 4 end, and the descent begins. -/
def execOutageFlightDone (s : State) : Host.Outcome State Fault Refusal :=
  .next (if s.outage.step = 3 && s.outage.undo.isNone then enterStep5 (endFlight s) else s)

/-- OUTAGE_RETENTION_REACHED (R712, R726 to R728): every domain has its outage state; the island moves to VBAK and the
dwell runs, or the reversal begins when the input has returned meanwhile. -/
def execOutageRetentionReached (s : State) : Host.Outcome State Fault Refusal :=
  .next (if s.outage.step = 6 && s.outage.undo.isNone && (List.range 20).all (fun d => !outstanding s d) then
    if s.outage.returned then enterU6 s
    else { s with outage.step := 7, gauge.onVbak := s.gauge.onVbak || s.sup.vbak }
  else s)

/-- Every pending raise is cancelled; a pin that is low is held low (R341, R360). -/
def cancelRaises (s : State) : State :=
  let s1 := eachPin s (pendingMask s) fun w => { w with pend := false, held := if w.pin then w.held else .cancelled }
  { s1 with act.after83 := 0 }

/-- DWELL_EXPIRY (R727, R37, R160, R360): the last step; recorded profiles, pending raises and kept selections are
dropped, and a boot profile that waited is not applied. -/
def execDwellExpiry (s : State) : Host.Outcome State Fault Refusal :=
  .next (if s.outage.step = 7 && s.outage.undo.isNone && !s.outage.last then
    let s1 := cancelRaises s
    { s1 with
      outage.last := true
      outage.kept := []
      act.outProfile := none
      boot.step := if s1.boot.step = .ready then .running else s1.boot.step }
  else s)

/-! ### The return of the input (R720, R730, R733) -/

/-- The input balls and VAON as the return conditions of the starters that have fired leave them (Table OUT-2). -/
def inputBack (s : State) : State :=
  let f := s.outage.fired
  { s with
    pins.pfailN := s.pins.pfailN || f.isEmpty || f.contains .pfail
    sup.vaon := s.sup.vaon || (s.boot.step ≠ .por && !(f = [.wm04] && isOn s 17)) }

/-- A late return (R733): no domain changes, no profile is applied. (DEDUCED, log entry 102) -/
def lateReturn (s : State) : State :=
  let l := s.outage.kept
  let s1 := resumeAgeing (backToVaon (cancelRaises s))
  let s2 : State := { s1 with outage := Outage.zero, gauge.acted := 0, act.outProfile := none }
  askMemory (presentKept s2 l)

/-- INPUT_RETURN (R730, R733): the step in progress is finished first; with no outage, PFAIL_N is high and the island
moves back to VAON. (DEDUCED, log entry 110) -/
def execInputReturn (s : State) : Host.Outcome State Fault Refusal :=
  let s1 := inputBack s
  .next (if s.outage.step = 0 then backToVaon s1
  else if s.outage.undo.isSome then if s.outage.fired.isEmpty then s else { s1 with outage.returned := true }
  else if s.outage.last then lateReturn s1
  else match s.outage.step with
    | 3 => endOutage (endFlightEarly s1)
    | 7 => enterU6 (backToVaon s1)
    | _ => { s1 with outage.returned := true })

/-- The rails have settled at step U5: no request, and no attempt without PGOOD (Sequence OUT-2). -/
def railsSettled (s : State) : Bool :=
  !outstanding s 17 && !outstanding s 18 && !s.act.main.running && !s.act.aux.running

/-- REVERSAL_RAILS_DONE (R730, R732): U3 to U1, or step 5 again when a starter has fired meanwhile. -/
def execReversalRailsDone (s : State) : Host.Outcome State Fault Refusal :=
  .next (if s.outage.undo = some 5 && railsSettled s then
    if s.outage.fired.isEmpty then endOutage s else enterStep5 s
  else s)

/-! ### The store (R715 to R719, R734, R735) -/

/-- Stages of Table OUT-5 whose threshold a reading in mV lies below. -/
def stagesBelow (mv : Nat) : Nat := (([1, 2, 3, 4, 5, 6, 7, 8] : List Nat).filter fun k => mv < 2900 - 100 * k).length

/-- One stage acts (Table OUT-5): the banks of one rank, by ascending domain, or some domains off.
(DEDUCED, log entry 107) -/
def stageActs (s : State) (k : Nat) : State :=
  let s1 := { s with gauge.acted := k }
  let off (t : State) (d : Nat) : State := if present t d && domSt t d ≠ .off then request t d (devReq .off) else t
  if k ≤ 6 then
    [7, 8, 9, 10, 11, 12].foldl (fun t d => if domSt t d = .ret then loseBanks t d (keptBanks t d) else t) s1
  else if k = 7 then off (off s1 1) 2
  else off (off s1 0) 19

/-- Stages from the first that has not acted to n act in order (R734). -/
def actStages (s : State) (n : Nat) : State :=
  ((List.range (n + 1)).filter fun k => s.gauge.acted < k).foldl stageActs s

/-- VBAK_READING (R715 to R719, R734): W21 and W22, the gauge's re-base, and the stages that two consecutive readings
lie below. (DEDUCED, log entry 104) -/
def execVbakReading (mv : Nat) (tdie : Half) (s : State) : Host.Outcome State Fault Refusal :=
  .next (if s.boot.step = .por then s
  else
    let crosses := stagesBelow mv ≠ stagesBelow s.gauge.vbak
    let due := !s.gauge.onVbak || s.gauge.rebaseDue || crosses
    let s1 := { s with win.tdie := tdie, gauge.vbak := mv }
    let s2 := if due then rebase s1 else s1
    if s2.gauge.onVbak then
      { actStages s2 (min s2.gauge.below (stagesBelow mv)) with gauge.below := stagesBelow mv }
    else { s2 with gauge.below := 0 })

/-- GAUGE_PACKET (R717, R718): 1 nC drawn from VBAK. -/
def execGaugePacket (s : State) : Host.Outcome State Fault Refusal :=
  .next (if !s.gauge.onVbak || gaugeOff s || s.gauge.q = 0 then s
  else
    let s1 := { s with gauge.q := s.gauge.q - 1 }
    if s1.gauge.q ≠ 0 then s1
    else
      let s2 := { s1 with gauge.rebaseDue := true }
      if 2800 ≤ s2.gauge.vbak then setDrift s2 else s2)

end Sys2Proof.Machine
end

