-- ==== Sys2Proof/Machine/Actions.lean ====
section
/-! DEFINITION. The commands of the action sequencer: results, pending pins, rail attempts and WACK (file 09). -/

namespace Sys2Proof.Machine

/-! ### Results (Table ACT-1) -/

/-- SRC of a stream's results (Table ACT-3). -/
def srcOf (k : StreamKind) : BitVec 3 :=
  match k with
  | .word .mains => 0
  | .word .tugU => 1
  | .word .tugD => 2
  | .event => 3
  | .frame _ => 4
  | .host => 5

/-- Steps 2 and 3: the profile goes to Bridle and the pins follow R338; during an outage, and for the selections kept in
it, the profile is only recorded, and its pins wait (R37, R360, R729). (DEDUCED, log entry 111) -/
def applyProfile (s : State) (k : Fin 8) (mask : BitVec 4) : State :=
  if inOutage s || s.outage.settle then
    let old := match s.act.outProfile with | some (_, m) => m | none => 0
    pendPins { s with act.outProfile := some (k, old ||| mask) } mask
  else pinsFor (passProfile s k .seq mask false) (profileOf s k) mask

/-- Step 5: the tag on which TINC counts (R319). -/
def tallyTag (a : Assoc) (kind : StreamKind) (name : Option FrameName) : Option Nat :=
  if !a.town then some a.ttag.toNat
  else if isSlow kind then none
  else name.map fun n => n.fqtag.toNat

/-- Step 6: the rule notice; it names the frame of a DATA, NOTICE, ECHO or host-frame stream (R619). -/
def ruleNotice (num : Nat) (a : Assoc) (kind : StreamKind) (name : Option FrameName) : List Byte :=
  let det := toBe 2 num ++ [a.ncode, BitVec.ofNat 8 (kindCode kind)]
  match name with
  | some n => if [1, 2, 8].contains n.typ.toNat || kind = .host then entryFrame 0x3A n det else entryPlain 0x3A det
  | none => entryPlain 0x3A det

/-- A rule result's effects in the order of Table ACT-1; step 4 was taken from the end decision itself (R337). -/
def applyRule (s : State) (num : Nat) (a : Assoc) (kind : StreamKind) (name : Option FrameName) : State :=
  let s1 := recordCause s a.wmask a.cause (srcOf kind)
  let s2 := if a.pen then applyProfile s1 a.prof a.wmask else raisePins s1 a.wmask
  let s3 := if a.tinc = 0 then s2 else match tallyTag a kind name with | some t => tallyAdd s2 t a.tinc 0 | none => s2
  if a.note then addEntry s3 (ruleNotice num a kind name) else s3

/-- The engine-lost result: the boot profile, and WAKE0 with cause 0x84 (R298). (DEDUCED, log entry 108) -/
def applyEngineLost (s : State) : State :=
  match s.reel with
  | none => s
  | some r => applyProfile (recordCause s 1 0x84 srcDevice) r.bootProf 1

/-- The oldest waiting result takes effect. -/
def takeResult (s : State) : State :=
  match s.act.queue with
  | [] => s
  | r :: rest =>
    let s1 := takeLate { s with act.queue := rest }
    match r with
    | .rule n a k _ name => applyRule s1 n a k name
    | .tally m c => raisePins (recordCause s1 m c srcTally) m
    | .engineLost => applyEngineLost s1

/-- RESULT_APPLY (R336 to R351): the oldest waiting result; the profile recorded in an outage follows the results of
the kept selections (R729). -/
def execResultApply (s : State) : Host.Outcome State Fault Refusal := .next (settleEnd (takeResult s))

/-! ### The rail condition (R339) -/

/-- A waiting profile is a command for PD17: it names the domain, or moves its setpoint. (DEDUCED, log entry 98) -/
def namesMain (s : State) (j : Job) : Bool :=
  (targetOf j.targets 17).isSome || (j.fields.movr && j.fields.mset != s.reg.main.sel)

/-- The rail condition (R339). -/
def railGood (s : State) : Bool :=
  isOn s 17 && s.reg.main.pgood && s.reg.main.phase != .slewing && !outstanding s 17 && !s.bridle.waiting.any (namesMain s)

/-- PENDING_PIN_RISE (R339, R342, R359): not before the profile recorded in an outage is applied (R360). -/
def execPendingPinRise (s : State) : Host.Outcome State Fault Refusal :=
  .next (if railGood s && !inOutage s && !s.outage.settle then releasePins s (pendingMask s) else s)

/-! ### Rail attempts (Sequence ACT-2, R354 to R358) -/

/-- Readings that the manual does not fix: a record captured with no measurement at hand (log entry 5). -/
def freeSnap (s : State) : Snap × State :=
  let v (k : Nat) : Half := (Config.freeValue (s.free + k)).extractLsb' 0 16
  (⟨v 0, v 1, (v 2).extractLsb' 0 8, (v 2).extractLsb' 8 8⟩, { s with free := s.free + 3 })

/-- Step 5: no retry remains. The record is captured, and step 6 follows its commit; where the capture is lost, at once
(R355, R357, R358). Pins whose profile an outage has only recorded do not wait on this rail (R360). -/
def railFails (s : State) (c : Chan) (snap : Snap) : State :=
  let y := railTry s c
  let later : BitVec 4 := match s.act.outProfile with | some (_, m) => m | none => 0
  let mask : BitVec 4 := match c with | .main => y.mask ||| (pendingMask s &&& ~~~later) | .aux => y.mask
  let code : Byte := if mask = 0 then 0 else match c with | .main => 0x81 | .aux => 0x82
  let note := entryPlain 0x41 [BitVec.ofNat 8 (bit (c == .aux)), BitVec.ofNat 8 (y.retries + 1), code, BitVec.ofNat 8 mask.toNat]
  let s1 := capture s 0x0C 0 c true snap note
  let s2 := if railFailing s1 c then s1 else railCause s1 c mask
  modChan (modTry s2 c fun _ => RailTry.idle) c fun x => { x with phase := .off }

/-- An attempt has failed and its domain is off: the gap runs, or the set ends. -/
def attemptFails (s : State) (c : Chan) (snap : Snap) : State :=
  if (railTry s c).retries < (polOf s).retry then
    modChan (modTry s c fun y => { y with gap := true }) c fun x => { x with phase := .waiting .gap }
  else railFails s c snap

/-- RAIL_ATTEMPT_FAIL (R354, R358): PGOOD has not come; the domain is off at once. -/
def execRailAttemptFail (c : Chan) (snap : Snap) (s : State) : Host.Outcome State Fault Refusal :=
  let y := railTry s c
  .next (if isOn s (chanDom c) && y.running && !y.gap && !(chan s c).pgood then
    attemptFails (domLeaves s (chanDom c) .off true) c snap
  else s)

/-- RAIL_RETRY (R354, R414): not in an outage, but for the attempts that its reversal starts at U5. The domain is asked for
again; a refusal is a failed attempt at once. -/
def execRailRetry (c : Chan) (s : State) : Host.Outcome State Fault Refusal :=
  let d := chanDom c
  .next (if !(railTry s c).gap || (inOutage s && s.outage.undo ≠ some 5) then s
  else
    let s1 := modChan (modTry s c fun y => { y with gap := false, retries := y.retries + 1 }) c fun x => { x with phase := .off }
    let s2 := request s1 d (devReq .on)
    if (refusal s1 d (devReq .on)).isSome then
      let (snap, s3) := freeSnap s2
      attemptFails s3 c snap
    else s2)

/-! ### WACK (R344 to R346) -/

/-- What WACK does to a word that has been read: a pin whose word keeps causes goes low, and rises again unless it is
pending or held low. (DESIGN CHOICE, log entry 109) -/
def wackWord (w : WakeWord) : WakeWord :=
  if w.snap = 0 then w
  else if w.count - w.snap = 0 then WakeWord.zero
  else { w with count := w.count - w.snap, snap := 0, pin := false, again := !w.pend && w.held == .no }

/-- WACK (R344 to R346, R707): an edge while QSEL5:0 addresses W0C to W0F. -/
def execWack (qsel : BitVec 6) (s : State) : Host.Outcome State Fault Refusal :=
  let k := qsel.toNat - 12
  .next (if pinsLive s && 12 ≤ qsel.toNat && qsel.toNat ≤ 15 then
    let s1 := modWake s k wackWord
    if (vget s1.act.wake WakeWord.zero k).count = 0 then
      { s1 with act.after83 := s1.act.after83 &&& ~~~(BitVec.ofNat 4 (2 ^ k)) }
    else s1
  else s)

end Sys2Proof.Machine
end

