-- ==== Sys2Proof/Machine/Status.lean ====
section
/-! DEFINITION. The pace rails (file 22), the words of the status window as the state gives them, and the commands that
read them (file 19). -/

namespace Sys2Proof.Machine

/-! ### Pace rails (R765 to R768, R783) -/

/-- Need of the engine rail, of the switch and queue rail in bytes a second (Table LAT-2), and of the memory periphery,
whose accesses the manual does not number. -/
def paceNeed (s : State) (k memNeed : Nat) : Nat :=
  if k = 0 then if [0, 1, 2, 3].any (fun e => isOn s (3 + e) && lineSourceUp s e) then 150000000 else 0
  else if k = 1 then
    300000000 * (bit (portUp s .u) + bit (portUp s .d)) + 120000000 * bit (isOn s 16)
  else memNeed

/-- The loop's act on one rail (R766); how far an emergency raise goes depends on the canary, which the manual does not
fix at each step (log entry 5). -/
def paceAct (s : State) (k c n : Nat) : State :=
  let r := vget s.pace ⟨48, false⟩ k
  let put (t : State) (l : Nat) : State := { t with pace := vset t.pace k { r with level := l } }
  if !paceOn s k || r.stalled then s
  else if r.level < paceFloor s k then put s (paceFloor s k)
  else if 100 * c < 105 * n then
    if 48 ≤ r.level then s
    else
      let (f, t) := takeFree s
      put t (r.level + 1 + f.toNat % (48 - r.level))
  else if 100 * c < 115 * n then put s (min 48 (r.level + 1))
  else if (n = 0 || 120 * n < 100 * c) && paceFloor s k < r.level then put s (r.level - 1)
  else s

/-- PACE_LOOP (R765 to R767). (DEDUCED, log entry 136) -/
def execPaceLoop (c : Vector Nat 3) (memNeed : Nat) (s : State) : Host.Outcome State Fault Refusal :=
  .next ([0, 1, 2].foldl (fun t k => paceAct t k (vget c 0 k) (paceNeed t k memNeed)) s)

/-- CANARY_STALL (R768). -/
def execCanaryStall (k : Fin 3) (s : State) : Host.Outcome State Fault Refusal :=
  .next (if paceOn s k.val then { s with pace := s.pace.set k ⟨48, true⟩ } else s)

/-! ### The words (R695 to R704, R711) -/

/-- A word from a number. -/
def w16 (n : Nat) : Half := BitVec.ofNat 16 n

/-- W04 (Table STW-5). -/
def word04 (s : State) : Half :=
  let v := varCode s.ident
  if !isReady s then w16 (32768 + 8192 * bit s.straps.strapf + 4096 * bit s.boot.xtalfb)
  else
    w16 (16384 * bit s.boot.safe + 8192 * bit s.straps.strapf + 4096 * bit s.boot.xtalfb +
      2048 * bit ((s.reel.map (·.fieldFault)).getD false) + 1024 * bit s.front.macf + 64 * v + 32 * bit (present s 13) +
      16 * bit (present s 14) + 8 * bit (present s 16) + 4 * bit (present s 18) +
      ([3, 4, 5, 6].filter (present s)).length - 1)

/-- W05 to W07 (Table STW-6). -/
def wordReel (s : State) (k : Nat) : Half :=
  match s.reel with
  | none => 0
  | some r => if s.boot.safe then 0 else if k = 0 then r.version.extractLsb' 16 16 else if k = 1 then r.version.extractLsb' 0 16 else r.shash

/-- Code of a domain's state (Table DOM-1); an absent domain shows 0b11 (R409). -/
def domCode (s : State) (d : Nat) : Nat :=
  if !present s d then 3 else match domSt s d with | .off => 0 | .ret => 1 | .on => 2

/-- W08 to W0A (Table STW-7). -/
def wordDoms (s : State) (k : Nat) : Half :=
  w16 ((List.range 8).foldl (fun a m => if 8 * k + m < 20 then a + domCode s (8 * k + m) * 4 ^ m else a) 0)

/-- W0B (Table STW-8). -/
def word0b (s : State) : Half :=
  let w := s.bridle.w0b
  w16 (w.sel.toNat * 2048 + w.origin.toNat * 512 + w.result.toNat * 128 + w.reason.toNat * 8 + w.cnt)

/-- W0C to W0F (Table STW-9). -/
def wordWake (s : State) (k : Nat) : Half :=
  let w := vget s.act.wake WakeWord.zero k
  w16 (w.cause.toNat * 256 + w.src.toNat * 32 + w.count * 2 + bit w.pend)

/-- W12 (Table STW-10). -/
def word12 (s : State) : Half := w16 ((List.range 16).foldl (fun a k => a + 2 ^ k * bit (live s (8 + k))) 0)

/-- The code of a channel's state (Table STW-11). -/
def phaseCode (p : ChPhase) : Nat :=
  match p with
  | .off => 0
  | .ramp => 1
  | .regulating => 2
  | .slewing => 3
  | .stopping => 4
  | .waiting _ => 5
  | .latched => 6
  | .notSwitching => 7

/-- The fields of the regulator group that hold while PD17 is not on (R699). -/
def regFields (s : State) : HoldRegs := if isOn s 17 then holdNow s else s.reg.hold

/-- W13 to W15 (Table STW-10, R711). -/
def wordReg (s : State) (k : Nat) : Half :=
  let h := regFields s
  let aux (n : Nat) : Nat := if present s 18 then n else 0
  if k = 0 then
    w16 (phaseCode s.reg.main.phase * 8192 + s.reg.main.sel.val * 1024 + h.mact * 128 + 64 * bit s.reg.main.pgood +
      32 * bit h.mvloc + h.msync.toNat * 8 + h.mder)
  else if k = 1 then
    w16 (aux (phaseCode s.reg.aux.phase * 8192 + s.reg.aux.sel.val * 1024 + 512 * bit s.reg.aux.pgood + h.ader * 64) + h.fail.toNat)
  else w16 ((List.range 8).foldl (fun a j => a + 2 ^ (8 + j) * bit (live s j)) 0 + h.tlim.toNat * 4)

/-- W16 to W1F (Table STW-12, R700). -/
def wordRecord (s : State) (k : Nat) : Half :=
  let at_ (n : Nat) : Half := w16 (field s.prot.latest n 2)
  if s.prot.latest.isEmpty then 0
  else if k = 0 then at_ 0
  else if k = 1 then at_ 2
  else if k = 2 then at_ 4
  else if k = 3 then at_ 6
  else if k ≤ 9 then at_ (0x14 + 2 * (k - 4))
  else 0

/-- W20 (Table STW-13). -/
def word20 (s : State) : Half :=
  w16 (32768 * bit (gaugeOff s) + 16384 * bit s.gauge.gdrift + if gaugeOff s then 0 else remain s)

/-- W21 (Table STW-13). -/
def word21 (s : State) : Half := w16 (32768 * bit s.gauge.onVbak + s.gauge.vbak % 8192)

/-- A field of W23 (Table STW-13). -/
def paceField (s : State) (k : Nat) : Nat := if paceOn s k then (vget s.pace ⟨48, false⟩ k).level / 2 else 31

/-- W23 (Table STW-13). -/
def word23 (s : State) : Half := w16 (paceField s 0 * 1024 + paceField s 1 * 32 + paceField s 2)

/-- W24 to W27 (Table STW-13). -/
def errorCounter (s : State) (k : Nat) : Nat :=
  if k = 0 then s.win.ecrc else if k = 1 then s.win.ecor else if k = 2 then s.win.eunc else s.win.epar

/-- W28 (R658): held while PD15 is not on. -/
def word28 (s : State) : Half := if variant s = 2 then 0 else w16 (if isOn s 15 then dropQueues s else s.win.hold28)

/-- W29 (R658): held while PD15 is not on. -/
def word29 (s : State) : Half := if variant s = 2 then 0 else w16 (if isOn s 15 then backlog s else s.win.hold29)

/-- W2A and W2B (Table TLK-7). -/
def wordPort (s : State) (p : Port) : Half :=
  let l := link s p
  let st : Nat := match l.st with | .down => 0 | .training => 1 | .up => 2 | .lockFailed => 3
  if !hasPort s p then 0
  else
    w16 (st * 16384 + l.pe.toNat * 4096 + l.eq.toNat * 256 + 128 * bit l.pol + 64 * bit s.tether.loop +
      32 * bit (dirH s == p) + 16 * bit l.psafe + l.err)

/-- W2C (Table STW-13); which engine it names once all have failed is open (log entry 135). -/
def word2c (s : State) : Half :=
  let slow : Nat := match s.engs.assign.slow with
    | some k => k.val
    | none => if s.engs.failures = 0 then 0 else Config.noSlowEngine.val
  let code (k : Nat) : Nat :=
    if !present s (3 + k) then 3 else if (vget s.engs.eng Engine.zero k).failed then 2 else bit (isOn s (3 + k))
  w16 ((List.range 4).foldl (fun a k => a + code k * 4 ^ k) 0 + slow * 256 +
    1024 * bit (s.boot.safe || !matching s) + 2048 * bit s.rules.openSet.isSome +
    4096 * bit (s.rules.lost.any (placeUsed s.rules s.rules.cur)))

/-- W2E (Table STW-13). -/
def word2e (s : State) : Half := w16 (s.win.item.toNat * 4096 + s.win.icnt * 256 + s.win.ireason.toNat)

/-- W3F (Table STW-3). -/
def word3f (s : State) : Half := w16 (s.win.head.toNat * 1024 + s.win.gcnt)

/-- The word at an address of the window (Table STW-2): before step 11 every word but W00 to W04 reads 0 (R701), group
words read their latch (R696). (DESIGN CHOICE, log entry 134) -/
def statusWord (s : State) (q : BitVec 6) : Half :=
  let n := q.toNat
  if n ≤ 3 then w16 (s.ident.toNat / 65536 ^ (3 - n))
  else if n = 4 then word04 s
  else if !isReady s then 0
  else if n ≤ 7 then wordReel s (n - 5)
  else if n ≤ 0xA then vget s.win.g08 0 (n - 8)
  else if n = 0xB then word0b s
  else if n ≤ 0xF then wordWake s (n - 0xC)
  else if n = 0x10 then word10 s
  else if n = 0x11 then word11 s
  else if n = 0x12 then word12 s
  else if n ≤ 0x15 then vget s.win.g13 0 (n - 0x13)
  else if n ≤ 0x1F then vget s.win.g16 0 (n - 0x16)
  else if n = 0x20 then word20 s
  else if n = 0x21 then word21 s
  else if n = 0x22 then s.win.tdie
  else if n = 0x23 then word23 s
  else if n ≤ 0x27 then w16 (errorCounter s (n - 0x24))
  else if n = 0x28 then word28 s
  else if n = 0x29 then word29 s
  else if n = 0x2A then wordPort s .u
  else if n = 0x2B then wordPort s .d
  else if n = 0x2C then word2c s
  else if n = 0x2D then if variant s = 2 then 0 else s.win.w2d
  else if n ≤ 0x2F then vget s.win.g2e 0 (n - 0x2E)
  else if n = 0x3F then word3f s
  else 0

/-! ### Counted reads (R691, R692, R705, R706) -/

/-- A whole read: QD15:0 drive the word, and the strobe has ended (R55, R690 to R692). (DESIGN CHOICE, log entry 134) -/
def driveWord (s : State) (q : BitVec 6) : State :=
  { s with win.qd := statusWord s q, win.qcsN := true, win.qoeN := true }

/-- READ_W04 (R705, R706): MACF is cleared when it read 1. -/
def execReadW04 (s : State) : Host.Outcome State Fault Refusal :=
  .next (if !pinsLive s then s
  else
    let s1 := dropAlert (dropAlert (driveWord s 4) .macFail) .crystal
    if isReady s then { s1 with front.macf := false } else s1)

/-- READ_W0B (R397, R398). -/
def execReadW0b (s : State) : Host.Outcome State Fault Refusal :=
  .next (if !pinsLive s then s
  else if !isReady s then driveWord s 0xB
  else dropAlert { driveWord s 0xB with bridle.w0b := { s.bridle.w0b with cnt := 0, unread := false } } .w0b)

/-- READ_WAKE_CAUSE (R344, R345): the snapshot for WACK. -/
def execReadWakeCause (k : Fin 4) (s : State) : Host.Outcome State Fault Refusal :=
  let q : BitVec 6 := BitVec.ofNat 6 (12 + k.val)
  .next (if !pinsLive s then s
  else if !isReady s then driveWord s q
  else modWake (driveWord s q) k.val fun w => { w with snap := w.count })

/-- The address of a group head. -/
def headAddr (h : GroupHead) : BitVec 6 :=
  match h with
  | .w08 => 0x08
  | .w13 => 0x13
  | .w16 => 0x16
  | .w2e => 0x2E

/-- A group is loaded into its latch (R696, R697). -/
def latchGroup (s : State) (h : GroupHead) : State :=
  let s1 := { s with win.head := headAddr h, win.gcnt := (s.win.gcnt + 1) % 1024 }
  match h with
  | .w08 => { s1 with win.g08 := vgen 3 (wordDoms s) }
  | .w13 => { s1 with win.g13 := vgen 3 (wordReg s) }
  | .w16 => { s1 with win.g16 := vgen 10 (wordRecord s) }
  | .w2e => { s1 with win.g2e := #v[word2e s, s.win.iid] }

/-- READ_GROUP_HEAD (R696, R697, R512, R706): W16 ends the causes of records whose conditions have ended, W2E clears its
count. -/
def execReadGroupHead (h : GroupHead) (s : State) : Host.Outcome State Fault Refusal :=
  .next (if !pinsLive s then s
  else if !isReady s then driveWord s (headAddr h)
  else
    let s1 := driveWord (latchGroup s h) (headAddr h)
    match h with
    | .w16 => pruneAlarms { s1 with prot.recAlarms := s1.prot.recAlarms.map fun a => { a with read := true } }
    | .w2e => { s1 with win.icnt := 0 }
    | _ => s1)

/-- READ_ERROR_COUNTER (R706): the value read is subtracted. -/
def execReadErrorCounter (k : Fin 4) (s : State) : Host.Outcome State Fault Refusal :=
  let q : BitVec 6 := BitVec.ofNat 6 (0x24 + k.val)
  .next (if !pinsLive s then s
  else if !isReady s then driveWord s q
  else
    let s1 := driveWord s q
    match k with
    | 0 => { s1 with win.ecrc := 0 }
    | 1 => { s1 with win.ecor := 0 }
    | 2 => { s1 with win.eunc := 0 }
    | 3 => { s1 with win.epar := 0 })

/-- READ_PORT_STATUS (R705, R706). -/
def execReadPortStatus (p : Port) (s : State) : Host.Outcome State Fault Refusal :=
  let q : BitVec 6 := match p with | .u => 0x2A | .d => 0x2B
  .next (if !pinsLive s then s
  else if !isReady s then driveWord s q
  else dropAlert (dropAlert (modLink (driveWord s q) p fun l => { l with err := 0 }) (.linkDown p)) (.lockFail p))

/-- READ_ENGINE_STATUS (R705). -/
def execReadEngineStatus (s : State) : Host.Outcome State Fault Refusal :=
  .next (if !pinsLive s then s
  else if !isReady s then driveWord s 0x2C
  else
    let s1 := ([0, 1, 2, 3] : List (Fin 4)).foldl (fun t e => dropAlert t (.engineFail e)) (driveWord s 0x2C)
    dropAlert s1 .lineLost)

/-- READ_LOST_MATCH (R705). -/
def execReadLostMatch (s : State) : Host.Outcome State Fault Refusal :=
  .next (if !pinsLive s then s
  else if !isReady s then driveWord s 0x2D
  else dropAlert (driveWord s 0x2D) .lostMatch)

end Sys2Proof.Machine
end

