-- ==== Sys2Proof/Machine/Boot.lean ====
section
/-! DEFINITION. Power-up, reset, strap sampling, the tick and the loading of the Reel (files 02 to 05). -/

namespace Sys2Proof.Machine

/-! ### What every reset leaves (R64, R123, R151, R152, R361, R413, R520, R710, R755, R767) -/

/-- The channel keeps running through a reset (R61, R152). -/
def keepsRunning (s : State) (c : Chan) : Bool :=
  let x := chan s c
  warmHold s && isOn s (chanDom c) && (x.phase == .regulating || x.phase == .slewing)

/-- A channel under warm hold: its reference stays where it is (R152, R455). (DEDUCED, log entry 131) -/
def holdChan (s : State) (c : Chan) : State :=
  if keepsRunning s c then modChan (freezeRef s c) c fun x => { x with phase := .regulating, warm := true } else s

/-- The regulator through a reset: a channel that keeps running, and what PD17 latches for it. -/
def resetReg (s : State) (m a : Bool) : Reg :=
  let z := Reg.zero
  if m || a then
    { s.reg with
      main := if m then s.reg.main else z.main
      aux := if a then s.reg.aux else z.aux
      active := if m then s.reg.active else []
      trim := if m then s.reg.trim else z.trim
      pinned := if m then s.reg.pinned else z.pinned
      implaus := z.implaus
      failed := if m then s.reg.failed else z.failed
      skip := m
      swapsDue := 0
      swapShed := false
      restoreDue := false
      underCount := 0
      descent := false
      kept := s.reel.map fun q => ⟨vgen 8 fun k => vget q.mons q.mons[0] k, q.pol⟩
      pulse := { s.reg.pulse with
        slots := if m then s.reg.pulse.slots else []
        left := vgen 7 fun k => if (if k < 6 then m else a) then vget s.reg.pulse.left 0 k else 0
        auxIn := if a then s.reg.pulse.auxIn else none }
      pwm := if m then s.reg.pwm else z.pwm
      pwmA := if a then s.reg.pwmA else z.pwmA
      hold := z.hold }
  else { z with r := s.reg.r, straps := s.reg.straps, strapsA := s.reg.strapsA }

/-- A wake-cause word through a reset: its pin is low, and of the two ways of being held low only cause 0x81's stays
(R361); its snapshot COUNT is 0 until it is read again. (DESIGN CHOICE, log entry 156) -/
def resetWake (w : WakeWord) : WakeWord :=
  { w with pend := false, pin := false, again := false, snap := 0, held := if w.held = .railFailed then .railFailed else .no }

/-- The crystal at a reset: one that was lost or timed out is tried again (R128). -/
def resetXtal (x : Xtal) : Xtal := match x with | .lost | .timedOut | .off => .trying | _ => x

/-- The state at the assertion of RST_N, or at an internal restart, with its reset cause. (DEDUCED, log entry 54) -/
def resetState (s : State) (rcause : Byte) : State :=
  let m := keepsRunning s .main
  let a := keepsRunning s .aux
  let warm := m || a
  let s0 := holdChan (holdChan s .main) .aux
  let dom (d : Nat) : Dom := if (d = 17 && m) || (d = 18 && a) then { Dom.zero with st := .on } else Dom.zero
  let s1 : State := { s0 with
    boot := { s.boot with
      step := .held
      xtal := resetXtal s.boot.xtal
      xtalfb := false
      idTries := 0
      probes := 0
      flashOk := false
      safe := false
      warm := warm
      rcause := if rcause = 2 && warm then 3 else rcause }
    tap.forced := s.tap.forced && rcause != 2
    nvm.bad := false
    reel := none
    xfer := none
    front := { Front.zero with wmMains := s.front.wmMains, wmTug := s.front.wmTug, label := s.front.label, lastSetno := s.front.lastSetno }
    rules := RuleMem.zero
    engs := { Engines.zero with assign := assignFor (variant s) }
    act := { s.act with
      queue := []
      late := []
      wake := s.act.wake.map resetWake
      after83 := 0
      main := RailTry.idle
      aux := RailTry.idle
      outProfile := none }
    bridle := { Bridle.zero with doms := vgen 20 dom, nextJob := s.bridle.nextJob }
    reg := resetReg s0 m a
    prot := { s0.prot with
      recAlarms := []
      faults := [.boot]
      alerts := if s.gauge.gdrift then [.gdrift] else [] }
    mons := { Mons.zero with
      mon := vgen 24 fun k => if monWarm s0 k then { mon s0 k with latch := false } else MonSt.zero }
    tether := ⟨Link.zero, Link.zero, false, false, s.tether.sseq, s.tether.nseq⟩
    queues := { Queues.zero with
      nextId := s.queues.nextId
      lostEntries := s.queues.lostEntries
      marks := s.queues.marks
      kept := s.queues.kept }
    drop := DropPort.zero
    win := Window.zero
    outage := Outage.zero
    integ := ⟨[], [], []⟩
    pace := paceReset }
  if s1.sup.vaon then backToVaon s1 else s1

/-- RESET_ASSERT (R64, R123, R151, R152, R156, R159): a pulse of 1 to 10 µs resets or is ignored, which the manual
leaves open (log entry 5). -/
def execResetAssert (lowNs : Nat) (s : State) : Host.Outcome State Fault Refusal :=
  .next (if lowNs < 1000 then s
  else
    let (f, s0) := if lowNs < 10000 then takeFree s else (1, s)
    if !f.getLsbD 0 then s0
    else
      let s1 := { s0 with pins.rstN := false, boot.inReset := true }
      match s1.boot.step with
      | .por | .tickWait | .idRetry => s1
      | _ => resetState s1 2)

/-- Step 5 of Sequence BOO-1: sampling begins, once RST_N is high; an identity that never checked is sensed again first
(R84, R119, R121). (DEDUCED, log entry 53) -/
def enterStep5Boot (s : State) : State :=
  if s.boot.step = .held && !s.boot.inReset then
    { s with
      boot.step := if identOk s.ident then .sampling else .idRetry
      boot.idFailed := false }
  else s

/-- RESET_RELEASE (R75, R84, R119): the level of PFAIL_N counts at step 11 (R160). -/
def execResetRelease (s : State) : Host.Outcome State Fault Refusal :=
  .next (if s.boot.inReset then enterStep5Boot { s with pins.rstN := true, boot.inReset := false } else s)

/-- DEVICE_POR (R117, R520, R736): only NVM, flash and what lies outside the device stay. (DEDUCED, log entry 55)
(DESIGN CHOICE, log entry 56) -/
def execDevicePor (s : State) : Host.Outcome State Fault Refusal :=
  .next { State.reset with
    pending := s.pending
    now := s.now
    free := s.free
    sup := { s.sup with vaon := false, vbak := false }
    pins := s.pins
    boot := { State.reset.boot with inReset := s.boot.inReset && !s.pins.rstN }
    flash := s.flash
    nvm := { s.nvm with bad := false }
    prot := { State.reset.prot with commitTimes := s.prot.commitTimes } }

/-! ### Power-on (Sequence BOO-1 steps 1 to 4) -/

/-- A ring entry checks (R516, R519). -/
def entryOk (b : List Byte) : Bool := b.length == 32 && field b 30 2 == (crc16 (b.take 30)).toNat

/-- The entry that an intent word rebuilds, with INC set (R519). -/
def incompleteEntry (w : List Byte) : List Byte :=
  let h := (w.take 6) ++ [byteAt w 6 ||| 0x20, byteAt w 7] ++ List.replicate 22 0xFF
  h ++ toBe 2 (crc16 h).toNat

/-- One ring entry after step 4 (R519). -/
def repairEntry (b w : List Byte) : List Byte :=
  if entryOk b then b else if w.isEmpty then [] else incompleteEntry w

/-- SEQ of some bytes of a record; none when there are none. -/
def seqOf (b : List Byte) : Option Half := if b.isEmpty then none else some (BitVec.ofNat 16 (field b 0 2))

/-- The newest SEQ of a list: the one that no other follows by 1 (R518). Where several are followed by none, as around an
entry that has become empty, which of them is meant is left open: the n-th. (DESIGN CHOICE, log entry 173) -/
def newestSeq (l : List Half) (n : Nat) : Option Half :=
  let heads := (l.filter fun q => !l.contains (seqAfter q)).eraseDups
  heads[n % heads.length]?

/-- Step 4's work on the record region (R518, R519, R521, R838). -/
def recoverRecords (s0 : State) : State :=
  let (f, s) := takeFree s0
  let ring := vgen 8 fun k => repairEntry (vget s.nvm.ring [] k) (vget s.nvm.intent [] k)
  let held := (ring.toList ++ s.nvm.intent.toList).filterMap seqOf
  let newest := newestSeq held f.toNat
  let seqs := ring.toList.filterMap seqOf
  let inRing := match newest with | some q => if seqs.contains q then some q else newestSeq seqs f.toNat | none => none
  { s with
    nvm.ring := ring
    nvm.intent := Vector.replicate 8 []
    hours := s.nvm.hours
    prot.nextSeq := match newest with | some q => seqAfter q | none => 1
    prot.latest := match inRing with | some q => (ring.toList.find? fun b => seqOf b == some q).getD [] | none => [] }

/-- The identity is one that the manual describes: stepping B1 of one of the four variants (R2, R5, R16). -/
def bound (id : BitVec 64) : Bool := stepCode id == 5 && [8, 6, 4, 2].contains (varCode id)

/-- Step 4 has passed: step 5 follows when RST_N is high. -/
def sensed (s : State) : State :=
  enterStep5Boot { s with boot.step := .held, engs.assign := assignFor (variant s) }

/-- A sensing of the fuses that checks (R120, R16). (DESIGN CHOICE, log entry 42) -/
def acceptIdentity (s : State) (id : BitVec 64) : Host.Outcome State Fault Refusal :=
  if bound id then .next (sensed { s with ident := id }) else .refused .notBound

/-- One more flag of each supply. -/
def supplyOr (a b : Supplies) : Supplies :=
  ⟨a.vaon || b.vaon, a.vbak || b.vbak, a.vio || b.vio, a.vcin || b.vcin, a.vsd09 || b.vsd09, a.vsd18 || b.vsd18,
    a.vana || b.vana, a.vpwm || b.vpwm⟩

/-- POWER_ON (R116 to R120, R125): the supplies now above their rising thresholds; out of POR, with the tick running,
the identity is sensed. In a device that runs it is the rise of a supply (log entry 40). -/
def execPowerOn (up : Supplies) (tickStarts : Bool) (id : BitVec 64) (s : State) : Host.Outcome State Fault Refusal :=
  let s1 := { s with sup := supplyOr s.sup up }
  if !s1.sup.vaon && !s1.sup.vbak then .next s1
  else
    match s.boot.step with
    | .por | .tickWait =>
      let s2 := { s1 with gauge.onVbak := !s1.sup.vaon }
      if !tickStarts then .next { s2 with boot.step := .tickWait }
      else
        let s3 := recoverRecords (dropFault { s2 with boot.xtal := .trying } .tickFail)
        if identOk id then acceptIdentity s3 id
        else .next { s3 with ident := id, boot.step := .idRetry, boot.idTries := 0 }
    | _ => .next (if s.outage.step = 0 && s1.sup.vaon then backToVaon s1 else s1)

/-- IDENTITY_RESENSE (R121): at most three times. -/
def execIdentityResense (id : BitVec 64) (s : State) : Host.Outcome State Fault Refusal :=
  if s.boot.step ≠ .idRetry then .next s
  else if identOk id then acceptIdentity s id
  else if s.boot.idTries + 1 < 3 then .next { s with ident := id, boot.idTries := s.boot.idTries + 1 }
  else
    .next { addFault s .identity with
      ident := id
      boot.idTries := 3
      boot.idFailed := true
      boot.step := if s.boot.inReset then .held else .sampling }

/-! ### The tick (R125 to R128) -/

/-- TICK_START_FAIL (R125). -/
def execTickStartFail (s : State) : Host.Outcome State Fault Refusal :=
  .next (if s.boot.step = .tickWait then addFault s .tickFail else s)

/-- CRYSTAL_QUALIFY (R126). -/
def execCrystalQualify (s : State) : Host.Outcome State Fault Refusal :=
  .next (if s.boot.xtal = .trying then { s with boot.xtal := .qualified } else s)

/-- CRYSTAL_TIMEOUT (R127): no alarm. -/
def execCrystalTimeout (s : State) : Host.Outcome State Fault Refusal :=
  .next (if s.boot.xtal = .trying then { s with boot.xtal := .timedOut, boot.xtalfb := true } else s)

/-- CRYSTAL_LOSS (R128). -/
def execCrystalLoss (s : State) : Host.Outcome State Fault Refusal :=
  .next (if s.boot.xtal = .qualified then addAlert { s with boot.xtal := .lost, boot.xtalfb := true } .crystal else s)

/-! ### Safe mode (R146, R147, R155) -/

/-- Step 11 and what lies beyond begin with PFAIL_N low: the outage sequence runs first (R75, R160). -/
def pfailNow (s : State) : State := if s.pins.pfailN then s else fireStarter s .pfail

/-- The device asks that domains go on, those left out that cannot. -/
def bringUp (s : State) (l : List Nat) : State :=
  requestAll s ((l.filter fun d => present s d && !strapHeld s d).map fun d => (d, .on))

/-- Both NVM copies hold the same values; a failed copy is rewritten from the other (R135, R136, R197).
(DEDUCED, log entry 59) -/
def writeNvm (s : State) (minVer : Word32) (keyHash : Option (BitVec 256)) : State :=
  { s with nvm.copy0 := ⟨minVer, keyHash, true⟩, nvm.copy1 := ⟨minVer, keyHash, true⟩ }

/-- The NVM copies are examined: a failed one is rewritten from the other, and with both failed FAULT_N is asserted
(R136). -/
def checkNvm (s : State) : State :=
  match nvmCopy s with
  | some n => writeNvm s n.minVer n.keyHash
  | none => addFault { s with nvm.bad := true } .nvmBad

/-- Safe mode begins (R136, R146, R147, R629): the front end of the mains and the cabled ports are asked for.
(DEDUCED, log entry 76) -/
def enterSafe (s0 : State) : State :=
  let s := checkNvm s0
  let late := s.queues.kept.filter fun e => 0x20 ≤ (byteAt e 0).toNat && (byteAt e 0).toNat ≤ 0x26
  let s1 : State := { s with
    boot.safe := true
    boot.step := .running
    boot.warm := false
    reel := none
    front.wmSafe := Vector.replicate 16 none
    queues.deferred := late
    queues.kept := s.queues.kept.filter fun e => !late.contains e }
  pfailNow (bringUp (safeRailsOff (addFault s1 .safeMode)) [0, 13, 14])

/-! ### Straps (R78 to R114) -/

/-- Words that hold a cause raise their pins, but for one held low by cause 0x81 (R361). -/
def raiseKept (s : State) : State :=
  { s with act.wake := s.act.wake.map fun w => if w.count = 0 || w.held = .railFailed then w else { w with pin := true } }

/-- The values that the readings give (R87). -/
def decideStraps (var : Nat) (r : Vector (Vector Nat 3) 12) (t : Vector (Vector PullReading 3) 7) : Straps :=
  let fsw := decideRv var none 5 r[5]
  let z : Vector PullReading 3 := Vector.replicate 3 ⟨false, false⟩
  ⟨vgen 12 fun k => decideRv var fsw k (vget r (Vector.replicate 3 0) k), vgen 7 fun k => decideTri var k (vget t z k), false⟩

/-- Strap alarms and STRAPF (R109, R113, R122). -/
def strapAlarms (s : State) : State :=
  let s1 := dropFault { s with straps.strapf := strapFaultN s || strapAlertN s } .boot
  let s2 := if strapFaultN s1 then addFault s1 .strapFault else s1
  let s3 := if strapAlertN s2 then addAlert s2 .strapAlert else s2
  if (s3.reg.main.warm && s3.reg.straps ≠ regStrapsOf s3) || (s3.reg.aux.warm && s3.reg.strapsA ≠ regStrapsOf s3) then
    addAlert s3 .warmDiffer
  else s3

/-- STRAP_DECODE (R78 to R114, R119, R122, R146, R361): sampling ends. T_SAFE high and a bad address lead to safe mode; a
device whose identity never checked samples as Config.blindVariant and stops (R17, R121). (DEDUCED, log entry 51; DESIGN
CHOICE, log entry 145) -/
def execStrapDecode (r : Vector (Vector Nat 3) 12) (t : Vector (Vector PullReading 3) 7) (s : State) :
    Host.Outcome State Fault Refusal :=
  .next (if s.boot.step ≠ .sampling then s
  else
    let s1 : State := { s with straps := decideStraps (variant s) r t, boot.step := .decided }
    let s2 := raiseKept (strapAlarms (refreshStraps s1))
    if s2.boot.idFailed then s2
    else if tri s2 6 = .high || (stallAddr s2).isNone then enterSafe s2
    else s2)

/-! ### The loader (Sequence BOO-1 steps 7 to 9) -/

/-- PD15 is on without a request: the loader's own start (Table DOM-2). -/
def loaderOn (s : State) (v : Bool) : State := modDom s 15 fun m => { m with st := if v then .on else .off }

/-- LOADER_START (R119, R124): step 7. In safe mode it turns PD15 on for the probe that R148 needs. (DEDUCED, log entry
52) -/
def execLoaderStart (s : State) : Host.Outcome State Fault Refusal :=
  .next (if !(s.sup.vcin && s.sup.vaon) then s
  else if s.boot.step = .decided && !s.boot.idFailed then loaderOn { s with boot.step := .loader, boot.probes := 0 } true
  else if s.boot.safe && !isOn s 15 && s.boot.probes < 10 && s.outage.step = 0 then loaderOn s true
  else s)

/-- The JEDEC bytes are those of a usable flash (R130). -/
def flashUsable (j : BitVec 24) : Bool :=
  let m := j.extractLsb' 16 8
  m != 0x00 && m != 0xFF && 0x17 ≤ (j.extractLsb' 0 8).toNat

/-- FLASH_PROBE (R104, R129 to R131, R146): one attempt of at most ten; in safe mode it only tells whether parts can be
taken. (DEDUCED, log entry 52) -/
def execFlashProbe (j : BitVec 24) (f : FlashPart) (s : State) : Host.Outcome State Fault Refusal :=
  .next (if !isOn s 15 || 10 ≤ s.boot.probes then s
  else if s.boot.step = .loader then
    if flashUsable j then { s with boot.step := .identified, boot.flashMode := flashAgrees s f, boot.flashOk := true }
    else
      let s1 := { s with boot.probes := s.boot.probes + 1 }
      if s1.boot.probes = 10 then enterSafe s1 else s1
  else if s.boot.safe && s.xfer.isNone then
    if flashUsable j then { s with boot.flashMode := flashAgrees s f, boot.flashOk := true }
    else { s with boot.probes := s.boot.probes + 1, boot.flashOk := false }
  else s)

/-- The load under way is discarded; it starts again from step 7 (R124). -/
def abandonLoad (s : State) : State :=
  match s.boot.step with
  | .loader | .identified => loaderOn { s with boot.step := .decided, boot.probes := 0 } false
  | _ => s

/-! ### Loading the Reel (Sequence BOO-1 steps 10 to 12) -/

/-- The key hash after a load: the signing key's when none was locked, then ROTATE's (R134, R195, R197). -/
def keyAfter (s : State) (n : NvmCopy) (slot : Fin 2) (h : Header) : Option (BitVec 256) :=
  match findSect h 0x70 with
  | some _ => some (sha256 (sectBytes s slot h 0x70))
  | none => match n.keyHash with | some k => some k | none => some (reelKeyHash s slot h)

/-- Watermarks and the last committed SETNO go with the key label (R232, R327). -/
def adoptLabel (s : State) (l : BitVec 64) : State :=
  if s.front.label = some l then s
  else
    { s with
      front := { s.front with
        wmMains := Vector.replicate 16 none
        wmTug := Vector.replicate 16 none
        lastSetno := none
        label := some l } }

/-- A channel that ran under warm hold is re-adopted with the Reel's coefficients (R154, R488). -/
def readopt (s : State) (c : Chan) : State :=
  let x := chan s c
  if x.warm then modChan s c fun y => { y with warm := false, coef := coefOf s c y.idx } else s

/-- A re-adopted channel whose setpoint has another value slews to it (R154). -/
def slewToReel (s : State) (c : Chan) : State :=
  let x := chan s c
  let sp := setpointOf s c x.sel
  if x.phase = .regulating && spValid sp && x.target ≠ spMicro sp then startSlew s c x.sel else s

/-- Step 11: the shadow and PD07 hold the Reel, and W04 reports ready (R119, R133, R190, R305, R637, R652). -/
def adoptReel (s : State) (n : NvmCopy) (slot : Fin 2) (h : Header) (key : List Byte × KeyForm) : State :=
  let r := parseReel s slot h key.1
  let hash := keyAfter s n slot h
  let s1 := sealSlot s slot h key
  let s2 := writeNvm s1 (if n.minVer.toNat < r.minVer.toNat then r.minVer else n.minVer) hash
  let s3 := adoptLabel { s2 with
    reel := some r
    rules := loadRules (sectBytes s2 slot h 0x51) (sectBytes s2 slot h 0x50) (sectBytes s2 slot h 0x52)
    queues.tally := List.replicate r.tally.length ⟨0, 0⟩
    reg.kept := none
    boot.step := .ready } r.klabel
  let s4 := modDom s3 7 fun m => { m with st := if fed s3 7 then .on else .off, banks := allBanks 7 }
  let s5 := if r.fieldFault then addAlert s4 .reelField else s4
  readopt (readopt s5 .main) .aux

/-- The numbers that a reset leaves to report after step 11, behind the entries that it kept (R151, R755).
(DEDUCED, log entry 138) -/
def reportReset (s : State) : State := watermarkReport s 0x08

/-- Step 12: the boot profile is applied, unless PFAIL_N is low (R119, R144, R160). -/
def bootProfile (s : State) (k vsel : Fin 8) : State :=
  if !s.pins.pfailN then fireStarter s .pfail
  else
    let s1 := passProfile { s with boot.step := .running } k .dev 0 false
    match s1.bridle.waiting with
    | [] => s1
    | j :: rest => startJob { s1 with bridle.waiting := rest } j vsel

/-- REEL_LOAD, with the level of VSEL2:0 when the boot profile starts (R119, R123, R132 to R139, R146, R151, R154, R160,
R205): step 10 ends. -/
def execReelLoad (vsel : Fin 8) (s : State) : Host.Outcome State Fault Refusal :=
  .next (if s.boot.step ≠ .identified || !isOn s 15 then s
  else
    match nvmCopy s with
    | none => enterSafe s
    | some n =>
      let s0 := checkNvm s
      match chooseSlot s0 n with
      | none => enterSafe s0
      | some (slot, h) =>
        match recoverKey s0 slot h with
        | none => enterSafe s0
        | some key =>
          let s1 := reportReset (adoptReel s0 n slot h key)
          let s2 := bootProfile s1 (Fin.ofNat 8 h.bootProf) vsel
          slewToReel (slewToReel { s2 with boot.warm := false } .main) .aux)

/-- SLOT_VERIFIED (R149, R212, R216): a slot that passes restarts the device when activation was asked, and in safe mode
always; the entry is kept through the restart (log entry 41). -/
def execSlotVerified (s : State) : Host.Outcome State Fault Refusal :=
  .next (match s.xfer with
  | none => s
  | some t =>
    if !t.last || !t.inFlash.isEmpty then s
    else
      let s1 := { s with xfer := none }
      let det (sub : Nat) : List Byte := xferDetail t.xfer t.programmed sub
      let go := t.act || s.boot.safe
      if slotValid s1 t.slot then
        if go then
          let e := entryPlain 0x25 (det 1)
          enterStep5Boot (resetState { s1 with queues.kept := s1.queues.kept ++ [e] } 4)
        else addEntry s1 (entryPlain 0x25 (det 0))
      else addEntry s1 (entryPlain 0x26 (det 0)))

/-! ### Supplies (R48 to R50, R60, R118) -/

/-- A supply is no longer above its threshold. -/
def dropSupply (u : Supplies) (x : Supply) : Supplies :=
  match x with
  | .vaon => { u with vaon := false }
  | .vbak => { u with vbak := false }
  | .vio => { u with vio := false }
  | .vcin => { u with vcin := false }
  | .vsd09 => { u with vsd09 := false }
  | .vsd18 => { u with vsd18 := false }
  | .vana => { u with vana := false }
  | .vpwm => { u with vpwm := false }

/-- A domain is in transition: its request has passed step 2. -/
def inTransition (s : State) (d : Nat) : Bool := match (dom s d).cur with | some (_, g) => g != .wait | none => false

/-- The domains that the fall of a supply forces off (R118). -/
def forcedBy (s : State) (x : Supply) : List Nat :=
  (List.range 20).filter fun d => feeds x d && present s d && (isOn s d || inTransition s d)

/-- A channel without its PWM pads does not switch (R60, Table STW-11). (DEDUCED, log entry 64) -/
def pwmLost (s : State) (c : Chan) : State := if switching (chan s c) then stopChan s c .notSwitching else s

/-- What the fall of VIO does: PACK is low when it returns, and an egress unit is not completed (R48, R50, R687). -/
def vioLost (s : State) : State :=
  let s1 := match s.drop.egress with
    | some ⟨_, some t⟩ => markBusy s t false
    | _ => s
  { s1 with bridle.pack := false, bridle.pres := 0, drop.egress := none, win.qcsN := true, win.qoeN := true }

/-- A supply other than VAON falls below its threshold: the fall of any but VBAK captures one record (R118). -/
def supplyFalls (s : State) (x : Supply) (snap : Snap) : State :=
  let l := forcedBy s x
  let reg := l.contains 17 || l.contains 18
  let c : Chan := if l.contains 18 && !l.contains 17 then .aux else .main
  let s1 := if x = .vbak then s else capture s 0x0D 0 c reg snap []
  let s2 := l.foldl (fun t d => forceDown t d .failed 0xC) { s1 with sup := dropSupply s1.sup x }
  let s3 := if x = .vcin then abandonLoad s2 else s2
  let s4 := match x with
    | .vio => vioLost s3
    | .vpwm => pwmLost (pwmLost s3 .main) .aux
    | .vbak => if s3.sup.vaon then backToVaon s3 else s3
    | _ => s3
  -- what waits behind a request that the fall has ended is taken in its order (R410)
  outageGoesOn (l.foldl settle s4)

/-- SUPPLY_FALL (R48, R50, R60, R116, R118, R687, R728): the fall of VAON is VAON_LOSS or DEVICE_POR. -/
def execSupplyFall (x : Supply) (snap : Snap) (s : State) : Host.Outcome State Fault Refusal :=
  .next (if x = .vaon || s.boot.step = .por || !supplyUp s x || (x = .vbak && !s.sup.vaon) then s else supplyFalls s x snap)

/-- LOAD_ABANDON (R124): VCIN or VAON falls during steps 7 to 11; VCIN's fall is that of R118 too. -/
def execLoadAbandon (x : Supply) (s : State) : Host.Outcome State Fault Refusal :=
  .next (if !(s.boot.step = .loader || s.boot.step = .identified) then s
  else match x with
    | .vcin =>
      let (snap, s1) := freeSnap s
      supplyFalls s1 .vcin snap
    | .vaon => if s.sup.vbak then abandonLoad { s with sup.vaon := false, gauge.onVbak := true } else s
    | _ => s)

/-- VIO_RISE (R49, R77): the balls of the VIO bank take their levels again, those of QSEL5:0, QCS_N and QOE_N as given. A
strobe that is active then drives the addressed word, which counts as no read. -/
def execVioRise (q : BitVec 6) (csN oeN : Bool) (s : State) : Host.Outcome State Fault Refusal :=
  let s1 : State := { s with sup.vio := true }
  .next (if pinsLive s1 then
    { s1 with win.qcsN := csN, win.qoeN := oeN, win.qd := if csN || oeN then s1.win.qd else statusWord s1 q }
  else s1)

/-! ### Boundary scan (R67, R68) -/

/-- The TAP works: its balls are in the VIO bank. -/
def tapLive (s : State) : Bool := s.sup.vio && s.boot.step != .por

/-- Both channels go off and both ports go down, until a reset (R68, log entry 36). -/
def tapForces (s : State) : State :=
  let chanOff (t : State) (c : Chan) : State :=
    setPwm (if switching (chan t c) then modChan (stopChan t c .notSwitching) c fun x => { x with warm := false } else t) c .mid
  let portOff (t : State) (p : Port) : State :=
    modLink (if portUp t p then portDownAs t p .ownDomain false else t) p fun l => { l with st := .down, step := 0 }
  portOff (portOff (chanOff (chanOff { s with tap.forced := true } .main) .aux) .u) .d

/-- EXTEST (R68). -/
def execExtest (b : BitVec 128) (s : State) : Host.Outcome State Fault Refusal :=
  .next (if tapLive s then tapForces { s with tap.ir := 0x0, tap.boundary := b } else s)

/-- SAMPLE/PRELOAD (R67): the balls' levels enter the boundary register, whose order the manual does not give (log entry
5). -/
def execSamplePreload (s : State) : Host.Outcome State Fault Refusal :=
  .next (if tapLive s then
    let (a, s1) := takeFree s
    let (b, s2) := takeFree s1
    { s2 with tap.ir := 0x1, tap.boundary := a ++ b }
  else s)

/-- CLAMP (R68). -/
def execClamp (b : BitVec 128) (s : State) : Host.Outcome State Fault Refusal :=
  .next (if tapLive s then tapForces { s with tap.ir := 0x2, tap.boundary := b } else s)

/-- HIGHZ (R68). -/
def execHighz (s : State) : Host.Outcome State Fault Refusal := .next (if tapLive s then tapForces { s with tap.ir := 0x3 } else s)

/-- BYPASS (R67), which the codes 0x4 to 0xE and a TAP reset by TRST_N select too: the condition of R68 is not left by
it. -/
def execBypass (s : State) : Host.Outcome State Fault Refusal := .next (if tapLive s then { s with tap.ir := 0xF } else s)

end Sys2Proof.Machine
end

