-- ==== Sys2Proof/Machine/Dispatch.lean ====
section
/-! DEFINITION. The dispatch: one arm per command, each a direct call of its meaning. -/

namespace Sys2Proof.Machine

/-- A command's effect on everything but the queue. (DESIGN CHOICE, log entry 71) (DEDUCED, log entry 85)
(DESIGN CHOICE, log entry 144) -/
def exec (i : Instr) (s : State) : Host.Outcome State Fault Refusal :=
  match i with
  | .powerOn up tickStarts sensed => Sys2Proof.Machine.execPowerOn up tickStarts sensed s
  | .devicePor => Sys2Proof.Machine.execDevicePor s
  | .identityResense sensed => Sys2Proof.Machine.execIdentityResense sensed s
  | .tickStartFail => Sys2Proof.Machine.execTickStartFail s
  | .crystalQualify => Sys2Proof.Machine.execCrystalQualify s
  | .crystalTimeout => Sys2Proof.Machine.execCrystalTimeout s
  | .crystalLoss => Sys2Proof.Machine.execCrystalLoss s
  | .resetAssert lowNs => Sys2Proof.Machine.execResetAssert lowNs s
  | .resetRelease => Sys2Proof.Machine.execResetRelease s
  | .strapDecode rv tri => Sys2Proof.Machine.execStrapDecode rv tri s
  | .loaderStart => Sys2Proof.Machine.execLoaderStart s
  | .flashProbe jedec mode => Sys2Proof.Machine.execFlashProbe jedec mode s
  | .reelLoad vsel => Sys2Proof.Machine.execReelLoad vsel s
  | .loadAbandon which => Sys2Proof.Machine.execLoadAbandon which s
  | .supplyFall which snap => Sys2Proof.Machine.execSupplyFall which snap s
  | .vioRise qsel qcsN qoeN => Sys2Proof.Machine.execVioRise qsel qcsN qoeN s
  | .mainsWord body mac crc => Sys2Proof.Machine.execMainsWord body mac crc s
  | .tugWord port body mac crc => Sys2Proof.Machine.execTugWord port body mac crc s
  | .tugRelay out => Sys2Proof.Machine.execTugRelay out s
  | .streamStart src bytes => Sys2Proof.Machine.execStreamStart src bytes s
  | .engineStep eng ev => Sys2Proof.Machine.execEngineStep eng ev s
  | .streamEnd eng crcOk => Sys2Proof.Machine.execStreamEnd eng crcOk s
  | .engineSelfCheck eng ok => Sys2Proof.Machine.execEngineSelfCheck eng ok s
  | .engineFail eng cause => Sys2Proof.Machine.execEngineFail eng cause s
  | .fill eng line => Sys2Proof.Machine.execFill eng line s
  | .directoryData eng line parityOk => Sys2Proof.Machine.execDirectoryData eng line parityOk s
  | .evict eng line => Sys2Proof.Machine.execEvict eng line s
  | .snoop eng line => Sys2Proof.Machine.execSnoop eng line s
  | .sack eng line => Sys2Proof.Machine.execSack eng line s
  | .nheld eng line => Sys2Proof.Machine.execNheld eng line s
  | .scanRead parityOk => Sys2Proof.Machine.execScanRead parityOk s
  | .scanRepairDone => Sys2Proof.Machine.execScanRepairDone s
  | .updateLine port src dst word => Sys2Proof.Machine.execUpdateLine port src dst word s
  | .updateRule port src dst word => Sys2Proof.Machine.execUpdateRule port src dst word s
  | .updateAssoc port src dst word => Sys2Proof.Machine.execUpdateAssoc port src dst word s
  | .updateFree port src dst word => Sys2Proof.Machine.execUpdateFree port src dst word s
  | .updateStart port src dst word => Sys2Proof.Machine.execUpdateStart port src dst word s
  | .updateNone port src dst word => Sys2Proof.Machine.execUpdateNone port src dst word s
  | .updateCommit port src dst word => Sys2Proof.Machine.execUpdateCommit port src dst word s
  | .updateSetTimeout => Sys2Proof.Machine.execUpdateSetTimeout s
  | .epochSwitch => Sys2Proof.Machine.execEpochSwitch s
  | .resultApply => Sys2Proof.Machine.execResultApply s
  | .pendingPinRise => Sys2Proof.Machine.execPendingPinRise s
  | .railAttemptFail ch snap => Sys2Proof.Machine.execRailAttemptFail ch snap s
  | .railRetry ch => Sys2Proof.Machine.execRailRetry ch s
  | .wack qsel => Sys2Proof.Machine.execWack qsel s
  | .profileStart vsel => Sys2Proof.Machine.execProfileStart vsel s
  | .hostOff dom => Sys2Proof.Machine.execHostOff dom s
  | .hostRetention dom => Sys2Proof.Machine.execHostRetention dom s
  | .hostOn dom => Sys2Proof.Machine.execHostOn dom s
  | .hostQuery dom => Sys2Proof.Machine.execHostQuery dom s
  | .hostApply profile => Sys2Proof.Machine.execHostApply profile s
  | .hostInvalidCommand psel pcmd => Sys2Proof.Machine.execHostInvalidCommand psel pcmd s
  | .ask dom => Sys2Proof.Machine.execAsk dom s
  | .drain dom => Sys2Proof.Machine.execDrain dom s
  | .grant dom => Sys2Proof.Machine.execGrant dom s
  | .refuse dom => Sys2Proof.Machine.execRefuse dom s
  | .hold dom => Sys2Proof.Machine.execHold dom s
  | .drained dom => Sys2Proof.Machine.execDrained dom s
  | .live dom => Sys2Proof.Machine.execLive dom s
  | .domainFaulty dom snap => Sys2Proof.Machine.execDomainFaulty dom snap s
  | .idleRequest dom => Sys2Proof.Machine.execIdleRequest dom s
  | .rmapChange value => Sys2Proof.Machine.execRmapChange value s
  | .channelStart ch reading snap => Sys2Proof.Machine.execChannelStart ch reading snap s
  | .rampComplete ch => Sys2Proof.Machine.execRampComplete ch s
  | .pgoodAssert ch feedback => Sys2Proof.Machine.execPgoodAssert ch feedback s
  | .pgoodDeassert ch feedback => Sys2Proof.Machine.execPgoodDeassert ch feedback s
  | .vselChange value => Sys2Proof.Machine.execVselChange value s
  | .slewComplete ch => Sys2Proof.Machine.execSlewComplete ch s
  | .enableLow ch => Sys2Proof.Machine.execEnableLow ch s
  | .enableHigh ch => Sys2Proof.Machine.execEnableHigh ch s
  | .syncLock spacings => Sys2Proof.Machine.execSyncLock spacings s
  | .syncLoss => Sys2Proof.Machine.execSyncLoss s
  | .balanceUpdate currents snap => Sys2Proof.Machine.execBalanceUpdate currents snap s
  | .shedDecision currents => Sys2Proof.Machine.execShedDecision currents s
  | .hourPass => Sys2Proof.Machine.execHourPass s
  | .swapShed currents => Sys2Proof.Machine.execSwapShed currents s
  | .undershootRestore => Sys2Proof.Machine.execUndershootRestore s
  | .fastLimitTrip ch phase inPulse successive snap => Sys2Proof.Machine.execFastLimitTrip ch phase inPulse successive snap s
  | .hiccupRestart ch => Sys2Proof.Machine.execHiccupRestart ch s
  | .slowLimitTrip ch average snap => Sys2Proof.Machine.execSlowLimitTrip ch average snap s
  | .protectionRetry ch => Sys2Proof.Machine.execProtectionRetry ch s
  | .undervoltage ch feedback snap => Sys2Proof.Machine.execUndervoltage ch feedback snap s
  | .auxOvervoltage snap => Sys2Proof.Machine.execAuxOvervoltage snap s
  | .overvoltageRelease ch feedback => Sys2Proof.Machine.execOvervoltageRelease ch feedback s
  | .senseLoss snap => Sys2Proof.Machine.execSenseLoss snap s
  | .vlocLost vloc dv snap => Sys2Proof.Machine.execVlocLost vloc dv snap s
  | .derateInterval ext low high vana snap => Sys2Proof.Machine.execDerateInterval ext low high vana snap s
  | .recordCommit => Sys2Proof.Machine.execRecordCommit s
  | .monitorAssert mon side reading snap => Sys2Proof.Machine.execMonitorAssert mon side reading snap s
  | .monitorDeassert mon side reading => Sys2Proof.Machine.execMonitorDeassert mon side reading s
  | .eventHoldoffEnd mon => Sys2Proof.Machine.execEventHoldoffEnd mon s
  | .monitorSettled mon reading snap => Sys2Proof.Machine.execMonitorSettled mon reading snap s
  | .latchPeriodClear sense => Sys2Proof.Machine.execLatchPeriodClear sense s
  | .clrw qsel => Sys2Proof.Machine.execClrw qsel s
  | .pllLock port => Sys2Proof.Machine.execPllLock port s
  | .pllLockTimeout port => Sys2Proof.Machine.execPllLockTimeout port s
  | .symbolLock port inverted addr flags => Sys2Proof.Machine.execSymbolLock port inverted addr flags s
  | .equaliserSettle port boost partnerPe => Sys2Proof.Machine.execEqualiserSettle port boost partnerPe s
  | .trainingDone port => Sys2Proof.Machine.execTrainingDone port s
  | .helloTimeout port => Sys2Proof.Machine.execHelloTimeout port s
  | .hello port rx => Sys2Proof.Machine.execHello port rx s
  | .credit port rx => Sys2Proof.Machine.execCredit port rx s
  | .ack port rx => Sys2Proof.Machine.execAck port rx s
  | .goBackTimeout port => Sys2Proof.Machine.execGoBackTimeout port s
  | .ackSend port => Sys2Proof.Machine.execAckSend port s
  | .creditSend port => Sys2Proof.Machine.execCreditSend port s
  | .linkDown port cause => Sys2Proof.Machine.execLinkDown port cause s
  | .frameSend port ecc => Sys2Proof.Machine.execFrameSend port ecc s
  | .data port rx lost => Sys2Proof.Machine.execData port rx lost s
  | .notice port rx => Sys2Proof.Machine.execNotice port rx s
  | .echoRequest port rx => Sys2Proof.Machine.execEchoRequest port rx s
  | .echoReply port rx => Sys2Proof.Machine.execEchoReply port rx s
  | .ringProbe port rx => Sys2Proof.Machine.execRingProbe port rx s
  | .ringBreak port rx => Sys2Proof.Machine.execRingBreak port rx s
  | .reelPart port rx => Sys2Proof.Machine.execReelPart port rx s
  | .reelPartLast port rx => Sys2Proof.Machine.execReelPartLast port rx s
  | .malformedFrame port rx => Sys2Proof.Machine.execMalformedFrame port rx s
  | .flashPartProgrammed ok => Sys2Proof.Machine.execFlashPartProgrammed ok s
  | .transferTimeout => Sys2Proof.Machine.execTransferTimeout s
  | .slotVerified => Sys2Proof.Machine.execSlotVerified s
  | .noticeClose => Sys2Proof.Machine.execNoticeClose s
  | .ageingExpiry tag => Sys2Proof.Machine.execAgeingExpiry tag s
  | .ageingWake => Sys2Proof.Machine.execAgeingWake s
  | .lostEntryReport => Sys2Proof.Machine.execLostEntryReport s
  | .ingressUnit gapOver => Sys2Proof.Machine.execIngressUnit gapOver s
  | .verdictReady => Sys2Proof.Machine.execVerdictReady s
  | .pullWord word dp => Sys2Proof.Machine.execPullWord word dp s
  | .egressFetch ecc => Sys2Proof.Machine.execEgressFetch ecc s
  | .egressComplete => Sys2Proof.Machine.execEgressComplete s
  | .ddirChange level => Sys2Proof.Machine.execDdirChange level s
  | .readW04 => Sys2Proof.Machine.execReadW04 s
  | .readW0b => Sys2Proof.Machine.execReadW0b s
  | .readWakeCause pin => Sys2Proof.Machine.execReadWakeCause pin s
  | .readLatchWord second => Sys2Proof.Machine.execReadLatchWord second s
  | .readGroupHead head => Sys2Proof.Machine.execReadGroupHead head s
  | .readErrorCounter which => Sys2Proof.Machine.execReadErrorCounter which s
  | .readPortStatus port => Sys2Proof.Machine.execReadPortStatus port s
  | .readEngineStatus => Sys2Proof.Machine.execReadEngineStatus s
  | .readLostMatch => Sys2Proof.Machine.execReadLostMatch s
  | .pfailAssert => Sys2Proof.Machine.execPfailAssert s
  | .wm04Low => Sys2Proof.Machine.execWm04Low s
  | .vaonLoss => Sys2Proof.Machine.execVaonLoss s
  | .outageFlightDone => Sys2Proof.Machine.execOutageFlightDone s
  | .outageRetentionReached => Sys2Proof.Machine.execOutageRetentionReached s
  | .dwellExpiry => Sys2Proof.Machine.execDwellExpiry s
  | .inputReturn => Sys2Proof.Machine.execInputReturn s
  | .reversalRailsDone => Sys2Proof.Machine.execReversalRailsDone s
  | .vbakReading millivolts tdie => Sys2Proof.Machine.execVbakReading millivolts tdie s
  | .gaugePacket => Sys2Proof.Machine.execGaugePacket s
  | .lossResolution unreadable => Sys2Proof.Machine.execLossResolution unreadable s
  | .watermarkReportEntry => Sys2Proof.Machine.execWatermarkReportEntry s
  | .paceLoop canary memNeed => Sys2Proof.Machine.execPaceLoop canary memNeed s
  | .canaryStall rail => Sys2Proof.Machine.execCanaryStall rail s
  | .hourCountStore => Sys2Proof.Machine.execHourCountStore s
  | .extest boundary => Sys2Proof.Machine.execExtest boundary s
  | .samplePreload => Sys2Proof.Machine.execSamplePreload s
  | .clamp boundary => Sys2Proof.Machine.execClamp boundary s
  | .highz => Sys2Proof.Machine.execHighz s
  | .bypass => Sys2Proof.Machine.execBypass s
  | .ruleMemoryReloadDone => Sys2Proof.Machine.execRuleMemoryReloadDone s
  | .hostStreamAbandon => Sys2Proof.Machine.execHostStreamAbandon s
  | .preambleLock fe => Sys2Proof.Machine.execPreambleLock fe s
  | .syncByteMismatch fe => Sys2Proof.Machine.execSyncByteMismatch fe s
  | .partnerPereqApplied port pereq => Sys2Proof.Machine.execPartnerPereqApplied port pereq s
  | .frameDiscarded port rx => Sys2Proof.Machine.execFrameDiscarded port rx s
  | .pstbFall => Sys2Proof.Machine.execPstbFall s
  | .dropWordTransfer word dp dsof deof ecc => Sys2Proof.Machine.execDropWordTransfer word dp dsof deof ecc s
  | .compensatorSample ch feedback vloc vin => Sys2Proof.Machine.execCompensatorSample ch feedback vloc vin s
  | .zeroCrossing ch phase => Sys2Proof.Machine.execZeroCrossing ch phase s
  | .trkChange microvolts steps => Sys2Proof.Machine.execTrkChange microvolts steps s

end Sys2Proof.Machine
end

