-- ==== Sys2Proof/Machine/Step.lean ====
section
/-! DEFINITION. One step: the command at the front of the queue, or a tick period when none waits. -/

namespace Sys2Proof.Machine

/-- The command at the front of the queue runs on the state with the queue's rest; on an empty queue one tick period
passes (log entry 3). -/
def step (s : State) : Host.Outcome State Fault Refusal :=
  match s.pending with
  | [] => .next (tickOnce s)
  | i :: rest => exec i { s with pending := rest }

/-- The state with the command that a word spells at the front of its queue. The table gives no row any bits, so a word
spells none (log entry 1). -/
def State.withFetchWord (s : State) (nbits w : Nat) : State :=
  match Sys2Proof.decodeTableWord nbits w with
  | some i => { s with pending := i :: s.pending }
  | none => s

end Sys2Proof.Machine
end

