-- ==== Sys2Proof/Machine/Flags.lean ====
section
/-! DEFINITION. The alarm, good and wake flags that the state gives to the balls FAULT_N, ALERT_N, PGOOD and WAKE
(files 02, 09, 11, 13 and 14). -/

namespace Sys2Proof.Machine

/-- A set latch of a monitor routed to an alarm by this bit of ROUTE (R546). -/
def routedLatch (s : State) (routeBit : Nat) : Bool :=
  (List.range 24).any fun k => (mon s k).latch && (routeOf s k).getLsbD routeBit

/-- FAULT_N is asserted: some cause holds it (R62, R122, R512, R546). -/
def faultAsserted (s : State) : Bool :=
  !s.prot.faults.isEmpty || (s.prot.recAlarms.any fun a => a.toFault) || routedLatch s 3

/-- ALERT_N is asserted: some cause holds it (R62, R512, R546). -/
def alertAsserted (s : State) : Bool :=
  !s.prot.alerts.isEmpty || (s.prot.recAlarms.any fun a => !a.toFault) || routedLatch s 4

/-- PGOOD of a channel is asserted (R62, R432). -/
def pgoodAsserted (s : State) (c : Chan) : Bool := (chan s c).pgood

/-- A WAKE ball is high: its pin asks for it and VIO is in range (R48, R49, R341). -/
def wakeHigh (s : State) (k : Fin 4) : Bool := (vget s.act.wake WakeWord.zero k.val).pin && s.sup.vio

/-- The device is in POR or RST_N is asserted: the balls take the states of that column of Table BAL-5 (R54, R61). -/
def ballsReset (s : State) : Bool :=
  s.boot.inReset || match s.boot.step with | .por | .tickWait | .idRetry | .held => true | _ => false

end Sys2Proof.Machine
end

