-- ==== Sys2Proof/Machine/Balls.lean ====
section
/-! DEFINITION. The states of the signal balls as the state of the block gives them (Tables BAL-3 to BAL-9 and BOO-4). A
ball in the state `used` carries what its unit sends or takes. TDO drives only while the TAP shifts, which no row shows. -/

namespace Sys2Proof.Machine

/-- State codes (Table BAL-4), the PWM states (Table BAL-6), the bias currents of the sense balls (R56, R500), and a ball
in the use of its unit. -/
inductive BallState where
  | z | zPu | zPd | d0 | d1 | odL | odZ | mid | high | low | idle | term | strap | used
  /-- 1.5 µA sourced into VSP. -/
  | source1500nA
  /-- 1.5 µA sunk from VSN. -/
  | sink1500nA
  /-- 0.5 µA sourced into FB_A. -/
  | source500nA
  deriving DecidableEq, Repr

/-- Supply banks (Table BAL-3). -/
inductive Bank where
  | aon | vio | ana | pwm | sd
  deriving DecidableEq, Repr

/-- The bank of a ball (Table BAL-5). -/
def bank (b : Ball) : Bank :=
  match b with
  | .tx _ | .rx _ | .refclk | .tcal => .sd
  | .pwm _ | .pwmA => .pwm
  | .mw | .mwCm | .csp _ | .csn _ | .vsp | .vsn | .vloc | .vinSns | .tsExt | .cspA | .csnA | .fbA | .trk | .ain _ | .vref => .ana
  | .qsel _ | .qd _ | .qcsN | .qoeN | .psel _ | .pcmd _ | .pstb | .pack | .pres _ | .wake _ | .wack | .clrw | .dq _ | .dp _
  | .dsof | .deof | .dreq | .dack | .ddir | .tck | .tms | .tdi | .tdo | .trstN | .testEn => .vio
  | .pgoodM | .enM | .vsel _ | .syncIn | .syncOut | .pgoodA | .enA | .alertN | .faultN | .rmap _ | .flCsN | .flClk | .flIo _
  | .rvStrap _ | .tStrap _ | .rstN | .pfailN | .xt32 | .chold => .aon

/-- The ball is an output, or drives in one direction of two (Table BAL-5). -/
def isOutput (b : Ball) : Bool :=
  match b with
  | .tx _ | .mwCm | .pwm _ | .pgoodM | .syncOut | .pwmA | .pgoodA | .qd _ | .pack | .pres _ | .wake _ | .alertN | .faultN
  | .dq _ | .dp _ | .dsof | .deof | .dack | .flCsN | .flClk | .flIo _ | .tdo => true
  | _ => false

/-- The balls of the auxiliary channel that Table BAL-9 lists. -/
def auxBall (b : Ball) : Bool :=
  match b with
  | .pwmA | .cspA | .csnA | .fbA | .trk | .pgoodA | .enA => true
  | _ => false

/-- The balls of the drop port. -/
def dropBall (b : Ball) : Bool :=
  match b with
  | .dq _ | .dp _ | .dsof | .deof | .dreq | .dack | .ddir => true
  | _ => false

/-- A ball of a main phase from number n on (0 is phase 1). -/
def phaseBallFrom (n : Nat) (b : Ball) : Bool :=
  match b with
  | .pwm k | .csp k | .csn k => n ≤ k.val
  | _ => false

/-- The variant leaves the ball inert (Table BAL-9). -/
def inert (var : Nat) (b : Ball) : Bool :=
  if var = 6 then b == .tx .d || b == .rx .d
  else if var = 4 then phaseBallFrom 4 b || auxBall b
  else if var = 2 then
    (bank b == .sd) || phaseBallFrom 2 b || auxBall b || dropBall b || (match b with | .ain k => 8 ≤ k.val | _ => false)
  else false

/-- The boundary register covers the VIO-bank, AON-bank and PWM balls. -/
def covered (b : Ball) : Bool := bank b == .vio || bank b == .aon || bank b == .pwm

/-- A strap ball is sampled in this variant (Table BAL-9). -/
def strapSampled (var : Nat) (b : Ball) : Bool :=
  match b with
  | .rvStrap k => !(k = 9 && trackUnsampled var)
  | .tStrap k => !triUnsampled var k.val
  | _ => false

/-- The column "POR and RST_N" of Table BAL-5. -/
def resetColumn (s : State) (b : Ball) : BallState :=
  match b with
  | .pwm _ | .pwmA => .mid
  | .pgoodM | .pgoodA | .faultN => .odL
  | .alertN => .odZ
  | .enM | .enA | .qcsN | .qoeN | .rstN | .pfailN | .tms | .tdi | .flIo _ => .zPu
  | .vsel _ | .syncIn | .pstb | .wack | .clrw | .rmap _ | .dreq | .ddir | .tck | .trstN | .testEn => .zPd
  | .syncOut | .pack | .pres _ | .wake _ | .dack | .flClk => .d0
  | .flCsN => if s.boot.inReset then .d1 else .zPu
  | .xt32 | .chold => .used
  | _ => .z

/-- An open-drain alarm: asserted in OD-L (R62). -/
def alarmBall (asserted : Bool) : BallState := if asserted then .odL else .odZ

/-- FAULT_N: asserted in POR and reset (Table BAL-5, R122). -/
def faultN (s : State) : BallState := alarmBall (ballsReset s || faultAsserted s)

/-- ALERT_N: released in POR and reset (Table BAL-5, R61). -/
def alertN (s : State) : BallState := alarmBall (!ballsReset s && alertAsserted s)

/-- A PGOOD ball, active high (R62). -/
def pgoodBall (s : State) (c : Chan) : BallState := if pgoodAsserted s c then .odZ else .odL

/-- A driven level. -/
def driven (b : Bool) : BallState := if b then .d1 else .d0

/-- A PWM state as a ball state. -/
def pwmState (p : Pwm) : BallState := match p with | .high => .high | .low => .low | .mid => .mid

/-- A ball of a unit: in use while its domain is on. -/
def whileOn (s : State) (d : Nat) (x : BallState) : BallState := if isOn s d then x else .z

/-- TX balls of a port: IDLE while only its tug domain is on, and while the port is lock-failed (R562). -/
def txBall (s : State) (p : Port) : BallState :=
  if isOn s (portDom p) then (if (link s p).st = .lockFailed then .idle else .used) else whileOn s (tugDom p) .idle

/-- RX balls of a port: TERM while only its tug domain is on. -/
def rxBall (s : State) (p : Port) : BallState :=
  if isOn s (portDom p) then .used else whileOn s (tugDom p) .term

/-- QD15:0: driven while the read strobe is active, both QCS_N and QOE_N low (R55, R77, R690). -/
def qdBall (s : State) (k : Fin 16) : BallState :=
  if s.win.qcsN || s.win.qoeN then .z else driven (s.win.qd.getLsbD k.val)

/-- Data, parity and mark balls of the drop port: driven by the device during egress, by the host during ingress. -/
def dropDataBall (s : State) : BallState := if isOn s 16 && !s.drop.ingressDir then .used else .z

/-- A flash ball: high-impedance without VAON (R51), in its resting state while PD15 is not on. -/
def flashBall (s : State) (rest : BallState) : BallState :=
  if !s.sup.vaon then .z else if isOn s 15 then .used else rest

/-- The columns "Domain" and "Domain off or isolated" of Table BAL-5. -/
def runColumn (s : State) (b : Ball) : BallState :=
  match b with
  | .tx p => txBall s p
  | .rx p => rxBall s p
  | .refclk | .tcal => if isOn s 13 || isOn s 14 then .used else .z
  | .mw | .mwCm => whileOn s 0 .used
  | .pwm k => if isOn s 17 then pwmState s.reg.pwm[k] else .mid
  | .csp k | .csn k => if k.val < phases s.reg.straps then whileOn s 17 .used else .z
  | .vsp => whileOn s 17 .source1500nA
  | .vsn => whileOn s 17 .sink1500nA
  | .vloc | .vinSns | .tsExt => whileOn s 17 .used
  | .pgoodM => pgoodBall s .main
  | .syncOut => if isOn s 17 && (syncOut (clockStraps s)).isSome then .used else .d0
  | .pwmA => if isOn s 18 then pwmState s.reg.pwmA else .mid
  | .cspA | .csnA | .trk => whileOn s 18 .used
  | .fbA => whileOn s 18 .source500nA
  | .pgoodA => pgoodBall s .aux
  | .ain _ | .vref => whileOn s 19 .used
  | .qsel _ | .psel _ | .pcmd _ | .tdo => .z
  | .qd k => qdBall s k
  | .pack => driven s.bridle.pack
  | .pres k => driven (s.bridle.pres.getLsbD k.val)
  | .wake k => driven (wakeHigh s k)
  | .alertN => alertN s
  | .faultN => faultN s
  | .dq _ | .dp _ | .dsof | .deof => dropDataBall s
  | .dack => if isOn s 16 then .used else .d0
  | .flCsN => flashBall s .d1
  | .flClk => flashBall s .d0
  | .flIo _ => flashBall s .zPu
  | .rvStrap _ | .tStrap _ => if s.boot.step = .sampling && strapSampled (variant s) b then .strap else .z
  | .enM | .vsel _ | .syncIn | .enA | .qcsN | .qoeN | .pstb | .wack | .clrw | .rmap _ | .dreq | .ddir | .rstN | .pfailN
  | .xt32 | .chold | .tck | .tms | .tdi | .trstN | .testEn => resetColumn s b

/-- A ball that keeps its running behaviour under warm hold (R61). -/
def warmBall (b : Ball) : Bool :=
  match b with
  | .pwm _ | .pwmA | .syncOut | .pgoodM | .pgoodA => true
  | _ => false

/-- What the device itself gives the ball: a PWM ball without VPWM is high-impedance (R60), a flash ball without VAON too
(R51). -/
def ownState (s : State) (b : Ball) : BallState :=
  if bank b == .pwm && !s.sup.vpwm then .z
  else if ballsReset s && !(s.boot.warm && s.boot.inReset && warmBall b) then resetColumn s b
  else runColumn s b

/-- EXTEST and CLAMP drive the balls that the boundary register covers, HIGHZ makes every covered output high-impedance,
PWM balls MID (Table BAL-7). The drive follows the instruction register; a TAP without VIO has none. -/
def scanState (s : State) (b : Ball) (own : BallState) : BallState :=
  let off : BallState := if bank b == .pwm then .mid else .z
  if !covered b || !isOutput b || !s.sup.vio then own
  else if s.tap.ir = 0x0 || s.tap.ir = 0x2 then
    match Config.boundaryDrive s.tap.boundary b with
    | none => off
    | some false => if bank b == .pwm then .low else .d0
    | some true => if bank b == .pwm then .high else .d1
  else if s.tap.ir = 0x3 then off
  else own

/-- The state of a signal ball (R43, R48, R54, R70, R71): an inert ball and a VIO-bank ball without VIO are
high-impedance, their pulls disconnected. (DESIGN CHOICE, log entry 146) -/
def ballState (s : State) (b : Ball) : BallState :=
  if inert (variant s) b || (bank b == .vio && !s.sup.vio) then .z else scanState s b (ownState s b)

/-- The device acts on the level of an input ball (R48, R54, R70 and the notes "ignored" of Table BAL-5). -/
def heard (s : State) (b : Ball) : Bool :=
  !inert (variant s) b && !(bank b == .vio && !s.sup.vio) &&
    match b with
    | .qsel _ | .psel _ | .pcmd _ | .pstb | .wack | .clrw => !ballsReset s
    | .dreq | .ddir => !ballsReset s && isOn s 16
    | .syncIn => isOn s 17 && syncExternal (clockStraps s)
    | .csp k | .csn k => isOn s 17 && k.val < phases s.reg.straps
    | .pfailN => !s.boot.inReset
    | _ => !isOutput b

end Sys2Proof.Machine
end

