-- ==== Sys2Proof/Safety.lean ====
section
/-! DEFINITION. The terms in which claims speak of a safe run: the parts of the state that a command may change, when
an update word is taken, when a hop accepts a frame, and when no request waits. -/

namespace Sys2Proof.Machine

/-! ### What a command may change -/

/-- The parts of the state, one per field of State. -/
inductive Part where
  | pending | now | free | sup | boot | ident | straps | pins | tap | hours | nvm | flash
  | reel | xfer | front | rules | engs | act | bridle | reg | prot | mons | tether | queues
  | drop | win | gauge | outage | integ | pace
  deriving DecidableEq, Repr

/-- A part is the same in two states. -/
def Part.same (p : Part) (s t : State) : Prop :=
  match p with
  | .pending => t.pending = s.pending
  | .now => t.now = s.now
  | .free => t.free = s.free
  | .sup => t.sup = s.sup
  | .boot => t.boot = s.boot
  | .ident => t.ident = s.ident
  | .straps => t.straps = s.straps
  | .pins => t.pins = s.pins
  | .tap => t.tap = s.tap
  | .hours => t.hours = s.hours
  | .nvm => t.nvm = s.nvm
  | .flash => t.flash = s.flash
  | .reel => t.reel = s.reel
  | .xfer => t.xfer = s.xfer
  | .front => t.front = s.front
  | .rules => t.rules = s.rules
  | .engs => t.engs = s.engs
  | .act => t.act = s.act
  | .bridle => t.bridle = s.bridle
  | .reg => t.reg = s.reg
  | .prot => t.prot = s.prot
  | .mons => t.mons = s.mons
  | .tether => t.tether = s.tether
  | .queues => t.queues = s.queues
  | .drop => t.drop = s.drop
  | .win => t.win = s.win
  | .gauge => t.gauge = s.gauge
  | .outage => t.outage = s.outage
  | .integ => t.integ = s.integ
  | .pace => t.pace = s.pace

/-- Of two states, the second differs from the first in these parts at most. -/
structure Only (ps : List Part) (s t : State) : Prop where
  /-- A part that the list does not name is the same. -/
  same : ∀ p : Part, ps.contains p = false → p.same s t

/-- The parts that a command may change, the queue of commands apart. -/
def partsOf (i : Instr) : List Part :=
  match i with
  | .nheld _ _ =>
    []
  | .crystalQualify | .crystalTimeout =>
    [.boot]
  | .enableHigh _ =>
    [.pins]
  | .bypass =>
    [.tap]
  | .hourCountStore =>
    [.nvm]
  | .tugRelay _ | .preambleLock _ | .syncByteMismatch _ =>
    [.front]
  | .sack _ _ =>
    [.rules]
  | .engineSelfCheck _ _ | .fill _ _ | .snoop _ _ =>
    [.engs]
  | .wack _ =>
    [.act]
  | .ask _ | .hold _ | .pstbFall =>
    [.bridle]
  | .slewComplete _ | .syncLock _ | .syncLoss | .shedDecision _ | .swapShed _ | .undershootRestore
  | .hiccupRestart _ | .protectionRetry _ | .overvoltageRelease _ _ | .zeroCrossing _ _ =>
    [.reg]
  | .tickStartFail =>
    [.prot]
  | .clrw _ =>
    [.mons]
  | .pllLock _ | .equaliserSettle _ _ _ | .trainingDone _ | .helloTimeout _ | .ackSend _
  | .partnerPereqApplied _ _ =>
    [.tether]
  | .ingressUnit _ | .pullWord _ _ =>
    [.drop]
  | .readErrorCounter _ =>
    [.win]
  | .canaryStall _ =>
    [.pace]
  | .samplePreload =>
    [.free, .tap]
  | .rampComplete _ | .pgoodDeassert _ _ | .compensatorSample _ _ _ _ | .trkChange _ _ =>
    [.free, .reg]
  | .creditSend _ =>
    [.free, .tether]
  | .paceLoop _ _ =>
    [.free, .pace]
  | .vioRise _ _ _ =>
    [.sup, .win]
  | .resetRelease =>
    [.boot, .pins]
  | .loaderStart =>
    [.boot, .bridle]
  | .crystalLoss =>
    [.boot, .prot]
  | .ddirChange _ =>
    [.pins, .drop]
  | .evict _ _ | .scanRepairDone =>
    [.rules, .engs]
  | .pendingPinRise | .readWakeCause _ =>
    [.act, .win]
  | .hostQuery _ | .hostApply _ | .hostInvalidCommand _ _ =>
    [.bridle, .prot]
  | .symbolLock _ _ _ _ =>
    [.prot, .tether]
  | .readGroupHead _ | .readEngineStatus | .readLostMatch =>
    [.prot, .win]
  | .gaugePacket =>
    [.prot, .gauge]
  | .readLatchWord _ =>
    [.mons, .win]
  | .hourPass =>
    [.now, .hours, .reg]
  | .vselChange _ =>
    [.free, .pins, .reg]
  | .drain _ =>
    [.free, .bridle, .reg]
  | .latchPeriodClear _ =>
    [.free, .reg, .mons]
  | .dwellExpiry =>
    [.boot, .act, .outage]
  | .readW04 =>
    [.front, .prot, .win]
  | .hostStreamAbandon =>
    [.rules, .engs, .win]
  | .frameDiscarded _ _ =>
    [.engs, .tether, .win]
  | .readW0b =>
    [.bridle, .prot, .win]
  | .readPortStatus _ =>
    [.prot, .tether, .win]
  | .egressComplete =>
    [.tether, .queues, .drop]
  | .enableLow _ =>
    [.free, .pins, .reg, .prot]
  | .pgoodAssert _ _ =>
    [.free, .act, .reg, .prot]
  | .identityResense _ =>
    [.boot, .ident, .engs, .prot]
  | .streamEnd _ _ =>
    [.rules, .engs, .act, .win]
  | .rmapChange _ =>
    [.pins, .bridle, .tether, .queues, .integ]
  | .hello _ _ =>
    [.free, .engs, .act, .prot, .tether, .queues, .win]
  | .updateSetTimeout | .idleRequest _ | .pllLockTimeout _ | .ack _ _ | .goBackTimeout _ | .linkDown _ _
  | .malformedFrame _ _ | .noticeClose | .ageingExpiry _ | .ageingWake | .lostEntryReport | .lossResolution _
  | .watermarkReportEntry | .ruleMemoryReloadDone =>
    [.rules, .act, .bridle, .prot, .tether, .queues, .win, .integ]
  | .powerOn _ _ _ =>
    [.free, .sup, .boot, .ident, .hours, .nvm, .engs, .prot, .gauge]
  | .frameSend _ _ =>
    [.free, .rules, .act, .bridle, .prot, .tether, .queues, .win, .integ]
  | .recordCommit =>
    [.nvm, .rules, .act, .bridle, .prot, .tether, .queues, .win, .integ]
  | .transferTimeout =>
    [.xfer, .rules, .act, .bridle, .prot, .tether, .queues, .win, .integ]
  | .engineStep _ _ | .engineFail _ _ | .directoryData _ _ _ | .scanRead _ | .epochSwitch | .data _ _ _
  | .notice _ _ | .echoRequest _ _ | .echoReply _ _ | .ringProbe _ _ | .ringBreak _ _ =>
    [.rules, .engs, .act, .bridle, .prot, .tether, .queues, .win, .integ]
  | .hostOff _ | .hostRetention _ | .hostOn _ =>
    [.rules, .act, .bridle, .reg, .prot, .tether, .queues, .win, .integ]
  | .vbakReading _ _ =>
    [.rules, .act, .bridle, .prot, .tether, .queues, .win, .gauge, .integ]
  | .resultApply =>
    [.rules, .act, .bridle, .prot, .tether, .queues, .win, .outage, .integ]
  | .streamStart _ _ =>
    [.free, .rules, .engs, .act, .bridle, .prot, .tether, .queues, .win, .integ]
  | .railRetry _ | .channelStart _ _ _ | .balanceUpdate _ _ | .slowLimitTrip _ _ _ | .undervoltage _ _ _
  | .auxOvervoltage _ | .senseLoss _ | .vlocLost _ _ _ | .derateInterval _ _ _ _ _ =>
    [.free, .rules, .act, .bridle, .reg, .prot, .tether, .queues, .win, .integ]
  | .egressFetch _ | .dropWordTransfer _ _ _ _ _ =>
    [.free, .rules, .act, .bridle, .prot, .tether, .queues, .drop, .win, .integ]
  | .flashPartProgrammed _ =>
    [.flash, .xfer, .rules, .act, .bridle, .prot, .tether, .queues, .win, .integ]
  | .reelPart _ _ | .reelPartLast _ _ =>
    [.xfer, .rules, .engs, .act, .bridle, .prot, .tether, .queues, .win, .integ]
  | .updateLine _ _ _ _ | .updateRule _ _ _ _ | .updateAssoc _ _ _ _ | .updateFree _ _ _ _
  | .updateStart _ _ _ _ | .updateNone _ _ _ _ | .updateCommit _ _ _ _ =>
    [.front, .rules, .engs, .act, .bridle, .prot, .tether, .queues, .win, .integ]
  | .verdictReady =>
    [.rules, .engs, .act, .bridle, .prot, .tether, .queues, .drop, .win, .integ]
  | .refuse _ | .outageFlightDone =>
    [.rules, .act, .bridle, .reg, .prot, .tether, .queues, .win, .outage, .integ]
  | .profileStart _ =>
    [.free, .pins, .rules, .act, .bridle, .reg, .prot, .tether, .queues, .win, .integ]
  | .extest _ | .clamp _ | .highz =>
    [.free, .tap, .rules, .act, .bridle, .reg, .prot, .tether, .queues, .win, .integ]
  | .credit _ _ =>
    [.free, .front, .rules, .act, .bridle, .prot, .tether, .queues, .win, .integ, .pace]
  | .fastLimitTrip _ _ _ _ _ =>
    [.free, .rules, .act, .bridle, .reg, .prot, .mons, .tether, .queues, .win, .integ]
  | .mainsWord _ _ _ | .tugWord _ _ _ _ =>
    [.front, .rules, .engs, .act, .bridle, .prot, .tether, .queues, .win, .outage, .integ]
  | .eventHoldoffEnd _ =>
    [.rules, .engs, .act, .bridle, .prot, .mons, .tether, .queues, .win, .outage, .integ]
  | .outageRetentionReached =>
    [.rules, .act, .bridle, .reg, .prot, .tether, .queues, .win, .gauge, .outage, .integ]
  | .monitorAssert _ _ _ _ | .monitorDeassert _ _ _ | .monitorSettled _ _ _ =>
    [.free, .rules, .engs, .act, .bridle, .reg, .prot, .mons, .tether, .queues, .win, .outage, .integ]
  | .reversalRailsDone =>
    [.boot, .rules, .engs, .act, .bridle, .reg, .prot, .tether, .queues, .win, .gauge, .outage, .integ]
  | .live _ =>
    [.free, .rules, .engs, .act, .bridle, .reg, .prot, .tether, .queues, .drop, .win, .outage, .integ, .pace]
  | .wm04Low =>
    [.free, .nvm, .flash, .xfer, .rules, .act, .bridle, .reg, .prot, .tether, .queues, .win, .gauge, .outage,
     .integ]
  | .railAttemptFail _ _ =>
    [.free, .xfer, .front, .rules, .engs, .act, .bridle, .reg, .prot, .mons, .tether, .queues, .drop, .win,
     .integ]
  | .inputReturn =>
    [.free, .sup, .boot, .pins, .rules, .engs, .act, .bridle, .reg, .prot, .tether, .queues, .win, .gauge,
     .outage, .integ]
  | .vaonLoss =>
    [.free, .sup, .nvm, .flash, .xfer, .rules, .act, .bridle, .reg, .prot, .tether, .queues, .win, .gauge,
     .outage, .integ]
  | .pfailAssert =>
    [.free, .pins, .nvm, .flash, .xfer, .rules, .act, .bridle, .reg, .prot, .tether, .queues, .win, .gauge,
     .outage, .integ]
  | .grant _ | .drained _ | .domainFaulty _ _ =>
    [.free, .xfer, .front, .rules, .engs, .act, .bridle, .reg, .prot, .mons, .tether, .queues, .drop, .win,
     .outage, .integ]
  | .flashProbe _ _ =>
    [.free, .boot, .nvm, .flash, .reel, .xfer, .front, .rules, .act, .bridle, .reg, .prot, .tether, .queues,
     .win, .gauge, .outage, .integ]
  | .loadAbandon _ | .supplyFall _ _ =>
    [.free, .sup, .boot, .xfer, .front, .rules, .engs, .act, .bridle, .reg, .prot, .mons, .tether, .queues,
     .drop, .win, .gauge, .outage, .integ]
  | .strapDecode _ _ =>
    [.free, .boot, .straps, .nvm, .flash, .reel, .xfer, .front, .rules, .act, .bridle, .reg, .prot, .tether,
     .queues, .win, .gauge, .outage, .integ]
  | .reelLoad _ =>
    [.free, .boot, .pins, .nvm, .flash, .reel, .xfer, .front, .rules, .act, .bridle, .reg, .prot, .tether,
     .queues, .win, .gauge, .outage, .integ]
  | .slotVerified =>
    [.free, .boot, .tap, .nvm, .reel, .xfer, .front, .rules, .engs, .act, .bridle, .reg, .prot, .mons, .tether,
     .queues, .drop, .win, .gauge, .outage, .integ, .pace]
  | .resetAssert _ =>
    [.free, .boot, .pins, .tap, .nvm, .reel, .xfer, .front, .rules, .engs, .act, .bridle, .reg, .prot, .mons,
     .tether, .queues, .drop, .win, .gauge, .outage, .integ, .pace]
  | .devicePor =>
    [.sup, .boot, .ident, .straps, .tap, .hours, .nvm, .reel, .xfer, .front, .rules, .engs, .act, .bridle,
     .reg, .prot, .mons, .tether, .queues, .drop, .win, .gauge, .outage, .integ, .pace]

/-! ### Update words that are taken (files 07 and 08) -/

/-- The set that a word with this SETNO goes to, on a port: the open one, or a new one. -/
def setOf (s : State) (p : Port) (n : Half) : OpenSet := { s.rules.openSet.getD ⟨n, p, [], [], []⟩ with port := p }

/-- The rule memory as a word finds it: the refused set is forgotten with the next word of another set (R331). -/
def wordRules (s : State) : RuleMem := { s.rules with refused := none }

/-- An update word is taken: it comes from the node that may send it, on an up port and for this device, its MAC checks, its
SETNO is that of the open set or follows the last committed one, its OP and TARGET are valid, and its set stays in bounds
(R41, R273, R325 to R329). -/
def wordTaken (s : State) (p : Port) (src dst : Byte) (w : List Byte) : Bool :=
  takesWords s p src dst && s.rules.refused != some (wSetno w) &&
    (match s.rules.openSet with | some o => o.setno == wSetno w | none => setnoOk s (wSetno w)) &&
    (updatesClosed s).isNone && wMacOk s dst w && wValid (wordRules s) w &&
    (setTooBig (wordRules s) (stageWord (wordRules s) (setOf s p (wSetno w)) w).2).isNone

/-! ### The reference that a monitor follows (file 14) -/

/-- The reference that a monitor follows does not move: its channel, if it follows one, is in no ramp, slew or stop. -/
def steadyRef (s : State) (k : Nat) : Prop :=
  ∀ c, monChan k = some c → switching (chan s c) = true → (chan s c).phase = .regulating

/-! ### Results (file 09) -/

/-- The queue of results after its oldest was taken: the oldest result that an engine holds back enters it once there is
room (R336). -/
def tookResult (s t : State) (rest : List Result) : Prop :=
  (s.act.late = [] → t.act.queue = rest ∧ t.act.late = []) ∧
  (∀ e r l, s.act.late = (e, r) :: l →
    (rest.length < 64 → t.act.queue = rest ++ [r] ∧ t.act.late = l) ∧ (64 ≤ rest.length → t.act.queue = rest ∧ t.act.late = s.act.late))

/-! ### Frames and requests (files 10, 15 and 16) -/

/-- An up port accepts the frame of a hop: it is sequenced, ended with EOF and checks, bears E, and lies within its
credit and the free cells (R567, R576, R599). -/
def hopOk (s : State) (p : Port) (rx : RxFrame) : Bool :=
  let n := if typReserved rx.bytes then 0 else cellsOf rx.bytes
  portUp s p && rxGood rx && fHseq rx.bytes == (link s p).e && !linkControl (fTyp rx.bytes) && inCredit s p rx.bytes &&
    (pickCells s n).length == n

/-- No domain has a request that waits behind another. -/
def quiet (s : State) : Prop := ∀ d : Nat, (dom s d).reqs = []

end Sys2Proof.Machine
end

