-- ==== Sys2Proof/Certificates/Slice0/Obligations.lean ====
section
/-! DEFINITION. The statements for the provers, by the files of the spec. -/

open Sys2Proof Sys2Proof.Machine

/-! ### Rules over every command -/

/-- Only LIVE, and the loading of a Reel, bring a domain to on: the loader brings up its own domain, a Reel that is taken
its own. -/
def Obligations.OnlyLiveBringsDomainsOn : Prop :=
  ∀ (i : Instr) (s t : State) (d : Nat), exec i s = .next t → isOn t d = true →
    isOn s d = true ∨ i = .loaderStart ∨ (∃ v, i = .reelLoad v) ∨ ∃ d', i = .live d'

/-- Only wake words, the loading of a Reel and a device POR change a watermark of wake words. -/
def Obligations.OnlyWordsMoveWatermarks : Prop :=
  ∀ (i : Instr) (s t : State), exec i s = .next t →
    (t.front.wmMains = s.front.wmMains ∧ t.front.wmTug = s.front.wmTug) ∨ (∃ v, i = .reelLoad v) ∨ i = .devicePor ∨
      (∃ b m c, i = .mainsWord b m c ∧ t.front.wmTug = s.front.wmTug) ∨
      (∃ p b m c, i = .tugWord p b m c ∧ t.front.wmMains = s.front.wmMains)

/-! ### The block's step -/

/-- A step runs the command at the front of the queue on the state whose queue is the rest. -/
def Obligations.StepRunsFrontCommand : Prop :=
  ∀ (c : Instr) (rest : List Instr) (s : State),
    step { s with pending := c :: rest } = exec c { s with pending := rest }

/-- On an empty queue a step is one period of the RC tick (log entry 3, the model's choice): time goes on by one, and no
command, flash byte, Reel or domain changes. A WAKE pin that a WACK left low with causes to report is high again, unless
its word waits or it is held low. -/
def Obligations.EmptyQueueTicks : Prop :=
  ∀ s : State, s.pending = [] → ∃ t, step s = .next t ∧ t.now = s.now + 1 ∧ t.pending = [] ∧
    Only [.now, .free, .hours, .act, .reg, .mons] s t ∧
    (∀ k, k < 4 → (vget s.act.wake WakeWord.zero k).again = true →
      (vget t.act.wake WakeWord.zero k).again = false ∧
      (vget t.act.wake WakeWord.zero k).pin =
        (!(vget s.act.wake WakeWord.zero k).pend && (vget s.act.wake WakeWord.zero k).held == .no))

/-- The device in POR: every domain off, FAULT_N asserted and ALERT_N not, no Reel loaded, WAKE low, PACK low, reset cause
0x01, no command waiting, every channel off, both ports down, the TAP in BYPASS; the flash lists nothing (log entry 12, the
model's choice). -/
def Obligations.ResetState : Prop :=
  (∀ d, domSt State.reset d = .off) ∧ faultAsserted State.reset = true ∧ alertAsserted State.reset = false ∧
  State.reset.reel = none ∧ (∀ k, wakeHigh State.reset k = false) ∧ State.reset.bridle.pack = false ∧
  State.reset.boot.rcause = 1 ∧ State.reset.boot.step = .por ∧ State.reset.pending = [] ∧ State.reset.flash = [] ∧
  (∀ c, (chan State.reset c).phase = .off) ∧ (∀ p, (link State.reset p).st = .down) ∧
  State.reset.tap.ir = 0xF

/-- The invariant of StepKeepsFlashCanonical holds at reset, where every flash byte reads erased (log entry 12, the model's
choice). -/
def Obligations.FlashCanonicalAtReset : Prop :=
  Memory.wf State.reset.flash = true ∧ ∀ a, Memory.get State.reset.flash a = 0xFF

/-- Every step keeps the flash in its canonical form: addresses rise, and no entry reads as an erased byte. -/
def Obligations.StepKeepsFlashCanonical : Prop :=
  ∀ s t : State, step s = .next t → Memory.wf s.flash = true → Memory.wf t.flash = true

/-- A command changes the parts of the state that the matrix lists for it and no other; no command changes the queue of
commands. -/
def Obligations.FrameOfEveryCommand : Prop :=
  ∀ (i : Instr) (s t : State), exec i s = .next t → Only (partsOf i) s t

/-- Every command answers a next state in every state, but for POWER_ON and IDENTITY_RESENSE, which refuse an identity
that checks and that the manual does not describe (log entry 42). -/
def Obligations.WhichCommandsStop : Prop :=
  ∀ (i : Instr) (s : State), (∃ t, exec i s = .next t) ∨
    (exec i s = .refused .notBound ∧ ∃ id, identOk id = true ∧ bound id = false ∧
      ((∃ up k, i = .powerOn up k id) ∨ i = .identityResense id))

/-! ### Power, reset and boot (files 03 and 04) -/

/-- POWER_ON: Sequence BOO-1 from step 1 to step 5, and the repeats of IDENTITY_RESENSE. Without a supply of the AON island
only the supplies change, and so it is, but for what hangs on the supplies, in a device that has left POR (log entry 40). -/
def Obligations.PowerOnSensesIdentity : Prop :=
  (∀ (up : Supplies) (id : BitVec 64) (s : State), (up.vaon || up.vbak) = true →
    s.boot.step = .por ∨ s.boot.step = .tickWait → identOk id = true → bound id = true →
    ∃ t, exec (.powerOn up true id) s = .next t ∧ t.ident = id ∧ t.sup = supplyOr s.sup up ∧ t.boot.xtal = .trying ∧
      t.boot.step = (if s.boot.inReset then .held else .sampling) ∧ t.gauge.onVbak = !(s.sup.vaon || up.vaon) ∧
      Only [.free, .sup, .boot, .ident, .hours, .nvm, .engs, .prot, .gauge] s t) ∧
  (∀ (up : Supplies) (id : BitVec 64) (s : State), (up.vaon || up.vbak) = true →
    s.boot.step = .por ∨ s.boot.step = .tickWait → identOk id = false →
    ∃ t, exec (.powerOn up true id) s = .next t ∧ t.boot.step = .idRetry ∧ t.boot.idTries = 0) ∧
  (∀ (up : Supplies) (id : BitVec 64) (s : State), (up.vaon || up.vbak) = true →
    s.boot.step = .por ∨ s.boot.step = .tickWait →
    ∃ t, exec (.powerOn up false id) s = .next t ∧ t.boot.step = .tickWait ∧ Only [.sup, .boot, .gauge] s t) ∧
  (∀ (up : Supplies) (k : Bool) (id : BitVec 64) (s : State),
    ((supplyOr s.sup up).vaon || (supplyOr s.sup up).vbak) = false →
    exec (.powerOn up k id) s = .next { s with sup := supplyOr s.sup up }) ∧
  (∀ (up : Supplies) (k : Bool) (id : BitVec 64) (s : State),
    ((supplyOr s.sup up).vaon || (supplyOr s.sup up).vbak) = true → s.boot.step ≠ .por → s.boot.step ≠ .tickWait →
    ∃ t, exec (.powerOn up k id) s = .next t ∧ t.sup = supplyOr s.sup up ∧ Only [.sup, .prot, .gauge] s t)

/-- IDENTITY_RESENSE: a sensing that checks goes on to step 5; one that fails is repeated, and after the third repeat
FAULT_N stays asserted and the straps are sampled. (That RST_N senses again is log entry 53.) -/
def Obligations.IdentityIsSensedAgain : Prop :=
  (∀ (id : BitVec 64) (s : State), s.boot.step = .idRetry → identOk id = true → bound id = true →
    ∃ t, exec (.identityResense id) s = .next t ∧ t.ident = id ∧ t.boot.idFailed = (s.boot.idFailed && s.boot.inReset) ∧
      t.boot.step = (if s.boot.inReset then .held else .sampling)) ∧
  (∀ (id : BitVec 64) (s : State), s.boot.step = .idRetry → identOk id = false → s.boot.idTries < 2 →
    exec (.identityResense id) s = .next { s with ident := id, boot.idTries := s.boot.idTries + 1 }) ∧
  (∀ (id : BitVec 64) (s : State), s.boot.step = .idRetry → identOk id = false → 2 ≤ s.boot.idTries →
    ∃ t, exec (.identityResense id) s = .next t ∧ t.boot.idFailed = true ∧ faultAsserted t = true ∧
      t.boot.step = (if s.boot.inReset then .held else .sampling) ∧ Only [.boot, .ident, .prot] s t)

/-- The tick and the crystal: a tick that does not start holds FAULT_N, a crystal that does not qualify in time sets the
fallback flag with no alarm, and one that is lost sets the flag and ALERT_N. -/
def Obligations.TickAndCrystal : Prop :=
  (∀ s : State, s.boot.step = .tickWait →
    ∃ t, exec .tickStartFail s = .next t ∧ faultAsserted t = true ∧ Only [.prot] s t) ∧
  (∀ s : State, s.boot.xtal = .trying → exec .crystalQualify s = .next { s with boot.xtal := .qualified }) ∧
  (∀ s : State, s.boot.xtal = .trying →
    exec .crystalTimeout s = .next { s with boot.xtal := .timedOut, boot.xtalfb := true }) ∧
  (∀ s : State, s.boot.xtal = .qualified →
    ∃ t, exec .crystalLoss s = .next t ∧ t.boot.xtal = .lost ∧ t.boot.xtalfb = true ∧ alertAsserted t = true ∧
      Only [.boot, .prot] s t)

/-- DEVICE_POR: the device is as it is in POR; NVM records, the flash and what lies outside the device stay.
(That the balls stay is log entry 56.) -/
def Obligations.DevicePorKeepsNvmAndFlash : Prop :=
  ∀ s : State, ∃ t, exec .devicePor s = .next t ∧ t.boot.step = .por ∧ (∀ d, domSt t d = .off) ∧ faultAsserted t = true ∧
    t.reel = none ∧ t.flash = s.flash ∧ t.nvm = { s.nvm with bad := false } ∧ t.pins = s.pins ∧ t.pending = s.pending ∧
    t.queues = State.reset.queues ∧ t.front = State.reset.front ∧ (∀ k, wakeHigh t k = false)

/-- RESET_ASSERT of at least 10 us: the device is held at step 5; the Reel is dropped and every domain is off unless a
channel runs on under warm hold; the watermarks of wake words and the entries that wait for a report stay. Before step 5
only RST_N is low. A pulse under 1 us is ignored, and one of 1 us to 10 us resets or is ignored (which, is a free value: log
entry 5). RESET_RELEASE starts step 5. -/
def Obligations.ResetAssertAndRelease : Prop :=
  (∀ (ns : Nat) (s : State), 10000 ≤ ns → s.boot.step ≠ .por → s.boot.step ≠ .tickWait → s.boot.step ≠ .idRetry →
    ∃ t, exec (.resetAssert ns) s = .next t ∧ t.boot.step = .held ∧ t.boot.inReset = true ∧ t.pins.rstN = false ∧
      faultAsserted t = true ∧ t.front.wmMains = s.front.wmMains ∧ t.front.wmTug = s.front.wmTug ∧
      t.queues.lostEntries = s.queues.lostEntries ∧ t.queues.kept = s.queues.kept ∧ (∀ p, (link t p).st = .down) ∧
      (∀ d, d ≠ 17 → d ≠ 18 → domSt t d = .off) ∧ t.boot.safe = false ∧ t.reel = none ∧
      (keepsRunning s .main = false → keepsRunning s .aux = false →
        domSt t 17 = .off ∧ domSt t 18 = .off ∧ t.boot.rcause = 2) ∧
      (keepsRunning s .main = true → domSt t 17 = .on ∧ (chan t .main).warm = true ∧ t.boot.rcause = 3)) ∧
  (∀ (ns : Nat) (s : State), 10000 ≤ ns → s.boot.step = .por ∨ s.boot.step = .tickWait ∨ s.boot.step = .idRetry →
    exec (.resetAssert ns) s = .next { s with pins.rstN := false, boot.inReset := true }) ∧
  (∀ (ns : Nat) (s : State), 1000 ≤ ns → ns < 10000 →
    ∃ t, exec (.resetAssert ns) s = .next t ∧ (Only [.free] s t ∨ t.boot.inReset = true)) ∧
  (∀ (ns : Nat) (s : State), ns < 1000 → exec (.resetAssert ns) s = .next s) ∧
  (∀ s : State, s.boot.inReset = true → s.boot.step = .held → identOk s.ident = true →
    ∃ t, exec .resetRelease s = .next t ∧ t.boot.step = .sampling ∧ t.boot.inReset = false ∧ t.pins.rstN = true ∧
      Only [.boot, .pins] s t) ∧
  (∀ s : State, s.boot.inReset = false → exec .resetRelease s = .next s)

/-- STRAP_DECODE: at the end of the window the straps hold the decided values, the boot cause leaves FAULT_N, and step 6
is reached; T_SAFE high or an unusable address leads to safe mode at once (log entry 51); with an identity that failed the
boot goes no further than the decision. -/
def Obligations.StrapsAreDecided : Prop :=
  ∀ (rv : Vector (Vector Nat 3) 12) (tr : Vector (Vector PullReading 3) 7) (s : State), s.boot.step = .sampling →
    ∃ t, exec (.strapDecode rv tr) s = .next t ∧
      t.straps.rv = (decideStraps (variant s) rv tr).rv ∧ t.straps.tri = (decideStraps (variant s) rv tr).tri ∧
      (s.boot.idFailed = true → t.boot.step = .decided ∧ t.boot.safe = s.boot.safe) ∧
      (s.boot.idFailed = false → tri t 6 = .high ∨ stallAddr t = none → t.boot.safe = true ∧ faultAsserted t = true) ∧
      (s.boot.idFailed = false → tri t 6 ≠ .high → stallAddr t ≠ none →
        t.boot.step = .decided ∧ Alarm.boot ∉ t.prot.faults)

/-- The loader: step 7 turns PD15 on; a usable flash is identified, with the agreement that RV_REEL and the part give; ten
probes without one lead to safe mode; the fall of VCIN or of VAON discards the load and goes back to before step 7. In safe
mode the loader and the probe only tell whether a usable flash is there for parts (log entry 52, the model's reading). -/
def Obligations.LoaderAndFlashProbe : Prop :=
  (∀ s : State, s.boot.step = .decided → s.boot.idFailed = false → s.sup.vcin = true → s.sup.vaon = true →
    ∃ t, exec .loaderStart s = .next t ∧ t.boot.step = .loader ∧ isOn t 15 = true ∧ Only [.boot, .bridle] s t) ∧
  (∀ (j : BitVec 24) (f : FlashPart) (s : State), s.boot.step = .loader → isOn s 15 = true → s.boot.probes < 10 →
    flashUsable j = true → exec (.flashProbe j f) s = .next { s with
      boot.step := .identified, boot.flashMode := flashAgrees s f, boot.flashOk := true }) ∧
  (∀ (j : BitVec 24) (f : FlashPart) (s : State), s.boot.step = .loader → isOn s 15 = true → s.boot.probes < 9 →
    flashUsable j = false → exec (.flashProbe j f) s = .next { s with boot.probes := s.boot.probes + 1 }) ∧
  (∀ (j : BitVec 24) (f : FlashPart) (s : State), s.boot.step = .loader → isOn s 15 = true → s.boot.probes = 9 →
    flashUsable j = false → ∃ t, exec (.flashProbe j f) s = .next t ∧ t.boot.safe = true ∧ faultAsserted t = true) ∧
  (∀ s : State, s.boot.step = .loader ∨ s.boot.step = .identified → s.sup.vbak = true →
    ∃ t, exec (.loadAbandon .vaon) s = .next t ∧ t.boot.step = .decided ∧ isOn t 15 = false ∧ t.sup.vaon = false ∧
      t.straps = s.straps ∧ t.reel = s.reel) ∧
  (∀ s : State, s.boot.step = .loader ∨ s.boot.step = .identified →
    ∃ t, exec (.loadAbandon .vcin) s = .next t ∧ t.boot.step = .decided ∧ isOn t 15 = false ∧ t.sup.vcin = false ∧
      t.straps = s.straps) ∧
  (∀ s : State, s.sup.vcin = false ∨ s.sup.vaon = false → exec .loaderStart s = .next s) ∧
  (∀ s : State, s.boot.step ≠ .decided → s.boot.safe = true → isOn s 15 = false → s.boot.probes < 10 →
    s.outage.step = 0 → s.sup.vcin = true → s.sup.vaon = true →
    exec .loaderStart s = .next (loaderOn s true) ∧ (isOn (loaderOn s true) 15 = true) ∧
      Only [.bridle] s (loaderOn s true)) ∧
  (∀ (j : BitVec 24) (f : FlashPart) (s : State), s.boot.step ≠ .loader → s.boot.safe = true → s.xfer = none →
    isOn s 15 = true → s.boot.probes < 10 →
    exec (.flashProbe j f) s = .next (if flashUsable j
      then { s with boot.flashMode := flashAgrees s f, boot.flashOk := true }
      else { s with boot.probes := s.boot.probes + 1, boot.flashOk := false }))

/-- REEL_LOAD: the first candidate slot that verifies is loaded and the device reaches step 12, or, with PFAIL_N low,
step 11; where no NVM copy checks, no slot verifies or the key of the chosen one cannot be recovered, the device is in safe
mode with no Reel. -/
def Obligations.ReelLoadChoosesVerifiedSlot : Prop :=
  ∀ (v : Fin 8) (s : State), s.boot.step = .identified → isOn s 15 = true →
    ∃ t, exec (.reelLoad v) s = .next t ∧
      match nvmCopy s with
      | none => t.boot.safe = true ∧ t.reel = none ∧ t.nvm.bad = true ∧ faultAsserted t = true
      | some n =>
        match chooseSlot (writeNvm s n.minVer n.keyHash) n with
        | none => t.boot.safe = true ∧ t.reel = none ∧ faultAsserted t = true
        | some (slot, h) =>
          match recoverKey (writeNvm s n.minVer n.keyHash) slot h with
          | none => t.boot.safe = true ∧ t.reel = none ∧ faultAsserted t = true
          | some key =>
            t.reel = some (parseReel (writeNvm s n.minVer n.keyHash) slot h key.1) ∧ t.boot.warm = false ∧
            t.boot.step = (if s.pins.pfailN then .running else .ready) ∧
            n.minVer.toNat ≤ t.nvm.copy0.minVer.toNat

/-- SUPPLY_FALL of a supply other than VAON: the supply is low, every domain that it feeds and that was on is on no longer,
and a supply other than VBAK leaves a record of the fall where one can be kept; the fall of VIO takes the WAKE balls and PACK
low. VIO_RISE changes that supply and, where the device acts on its balls, the strobes it then sees, with the addressed word
on QD5:0 under both strobes. The fall of VAON is VAON_LOSS or DEVICE_POR. -/
def Obligations.SupplyFallForcesDomainsOff : Prop :=
  (∀ (x : Supply) (snap : Snap) (s : State), x ≠ .vaon → (x = .vbak → s.sup.vaon = true) → s.boot.step ≠ .por →
    supplyUp s x = true →
    ∃ t, exec (.supplyFall x snap) s = .next t ∧ t.sup = dropSupply s.sup x ∧
      (∀ d, d < 20 → feeds x d = true → present s d = true → isOn s d = true → isOn t d = false) ∧
      (x ≠ .vbak → s.prot.latch.length < 4 → ∃ r ∈ t.prot.latch, r.code = 0x0D)) ∧
  (∀ (snap : Snap) (s : State), s.boot.step ≠ .por → s.sup.vio = true →
    ∃ t, exec (.supplyFall .vio snap) s = .next t ∧ (∀ k, wakeHigh t k = false) ∧ t.bridle.pack = false ∧
      t.drop.egress = none) ∧
  (∀ (q : BitVec 6) (csN oeN : Bool) (s : State), pinsLive { s with sup.vio := true } = true →
    exec (.vioRise q csN oeN) s = .next { s with
      sup.vio := true
      win.qcsN := csN
      win.qoeN := oeN
      win.qd := if csN || oeN then s.win.qd else statusWord { s with sup.vio := true } q }) ∧
  (∀ (q : BitVec 6) (csN oeN : Bool) (s : State), pinsLive { s with sup.vio := true } = false →
    exec (.vioRise q csN oeN) s = .next { s with sup.vio := true }) ∧
  (∀ (snap : Snap) (s : State), exec (.supplyFall .vaon snap) s = .next s)

/-- The TAP: EXTEST, CLAMP and HIGHZ stop both channels and take both ports down; SAMPLE/PRELOAD and BYPASS leave all but
the TAP as it is (the boundary captured by SAMPLE/PRELOAD is a free value, log entry 5). -/
def Obligations.BoundaryScan : Prop :=
  (∀ (b : BitVec 128) (s : State), s.sup.vio = true → s.boot.step ≠ .por →
    (∃ t, exec (.extest b) s = .next t ∧ t.tap = ⟨0x0, true, b⟩ ∧ (∀ p, (link t p).st = .down) ∧
      (∀ c, switching (chan t c) = false)) ∧
    (∃ t, exec (.clamp b) s = .next t ∧ t.tap = ⟨0x2, true, b⟩ ∧ (∀ p, (link t p).st = .down) ∧
      (∀ c, switching (chan t c) = false))) ∧
  (∀ s : State, s.sup.vio = true → s.boot.step ≠ .por →
    (∃ t, exec .highz s = .next t ∧ t.tap = { s.tap with ir := 0x3, forced := true } ∧ (∀ p, (link t p).st = .down) ∧
      (∀ c, switching (chan t c) = false)) ∧
    (∃ t, exec .samplePreload s = .next t ∧ t.tap.ir = 0x1 ∧ t.tap.forced = s.tap.forced ∧ Only [.free, .tap] s t) ∧
    exec .bypass s = .next { s with tap.ir := 0xF })

/-! ### Wake words (file 06) -/

/-- MAINS_WORD outside safe mode, of a candidate whose preamble was locked: a word whose CRC fails, whose MAC fails or that
is stale moves no watermark; a fresh one moves the watermark of its group in the mains set to its sequence number, and no
other watermark. A word without a candidate, or with the front end not listening, is lost. -/
def Obligations.MainsWordMovesItsWatermark : Prop :=
  ∀ (body : Word32) (mac : Half) (crc : Byte) (s : State),
    (listens s .mains = true → locked s .mains = true → s.boot.safe = false →
      ∃ t, exec (.mainsWord body mac crc) s = .next t ∧ t.front.wmTug = s.front.wmTug ∧
        Only [.front, .rules, .engs, .act, .bridle, .prot, .tether, .queues, .win, .outage, .integ] s t ∧
        (if wordCrc body mac = crc ∧ wordMac (kwakeOf s) false body = mac ∧
            freshSeq (vget s.front.wmMains none (bGroup body).toNat) (bSeq false body) = true
          then t.front.wmMains = vset s.front.wmMains (bGroup body).toNat (some (bSeq false body))
          else t.front.wmMains = s.front.wmMains) ∧
        (wordCrc body mac ≠ crc → t = setLocked s .mains false)) ∧
    (listens s .mains = false ∨ locked s .mains = false → exec (.mainsWord body mac crc) s = .next s)

/-- MAINS_WORD in safe mode: words are checked under the factory key, move the safe-mode watermarks only, and one that is
addressed to the device raises WAKE0 with cause 0x85.
(That every fresh word moves its watermark there is log entry 70.) -/
def Obligations.SafeModeMainsWord : Prop :=
  ∀ (body : Word32) (mac : Half) (crc : Byte) (s : State), isOn s 0 = true → s.boot.safe = true → locked s .mains = true →
    ∃ t, exec (.mainsWord body mac crc) s = .next t ∧ t.front.wmMains = s.front.wmMains ∧ t.front.wmTug = s.front.wmTug ∧
      (wordCrc body mac = crc → wordMac 0 false body = mac →
        freshSeq (vget s.front.wmSafe none (bGroup body).toNat) (bSeq false body) = true →
        t.front.wmSafe = vset s.front.wmSafe (bGroup body).toNat (some (bSeq false body)) ∧
        (bAddr body = 0xFF ∨ stallAddr s = some (bAddr body).toNat → (vget t.act.wake WakeWord.zero 0).cause = 0x85 ∧
          (vget t.act.wake WakeWord.zero 0).src = 7 ∧
          ((vget s.act.wake WakeWord.zero 0).pend = false → (vget t.act.wake WakeWord.zero 0).pin = true)))

/-- TUG_WORD of a candidate whose preamble was locked: as on the mains, with the tug set of watermarks; a word that fails CRC
or MAC, is stale or has HOP 0 is never relayed, and a fresh one with HOP of 1 or more waits for the other port when its place
is free. A word without a candidate, or with the front end not listening, is lost. A mains word is never relayed. -/
def Obligations.TugWordIsDecidedAndRelayed : Prop :=
  (∀ (p : Port) (body : Word32) (mac : Half) (crc : Byte) (s : State),
    (listens s (feOf p) = true → locked s (feOf p) = true →
      ∃ t, exec (.tugWord p body mac crc) s = .next t ∧ t.front.wmMains = s.front.wmMains ∧
        (if wordCrc body mac = crc ∧ wordMac (kwakeOf s) true body = mac ∧
            freshSeq (vget s.front.wmTug none (bGroup body).toNat) (bSeq true body) = true
          then t.front.wmTug = vset s.front.wmTug (bGroup body).toNat (some (bSeq true body)) ∧
            (bHop body = 0 → t.front.relayU = s.front.relayU ∧ t.front.relayD = s.front.relayD) ∧
            (bHop body ≠ 0 → p = .u → s.front.relayD = none → tri s 1 = .high → isOn s 2 = true → portUp s .d = false →
              t.front.relayD = some (body, mac)) ∧
            (bHop body ≠ 0 → p = .d → s.front.relayU = none → tri s 0 = .high → isOn s 1 = true → portUp s .u = false →
              t.front.relayU = some (body, mac))
          else t.front.wmTug = s.front.wmTug ∧ t.front.relayU = s.front.relayU ∧ t.front.relayD = s.front.relayD)) ∧
    (listens s (feOf p) = false ∨ locked s (feOf p) = false → exec (.tugWord p body mac crc) s = .next s)) ∧
  (∀ (body : Word32) (mac : Half) (crc : Byte) (s : State),
    ∃ t, exec (.mainsWord body mac crc) s = .next t ∧ t.front.relayU = s.front.relayU ∧ t.front.relayD = s.front.relayD)

/-- TUG_RELAY sends the waiting word with HOP reduced by 1, its MAC unchanged and its CRC recomputed, once. PREAMBLE_LOCK
and SYNC_BYTE_MISMATCH take and drop a candidate, and change nothing else.
(That the waiting place is then free is log entry 72.) -/
def Obligations.RelayAndCandidates : Prop :=
  (∀ (body : Word32) (mac : Half) (s : State),
    (s.front.relayU = some (body, mac) → isOn s 1 = true → portUp s .u = false →
      exec (.tugRelay .u) s = .next { s with
        front.relayU := none
        front.lastRelay := some (.u, relayBody body, mac, wordCrc (relayBody body) mac) }) ∧
    (s.front.relayD = some (body, mac) → isOn s 2 = true → portUp s .d = false →
      exec (.tugRelay .d) s = .next { s with
        front.relayD := none
        front.lastRelay := some (.d, relayBody body, mac, wordCrc (relayBody body) mac) }) ∧
    (1 ≤ (bHop body).toNat → (bHop (relayBody body)).toNat = (bHop body).toNat - 1 ∧
      bAddr (relayBody body) = bAddr body ∧ bGroup (relayBody body) = bGroup body ∧
      bClass (relayBody body) = bClass body ∧ bSeq true (relayBody body) = bSeq true body)) ∧
  (∀ (fe : FrontEnd) (s : State),
    (listens s fe = true → ∃ t, exec (.preambleLock fe) s = .next t ∧ vget t.front.locked false (feNum fe) = true ∧
      t = { s with front.locked := t.front.locked }) ∧
    (∃ t, exec (.syncByteMismatch fe) s = .next t ∧ vget t.front.locked true (feNum fe) = false ∧
      t = { s with front.locked := t.front.locked }))

/-! ### Engines, streams, caches and the scan (file 07) -/

/-- STREAM_START: on an idle engine that is ready and sends no HOLD, the frame of a port that is up or about to come up, the
waiting host frame or the oldest waiting word or event starts with every byte to be taken and 16 of them in its copy FIFO, in
the start state of its automaton, under the current epoch. -/
def Obligations.StreamStartsOnItsEngine : Prop :=
  ∀ (e : Fin 4) (s : State), isRunning s = true → matching s = true → engineReady s e = true →
    s.rules.reloading = false → (eng s e).run = none → holding s (3 + e) = false →
    (∀ (p : Port) (b : List Byte), engineFor s.engs.assign (.frame p) = some e → portUp s p = true ∨ (link s p).step = 6 →
      hcrcOk b = true → presented b = true → kindBusy s (.frame p) = false →
      ∃ t x, exec (.streamStart (match p with | .u => .portU | .d => .portD) b) s = .next t ∧ (eng t e).run = some x ∧
        x.kind = .frame p ∧ x.fifo ++ x.bytes = b.take (16 + fLen b) ∧ x.fifo.length = min 16 (b.take (16 + fLen b)).length ∧
        x.taken = 0 ∧ x.epoch = s.rules.cur.epoch ∧
        x.st = startLine s.rules (.frame p) ∧ x.key = frameKey s (.frame p) b ∧ x.collected = [] ∧ Only [.engs] s t) ∧
    (∀ (b : List Byte) (rest : List (List Byte × Byte)) (c : List Byte), engineFor s.engs.assign .host = some e →
      s.drop.waiting = (b, 0) :: rest → s.engs.decHost = none → kindBusy s .host = false →
      ∃ t x, exec (.streamStart .host c) s = .next t ∧ (eng t e).run = some x ∧ x.kind = .host ∧
        x.fifo ++ x.bytes = b.take (16 + fLen b) ∧ x.st = startLine s.rules .host ∧ x.epoch = s.rules.cur.epoch ∧
        Only [.engs] s t) ∧
    (∀ (i : SlowItem) (rest : List SlowItem) (c : List Byte), s.engs.assign.slow = some e → s.engs.slowQ = i :: rest →
      kindBusy s .event = false → slowFits (eng s e) = true →
      ∃ t x, exec (.streamStart .slow c) s = .next t ∧ (eng t e).run = some x ∧
        x.fifo ++ x.bytes = (slowStream s i).2.1 ∧ x.key = (slowStream s i).2.2 ∧ x.epoch = s.rules.cur.epoch ∧
        t.engs.slowQ = rest ∧ Only [.engs] s t)

/-- ENGINE_STEP: one byte is taken from the copy FIFO and the state follows the automaton, DEAD staying DEAD (that as many
bytes reach the FIFO as leave it is log entry 158, the model's choice); while the engine waits with a result no byte is taken
and bytes gather. A copy FIFO that fills with 32 bytes, or a fill that fails parity, stops the matching of the stream, with
its alert. -/
def Obligations.EngineStepTakesOneByte : Prop :=
  ∀ (e : Fin 4) (x : Stream) (s : State), engineReady s e = true → (eng s e).run = some x → x.stopped = false →
    (∀ (b : Byte) (rest : List Byte), x.fifo = b :: rest → s.rules.lost = [] → resultWaits s e = false →
      ∃ t y, exec (.engineStep e .byte) s = .next t ∧ (eng t e).run = some y ∧ y.fifo ++ y.bytes = rest ++ x.bytes ∧
        y.bytes = x.bytes.drop 1 ∧ y.taken = x.taken + 1 ∧ y.stopped = false ∧ y.epoch = x.epoch ∧
        y.st = (match x.st with | none => none | some st => (nextState s.rules (tablesAt s.rules x.epoch) st b).1)) ∧
    (resultWaits s e = true → mayFill x = false →
      ∃ t y, exec (.engineStep e .byte) s = .next t ∧ (eng t e).run = some y ∧ y.fifo ++ y.bytes = x.fifo ++ x.bytes ∧
        y.taken = x.taken ∧ y.st = x.st ∧ y.stopped = false ∧ Only [.engs] s t) ∧
    (mayFill x = true →
      ∃ t y, exec (.engineStep e .fifoFull) s = .next t ∧ (eng t e).run = some y ∧ y.stopped = true ∧ y.collected = [] ∧
        y.fifo ++ y.bytes = x.fifo ++ x.bytes ∧ (x.fifo.length ≤ 32 → y.fifo.length = 32) ∧ alertAsserted t = true ∧
        t.win.w2d = BitVec.ofNat 16 (kindPort x.kind * 16384 + 2 * 4096 + x.taken % 4096)) ∧
    (mayFill x = false → exec (.engineStep e .fifoFull) s = .next s) ∧
    (∀ l, x.st = some l →
      ∃ t y, exec (.engineStep e .fillParity) s = .next t ∧ (eng t e).run = some y ∧ y.stopped = true ∧ y.collected = [] ∧
        alertAsserted t = true ∧ t.win.epar = min 0xFFFF (s.win.epar + 1))

/-- STREAM_END: the end decision of a frame whose bytes have all been taken and whose CRC-32 checks passes the winner's
result to the action sequencer, or holds it back while 64 wait, and leaves its disposition; a frame that fails it, or a
stream that collected nothing, passes no result. An engine that paused nothing is free. A stream with bytes left has not
ended. HOST_STREAM_ABANDON ends a host stream that shares its engine, which is then forwarded as with no rule. -/
def Obligations.StreamEndDecides : Prop :=
  ∀ (e : Fin 4) (x : Stream) (s : State), (eng s e).run = some x →
    (x.fifo = [] → x.bytes = [] →
      ∃ t, exec (.streamEnd e true) s = .next t ∧ ((eng s e).paused = [] → (eng t e).run = none) ∧
      Only [.rules, .engs, .act, .win] s t ∧
      (∀ p w, x.kind = .frame p → x.stopped = false → x.late = false →
        bestRule s.rules (tablesAt s.rules x.epoch) x.collected = some w →
        lineLost s.rules (tablesAt s.rules x.epoch) (assocEntryLine s.rules w) = false →
        (∃ nm r, r = .rule w (assocOf s.rules (tablesAt s.rules x.epoch) w) x.kind true nm ∧
          (if s.act.queue.length < 64 && s.act.late.isEmpty
            then t.act.queue = s.act.queue ++ [r] ∧ t.act.late = s.act.late
            else t.act.queue = s.act.queue ∧ t.act.late = s.act.late ++ [(e, r)])) ∧
        ∃ d, (match p with | .u => t.engs.decU | .d => t.engs.decD) = some d ∧
          d.disp = (assocOf s.rules (tablesAt s.rules x.epoch) w).disp) ∧
      (x.collected = [] → t.act = s.act)) ∧
    (isLine x.kind = true → ∃ t, exec (.streamEnd e false) s = .next t ∧ t.act = s.act ∧
      t.engs.decU = s.engs.decU ∧ t.engs.decD = s.engs.decD) ∧
    (x.fifo ≠ [] ∨ x.bytes ≠ [] → x.stopped = false → x.late = false → exec (.streamEnd e true) s = .next s) ∧
    (x.kind = .host → s.engs.assign.host = some e → s.engs.assign.slow = some e →
      ∃ t, exec .hostStreamAbandon s = .next t ∧ t.engs.decHost = some ⟨.dflt, none⟩ ∧ t.act = s.act ∧
        (∀ y ∈ (eng t e).paused, y.kind ≠ .host))

/-- ENGINE_FAIL: the engine is failed and its domain off, ALERT_N is asserted, and no stream stays assigned to it;
ENGINE_SELF_CHECK that passes ends a due check and changes nothing else. -/
def Obligations.EngineFailureReassigns : Prop :=
  (∀ (e : Fin 4) (c : EngineFailCause) (s : State), working s e = true → isOn s (3 + e) = true →
    ∃ t, exec (.engineFail e c) s = .next t ∧ (eng t e).failed = true ∧ (eng t e).run = none ∧ (eng t e).cache = [] ∧
      isOn t (3 + e) = false ∧ alertAsserted t = true ∧ t.engs.failures = s.engs.failures + 1 ∧
      (∀ k, engineFor t.engs.assign k ≠ some e) ∧ t.reg = s.reg ∧ t.pins = s.pins) ∧
  (∀ (e : Fin 4) (s : State), working s e = true → isOn s (3 + e) = true →
    ∃ t, exec (.engineSelfCheck e true) s = .next t ∧ (eng t e).checkDue = false ∧
      (∀ k : Fin 4, k ≠ e → eng t k = eng s k) ∧ Only [.engs] s t)

/-- FILL, DIRECTORY_DATA, EVICT, SNOOP, SACK and NHELD: what the directory counts, in which order it answers for a line, and
what a cache holds. -/
def Obligations.DirectoryAndCaches : Prop :=
  ∀ (e : Fin 4) (line : BitVec 15) (s : State),
    (engineReady s e = true → line ≠ 0x7FFF → ∃ t, exec (.fill e line) s = .next t ∧
      Trans.fill e line.toNat (streamEpoch s e) ∈ t.engs.trans ∧ (e, line.toNat) ∈ t.engs.holders ∧ Only [.engs] s t) ∧
    (∀ ep, engineReady s e = true → fillOf s e line.toNat = some ep →
      behind s.engs.trans (.fill e line.toNat ep) line.toNat = false →
      ((eng s e).cache.length < 256 → ∃ t, exec (.directoryData e line true) s = .next t ∧
        (∃ c ∈ (eng t e).cache, c.line = line.toNat ∧ c.st ≠ .invalid ∧
          c.data = memLine (lineAt s.rules (tablesAt s.rules ep) line.toNat)) ∧
        t.engs.trans = s.engs.trans.erase (.fill e line.toNat ep) ∧ Only [.engs] s t) ∧
      (∃ t, exec (.directoryData e line false) s = .next t ∧ t.win.epar = min 0xFFFF (s.win.epar + 1))) ∧
    (∀ ep k, fillOf s e line.toNat = some ep → behind s.engs.trans (.fill e line.toNat ep) line.toNat = true →
      exec (.directoryData e line k) s = .next s) ∧
    (∃ t, exec (.evict e line) s = .next t ∧ (∀ c ∈ (eng t e).cache, c.line ≠ line.toNat) ∧
      (e, line.toNat) ∉ t.engs.holders ∧ (∀ c ∈ t.rules.commits, (e, line.toNat) ∉ c.snoops) ∧ Only [.rules, .engs] s t) ∧
    ((∃ c ∈ s.rules.commits, (e, line.toNat) ∈ c.snoops ∧
        behind s.engs.trans (.commit c.setno c.changed) line.toNat = false) →
      ∃ t, exec (.snoop e line) s = .next t ∧
        (∀ c ∈ (eng t e).cache, c.line = line.toNat → c.st ≠ .current) ∧ Only [.engs] s t) ∧
    (∃ t, exec (.sack e line) s = .next t ∧ (∀ c ∈ t.rules.commits, (e, line.toNat) ∉ c.snoops) ∧ Only [.rules] s t) ∧
    exec (.nheld e line) s = .next s

/-- SCAN_READ reads the places in turn and counts a parity error in W27; SCAN_REPAIR_DONE clears the place that was
read again from flash, in the directory's order. -/
def Obligations.ScanReadsEveryPlace : Prop :=
  ∀ s : State, isOn s 7 = true → isReady s = true →
    exec (.scanRead true) s = .next { s with rules.scan := (s.rules.scan + 1) % 32768 } ∧
    (∃ t, exec (.scanRead false) s = .next t ∧ t.rules.scan = (s.rules.scan + 1) % 32768 ∧
      t.win.epar = min 0xFFFF (s.win.epar + 1) ∧ t.flash = s.flash) ∧
    (∀ p, s.rules.repair = some p → isOn s 15 = true → behind s.engs.trans (.repair p) p = false →
      ∃ t, exec .scanRepairDone s = .next t ∧ p ∉ t.rules.badPlaces ∧ Trans.repair p ∉ t.engs.trans ∧
        (∀ q ∈ s.rules.badPlaces, q ≠ p → q ∈ t.rules.badPlaces) ∧
        (∀ b, loadedAt s.rules p = true → flashLine s p = some b → assoc t.rules.places p = some (memLine b)) ∧
        (loadedAt s.rules p = false → t.rules.places = s.rules.places) ∧ Only [.rules, .engs] s t)

/-! ### Table updates (files 07 and 08) -/

/-- UPDATE_LINE, UPDATE_RULE, UPDATE_ASSOC, UPDATE_FREE, UPDATE_START and UPDATE_NONE with COMMIT clear: a word that is
taken goes to the open set as its OP says: a line into a free place of its own, and nothing but the open set and that place
changes. -/
def Obligations.UpdateWordsAreStaged : Prop :=
  ∀ (p : Port) (src dst : Byte) (w : Vector Byte 80) (s : State), wordTaken s p src dst w.toList = true →
    wCommit w.toList = false → ∀ o, o = setOf s p (wSetno w.toList) → ∀ g, g = wTarget w.toList →
    (∀ pl, wOp w.toList = 1 → (assoc o.lines g = some pl ∨
        (assoc o.lines g = none ∧ (freePlaces (wordRules s) (o.lines.map (·.2)) 32768 0 1).head? = some pl)) →
      ∃ t o', exec (.updateLine p src dst w) s = .next t ∧ t.rules.openSet = some o' ∧ o'.setno = o.setno ∧
        assoc o'.lines g = some pl ∧ g ∉ o'.frees ∧ (∀ l, l ≠ g → assoc o'.lines l = assoc o.lines l) ∧
        o'.starts = o.starts ∧ assoc t.rules.places pl = some (memLine (wData w.toList)) ∧
        (∀ q, q ≠ pl → assoc t.rules.places q = assoc s.rules.places q) ∧ pl ∉ t.rules.lost ∧
        t.rules.cur = s.rules.cur ∧ t.rules.prev = s.rules.prev ∧ t.rules.commits = s.rules.commits ∧
        t.rules.refused = none ∧ Only [.rules] s t) ∧
    (∀ r' o', wOp w.toList = 2 →
      stageEntry (wordRules s) o (ruleEntryLine s.rules g) (g % 4) (wData w.toList) = (r', o') →
      exec (.updateRule p src dst w) s = .next { s with rules := { r' with openSet := some o' } }) ∧
    (∀ r' o', wOp w.toList = 3 →
      stageEntry (wordRules s) o (assocEntryLine s.rules g) (g % 4) (wData w.toList) = (r', o') →
      exec (.updateAssoc p src dst w) s = .next { s with rules := { r' with openSet := some o' } }) ∧
    (wOp w.toList = 4 → ∃ o', exec (.updateFree p src dst w) s = .next { s with
        rules.refused := none, rules.openSet := some o' } ∧ g ∈ o'.frees ∧ assoc o'.lines g = none ∧ o'.starts = o.starts) ∧
    (wOp w.toList = 5 → ∃ o', exec (.updateStart p src dst w) s = .next { s with
        rules.refused := none, rules.openSet := some o' } ∧ o'.lines = o.lines ∧ o'.frees = o.frees ∧
        assoc o'.starts g = some (field (wData w.toList) 0 2)) ∧
    (wOp w.toList = 0 → exec (.updateNone p src dst w) s = .next { s with
        rules.refused := none, rules.openSet := some o })

/-- UPDATE_COMMIT with a word that is taken: the set waits for its snoops with one for each holder of a line that it
changes, its lines lie in free places, its SETNO is the last committed one, and the current epoch stays as it is. A set of
one LINE word has its line in its place, with the word's data, in the tables that are to become current. -/
def Obligations.CommitWaitsForSnoops : Prop :=
  ∀ (p : Port) (src dst : Byte) (w : Vector Byte 80) (s : State), wordTaken s p src dst w.toList = true →
    wCommit w.toList = true → (∀ x ∈ (setOf s p (wSetno w.toList)).lines, placeHeld s.rules x.2 = false) →
    ∃ t c, exec (.updateCommit p src dst w) s = .next t ∧ t.rules.openSet = none ∧
      t.rules.commits = s.rules.commits ++ [c] ∧
      c.setno = (setOf s p (wSetno w.toList)).setno ∧ t.front.lastSetno = some c.setno ∧ t.rules.cur = s.rules.cur ∧
      t.rules.prev = s.rules.prev ∧ Trans.commit c.setno c.changed ∈ t.engs.trans ∧
      (∀ (e : Fin 4) (l : Nat), (e, l) ∈ c.snoops ↔
        (e, l) ∈ s.engs.holders ∧ l ∈ c.changed ∧ working s e = true ∧ isOn s (3 + e) = true) ∧
      (∀ q ∈ c.places, placeHeld s.rules q = false) ∧ Only [.front, .rules, .engs] s t ∧
      (∀ pl, s.rules.openSet = none → wOp w.toList = 1 → (freePlaces (wordRules s) [] 32768 0 1).head? = some pl →
        c.places = [pl] ∧ c.changed = [wTarget w.toList] ∧ placeOf t.rules c.tables (wTarget w.toList) = some pl ∧
        lineAt t.rules c.tables (wTarget w.toList) = wData w.toList)

/-- A word whose MAC fails refuses its set, and UPDATE_SET_TIMEOUT refuses the open one: the staged lines are discarded
and the tables stay unchanged. A word from another sender, for another destination or on a port that is not up is no word of
a set at all. -/
def Obligations.RefusedSetLeavesTables : Prop :=
  (∀ (p : Port) (src dst : Byte) (w : Vector Byte 80) (s : State), takesWords s p src dst = true →
    s.rules.refused ≠ some (wSetno w.toList) → updatesClosed s = none → s.rules.openSet = none →
    wMacOk s dst w.toList = false → wCommit w.toList = true →
    ∃ t, exec (.updateCommit p src dst w) s = .next t ∧ t.rules.openSet = none ∧
      t.rules.refused = some (wSetno w.toList) ∧ t.rules.cur = s.rules.cur ∧ t.rules.commits = s.rules.commits ∧
      t.rules.places = s.rules.places ∧ t.front.lastSetno = s.front.lastSetno) ∧
  (∀ (o : OpenSet) (s : State), s.rules.openSet = some o →
    ∃ t, exec .updateSetTimeout s = .next t ∧ t.rules.openSet = none ∧ t.rules.refused = some o.setno ∧
      t.rules.cur = s.rules.cur ∧ t.rules.commits = s.rules.commits ∧ t.rules.places = s.rules.places ∧
      t.front.lastSetno = s.front.lastSetno) ∧
  (∀ (p : Port) (src dst : Byte) (w : Vector Byte 80) (s : State), takesWords s p src dst = false →
    exec (.updateLine p src dst w) s = .next s ∧ exec (.updateRule p src dst w) s = .next s ∧
    exec (.updateAssoc p src dst w) s = .next s ∧ exec (.updateFree p src dst w) s = .next s ∧
    exec (.updateStart p src dst w) s = .next s ∧ exec (.updateNone p src dst w) s = .next s ∧
    exec (.updateCommit p src dst w) s = .next s)

/-- EPOCH_SWITCH: the oldest set whose snoops are all acknowledged becomes current once no transaction on its lines precedes
it and no stream of the previous epoch remains; a set with a snoop outstanding waits. RULE_MEMORY_RELOAD_DONE ends a reload;
after a return from off no set is open and none waits. -/
def Obligations.EpochSwitchAndReload : Prop :=
  (∀ (c : CommitWait) (rest : List CommitWait) (s : State), s.rules.commits = c :: rest →
    (c.snoops = [] → s.rules.prev = none → isOn s 7 = true →
      c.changed.any (behind s.engs.trans (.commit c.setno c.changed)) = false →
      ∃ t, exec .epochSwitch s = .next t ∧ t.rules.cur = c.tables ∧ t.rules.commits = rest ∧
        (∀ l ∈ c.changed, l ∈ t.rules.changed) ∧ Trans.commit c.setno c.changed ∉ t.engs.trans ∧
        (t.rules.prev = some s.rules.cur ∨
          t.rules.prev = none ∧ ∀ x ∈ allStreams s, x.epoch ≠ s.rules.cur.epoch)) ∧
    (c.snoops ≠ [] ∨ s.rules.prev ≠ none → exec .epochSwitch s = .next s)) ∧
  (∀ s : State, s.rules.reloading = true → isOn s 7 = true → isOn s 15 = true →
    ∃ t, exec .ruleMemoryReloadDone s = .next t ∧ t.rules.reloading = false ∧ (dom t 7).banks = allBanks 7 ∧
      (s.rules.reloadAll = true → t.rules.openSet = none ∧ t.rules.commits = []) ∧ t.engs = s.engs ∧ t.flash = s.flash)

/-! ### Wake actions (file 09) -/

/-- RESULT_APPLY takes the oldest waiting result, and the oldest one that an engine holds back enters the queue. A tally
result, or a rule result that applies no profile, counts no tally and sends no notice, records its cause on each pin of its
mask, counts it up to 15, and raises the pin; no other pin changes. A rule result with a profile passes the profile to Bridle
as the action sequencer's own. While an outage runs, and while the selections kept in it are matched, the profile is only
recorded; the one recorded last is passed once no such selection and no result is left (that later results count with them is
log entry 140). The pins are ones that wait for no cause 0x83. -/
def Obligations.ResultRaisesPins : Prop :=
  (∀ (m : BitVec 4) (c : Byte) (rest : List Result) (s : State), s.act.queue = .tally m c :: rest → s.outage.settle = false →
    s.act.after83 &&& m = 0 →
    ∃ t, exec .resultApply s = .next t ∧ tookResult s t rest ∧ Only [.act] s t ∧
      (∀ k : Fin 4, vget t.act.wake WakeWord.zero k = (let w := vget s.act.wake WakeWord.zero k
        if m.getLsbD k then { w with
          cause := c, src := 6, count := min 15 (w.count + 1), pend := false, pin := true, held := .no, again := false }
        else w))) ∧
  (∀ (n : Nat) (a : Assoc) (kd : StreamKind) (e : Bool) (nm : Option FrameName) (rest : List Result) (s : State),
    s.act.queue = .rule n a kd e nm :: rest → a.pen = false → a.tinc = 0 → a.note = false → s.outage.settle = false →
    s.act.after83 &&& a.wmask = 0 →
    ∃ t, exec .resultApply s = .next t ∧ tookResult s t rest ∧ Only [.act] s t ∧
      (∀ k : Fin 4, vget t.act.wake WakeWord.zero k = (let w := vget s.act.wake WakeWord.zero k
        if a.wmask.getLsbD k then { w with
          cause := a.cause, src := srcOf kd, count := min 15 (w.count + 1), pend := false, pin := true, held := .no
          again := false }
        else w))) ∧
  (∀ (n : Nat) (a : Assoc) (kd : StreamKind) (e : Bool) (nm : Option FrameName) (rest : List Result) (s : State),
    s.act.queue = .rule n a kd e nm :: rest → a.pen = true → a.tinc = 0 → a.note = false → inOutage s = false →
    s.outage.settle = false → (∀ j ∈ s.bridle.waiting, j.origin ≠ .seq) → s.act.after83 &&& a.wmask = 0 →
    ∃ t j, exec .resultApply s = .next t ∧ t.bridle.waiting = s.bridle.waiting ++ [j] ∧ j.origin = .seq ∧ j.prof = a.prof ∧
      j.targets = (profileOf s a.prof).targets ∧ j.mask = a.wmask ∧ Only [.act, .bridle] s t ∧
      (∀ k : Fin 4, a.wmask.getLsbD k = true → (vget t.act.wake WakeWord.zero k).cause = a.cause ∧
        ((profileOf s a.prof).early = true → (vget t.act.wake WakeWord.zero k).pin = true) ∧
        ((profileOf s a.prof).early = false → targetOf (profileOf s a.prof).targets 17 = some .on →
          (vget t.act.wake WakeWord.zero k).pend = true ∧
          (vget t.act.wake WakeWord.zero k).pin = (vget s.act.wake WakeWord.zero k).pin))) ∧
  (∀ (n : Nat) (a : Assoc) (kd : StreamKind) (e : Bool) (nm : Option FrameName) (rest : List Result) (s : State),
    s.act.queue = .rule n a kd e nm :: rest → a.pen = true → a.tinc = 0 → a.note = false → inOutage s = true →
    ∃ t, exec .resultApply s = .next t ∧ tookResult s t rest ∧ t.bridle = s.bridle ∧
      t.act.outProfile = some (a.prof, (match s.act.outProfile with | some (_, m) => m | none => 0) ||| a.wmask) ∧
      (∀ k : Fin 4, a.wmask.getLsbD k = true →
        (vget t.act.wake WakeWord.zero k).cause = a.cause ∧ (vget t.act.wake WakeWord.zero k).pend = true)) ∧
  (∀ s : State, s.act.queue = [] →
    (s.outage.settle = false → exec .resultApply s = .next s) ∧
    (inOutage s = true ∨ slowIdle s = false → exec .resultApply s = .next s) ∧
    (s.outage.settle = true → inOutage s = false → slowIdle s = true →
      ∃ t, exec .resultApply s = .next t ∧ t.outage.settle = false ∧
        (∀ k m, s.act.outProfile = some (k, m) → t.act.outProfile = none ∧
          ∃ j ∈ t.bridle.waiting, j.origin = .seq ∧ j.prof = k ∧ m &&& j.mask = m)))

/-- PENDING_PIN_RISE: under the rail condition, outside an outage and once the profile recorded in one has been applied,
every pending pin rises and none stays pending; otherwise nothing happens. -/
def Obligations.PendingPinsRise : Prop :=
  ∀ s : State,
    (railGood s = true → inOutage s = false → s.outage.settle = false →
      ∃ t, exec .pendingPinRise s = .next t ∧ Only [.act, .win] s t ∧
        (∀ k : Fin 4, (vget t.act.wake WakeWord.zero k).pend = false ∧
          ((vget s.act.wake WakeWord.zero k).pend = true → (vget t.act.wake WakeWord.zero k).pin = true))) ∧
    (railGood s = false ∨ inOutage s = true ∨ s.outage.settle = true → exec .pendingPinRise s = .next s)

/-- READ_WAKE_CAUSE fixes the count that WACK removes: WACK on a word that has been read clears it and takes its pin low
when no cause has come since the read, else leaves the later causes, the pin low until it is to be high again (log entry 109
says for how long); on a word not read it changes nothing. -/
def Obligations.WackRemovesWhatWasRead : Prop :=
  (∀ (k : Fin 4) (s : State), pinsLive s = true → isReady s = true →
    ∃ t, exec (.readWakeCause k) s = .next t ∧ Only [.act, .win] s t ∧
      vget t.act.wake WakeWord.zero k = { vget s.act.wake WakeWord.zero k with snap := (vget s.act.wake WakeWord.zero k).count } ∧
      (∀ j : Fin 4, j ≠ k → vget t.act.wake WakeWord.zero j = vget s.act.wake WakeWord.zero j)) ∧
  (∀ (q : BitVec 6) (k : Fin 4) (s : State), pinsLive s = true → q.toNat = 12 + k →
    ∃ t, exec (.wack q) s = .next t ∧ Only [.act] s t ∧
      (∀ j : Fin 4, j ≠ k → vget t.act.wake WakeWord.zero j = vget s.act.wake WakeWord.zero j) ∧
      (∀ w, w = vget s.act.wake WakeWord.zero k →
        (w.snap = 0 → vget t.act.wake WakeWord.zero k = w) ∧
        (0 < w.snap → w.count = w.snap → vget t.act.wake WakeWord.zero k = WakeWord.zero) ∧
        (0 < w.snap → w.snap < w.count → vget t.act.wake WakeWord.zero k =
          { w with count := w.count - w.snap, snap := 0, pin := false, again := !w.pend && w.held == .no })))

/-- RAIL_ATTEMPT_FAIL while PGOOD has not come: the domain is off; with a retry left the gap runs, with none the set of
attempts ends and its record waits for its commit, or, where no record can be kept, the pins that waited on the main rail
carry cause 0x81 at once. RAIL_RETRY asks for the domain again, and not in an outage before its reversal starts the rails. -/
def Obligations.RailAttempts : Prop :=
  (∀ (c : Chan) (snap : Snap) (s : State), isOn s (chanDom c) = true → (railTry s c).running = true →
    (railTry s c).gap = false → (chan s c).pgood = false →
    ∃ t, exec (.railAttemptFail c snap) s = .next t ∧ isOn t (chanDom c) = false ∧
      ((railTry s c).retries < (polOf s).retry → (railTry t c).gap = true ∧ (chan t c).phase = .waiting .gap ∧
        (railTry t c).retries = (railTry s c).retries) ∧
      ((polOf s).retry ≤ (railTry s c).retries → railTry t c = RailTry.idle ∧ (chan t c).phase = .off ∧
        (s.prot.latch.length < 4 → ∃ r ∈ t.prot.latch, r.code = 0x0C ∧ r.aux = (c == .aux)) ∧
        (c = .main → 4 ≤ s.prot.latch.length → railFailing s .main = false →
          ∀ k : Fin 4, s.act.main.mask.getLsbD k = true →
            (vget t.act.wake WakeWord.zero k).cause = 0x81 ∧ (vget t.act.wake WakeWord.zero k).src = 7 ∧
            (vget t.act.wake WakeWord.zero k).pend = false))) ∧
  (∀ (c : Chan) (s : State), (railTry s c).gap = true → refusal s (chanDom c) (devReq .on) = none →
    dom s (chanDom c) = { Dom.zero with st := .off } → inOutage s = false ∨ s.outage.undo = some 5 →
    ∃ t, exec (.railRetry c) s = .next t ∧ (railTry t c).retries = (railTry s c).retries + 1 ∧ (railTry t c).gap = false ∧
      (dom t (chanDom c)).cur = some (devReq .on, .rising)) ∧
  (∀ (c : Chan) (s : State), (railTry s c).gap = false ∨ (inOutage s = true ∧ s.outage.undo ≠ some 5) →
    exec (.railRetry c) s = .next s)

/-! ### Bridle (file 10) -/

/-- HOST_OFF, HOST_RETENTION and HOST_ON on a rising edge that acts: a request that Bridle must refuse is answered 01 with
its reason in W0B and no alert (the order of the tests for a reason is log entry 20); one whose domain is already there is
answered 00; any other is answered 10, and a settled domain other than a rail's that is on takes it up and stays on. A
command behind a profile that names the domain and is not started is answered 10 and waits for that start. A rising edge that
does not act does nothing. -/
def Obligations.HostStateCommands : Prop :=
  ∀ (d : Fin 20) (x : DS) (i : Instr) (s : State),
    ((x, i) = (.off, .hostOff d) ∨ (x, i) = (.ret, .hostRetention d) ∨ (x, i) = (.on, .hostOn d)) →
    (hostTaken s = false → exec i s = .next s) ∧
    (hostTaken s = true → isReady s = true → ∃ t, exec i s = .next t ∧ t.bridle.pack = true ∧
      (∀ r, refusal s d ⟨.host, x, 0, true, false⟩ = some r → t.bridle.pres = 1 ∧
        t.bridle.w0b = ⟨BitVec.ofNat 5 d, 0, 1, r, t.bridle.w0b.cnt, true⟩ ∧
        (outstanding s d = false → Only [.bridle] s t ∧ t.bridle.doms = s.bridle.doms ∧
          t.bridle.w0b.cnt = min 7 (s.bridle.w0b.cnt + 1))) ∧
      (refusal s d ⟨.host, x, 0, true, false⟩ = none → lastNaming s d = none → outstanding s d = false → domSt s d = x →
        t.bridle.pres = 0 ∧ t.bridle.doms = s.bridle.doms ∧ t.bridle.w0b = s.bridle.w0b) ∧
      (refusal s d ⟨.host, x, 0, true, false⟩ = none → outstanding s d = true ∨ domSt s d ≠ x → t.bridle.pres = 2) ∧
      (refusal s d ⟨.host, x, 0, true, false⟩ = none → lastNaming s d = none → outstanding s d = false →
        domSt s d = .on → x ≠ .on → d.val ≠ 17 → d.val ≠ 18 →
        (dom t d).cur = some (⟨.host, x, 0, true, false⟩, .wait) ∧ isOn t d = true) ∧
      (∀ k, refusal s d ⟨.host, x, 0, true, false⟩ = none → lastNaming s d = some k → t.bridle.pres = 2 ∧
        t.bridle.behind = s.bridle.behind ++ [(k, d, x)] ∧ (∀ e, domSt t e = domSt s e) ∧ Only [.bridle] s t)) ∧
    (hostTaken s = true → isReady s = false → ∃ t, exec i s = .next t ∧ t.bridle.pack = true ∧ t.bridle.pres = 1 ∧
      t.bridle.w0b.reason = 1)

/-- HOST_QUERY takes no action and answers 00 settled, 10 outstanding, 11 faulty (11 where a domain is both: log entry 92),
or 01 with reason 0x2 for an absent domain; HOST_APPLY passes the profile to Bridle, and answers 01 where the profile selects
an invalid setpoint and asks for no domain (log entry 90; where it answers 00, log entry 91), or is refused before step 11,
in safe mode or in an outage; HOST_INVALID_COMMAND is refused with reason 0x8; PSTB_FALL takes PACK low and PRES to 00. The
codes on PSEL4:0 and PCMD1:0 are those of Table DOM-8. -/
def Obligations.OtherHostCommands : Prop :=
  (∀ (d : Fin 20) (s : State), hostTaken s = true → isReady s = true → present s d = true →
    exec (.hostQuery d) s = .next { s with
      bridle.pack := true
      bridle.pres := if (dom s d).faulty then 3
        else if outstanding s d || s.bridle.behind.any (fun x => x.2.1 == d) then 2 else 0 }) ∧
  (∀ (d : Fin 20) (s : State), hostTaken s = true → isReady s = true → present s d = false →
    ∃ t, exec (.hostQuery d) s = .next t ∧ t.bridle.pack = true ∧ t.bridle.pres = 1 ∧ t.bridle.doms = s.bridle.doms ∧
      t.bridle.w0b = ⟨BitVec.ofNat 5 d, 0, 1, 2, min 7 (s.bridle.w0b.cnt + 1), true⟩ ∧ Only [.bridle] s t) ∧
  (∀ (k : Fin 8) (s : State), hostTaken s = true → isReady s = true → s.boot.safe = false → inOutage s = false →
    ∃ t j, exec (.hostApply k) s = .next t ∧ t.bridle.pack = true ∧ t.bridle.waiting = s.bridle.waiting ++ [j] ∧
      j.prof = k ∧ j.origin = .host ∧ j.targets = (profileOf s k).targets ∧ t.bridle.doms = s.bridle.doms ∧
      ((profileTargets s (profileOf s k).targets).isEmpty = false → t.bridle.pres = 2 ∧ j.hostCmd = true) ∧
      ((profileTargets s (profileOf s k).targets).isEmpty = true → s.bridle.waiting = [] →
        badSetpoint s (profileOf s k) .main = false → badSetpoint s (profileOf s k) .aux = false →
        t.bridle.pres = 0 ∧ t.bridle.w0b = s.bridle.w0b) ∧
      ((profileTargets s (profileOf s k).targets).isEmpty = true → s.bridle.waiting = [] →
        badSetpoint s (profileOf s k) .main = true ∨ badSetpoint s (profileOf s k) .aux = true →
        t.bridle.pres = 1 ∧ t.bridle.w0b.reason = 7) ∧ Only [.bridle] s t) ∧
  (∀ (k : Fin 8) (r : BitVec 4) (s : State), hostTaken s = true →
    r = (if isReady s = false then 1 else if s.boot.safe then 0xE else if inOutage s then 0xA else 0) → r ≠ 0 →
    ∃ t, exec (.hostApply k) s = .next t ∧ t.bridle.pack = true ∧ t.bridle.pres = 1 ∧ t.bridle.waiting = s.bridle.waiting ∧
      t.bridle.w0b = ⟨BitVec.ofNat 5 (24 + k), 0, 1, r, min 7 (s.bridle.w0b.cnt + 1), true⟩ ∧ Only [.bridle] s t) ∧
  (∀ (psel : BitVec 5) (pcmd : BitVec 2) (s : State), hostTaken s = true →
    (20 ≤ psel.toNat ∧ psel.toNat ≤ 23) ∨ (24 ≤ psel.toNat ∧ pcmd ≠ 3) →
    ∃ t, exec (.hostInvalidCommand psel pcmd) s = .next t ∧ t.bridle.pack = true ∧ t.bridle.pres = 1 ∧
      t.bridle.w0b = ⟨psel, 0, 1, if isReady s then 8 else 1, min 7 (s.bridle.w0b.cnt + 1), true⟩ ∧
      t.bridle.doms = s.bridle.doms ∧ Only [.bridle] s t) ∧
  (∀ (d : Fin 20) (k : Fin 8) (psel : BitVec 5) (pcmd : BitVec 2) (s : State), hostTaken s = false →
    exec (.hostQuery d) s = .next s ∧ exec (.hostApply k) s = .next s ∧
    exec (.hostInvalidCommand psel pcmd) s = .next s) ∧
  (∀ s : State, pinsLive s = true → exec .pstbFall s = .next { s with bridle.pack := false, bridle.pres := 0 }) ∧
  (∀ d : Fin 20, hostCommand (BitVec.ofNat 5 d) 0 = .hostOff d ∧ hostCommand (BitVec.ofNat 5 d) 1 = .hostRetention d ∧
    hostCommand (BitVec.ofNat 5 d) 2 = .hostOn d ∧ hostCommand (BitVec.ofNat 5 d) 3 = .hostQuery d) ∧
  (∀ k : Fin 8, hostCommand (BitVec.ofNat 5 (24 + k)) 3 = .hostApply k) ∧
  (∀ (psel : BitVec 5) (pcmd : BitVec 2), (20 ≤ psel.toNat ∧ psel.toNat ≤ 23) ∨ (24 ≤ psel.toNat ∧ pcmd ≠ 3) →
    hostCommand psel pcmd = .hostInvalidCommand psel pcmd)

/-- ASK, HOLD and DRAIN move a request that takes its domain out of on from one step of Sequence DOM-1 to the next, and
leave the domain on; ASK goes to a negotiated block, DRAIN to any other, and neither while a domain that requires this
one is on, nor DRAIN to PD17 while the descent sequence waits for PD18. -/
def Obligations.LeaveSequenceBegins : Prop :=
  ∀ (d : Fin 20) (q : Req) (s : State),
    ((dom s d).cur = some (q, .wait) → negotiated s d = true → freeToLeave s d = true →
      exec (.ask d) s = .next (modDom s d fun m => { m with cur := some (q, .asked) })) ∧
    ((dom s d).cur = some (q, .asked) → delayOf s d ≠ 0 →
      exec (.hold d) s = .next (modDom s d fun m => { m with cur := some (q, .held) })) ∧
    ((dom s d).cur = some (q, .asked) → delayOf s d = 0 → exec (.hold d) s = .next s) ∧
    ((dom s d).cur = some (q, .wait) → negotiated s d = false → freeToLeave s d = true → descentHolds s d = false →
      ∃ t, exec (.drain d) s = .next t ∧ (dom t d).cur = some (q, .draining) ∧ domSt t d = domSt s d ∧
        Only [.free, .bridle, .reg] s t ∧ (d.val = 17 → switching s.reg.main = true →
          t.reg.main.phase = .stopping ∧ t.reg.main.pgood = false)) ∧
    (freeToLeave s d = false → exec (.ask d) s = .next s ∧ exec (.drain d) s = .next s) ∧
    (descentHolds s d = true → exec (.drain d) s = .next s)

/-- GRANT and DRAINED take the domain out of on; REFUSE, which a block sends for a reason of Table DOM-6 and for no other,
leaves the domain as it is and ends the request refused. -/
def Obligations.LeaveSequenceEnds : Prop :=
  ∀ (d : Fin 20) (q : Req) (s : State),
    (askedFor s d = some q → blockRefuses s d q.target = none → mayGrant s d = true →
      ∃ t, exec (.grant d) s = .next t ∧ isOn t d = false ∧ (∀ e, isOn t e = true → isOn s e = true)) ∧
    ((dom s d).cur = some (q, .draining) → q.target ≠ .on →
      ∃ t, exec (.drained d) s = .next t ∧ isOn t d = false ∧ (∀ e, isOn t e = true → isOn s e = true)) ∧
    (∀ r, askedFor s d = some q → blockRefuses s d q.target = some r →
      exec (.grant d) s = .next s ∧
      ((dom s d).reqs = [] → q.job = 0 → q.hostCmd = true → s.outage.step = 0 → s.outage.undo = none →
        (∀ r' ∈ required s d, (dom s r').cur = none) →
        ∃ t, exec (.refuse d) s = .next t ∧ (dom t d).cur = none ∧ domSt t d = domSt s d ∧
          t.bridle.w0b = ⟨BitVec.ofNat 5 d, 0, 1, r, min 7 (s.bridle.w0b.cnt + 1), true⟩ ∧ alertAsserted t = true)) ∧
    (askedFor s d = some q → blockRefuses s d q.target = none → exec (.refuse d) s = .next s)

/-- LIVE: a domain whose supplies are up and whose required domains are on reaches on; DOMAIN_FAULTY: the domain is off
and faulty, and the engine of a faulty engine domain has failed. -/
def Obligations.LiveAndFaulty : Prop :=
  (∀ (d : Fin 20) (q : Req) (s : State), (dom s d).cur = some (q, .rising) → fed s d = true →
    (required s d).all (isOn s) = true → (dom s d).reqs = [] → s.outage.step = 0 →
    ∃ t, exec (.live d) s = .next t ∧ isOn t d = true) ∧
  (∀ (d : Fin 20) (s : State), fed s d = false ∨ (dom s d).cur = none → exec (.live d) s = .next s) ∧
  (∀ (d : Fin 20) (snap : Snap) (q : Req) (g : Stage) (s : State), (dom s d).cur = some (q, g) → g ≠ .wait → g ≠ .live →
    ∃ t, exec (.domainFaulty d snap) s = .next t ∧ isOn t d = false ∧ (dom t d).faulty = true ∧
      (∀ e : Fin 4, d.val = 3 + e.val → present s d = true → (eng t e).failed = true)) ∧
  (∀ (d : Fin 20) (snap : Snap) (s : State), (dom s d).cur = none → exec (.domainFaulty d snap) s = .next s)

/-- IDLE_REQUEST: a running device's idle domain is asked to leave on by the idle policy, which does not act before step 12,
in safe mode or in an outage; PROFILE_START takes the profile at the head of Bridle's order, with the level of VSEL2:0 at its
start; RMAP_CHANGE changes the map in force, and a memory in retention loses the banks that it no longer keeps. -/
def Obligations.IdleProfileAndMap : Prop :=
  (∀ (d : Fin 20) (x : DS) (s : State), isRunning s = true → inOutage s = false → present s d = true → isOn s d = true →
    2 < d.val → d.val ≠ 17 → d.val ≠ 18 → outstanding s d = false → idleNow s d = true → idleTarget s d = some x →
    (8 ≤ d.val → d.val ≤ 12 → wouldLose s d x = false) → refusal s d ⟨.idle, x, 0, false, false⟩ = none →
    ∃ t, exec (.idleRequest d) s = .next t ∧ (dom t d).cur = some (⟨.idle, x, 0, false, false⟩, .wait) ∧
      isOn t d = true ∧ t.prot = s.prot) ∧
  (∀ (d : Fin 20) (s : State), isRunning s = false ∨ inOutage s = true → exec (.idleRequest d) s = .next s) ∧
  (∀ (v : Fin 8) (j : Job) (rest : List Job) (s : State), s.bridle.waiting = j :: rest →
    (isRunning s = true → inOutage s = false →
      ∃ t, exec (.profileStart v) s = .next t ∧ t.bridle.waiting = rest ∧
        t.bridle.latched = some (j.fields.mset, j.fields.movr, j.fields.aset, j.fields.aovr) ∧
        t.pins = { s.pins with vsel := if j.fields.movr && j.fields.aovr then s.pins.vsel else v }) ∧
    (isRunning s = false ∨ inOutage s = true → exec (.profileStart v) s = .next s)) ∧
  (∀ (v : Fin 4) (s : State), ∃ t, exec (.rmapChange v) s = .next t ∧ t.pins = { s.pins with rmap := v } ∧
    (∀ d, domSt t d = domSt s d) ∧ (∀ d, domSt s d ≠ .ret → (dom t d).banks = (dom s d).banks) ∧
    (∀ d, 7 ≤ d → d ≤ 12 → domSt s d = .ret →
      (dom t d).banks = (dom s d).banks &&& keptBanks { s with pins.rmap := v } d))

/-! ### Regulator: start, slews, clock, loop and phases (files 11 and 12) -/

/-- CHANNEL_START, RAMP_COMPLETE, SLEW_COMPLETE, PGOOD_ASSERT and PGOOD_DEASSERT: Sequence RGS-1. A channel that R426
lets start ramps from the first LSB above the feedback to its setpoint, with its histories at 0, its PWM balls in MID and
every available phase active, on VLOC where WM03 reads outside its window; with VLOC lost as well it latches (log entry 164).
It regulates at the end of the ramp and of a slew, and only then PGOOD rises, with the output inside the rail window. -/
def Obligations.ChannelStartsAndRegulates : Prop :=
  ∀ (c : Chan) (s : State),
    (∀ (m : StartReading) (snap : Snap) (sp : Setpoint) (vl : Bool) (fb : Nat), startOk s c = true →
      vl = (c == .main && monEnabled s 3 && !m.wm03In) → sp = setpointOf s c (chan s c).sel →
      fb = (if vl then m.vloc else m.feedback) →
      (vl = false ∨ m.vlocOk = true → ∃ t, exec (.channelStart c m snap) s = .next t ∧ (chan t c).vloc = vl ∧
        (chan t c).idx = (chan s c).sel ∧ (chan t c).target = spMicro sp ∧
        (chan t c).e = Vector.replicate 3 0 ∧ (chan t c).y = Vector.replicate 3 0 ∧
        (c = .main → t.reg.active = ringFrom s ∧ ∀ k : Fin 6, t.reg.pwm[k] = .mid) ∧ (c = .aux → t.reg.pwmA = .mid) ∧
        (fb < spMicro sp → (chan t c).phase = .ramp ∧ (chan t c).diode = true ∧
          (chan t c).own = min (spMicro sp) ((fb / lsbOf sp.high + 1) * lsbOf sp.high)) ∧
        (spMicro sp ≤ fb → (chan t c).phase = .regulating ∧ (chan t c).diode = false ∧ (chan t c).own = spMicro sp) ∧
        (c = .main ∨ tracks s = false → (chan t c).ref = (chan t c).own) ∧ (chan t c).ref ≤ (chan t c).own) ∧
      (vl = true → m.vlocOk = false → ∃ t, exec (.channelStart c m snap) s = .next t ∧ (chan t c).phase = .latched)) ∧
    (∀ (m : StartReading) (snap : Snap), startOk s c = false → exec (.channelStart c m snap) s = .next s) ∧
    ((chan s c).phase = .ramp → ∃ t, exec (.rampComplete c) s = .next t ∧ (chan t c).diode = false ∧
      (chan t c).idx = (chan s c).sel ∧
      ((chan s c).sel = (chan s c).idx → (chan t c).phase = .regulating ∧ (chan t c).target = (chan s c).target ∧
        (chan t c).own = (chan s c).target ∧ (c = .main → (chan t c).ref = (chan s c).target))) ∧
    ((chan s c).phase = .slewing → ∃ t, exec (.slewComplete c) s = .next t ∧ (chan t c).phase = .regulating ∧
      (chan t c).own = (chan s c).target ∧ (c = .main → (chan t c).ref = (chan s c).target) ∧
      (chan t c).pgood = ((chan s c).pgood && atSetpoint t c)) ∧
    (∀ fb : Nat,
      ((chan s c).pgood = false → (chan s c).phase = .regulating ∨ (chan s c).phase = .slewing →
        ∃ t, exec (.pgoodAssert c fb) s = .next t ∧ (chan t c).pgood = (atSetpoint t c && inWindow t c fb) ∧
          ((chan t c).pgood = true → railTry t c = RailTry.idle) ∧ (chan t c).phase = (chan s c).phase ∧
          ((chan s c).phase = .regulating → (chan t c).pgood = (atSetpoint s c && inWindow s c fb)) ∧
          Only [.free, .act, .reg, .prot] s t) ∧
      ((chan s c).pgood = true → ∃ t, exec (.pgoodDeassert c fb) s = .next t ∧ (chan t c).pgood = inWindow t c fb ∧
        (chan t c).phase = (chan s c).phase ∧ ((chan s c).phase = .regulating → (chan t c).pgood = inWindow s c fb) ∧
        Only [.free, .reg] s t) ∧
      ((chan s c).phase ≠ .regulating → (chan s c).phase ≠ .slewing →
        ∃ t, exec (.pgoodAssert c fb) s = .next t ∧ (chan t c).pgood = (chan s c).pgood ∧ Only [.free, .reg] s t))

/-- VSEL_CHANGE selects the index that the balls or the latched fields give on both channels, and a channel that runs stays
at its setpoint where the new one is invalid; ENABLE_LOW stops a switching channel with its PWM balls in MID and releases a
latch; ENABLE_HIGH moves the ball; SYNC_LOCK counts edges of SYNC_IN whose spacing is accepted, eight in a row, and with
SYNC_LOSS moves the clock; TRK_CHANGE moves V_trk toward what tracking allows, an LSB for each half microsecond, and the
auxiliary reference follows. -/
def Obligations.SelectionEnablesClockTracking : Prop :=
  (∀ (v : Fin 8) (c : Chan) (s : State), ∃ t, exec (.vselChange v) s = .next t ∧ t.pins = { s.pins with vsel := v } ∧
    ((chan s c).warm = true → chan t c = chan s c) ∧
    ∀ k, k = wantedIndex { s with pins.vsel := v } c → (chan s c).warm = false →
      (spValid (setpointOf s c k) = true → (chan t c).sel = k) ∧
      (spValid (setpointOf s c k) = false →
        ((chan s c).phase = .regulating ∨ (chan s c).phase = .slewing ∨ (chan s c).phase = .ramp → chan t c = chan s c) ∧
        ((chan s c).phase ≠ .regulating → (chan s c).phase ≠ .slewing → (chan s c).phase ≠ .ramp →
          chan t c = { chan s c with sel := k }))) ∧
  (∀ (c : Chan) (s : State), ∃ t, exec (.enableLow c) s = .next t ∧ enabled t c = false ∧
    (switching (chan s c) = true → (chan t c).phase = .notSwitching ∧ (chan t c).pgood = false ∧ (chan t c).warm = false ∧
      (c = .main → t.reg.active = [] ∧ ∀ k : Fin 6, t.reg.pwm[k] = .mid) ∧ (c = .aux → t.reg.pwmA = .mid)) ∧
    ((chan s c).phase = .latched → (chan t c).phase = .notSwitching)) ∧
  (∀ s : State, exec (.enableHigh .main) s = .next { s with pins.enM := true } ∧
    exec (.enableHigh .aux) s = .next { s with pins.enA := true }) ∧
  (∀ (first : Nat) (l : List Nat) (s : State), syncExternal (clockStraps s) = true → clockRuns s = true →
    s.reg.clk.gap = none → l.length = 7 → (∀ y ∈ l, edgeAccepted s y = true) →
    s.reg.clock = .internal ∨ s.reg.clock = .gliding →
    ∃ t, exec (.syncLock (first :: l)) s = .next t ∧ t.reg.clock = .acquiring ∧ t.reg.clk.edges = 8 ∧ Only [.reg] s t ∧
      (s.reg.clock = .internal → t.reg.clk.freq = nominalHz s) ∧
      (s.reg.clock = .gliding → t.reg.clk.freq = s.reg.clk.freq)) ∧
  (∀ (x g : Nat) (s : State), syncExternal (clockStraps s) = true → clockRuns s = true → s.reg.clk.gap = some g →
    edgeAccepted s (g + x) = false →
    exec (.syncLock [x]) s = .next { s with reg.clk.edges := 0, reg.clk.gap := some (g + x) }) ∧
  (∀ (l : List Nat) (s : State), syncExternal (clockStraps s) = false ∨ clockRuns s = false →
    exec (.syncLock l) s = .next s) ∧
  (∀ s : State, exec .syncLoss s = .next { s with
    reg.clk.edges := 0
    reg.clk.gap := none
    reg.clock := if s.reg.clock = .locked ∨ s.reg.clock = .acquiring then .gliding else s.reg.clock }) ∧
  (∀ (uv steps : Nat) (s : State), present s 18 = true → tracks s = true →
    ∃ t, exec (.trkChange uv steps) s = .next t ∧ t.reg.trk = min uv 1650000 ∧ Only [.free, .reg] s t ∧
      t.reg.vtrk = toward s.reg.vtrk (trackTarget { s with reg.trk := min uv 1650000 }) (steps * lsbOf t.reg.aux.high) ∧
      (s.reg.aux.phase = .regulating → t.reg.aux.ref = min s.reg.aux.own t.reg.vtrk ∧ t.reg.aux.own = s.reg.aux.own ∧
        t.reg.aux.pgood = (s.reg.aux.pgood && atSetpoint t .aux))) ∧
  (∀ (uv steps : Nat) (s : State), present s 18 = false ∨ tracks s = false → exec (.trkChange uv steps) s = .next s)

/-- COMPENSATOR_SAMPLE: the error code is within 8 bits and moves into the history, D stays from 0 to D_max and is 0 while a
trip withholds the pulses, and y is the sum of the difference equation wherever D is not held at a limit; two samples in a
row at the undershoot limit count. UNDERSHOOT_RESTORE makes every available phase due for the next period start.
ZERO_CROSSING takes the ball of a phase in diode emulation that is Low to MID. -/
def Obligations.CompensatorAndRestore : Prop :=
  (∀ (c : Chan) (feedback vloc vin : Nat) (s : State),
    (switching (chan s c) = true →
      ∃ t e, exec (.compensatorSample c feedback vloc vin) s = .next t ∧ Only [.free, .reg] s t ∧
      -128 ≤ e ∧ e ≤ 127 ∧ (chan t c).e = #v[e, (chan s c).e[0], (chan s c).e[1]] ∧
      (∀ x : Int, x = ((chan t c).ref : Int) - feedbackOf s c feedback vloc → x % 625 = 0 → -80000 ≤ x → x ≤ 79375 →
        625 * e = x) ∧
      ((chan s c).phase = .regulating → (chan t c).ref = (chan s c).ref) ∧
      (chan t c).d ≤ dMax s c ∧ ((chan s c).withheld = true → (chan t c).d = 0) ∧ (chan t c).dOld = (chan s c).d ∧
      (chan t c).y[1] = (chan s c).y[0] ∧ (chan t c).y[2] = (chan s c).y[1] ∧
      (0 < (chan t c).d → (chan t c).d < dMax s c →
        (chan t c).y[0] = compSum (chan s c).coef e (chan s c).e (chan s c).y) ∧
      (c = .main → t.reg.underCount =
        if undershoots (chan t c).ref e then min 2 (s.reg.underCount + 1) else 0)) ∧
    (switching (chan s c) = false → exec (.compensatorSample c feedback vloc vin) s = .next s)) ∧
  (∀ s : State,
    (2 ≤ s.reg.underCount → mayRestore s = true → exec .undershootRestore s = .next { s with
      reg.restoreDue := true, reg.swapShed := false, reg.underCount := 0 }) ∧
    (s.reg.underCount < 2 ∨ mayRestore s = false → exec .undershootRestore s = .next s)) ∧
  (∀ (k : Fin 6) (s : State),
    (switching s.reg.main = true → emulates s k = true → s.reg.pwm[k] = .low →
      exec (.zeroCrossing .main k) s = .next { s with reg.pwm := s.reg.pwm.set k .mid }) ∧
    (switching s.reg.aux = true → emulates s 6 = true → s.reg.pwmA = .low →
      exec (.zeroCrossing .aux k) s = .next { s with reg.pwmA := .mid }) ∧
    (emulates s k = false → exec (.zeroCrossing .main k) s = .next s) ∧
    (emulates s 6 = false → exec (.zeroCrossing .aux k) s = .next s))

/-- BALANCE_UPDATE moves each active phase's trim by at most one step as R474 says, and skips its interval where it must;
SHED_DECISION begins a swap that is due, adds the ring's next phase, sheds the latest one added or leaves the set, 200 us
after the last change at the earliest; SWAP_SHED takes the first of the set out; HOUR_PASS brings the next whole hour and
advances the ring's start; LATCH_PERIOD_CLEAR, a period start of the clock, gives each active phase its slot in ascending
order and makes every available phase active where a restore is due. -/
def Obligations.PhasesAreBalancedAndShed : Prop :=
  (∀ (i : Vector Half 6) (snap : Snap) (s : State),
    (s.reg.skip = true ∨ stillSkips s = true →
      exec (.balanceUpdate i snap) s = .next { s with reg.skip := stillSkips s }) ∧
    (s.reg.skip = false → stillSkips s = false → 2 ≤ s.reg.active.length →
      (∀ k : Fin 6, s.reg.pinned[k] < 127 ∧ s.reg.implaus[k] < 3) →
      ∃ t, exec (.balanceUpdate i snap) s = .next t ∧ t.reg.active = s.reg.active ∧ Only [.reg] s t ∧
        (∀ k : Fin 6, t.reg.trim[k] = if k ∈ s.reg.active then trimStep s i k else s.reg.trim[k]) ∧
        (∀ k : Fin 6, s.reg.trim[k] - 1 ≤ t.reg.trim[k] ∧ t.reg.trim[k] ≤ s.reg.trim[k] + 1))) ∧
  (∀ (i : Vector Half 6) (s : State),
    (shedPaused s = true → exec (.shedDecision i) s = .next s) ∧
    (shedPaused s = false → s.reg.swapsDue ≠ 0 → s.reg.swapShed = false →
      ∃ t, exec (.shedDecision i) s = .next t ∧ t.reg.swapsDue = s.reg.swapsDue - 1 ∧ Only [.reg] s t ∧
        (∀ k, nextPhase s = some k → t.reg.active = s.reg.active ++ [k] ∧ t.reg.swapShed = true)) ∧
    (s.reg.swapsDue = 0 ∨ s.reg.swapShed = true → (polOf s).shedOn = false ∨ s.reg.dwell < 200000 →
      exec (.shedDecision i) s = .next s) ∧
    (shedPaused s = false → 200000 ≤ s.reg.dwell → s.reg.swapsDue = 0 ∨ s.reg.swapShed = true → (polOf s).shedOn = true →
      ∃ t, exec (.shedDecision i) s = .next t ∧ Only [.reg] s t ∧
        (∀ k, wouldAdd s i = true → nextPhase s = some k → t.reg.active = s.reg.active ++ [k]) ∧
        (wouldAdd s i = false → wouldShed s i = true → t.reg.active = s.reg.active.dropLast) ∧
        (wouldAdd s i = false → wouldShed s i = false → t = s))) ∧
  (∀ (i : Vector Half 6) (s : State),
    (s.reg.swapShed = true → shedPaused s = false → 200000 ≤ s.reg.dwell →
      ∃ t, exec (.swapShed i) s = .next t ∧ t.reg.swapShed = false ∧ Only [.reg] s t ∧
        t.reg.active = (if (polOf s).shedOn && wouldAdd s i then s.reg.active else s.reg.active.tail)) ∧
    (s.reg.swapShed = false ∨ shedPaused s = true ∨ s.reg.dwell < 200000 → exec (.swapShed i) s = .next s)) ∧
  (∀ s : State, s.boot.step ≠ .por → s.hours < 0xFFFFF0 →
    ∃ t, exec .hourPass s = .next t ∧ t.hours = (s.hours / 16 + 1) * 16 ∧ s.now < t.now ∧ t.now % 7372800 = 0 ∧
      Only [.now, .hours, .reg] s t ∧ ((polOf s).rotate = true → ring s ≠ [] →
        t.reg.r = (s.reg.r + 1) % (ring s).length)) ∧
  (∀ (sense : Vector Half 7) (s : State), clockRuns s = true →
    ∃ t, exec (.latchPeriodClear sense) s = .next t ∧ Only [.free, .reg, .mons] s t ∧ t.reg.pulse.pos = 0 ∧
      t.reg.pulse.slots = (([0, 1, 2, 3, 4, 5] : List (Fin 6)).filter fun k => isActive t k.val) ∧
      (∀ k : Fin 7, t.reg.sense[k] = BitVec.ofInt 16 (clampInt (-1920) 1920 sense[k].toInt)) ∧
      (s.reg.restoreDue = true → live s 0 = false → mayRestore s = true →
        t.reg.active = ringFrom s ∧ t.reg.restoreDue = false) ∧
      (s.reg.restoreDue = false ∨ live s 0 = true ∨ mayRestore s = false →
        t.reg.active = s.reg.active ∧ t.reg.restoreDue = s.reg.restoreDue))

/-! ### Protections and the fault record (file 13) -/

/-- FAST_LIMIT_TRIP: a trip in a phase's pulse ends the pulse, and the eighth truncated period in a row is a hiccup; two
trips in a row outside the pulse fail a phase that may be failed. SLOW_LIMIT_TRIP and UNDERVOLTAGE stop the channel, to
wait for a retry or latched as OVLP says, the eighth trip of a run always latched. HICCUP_RESTART and PROTECTION_RETRY end
the wait. (That the two kinds of trip are counted apart is log entry 128.) -/
def Obligations.LimitsStopTheChannel : Prop :=
  (∀ (c : Chan) (k : Fin 6) (succ : Bool) (snap : Snap) (n i : Nat) (s : State), switching (chan s c) = true →
    (c = .main → k ∈ s.reg.active) → i = (match c with | .main => k.val | .aux => 6) →
    n = (if succ then vget s.reg.trunc 0 i + 1 else 1) →
    ∃ t, exec (.fastLimitTrip c k true succ snap) s = .next t ∧ vget t.mons.pcl false i = true ∧
      (n < 8 → vget t.reg.trunc 0 i = n ∧ vget t.reg.pulse.left 0 i = 0 ∧ chan t c = chan s c ∧ t.prot = s.prot ∧
        (c = .main → t.reg.pwm[k] = .low ∧ t.reg.active = s.reg.active) ∧ (c = .aux → t.reg.pwmA = .low)) ∧
      (8 ≤ n → (chan t c).phase = .waiting .hiccup ∧ (chan t c).pgood = false ∧ (chan t c).hiccupArmed = false ∧
        (c = .main → t.reg.active = []))) ∧
  (∀ (k : Fin 6) (succ : Bool) (snap : Snap) (s : State),
    (switching s.reg.main = true → k ∈ s.reg.active →
      (mayFail s = true → succ = true → s.reg.offTrip[k] = true →
        ∃ t, exec (.fastLimitTrip .main k false succ snap) s = .next t ∧ t.reg.failed[k] = true ∧ k ∉ t.reg.active) ∧
      (succ = false ∨ s.reg.offTrip[k] = false ∨ mayFail s = false →
        ∃ t, exec (.fastLimitTrip .main k false succ snap) s = .next t ∧
        t.reg.offTrip[k] = true ∧ t.reg.failed = s.reg.failed ∧ Only [.reg, .mons] s t)) ∧
    (switching s.reg.aux = true → ∃ t, exec (.fastLimitTrip .aux k false succ snap) s = .next t ∧
      vget t.mons.pcl false 6 = true ∧ Only [.mons] s t) ∧
    (∀ c ip, switching (chan s c) = false → exec (.fastLimitTrip c k ip succ snap) s = .next s)) ∧
  (∀ (c : Chan) (average n : Nat) (snap : Snap) (s : State),
    (chan s c).phase = .ramp ∨ (chan s c).phase = .regulating ∨ (chan s c).phase = .slewing → (chan s c).warm = false →
    (chan s c).goodSince = none → n = (match c with | .main => (ring s).length | .aux => 1) →
    (average ≤ 4 * ovlMv (strapsOf s c) * n * (8 - derateOf s c) → exec (.slowLimitTrip c average snap) s = .next s) ∧
    (4 * ovlMv (strapsOf s c) * n * (8 - derateOf s c) < average →
      ∃ t, exec (.slowLimitTrip c average snap) s = .next t ∧ (chan t c).pgood = false ∧ switching (chan t c) = false ∧
        ((polOf s).ovlp = 0 ∨ 7 ≤ (chan s c).run → (chan t c).phase = .latched ∧ (chan t c).run = 0) ∧
        ((polOf s).ovlp ≠ 0 → (chan s c).run < 7 →
          (chan t c).phase = .waiting .retry ∧ (chan t c).run = (chan s c).run + 1))) ∧
  (∀ (c : Chan) (fb : Nat) (low : Bool) (snap : Snap) (s : State), (chan s c).phase = .regulating → (chan s c).warm = false →
    low = (match c with | .main => live s 1 | .aux => decide (10 * fb < 9 * s.reg.aux.ref)) → (chan s c).goodSince = none →
    (low = false → exec (.undervoltage c fb snap) s = .next s) ∧
    (low = true → ∃ t, exec (.undervoltage c fb snap) s = .next t ∧ (chan t c).pgood = false ∧ switching (chan t c) = false ∧
      ((polOf s).ovlp = 0 ∨ 7 ≤ (chan s c).runUv → (chan t c).phase = .latched ∧ (chan t c).runUv = 0) ∧
      ((polOf s).ovlp ≠ 0 → (chan s c).runUv < 7 →
        (chan t c).phase = .waiting .retry ∧ (chan t c).runUv = (chan s c).runUv + 1))) ∧
  (∀ (c : Chan) (s : State),
    ((chan s c).phase = .waiting .hiccup → (chan s c).warm = false → ∃ t, exec (.hiccupRestart c) s = .next t ∧
      chan t c = { chan s c with phase := .notSwitching } ∧ Only [.reg] s t) ∧
    ((chan s c).phase = .waiting .retry → ∃ t, exec (.protectionRetry c) s = .next t ∧
      chan t c = { chan s c with phase := .notSwitching } ∧ Only [.reg] s t))

/-- AUX_OVERVOLTAGE latches the auxiliary channel with its ball Low, where its straps do not disable it, and
OVERVOLTAGE_RELEASE lets the balls go below half the reference; SENSE_LOSS moves the feedback to VLOC and the loop goes on,
VLOC_LOST latches where VLOC is lost; DERATE_INTERVAL moves a level by one, and level 4 stops the channels; RECORD_COMMIT
writes the oldest captured record to the ring under the next SEQ, and that of a failed main rail puts cause 0x81 on its pins;
HOUR_COUNT_STORE writes the hour count. (That the alarm comes at the commit is log entry 127.) -/
def Obligations.OvervoltageSenseDerateRecord : Prop :=
  (∀ (snap : Snap) (s : State), live s 7 = true → s.reg.aux.heldLow = false →
    ∃ t, exec (.auxOvervoltage snap) s = .next t ∧ t.reg.aux.phase = .latched ∧ t.reg.aux.heldLow = true ∧
      t.reg.aux.pgood = false ∧ t.reg.main.phase = s.reg.main.phase ∧
      t.reg.pwmA = (if auxDisabled (regStrapsOf s) || s.tap.forced then .mid else .low)) ∧
  (∀ (c : Chan) (fb : Nat) (s : State), (chan s c).heldLow = true →
    ((chan s c).ref ≤ 2 * fb → exec (.overvoltageRelease c fb) s = .next s) ∧
    (2 * fb < (chan s c).ref → ∃ t, exec (.overvoltageRelease c fb) s = .next t ∧
      chan t c = { chan s c with heldLow := false } ∧ Only [.reg] s t ∧
      (c = .main → ∀ k : Fin 6, t.reg.pwm[k] = .mid) ∧ (c = .aux → t.reg.pwmA = .mid))) ∧
  (∀ (snap : Snap) (s : State), switching s.reg.main = true → s.reg.main.vloc = false → live s 3 = true →
    ∃ t, exec (.senseLoss snap) s = .next t ∧ t.reg.main.vloc = true ∧ t.reg.main.phase = s.reg.main.phase ∧
      t.reg.main.e = s.reg.main.e ∧ t.reg.main.y = s.reg.main.y ∧ t.reg.main.coef = s.reg.main.coef ∧
      (s.reg.main.phase = .regulating → t.reg = { s.reg with main := { s.reg.main with vloc := true } })) ∧
  (∀ (vloc dv : Nat) (snap : Snap) (s : State), s.reg.main.phase = .regulating →
    (s.reg.main.vloc = true → vlocLost s vloc dv = true → ∃ t, exec (.vlocLost vloc dv snap) s = .next t ∧
      t.reg.main.phase = .latched ∧ t.reg.main.pgood = false ∧ t.reg.active = []) ∧
    (s.reg.main.vloc = false ∨ vlocLost s vloc dv = false → exec (.vlocLost vloc dv snap) s = .next s)) ∧
  (∀ (ext above below : Bool) (k low high vana : Nat) (q : Derate) (snap : Snap) (s : State), k = (if ext then 6 else 5) →
    q = (if ext then s.reg.der6 else s.reg.der5) →
    above = (q.above || (mon s k).above || (low ≤ high && crosses s k .upper ⟨high, 0, vana⟩)) →
    below = decide ((high : Int) * 1024 < threshold s k .lower ⟨high, 0, vana⟩ - 1024 * hystUv s k) →
    monEnabled s k = true → isOn s 17 = true →
    s.reg.main.warm = false → s.reg.der5.level ≤ 4 → s.reg.der6.level ≤ 4 →
    ∃ t, exec (.derateInterval ext low high vana snap) s = .next t ∧
      (if ext then t.reg.der6 else t.reg.der5).level =
        (if above then min (q.level + 1) 4 else if below then q.level - 1 else q.level) ∧
      (if ext then t.reg.der6 else t.reg.der5).above = (mon s k).above ∧
      (if ext then t.reg.der5 else t.reg.der6) = (if ext then s.reg.der5 else s.reg.der6) ∧
      (above = true → q.level = 3 → switching t.reg.main = false)) ∧
  (∀ (r : FaultRec) (rest : List FaultRec) (s : State), s.prot.latch = r :: rest → mayCommit s = true →
    ∃ t, exec .recordCommit s = .next t ∧ t.prot.latch = rest ∧ t.prot.nextSeq = seqAfter s.prot.nextSeq ∧
      t.prot.latest = recordBytes r s.prot.nextSeq ∧ t.nvm.hours = s.hours ∧
      vget t.nvm.ring [] (ringEntry s.prot.nextSeq) = recordBytes r s.prot.nextSeq ∧
      (∀ k, k < 8 → k ≠ ringEntry s.prot.nextSeq → vget t.nvm.ring [] k = vget s.nvm.ring [] k) ∧
      (⟨r.code, r.aux, r.toFault, false, r.ended⟩ : RecAlarm) ∈ t.prot.recAlarms ∧
      (r.code = 0x0C → r.aux = false → quiet s → ∀ k : Fin 4, (railPins r).getLsbD k = true →
        (vget t.act.wake WakeWord.zero k).cause = 0x81 ∧ (vget t.act.wake WakeWord.zero k).src = 7 ∧
        (vget t.act.wake WakeWord.zero k).pend = false)) ∧
  (∀ s : State, s.boot.step ≠ .por → exec .hourCountStore s = .next { s with nvm.hours := s.hours })

/-! ### Window monitors (file 14) -/

/-- MONITOR_ASSERT and MONITOR_DEASSERT move the comparator of one side where the input crosses its threshold, or is back by
the hysteresis; an assertion sets the latch, and the upper side of WM02 latches the main channel with its balls held Low;
MONITOR_SETTLED starts the live output; EVENT_HOLDOFF_END lets the next event of a monitor be recorded; no other monitor
changes. A monitor that follows a reference follows one that does not move here. -/
def Obligations.MonitorsActAndSetLatches : Prop :=
  (∀ (k : Fin 24) (side : Side) (m : MonReading) (snap : Snap) (s : State), steadyRef s k →
    (monActive s k = true → crosses s k side m = true → sideOn (mon s k) side = false →
      ∃ t, exec (.monitorAssert k side m snap) s = .next t ∧ sideOn (mon t k) side = true ∧ (mon t k).latch = true ∧
        (mon t k).settled = (mon s k).settled ∧ (∀ j, j ≠ k.val → mon t j = mon s j) ∧ t.mons.pcl = s.mons.pcl ∧
        (k.val = 2 → side = .upper → t.reg.main.phase = .latched ∧ t.reg.main.heldLow = true ∧ t.reg.main.pgood = false)) ∧
    (monActive s k = false ∨ crosses s k side m = false ∨ sideOn (mon s k) side = true →
      exec (.monitorAssert k side m snap) s = .next s)) ∧
  (∀ (k : Fin 24) (side : Side) (m : MonReading) (s : State), steadyRef s k →
    (sideOn (mon s k) side = true → recrosses s k side m = true →
      ∃ t, exec (.monitorDeassert k side m) s = .next t ∧ sideOn (mon t k) side = false ∧
        (mon t k).latch = (mon s k).latch ∧ (∀ j, j ≠ k.val → mon t j = mon s j)) ∧
    (sideOn (mon s k) side = false ∨ recrosses s k side m = false → exec (.monitorDeassert k side m) s = .next s)) ∧
  (∀ (k : Fin 24) (m : MonReading) (snap : Snap) (s : State), monEnabled s k = true → isOn s (monDom k) = true →
    (mon s k).settled = false → steadyRef s k →
    (crosses s k .upper m = false → crosses s k .lower m = false →
      exec (.monitorSettled k m snap) s =
        .next (modMon s k fun x => { x with settled := true, above := false, below := false })) ∧
    (∀ side, crosses s k side m = true → (side = .lower → crosses s k .upper m = false) →
      ∃ t, exec (.monitorSettled k m snap) s = .next t ∧ (mon t k).settled = true ∧ (mon t k).latch = true ∧
        sideOn (mon t k) side = true ∧ (∀ j, j ≠ k.val → mon t j = mon s j))) ∧
  (∀ (k : Fin 24) (s : State), ∃ t, exec (.eventHoldoffEnd k) s = .next t ∧ (∀ j, j ≠ k.val → mon t j = mon s j) ∧
    (mon t k).latch = (mon s k).latch ∧
    ((routeOf s k).getLsbD 2 = false ∨ monPos s k = (mon s k).recorded →
      t = modMon s k fun m => { m with holdoff := false }) ∧
    ((routeOf s k).getLsbD 2 = true → monEnabled s k = true → isOn s (monDom k) = true →
      (mon t k).recorded = monPos s k ∧ ((mon t k).holdoff = false ↔ monPos s k = (mon s k).recorded)))

/-- READ_LATCH_WORD takes the word that it reads as its snapshot; CLRW clears the latches of the snapshot alone, where CLR
is not set and the live output is not asserted, and empties it; LATCH_PERIOD_CLEAR clears those whose CLR is set. -/
def Obligations.LatchesAreClearedAsRead : Prop :=
  (∀ s : State, pinsLive s = true → isReady s = true →
    exec (.readLatchWord false) s = .next { s with
      mons.snap10 := word10 s, win.qd := word10 s, win.qcsN := true, win.qoeN := true } ∧
    exec (.readLatchWord true) s = .next { s with
      mons.snap11 := word11 s, win.qd := word11 s, win.qcsN := true, win.qoeN := true }) ∧
  (∀ s : State, pinsLive s = true → ∃ t, exec (.clrw 0x10) s = .next t ∧ t.mons.snap10 = 0 ∧ t.mons.pcl = s.mons.pcl ∧
    Only [.mons] s t ∧ (∀ k : Fin 24, mon t k =
      if k.val < 16 && s.mons.snap10.getLsbD k && !clrOf s k then { mon s k with latch := live s k } else mon s k)) ∧
  State.reset.mons.snap10 = 0 ∧ State.reset.mons.snap11 = 0 ∧
  (∀ s : State, pinsLive s = true → ∃ t, exec (.clrw 0x11) s = .next t ∧ t.mons.snap11 = 0 ∧ Only [.mons] s t ∧
    (∀ k : Fin 24, mon t k =
      if 16 ≤ k.val && s.mons.snap11.getLsbD (k - 16) && !clrOf s k then { mon s k with latch := live s k } else mon s k) ∧
    (∀ k : Fin 7, t.mons.pcl[k] = (s.mons.pcl[k] && !s.mons.snap11.getLsbD (8 + k)))) ∧
  (∀ (q : BitVec 6) (s : State), pinsLive s = true → q ≠ 0x10 → q ≠ 0x11 → exec (.clrw q) s = .next s) ∧
  (∀ (sense : Vector Half 7) (s : State), ∃ t, exec (.latchPeriodClear sense) s = .next t ∧ Only [.free, .reg, .mons] s t ∧
    t.mons.snap10 = s.mons.snap10 ∧ t.mons.snap11 = s.mons.snap11 ∧ t.mons.pcl = s.mons.pcl ∧
    (clockRuns s = false → t.reg = s.reg) ∧
    (∀ k : Fin 24, mon t k = if clrOf s k then { mon s k with latch := live s k } else mon s k))

/-! ### Tether link (file 15) -/

/-- Sequence TLK-1, step by step, from PLL lock to the CREDIT that brings the port up (that FRESH sets E to 0 is log entry
24; that notices kept in safe mode leave then is log entry 31). -/
def Obligations.LinkBringUp : Prop :=
  ∀ (p : Port) (s : State),
    (atStep s p 1 = true →
      exec (.pllLock p) s = .next (modLink s p fun l => { l with step := 2, pe := 0, pereq := 0 }) ∧
      ∃ t, exec (.pllLockTimeout p) s = .next t ∧ (link t p).st = .lockFailed ∧ alertAsserted t = true) ∧
    (∀ (inv : Bool) (addr flags : Byte), atStep s p 2 = true →
      ∃ t, exec (.symbolLock p inv addr flags) s = .next t ∧ Only [.prot, .tether] s t ∧
        link t p = { link s p with step := 3, pol := inv, psafe := flags.getLsbD 4, settlings := 0 } ∧
        (addr ≠ 0 → stallAddr s = some addr.toNat → alertAsserted t = true)) ∧
    (∀ (boost : BitVec 4) (pe : BitVec 2), atStep s p 3 = true ∨ atStep s p 4 = true → (link s p).settlings < 3 →
      ∃ t, exec (.equaliserSettle p boost pe) s = .next t ∧ Only [.tether] s t ∧ (link t p).step = 4 ∧ (link t p).eq = boost ∧
        (link t p).settlings = (link s p).settlings + 1 ∧
        (13 ≤ boost.toNat → pe.toNat < 2 → (link t p).pereq = pe + 1) ∧
        (boost.toNat ≤ 3 → 0 < pe.toNat → (link t p).pereq = pe - 1)) ∧
    (∀ pe : BitVec 2, atStep s p 4 = true →
      exec (.partnerPereqApplied p pe) s = .next (modLink s p fun l => { l with step := 5, pe := pe })) ∧
    (atStep s p 5 = true → exec (.trainingDone p) s =
      .next (modLink s p fun l => { l with step := 6, tx := helloFrame s p, txEnd := .eof, fresh := false })) ∧
    (atStep s p 6 = true → exec (.helloTimeout p) s = .next (modLink s p fun l => { l with step := 2, settlings := 0 })) ∧
    (∀ rx : RxFrame, atStep s p 6 = true → linkControlOk rx 3 = true →
      ∃ t, exec (.hello p rx) s = .next t ∧ (link t p).st = .training ∧ (link t p).step = 7 ∧
        (link t p).creditSent = (!s.boot.safe || (link s p).creditSent) ∧
        (link t p).e = (if (payByte rx.bytes 1).getLsbD 0 then 0 else (link s p).e)) ∧
    (∀ rx : RxFrame, atStep s p 7 = true → linkControlOk rx 4 = true →
      ∃ t, exec (.credit p rx) s = .next t ∧ portUp t p = true ∧
        (link t p).ctl.plimit = BitVec.ofNat 16 (payField rx.bytes 2 2) ∧
        (link t p).bulk.plimit = BitVec.ofNat 16 (payField rx.bytes 6 2) ∧ t.queues.deferred = []) ∧
    (∀ rx : RxFrame, atStep s p 6 = false → linkControlOk rx 3 = true → exec (.hello p rx) s = .next (countCode s p rx)) ∧
    (∀ rx : RxFrame, portUp s p = false → atStep s p 7 = false → linkControlOk rx 4 = true → exec (.credit p rx) s = .next s) ∧
    (∀ rx : RxFrame, linkControlOk rx 3 = false → exec (.hello p rx) s = .next (badLinkControl (countCode s p rx) p rx))

/-- LINK_DOWN and an up port's ACK, ACK_SEND, GO_BACK_TIMEOUT, CREDIT_SEND and FRAME_SEND: what is acknowledged is
released, a go-back resends every outstanding frame from the oldest, the sixteenth in a row takes the port down, a limit
is never lowered, a due ACK leaves first, then what is to be resent, then the next new frame under the next number. A frame
whose memories are not on waits for them.
(What LIMIT may promise is log entry 21; what a port that holds may still start is log entry 163.) -/
def Obligations.LinkSendsAndAcknowledges : Prop :=
  ∀ (p : Port) (s : State), portUp s p = true →
    (∀ c : DownCause, quiet s → ∃ t, exec (.linkDown p c) s = .next t ∧ portUp t p = false ∧ (link t p).out = (link s p).out ∧
      (link t p).ctl.plimit = 0 ∧ (link t p).bulk.plimit = 0 ∧ (orderlyDown c = false → alertAsserted t = true)) ∧
    (∀ (rx : RxFrame) (h : Byte) (f : QFrame) (rest : List (Byte × QFrame)) (k : Nat), s.boot.safe = false →
      linkControlOk rx 5 = true → (link s p).out = (h, f) :: rest → k = (payByte rx.bytes 0 - h).toNat →
      (rest.length + 1 < k → exec (.ack p rx) s = .next (countCode s p rx)) ∧
      (k ≤ rest.length + 1 → (payByte rx.bytes 1).getLsbD 0 = false →
        ∃ t, exec (.ack p rx) s = .next t ∧ (link t p).out = (link s p).out.drop k ∧ Only [.tether, .queues] s t ∧
          (∀ x ∈ (link s p).out.take k, ∀ c ∈ x.2.cells, c ∉ t.queues.alloc) ∧ (0 < k → (link t p).goBacks = 0)) ∧
      (k = 0 → (payByte rx.bytes 1).getLsbD 0 = true → (link s p).goBackDue = false → 15 ≤ (link s p).goBacks →
        ∃ t, exec (.ack p rx) s = .next t ∧ portUp t p = false ∧ alertAsserted t = true) ∧
      (k ≤ rest.length → (payByte rx.bytes 1).getLsbD 0 = true → (link s p).goBackDue = false → (link s p).goBacks < 15 →
        ∃ t, exec (.ack p rx) s = .next t ∧ (link t p).out = (link s p).out.drop k ∧
          (link t p).resend = ((link s p).out.drop k).map (·.1) ∧ (link t p).goBackDue = true)) ∧
    (∀ rx : RxFrame, s.boot.safe = false → linkControlOk rx 5 = false →
      exec (.ack p rx) s = .next (badLinkControl (countCode s p rx) p rx)) ∧
    ((link s p).ackDue = true → s.boot.safe = false →
      ∀ i, i = .ackSend p ∨ (holding s (portDom p) = false ∧ ∃ e, i = .frameSend p e) →
      exec i s = .next (modLink s p fun l =>
        { l with ackDue := false, nak := false, tx := ackFrame s l.e l.nak, txEnd := .eof })) ∧
    ((link s p).out ≠ [] → (link s p).goBackDue = false → ∃ t, exec (.goBackTimeout p) s = .next t ∧
      ((link s p).goBacks < 15 → (link t p).resend = (link s p).out.map (·.1) ∧ (link t p).goBackDue = true ∧
        (link t p).goBacks = (link s p).goBacks + 1 ∧ (link t p).out = (link s p).out ∧ Only [.tether] s t) ∧
      (15 ≤ (link s p).goBacks → portUp t p = false ∧ alertAsserted t = true)) ∧
    (s.boot.safe = false → ((BitVec.ofNat 16 (link s p).bulk.taken : Half) - (link s p).bulk.freed).toNat ≤
        (link s p).bulk.limit.toNat → (link s p).bulk.limit.toNat ≤ 65000 →
      ∃ t, exec (.creditSend p) s = .next t ∧ Only [.free, .tether] s t ∧
        (link t p).tx = creditFrame s (link t p).ctl (link t p).bulk ∧ (link t p).txEnd = .eof ∧
        (link s p).ctl.limit.toNat ≤ (link t p).ctl.limit.toNat ∧ (link s p).bulk.limit.toNat ≤ (link t p).bulk.limit.toNat ∧
        (link t p).ctl.freedSent = (link s p).ctl.freed ∧ (link t p).bulk.freedSent = (link s p).bulk.freed) ∧
    (∀ (h : Byte) (f : QFrame), s.boot.safe = false → (link s p).ackDue = false → holding s (portDom p) = false →
      (link s p).out.find? (fun x => (link s p).resend.contains x.1) = some (h, f) →
      maySend (link s p) (clsOf (fTyp f.bytes)) (cellsOf f.bytes) = true →
      (canRead s f = true → ∃ t, exec (.frameSend p .clean) s = .next t ∧ (link t p).tx = txBytes f.bytes h (fWrap f.bytes) ∧
        (link t p).txEnd = .eof ∧ (link t p).out = (link s p).out ∧ h ∉ (link t p).resend ∧ Only [.tether] s t) ∧
      (canRead s f = false → ∀ e, exec (.frameSend p e) s = .next (askAccess s f))) ∧
    (∀ (tag : Nat) (f : QFrame), s.boot.safe = false → (link s p).ackDue = false → holding s (portDom p) = false →
      (link s p).out.find? (fun x => (link s p).resend.contains x.1) = none → (link s p).out.length < 32 →
      nextNew s p = some (tag, f) →
      (canRead s f = false → ∀ e, exec (.frameSend p e) s = .next (askAccess s f)) ∧
      (canRead s f = true →
        ∃ t g, exec (.frameSend p .clean) s = .next t ∧ (link t p).out = (link s p).out ++ [((link s p).next, g)] ∧
          (link t p).next = (link s p).next + 1 ∧ (link t p).tx = txBytes g.bytes (link s p).next (fWrap g.bytes) ∧
          (link t p).txEnd = .eof ∧ (tag = noticeTag → dirH s ≠ p → g = { f with bytes := withWrap f.bytes }) ∧
          (tag ≠ noticeTag ∨ dirH s = p → g = f) ∧ queueOf t tag = (queueOf s tag).drop 1 ∧ Only [.tether, .queues] s t))

/-! ### Tether frames (files 05, 16 and 17) -/

/-- A frame that the hop accepts takes the number E, is acknowledged, and then is handled by its row; in safe mode it is
repeated on the other port unchanged; one that does not check is counted and answered with a NAK, once. A DATA frame for
this device alone joins its drop queue, an ECHO request from the head end is answered, probes turn loop mode on, and a break
report on U turns H to D. (Which numbers lie at or after E is log entry 23.) -/
def Obligations.FramesAreAccepted : Prop :=
  (∀ (p : Port) (rx : RxFrame) (i : Instr) (s : State), s.boot.safe = false → hopOk s p rx = true →
    (malformed rx.bytes = false ∧
      ((i = .data p rx none ∧ (fTyp rx.bytes = 1 ∨ fTyp rx.bytes = 7)) ∨ (i = .notice p rx ∧ fTyp rx.bytes = 2) ∨
       (i = .echoRequest p rx ∧ fTyp rx.bytes = 8 ∧ echoIsRequest rx.bytes = true) ∨
       (i = .echoReply p rx ∧ fTyp rx.bytes = 8 ∧ echoIsRequest rx.bytes = false) ∨
       (i = .ringBreak p rx ∧ fTyp rx.bytes = 9 ∧ ringIsBreak rx.bytes = true) ∨
       (i = .ringProbe p rx ∧ fTyp rx.bytes = 9 ∧ ringIsBreak rx.bytes = false) ∨
       (i = .reelPart p rx ∧ fTyp rx.bytes = 6 ∧ partLast rx.bytes = false) ∨
       (i = .reelPartLast p rx ∧ fTyp rx.bytes = 6 ∧ partLast rx.bytes = true))) ∨
      (i = .malformedFrame p rx ∧ malformed rx.bytes = true) →
    ∃ t, exec i s = .next t ∧ (link t p).e = (link s p).e + 1 ∧ (link t p).ackDue = true ∧ (link t p).nak = false ∧
      (i = .ringProbe p rx → fromUs s rx.bytes = false → (payByte rx.bytes 1).getLsbD 0 = true → hasPort s .d = true →
        t.tether.loop = true) ∧
      (i = .ringBreak p rx → fromUs s rx.bytes = false → s.tether.loop = true → p = .u → t.tether.hIsD = true)) ∧
  (∀ (p : Port) (rx : RxFrame) (i : Instr) (s : State), s.boot.safe = true → portUp s p = true →
    portUp s (otherPort p) = true → cabled s (otherPort p) = true →
    i = .data p rx none ∨ i = .notice p rx ∨ i = .malformedFrame p rx ∨ i = .frameDiscarded p rx ∨ i = .ack p rx ∨
      i = .credit p rx →
    exec i s = .next (modLink (countCode s p rx) (otherPort p) fun l => { l with tx := rx.bytes, txEnd := rx.ending })) ∧
  (∀ (p : Port) (rx : RxFrame) (s : State), s.boot.safe = false → portUp s p = true → linkControl (fTyp rx.bytes) = false →
    rxBad rx = true → rx.ending ≠ .eab → atOrAfter (fHseq rx.bytes) (link s p).e = true → (link s p).nakSent = false →
    ∃ t, exec (.frameDiscarded p rx) s = .next t ∧ t.win.ecrc = min 0xFFFF (s.win.ecrc + 1) ∧ (link t p).e = (link s p).e ∧
      (link t p).nak = true ∧ (link t p).ackDue = true ∧ (link t p).nakSent = true ∧ t.queues = s.queues) ∧
  (∀ (p : Port) (rx : RxFrame) (u s : State), s.boot.safe = false → hopOk s p rx = true → malformed rx.bytes = false →
    quiet s → inOutage s = false → (frameDecision s p).1 = ⟨.dflt, none⟩ → (frameDecision s p).2.1 = false →
    forUsAlone s rx.bytes = true → fromUs s rx.bytes = false →
    u = (hopReceive (frameDecision (countCode s p rx) p).2.2 p rx).1 →
    (fTyp rx.bytes = 1 → copyRoom s (cellsOf rx.bytes) (.drop (localTag rx.bytes none)) .bulk = true →
      ∃ t f, exec (.data p rx none) s = .next t ∧ f.bytes = rx.bytes ∧
        queueOf t (localTag rx.bytes none) = queueOf s (localTag rx.bytes none) ++ [f] ∧
        link t (otherPort p) = link s (otherPort p)) ∧
    (fTyp rx.bytes = 8 → echoIsRequest rx.bytes = true → fSrc rx.bytes = 0 →
      noticeUsed u + cellsOf rx.bytes ≤ (queueCfg s).notRes → (pickCells u (cellsOf rx.bytes)).length = cellsOf rx.bytes →
      ∃ t, exec (.echoRequest p rx) s = .next t ∧ ∃ f ∈ queueOf t (holdTag (originPort u).1 .ctl),
        f.bytes = mkFrame 8 (originPort u).2 0 0 (ownAddr s) 0 (ownGroup s) s.tether.sseq
          (2 :: (payload rx.bytes).drop 1)))

/-- The delivery of a Reel: a first part begins a transfer to the other slot, a later one follows in its place, one whose MAC
fails, and one beyond the window of 32, changes no transfer; FLASH_PART_PROGRAMMED writes the part, a failure (which spoils
the slot, log entry 148) or TRANSFER_TIMEOUT abandons the transfer, and after the last part SLOT_VERIFIED ends it and
restarts the device when the slot verifies and ACT or safe mode says so. -/
def Obligations.ReelIsDelivered : Prop :=
  (∀ (p : Port) (rx : RxFrame) (i : Instr) (s : State), s.boot.safe = false → hopOk s p rx = true →
    malformed rx.bytes = false → fTyp rx.bytes = 6 → fromUs s rx.bytes = false →
    i = (if partLast rx.bytes then .reelPartLast p rx else .reelPart p rx) →
    forUsAlone s rx.bytes = true → fSrc rx.bytes = 0 → takesParts s = true →
    (partMacOk s rx.bytes = true → partAligned rx.bytes = true → s.xfer = none → partOff rx.bytes = 0 →
      (∀ r, s.reel = some r → r.version.toNat < field (partData rx.bytes) 8 4) →
      ((nvmCopy s).map (·.minVer.toNat)).getD 0 ≤ field (partData rx.bytes) 8 4 →
      headerFieldsOk ((partData rx.bytes).take 64) = true →
      ∃ t x, exec i s = .next t ∧ t.xfer = some x ∧ x.xfer = partXfer rx.bytes ∧ x.slot = targetSlot s ∧ x.port = p ∧
        x.inFlash = [partData rx.bytes] ∧ x.next = partDlen rx.bytes ∧ x.programmed = 0 ∧ x.last = partLast rx.bytes ∧
        x.parts = [(0, partDlen rx.bytes)]) ∧
    (∀ x, s.xfer = some x → partMacOk s rx.bytes = true → partAligned rx.bytes = true → partXfer rx.bytes = x.xfer →
      x.programmed < partOff rx.bytes + partDlen rx.bytes →
      (partOff rx.bytes = x.next → x.last = false → partsOut x < 32 →
        ∃ t, exec i s = .next t ∧ t.xfer = some { queuePart x rx.bytes with port := p }) ∧
      (x.next ≤ partOff rx.bytes → 32 ≤ partsOut x → ∃ t, exec i s = .next t ∧ t.xfer = some { x with port := p })) ∧
    (partMacOk s rx.bytes = false → ∃ t, exec i s = .next t ∧ t.xfer.map (·.next) = s.xfer.map (·.next) ∧
      t.xfer.map (·.inFlash) = s.xfer.map (·.inFlash) ∧ t.flash = s.flash)) ∧
  (∀ (x : Transfer) (d : List Byte) (rest : List (List Byte)) (s : State), s.xfer = some x → x.inFlash = d :: rest →
    (∃ t y, exec (.flashPartProgrammed true) s = .next t ∧ t.xfer = some y ∧ y.inFlash = rest ∧
      y.programmed = x.programmed + d.length ∧ y.slot = x.slot ∧
      t.flash = programPart s.flash (slotBase x.slot) x.programmed d) ∧
    (∃ t, exec (.flashPartProgrammed false) s = .next t ∧ t.xfer = none ∧
      t.flash = spoilSlot s.flash (slotBase x.slot) x.programmed d)) ∧
  (∀ (x : Transfer) (s : State), s.xfer = some x → x.last = false →
    ∃ t, exec .transferTimeout s = .next t ∧ t.xfer = none ∧ t.flash = s.flash ∧ t.reel = s.reel) ∧
  (∀ (x : Transfer) (s : State), s.xfer = some x → x.last = true → x.inFlash = [] →
    ∃ t, exec .slotVerified s = .next t ∧ t.xfer = none ∧ t.flash = s.flash ∧
      (slotValid { s with xfer := none } x.slot = false ∨ (x.act = false ∧ s.boot.safe = false) → t.boot = s.boot ∧
        t.reel = s.reel) ∧
      (slotValid { s with xfer := none } x.slot = true → x.act = true ∨ s.boot.safe = true →
        keepsRunning s .main = false → keepsRunning s .aux = false →
        t.boot.rcause = 4 ∧ t.reel = none ∧ t.boot.safe = false ∧
        (s.boot.inReset = false → identOk s.ident = true → t.boot.step = .sampling)))

/-! ### Queues, notices and loss (files 16, 17 and 21) -/

/-- NOTICE_CLOSE builds the NOTICE of the gathered entries under the next NSEQ and SSEQ once the memories allow it (log entry
162); LOST_ENTRY_REPORT and WATERMARK_REPORT_ENTRY send their entry when it finds room and else wait (the entries kept in a
reset first, log entry 141); AGEING_EXPIRY removes and reports a frame whose time is over, never in an outage, and every
outstanding frame of a port long down; AGEING_WAKE is due once; LOSS_RESOLUTION leaves no lost bank unresolved. -/
def Obligations.QueuesNoticesAndLoss : Prop :=
  (∀ s : State, (s.queues.gather = [] → exec .noticeClose s = .next s) ∧
    (∀ b, s.queues.gather ≠ [] → b = mkFrame 2 false 0 0 (ownAddr s) 0 (ownGroup s) s.tether.sseq
        (toBe 2 s.tether.nseq.toNat ++ [BitVec.ofNat 8 s.queues.gather.length, 0] ++ s.queues.gather.flatten) →
      (canClose s (cellsOf b) = false → exec .noticeClose s = .next ([8, 9, 10, 11, 12].foldl idleReturn s)) ∧
      (canClose s (cellsOf b) = true → ∃ t f, exec .noticeClose s = .next t ∧
      queueOf t noticeTag = queueOf s noticeTag ++ [f] ∧ f.bytes = b ∧ t.queues.gather = [] ∧ t.tether.nseq = s.tether.nseq + 1 ∧ t.tether.sseq = s.tether.sseq + 1 ∧
      (∀ tag, tag ≠ noticeTag → queueOf t tag = queueOf s tag) ∧ Only [.tether, .queues] s t))) ∧
  (∀ s : State, s.queues.lostEntries ≠ 0 →
    (∀ u, entryIfRoom s (entryPlain 0x0F (toBe 4 s.queues.lostEntries)) = some u →
      exec .lostEntryReport s = .next { u with queues.lostEntries := 0 }) ∧
    (entryIfRoom s (entryPlain 0x0F (toBe 4 s.queues.lostEntries)) = none → exec .lostEntryReport s = .next s)) ∧
  (∀ (src : Nat) (n : Half) (r : Byte) (rest : List (Nat × Half × Byte)) (s : State),
    s.queues.kept = [] → s.integ.cursor = (src, n, r) :: rest →
    (∀ u, entryIfRoom s (entryFrame r ⟨BitVec.ofNat 8 src, 0, n, 0, 0⟩ []) = some u →
      exec .watermarkReportEntry s = .next { u with integ.cursor := rest }) ∧
    (entryIfRoom s (entryFrame r ⟨BitVec.ofNat 8 src, 0, n, 0, 0⟩ []) = none → exec .watermarkReportEntry s = .next s)) ∧
  (∀ (e : List Byte) (rest : List (List Byte)) (s : State), s.queues.kept = e :: rest →
    (∀ u, entryIfRoom s e = some u → exec .watermarkReportEntry s = .next { u with queues.kept := rest }) ∧
    (entryIfRoom s e = none → exec .watermarkReportEntry s = .next s)) ∧
  (∀ s : State, s.queues.kept = [] → s.integ.cursor = [] → exec .watermarkReportEntry s = .next s) ∧
  (∀ (tag : Half) (s : State), (inOutage s = true → exec (.ageingExpiry tag) s = .next s) ∧
    (∀ f, inOutage s = false → outPort tag.toNat = none → quiet s →
      (queueOf s tag.toNat).find? (fun f => !f.busy && (match frameExpiry s tag.toNat f with
        | some x => decide (x ≤ msNow s) | none => false)) = some f → isOn s 15 = true → canRead s f = true →
      ∃ t, exec (.ageingExpiry tag) s = .next t ∧ queueOf t tag.toNat = (queueOf s tag.toNat).erase f ∧
        (∀ c ∈ f.cells, c ∉ t.queues.alloc)) ∧
    (∀ p x, inOutage s = false → outPort tag.toNat = some p → outExpiry s p = some x → x ≤ msNow s →
      isOn s 15 = true → (∀ y ∈ (link s p).out, canRead s y.2 = true) →
      ∃ t, exec (.ageingExpiry tag) s = .next t ∧ (link t p).out = [] ∧ (link t p).resend = [])) ∧
  (∀ (x : Nat) (s : State), s.queues.earliest = some x → inOutage s = false → s.boot.safe = false → x ≤ msNow s →
    ∃ t, exec .ageingWake s = .next t ∧ t.queues.earliest = none ∧ (∀ d, isOn t d = true → isOn s d = true) ∧
      (isOn s 8 = true → isOn s 15 = true → (∀ q, q ∈ [9, 10, 11, 12] → isOn s q = true) →
        t = { s with queues.earliest := none })) ∧
  (∀ (bad : List Nat) (s : State), s.integ.banks ≠ [] ∨ s.integ.orphans ≠ [] → isOn s 8 = true → isOn s 15 = true →
    s.outage.step < 6 →
    ∃ t, exec (.lossResolution bad) s = .next t ∧ t.integ.banks = [] ∧
      ((∀ b : Nat, b < 4 → (8, b) ∈ s.integ.banks) → t.queues.qs = [] ∧ t.queues.alloc = [] ∧
        (∀ p, (link t p).out = []) ∧ (∀ m ∈ t.queues.marks, m.held = 0)))

/-! ### Drop port (file 18) -/

/-- The drop port: DDIR takes effect between units, words make units, a unit that fails a check gets a refusal at once, one
that passes waits for its verdict, which takes the frame whole or refuses it; PULL names a queue; a fetch starts a verdict
before any frame, and a frame leaves its queue and its cells when its last word has been taken.
(How verdicts are counted is log entry 121; that a fetch waits for a verdict that is due, 171.) -/
def Obligations.DropPortUnits : Prop :=
  (∀ (l : Bool) (s : State), ∃ t, exec (.ddirChange l) s = .next t ∧ t.pins = { s.pins with ddir := l } ∧
    (dropActive s = true → s.drop.inUnit = false → s.drop.egress = none → t.drop = { s.drop with ingressDir := l }) ∧
    (s.drop.inUnit = true ∨ s.drop.egress ≠ none ∨ dropActive s = false → t.drop = s.drop)) ∧
  (∀ (w : Half) (dp : BitVec 2) (sof eof : Bool) (e : EccResult) (s : State), dropActive s = true → s.drop.ingressDir = true →
    (s.drop.inUnit = true → ∃ t, exec (.dropWordTransfer w dp sof eof e) s = .next t ∧
      t.drop.words = s.drop.words ++ [⟨w, dp, sof, eof⟩] ∧ t.drop.inUnit = (!eof)) ∧
    (s.drop.inUnit = false → (sof && eof) = false → holding s 16 = false →
      ∃ t, exec (.dropWordTransfer w dp sof eof e) s = .next t ∧
      t.drop.words = [⟨w, dp, sof, eof⟩] ∧ t.drop.inUnit = (!eof) ∧
      t.drop.overFour = decide (4 ≤ s.drop.verdicts.length + s.drop.waiting.length))) ∧
  (∀ (w : Half) (dp : BitVec 2) (sof eof : Bool) (g : Egress) (x : DropWord) (rest : List DropWord) (s : State),
    dropActive s = true → s.drop.ingressDir = false → s.drop.egress = some g → g.words = x :: rest → rest ≠ [] →
    exec (.dropWordTransfer w dp sof eof .clean) s =
      .next { s with drop.dq := x, drop.egress := some { g with words := rest } }) ∧
  (∀ (gap : Bool) (r : Byte) (s : State), dropActive s = true → s.drop.inUnit = false → s.drop.words ≠ [] →
    s.drop.waiting = [] → r = ingressReason s.drop.words s.drop.afterOutage gap →
    ∃ t, exec (.ingressUnit gap) s = .next t ∧ t.drop.words = [] ∧ Only [.drop] s t ∧
      (s.drop.overFour = true → t.drop.verdicts = s.drop.verdicts ∧ t.drop.waiting = []) ∧
      (s.drop.overFour = false → r ≠ 0 → t.drop.verdicts = s.drop.verdicts ++ [⟨false, r, 0⟩] ∧ t.drop.waiting = []) ∧
      (s.drop.overFour = false → r = 0 → t.drop.verdicts = s.drop.verdicts ∧
        t.drop.waiting = [((wordBytes s.drop.words).take (20 + fLen (wordBytes s.drop.words)), 0)])) ∧
  (∀ (b : List Byte) (r : Byte) (rest : List (List Byte × Byte)) (s : State), s.drop.waiting = (b, r) :: rest →
    dropActive s = true → streamRuns s .host = false → quiet s →
    ∃ t v more, exec .verdictReady s = .next t ∧ t.drop.verdicts = s.drop.verdicts ++ v :: more ∧ t.engs.decHost = none ∧
      ((v.ok = true ∧ v.reason = 0 ∧ v.value = s.tether.sseq ∧ t.tether.sseq = s.tether.sseq + 1) ∨
       (v = ⟨false, 6, 0⟩ ∧ t.tether = s.tether ∧ t.queues.qs = s.queues.qs ∧ t.queues.alloc = s.queues.alloc))) ∧
  (∀ (w : Half) (dp : BitVec 2) (s : State), dropActive s = true → s.drop.ingressDir = true → s.drop.inUnit = false →
    (pullMode s = false → exec (.pullWord w dp) s = .next s) ∧
    (pullMode s = true → exec (.pullWord w dp) s = .next (
      if dp ≠ parityOf w then { s with drop.pull := none, drop.pullReason := 0x01 }
      else if 0xFFF0 ≤ w.toNat then { s with drop.pull := none, drop.pullReason := 0x0B }
      else { s with drop.pull := some w, drop.pullReason := 0 }))) ∧
  (∀ s : State, dropActive s = true → s.drop.ingressDir = false → s.drop.egress = none → holding s 16 = false →
    (s.drop.verdicts = [] → s.drop.waiting ≠ [] → exec (.egressFetch .clean) s = .next s) ∧
    (∀ v rest, s.drop.verdicts = v :: rest → ∃ t g, exec (.egressFetch .clean) s = .next t ∧ t.drop.verdicts = rest ∧
      t.drop.egress = some g ∧ t.drop.dq :: g.words = statusUnit (if v.ok then 0 else 1) v.reason.toNat v.value) ∧
    (s.drop.verdicts = [] → s.drop.waiting = [] → inOutage s = true ∨ chosenQueue s = none → ∃ t g, exec (.egressFetch .clean) s = .next t ∧
      t.drop.egress = some g ∧ t.drop.dq :: g.words = emptyUnit s ∧ Only [.drop] s t) ∧
    (∀ tag f rest, s.drop.verdicts = [] → s.drop.waiting = [] → inOutage s = false → chosenQueue s = some tag →
      queueOf s tag = f :: rest → canRead s f = true →
      ∃ t g, exec (.egressFetch .clean) s = .next t ∧ t.drop.lastTag = tag ∧ t.drop.egress = some g ∧
        t.drop.dq :: g.words = egressWords f tag ∧ g.tag = some tag ∧
        queueOf t tag = { f with busy := true } :: rest ∧ Only [.queues, .drop] s t)) ∧
  (∀ (tag : Nat) (f : QFrame) (s : State), s.drop.egress = some ⟨[], some tag⟩ → dropActive s = true →
    takenFrame s tag = some f → ∃ t, exec .egressComplete s = .next t ∧ t.drop.egress = none ∧
      queueOf t tag = (queueOf s tag).erase f ∧ (∀ c ∈ f.cells, c ∉ t.queues.alloc))

/-! ### Status window (file 19) -/

/-- A counted read puts the word on QD and acts as its row says: it ends the alerts of its word, clears the count or the
counter read, loads a group into its latch, or marks the records read; before step 11 the words read 0 and nothing is
cleared. (That QD shows the word of the last counted read is log entry 134.) -/
def Obligations.StatusReadsActOnce : Prop :=
  ∀ s : State, pinsLive s = true →
    (∃ t, exec .readW04 s = .next t ∧ t.win = { s.win with qd := word04 s, qcsN := true, qoeN := true } ∧
      Alarm.macFail ∉ t.prot.alerts ∧ Alarm.crystal ∉ t.prot.alerts ∧
      (isReady s = true → t.front = { s.front with macf := false }) ∧ (isReady s = false → t.front = s.front)) ∧
    (isReady s = true →
      (∃ t, exec .readW0b s = .next t ∧ t.win = { s.win with qd := word0b s, qcsN := true, qoeN := true } ∧
        t.bridle = { s.bridle with w0b := { s.bridle.w0b with cnt := 0, unread := false } }) ∧
      (∀ h : GroupHead, ∃ t, exec (.readGroupHead h) s = .next t ∧ t.win.head = headAddr h ∧
        t.win.gcnt = (s.win.gcnt + 1) % 1024 ∧
        t.win.qd = (match h with | .w08 => wordDoms s 0 | .w13 => wordReg s 0 | .w16 => wordRecord s 0 | .w2e => word2e s) ∧
        (h = .w08 → t.win.g08 = #v[wordDoms s 0, wordDoms s 1, wordDoms s 2]) ∧
        (h = .w13 → t.win.g13 = #v[wordReg s 0, wordReg s 1, wordReg s 2]) ∧
        (h = .w16 → (∀ k : Fin 10, t.win.g16[k] = wordRecord s k) ∧
          t.prot.recAlarms = (s.prot.recAlarms.filter fun a => !a.ended).map fun a => { a with read := true }) ∧
        (h = .w2e → t.win.g2e = #v[word2e s, s.win.iid] ∧ t.win.icnt = 0) ∧ Only [.prot, .win] s t) ∧
      (∀ k : Fin 4, ∃ t, exec (.readErrorCounter k) s = .next t ∧ t.win.qd = w16 (errorCounter s k) ∧ errorCounter t k = 0 ∧
        (∀ j : Fin 4, j ≠ k → errorCounter t j = errorCounter s j) ∧ Only [.win] s t) ∧
      (∀ p : Port, ∃ t, exec (.readPortStatus p) s = .next t ∧ t.win = { s.win with qd := wordPort s p, qcsN := true, qoeN := true } ∧
        link t p = { link s p with err := 0 } ∧ link t (otherPort p) = link s (otherPort p) ∧
        Alarm.linkDown p ∉ t.prot.alerts ∧ Alarm.lockFail p ∉ t.prot.alerts) ∧
      (∃ t, exec .readEngineStatus s = .next t ∧ t.win = { s.win with qd := word2c s, qcsN := true, qoeN := true } ∧ Alarm.lineLost ∉ t.prot.alerts ∧
        ∀ e : Fin 4, Alarm.engineFail e ∉ t.prot.alerts) ∧
      (∃ t, exec .readLostMatch s = .next t ∧ t.win = { s.win with
          qd := if variant s = 2 then 0 else s.win.w2d, qcsN := true, qoeN := true } ∧
        Alarm.lostMatch ∉ t.prot.alerts)) ∧
    (isReady s = false → ∀ i, i = .readW0b ∨ (∃ k, i = .readWakeCause k) ∨ (∃ h, i = .readGroupHead h) ∨
      (∃ k, i = .readErrorCounter k) ∨ (∃ p, i = .readPortStatus p) ∨ i = .readEngineStatus ∨ i = .readLostMatch →
      exec i s = .next { s with win.qd := 0, win.qcsN := true, win.qoeN := true })

/-! ### Outages, the backup store and the pace rails (files 20 and 22) -/

/-- The outage sequence: a starter begins it, or joins one that runs; OUTAGE_FLIGHT_DONE goes on to the descent,
OUTAGE_RETENTION_REACHED to the dwell on VBAK, DWELL_EXPIRY to the last step with every pending raise cancelled;
INPUT_RETURN ends or reverses it, and REVERSAL_RAILS_DONE ends the reversal. (Profiles that wait are cancelled at the
start: log entry 97; the island's move back: 105 and 110; the mark settle: 140.) -/
def Obligations.OutageSequence : Prop :=
  (∀ s : State, isReady s = true → s.boot.inReset = false → s.outage.step = 0 →
    (∃ t, exec .pfailAssert s = .next t ∧ t.outage.step = 3 ∧ t.outage.fired = [.pfail] ∧ t.outage.undo = none ∧
      t.pins = { s.pins with pfailN := false } ∧ t.bridle.waiting = [] ∧ t.xfer = none ∧ t.rules.openSet = none ∧
      t.nvm.hours = s.hours ∧ (∀ d, isOn t d = isOn s d)) ∧
    (monActive s 4 = true → (mon s 4).below = true → isOn s 17 = true →
      ∃ t, exec .wm04Low s = .next t ∧ t.outage.step = 3 ∧ t.outage.fired = [.wm04] ∧ t.pins = s.pins) ∧
    (s.sup.vaon = true → s.sup.vbak = true → ∃ t, exec .vaonLoss s = .next t ∧ t.outage.step = 3 ∧
      t.outage.fired = [.vaon] ∧ t.gauge.onVbak = true ∧ t.sup = { s.sup with vaon := false })) ∧
  (∀ s : State, isReady s = true → s.boot.inReset = false → s.outage.step ≠ 0 →
    exec .pfailAssert s = .next { s with
      pins.pfailN := false, outage.fired := addNew s.outage.fired .pfail, outage.returned := false }) ∧
  (∀ s : State, s.outage.step = 3 → s.outage.undo = none →
    ∃ t, exec .outageFlightDone s = .next t ∧ (t.outage.step = 5 ∨ t.outage.step = 6)) ∧
  (∀ s : State, s.outage.step = 6 → s.outage.undo = none → (∀ d, d < 20 → outstanding s d = false) →
    (s.outage.returned = false → exec .outageRetentionReached s = .next { s with
      outage.step := 7, gauge.onVbak := s.gauge.onVbak || s.sup.vbak }) ∧
    (s.outage.returned = true → ∃ t, exec .outageRetentionReached s = .next t ∧
      (t.outage.undo = some 6 ∨ t.outage.undo = some 5))) ∧
  (∀ s : State, s.outage.step = 7 → s.outage.undo = none → s.outage.last = false →
    ∃ t, exec .dwellExpiry s = .next t ∧ t.outage.last = true ∧ t.act.outProfile = none ∧ t.outage.kept = [] ∧
      t.bridle = s.bridle ∧ (s.boot.step = .ready → t.boot.step = .running) ∧ (∀ k : Fin 4, (vget t.act.wake WakeWord.zero k).pend = false ∧
        (vget t.act.wake WakeWord.zero k).pin = (vget s.act.wake WakeWord.zero k).pin)) ∧
  (∀ s : State,
    (s.outage.step = 0 → ∃ t, exec .inputReturn s = .next t ∧ t.outage = s.outage ∧ t.gauge.onVbak = false) ∧
    (s.outage.step = 3 ∨ s.outage.last = true → s.outage.step ≠ 0 → s.outage.undo = none →
      ∃ t, exec .inputReturn s = .next t ∧ t.outage = { Outage.zero with settle := t.outage.settle } ∧
        (s.outage.kept = [] → t.outage.settle = false) ∧ t.gauge.onVbak = false) ∧
    (s.outage.step = 7 → s.outage.undo = none → s.outage.last = false →
      ∃ t, exec .inputReturn s = .next t ∧ (t.outage.undo = some 6 ∨ t.outage.undo = some 5) ∧ t.gauge.onVbak = false) ∧
    (s.outage.step = 5 ∨ s.outage.step = 6 → s.outage.undo = none → s.outage.last = false →
      ∃ t, exec .inputReturn s = .next t ∧ t.outage.returned = true ∧ t.outage.step = s.outage.step)) ∧
  (∀ s : State, s.outage.undo = some 5 → railsSettled s = true →
    (s.outage.fired = [] → ∃ t, exec .reversalRailsDone s = .next t ∧
      t.outage = { Outage.zero with settle := t.outage.settle } ∧ (s.outage.kept = [] → t.outage.settle = false) ∧
      t.gauge.onVbak = false) ∧
    (s.outage.fired ≠ [] → s.outage.returned = false → ∃ t, exec .reversalRailsDone s = .next t ∧ t.outage.undo = none ∧
      (t.outage.step = 5 ∨ t.outage.step = 6)))

/-- VBAK_READING moves W21 and W22, re-bases the gauge while the island runs from VAON, and acts the stages that two readings
in a row lie below (readings on VAON act none: log entry 104; the amount of a raise is free: 136); GAUGE_PACKET takes 1 nC;
PACE_LOOP moves each rail that is on by its canary, within its range, and CANARY_STALL holds a rail at the top. -/
def Obligations.StoreGaugeAndPace : Prop :=
  (∀ (mv : Nat) (tdie : Half) (s : State), s.boot.step ≠ .por →
    ∃ t, exec (.vbakReading mv tdie) s = .next t ∧ t.win.tdie = tdie ∧ t.gauge.vbak = mv ∧
      (s.gauge.onVbak = false → t.gauge.acted = s.gauge.acted ∧ t.gauge.below = 0 ∧ t.bridle = s.bridle ∧
        (gaugeOff s = false → t.gauge.q = qOf s mv)) ∧
      (s.gauge.onVbak = true → t.gauge.below = stagesBelow mv ∧
        t.gauge.acted = max s.gauge.acted (min s.gauge.below (stagesBelow mv)))) ∧
  (∀ s : State, s.gauge.onVbak = true → gaugeOff s = false →
    (1 < s.gauge.q → exec .gaugePacket s = .next { s with gauge.q := s.gauge.q - 1 }) ∧
    (s.gauge.q = 1 → ∃ t, exec .gaugePacket s = .next t ∧ t.gauge.q = 0 ∧ t.gauge.rebaseDue = true ∧
      (2800 ≤ s.gauge.vbak → t.gauge.gdrift = true ∧ alertAsserted t = true))) ∧
  (∀ (code : Vector Nat 3) (mem : Nat) (s : State), ∃ t, exec (.paceLoop code mem) s = .next t ∧ Only [.free, .pace] s t ∧
    ∀ k : Fin 3, ∀ l n, l = s.pace[k].level → n = paceNeed s k mem → t.pace[k].stalled = s.pace[k].stalled ∧
      (paceOn s k = false ∨ s.pace[k].stalled = true → t.pace[k].level = l) ∧
      (paceOn s k = true → s.pace[k].stalled = false → paceFloor s k ≤ l → l ≤ 48 →
        (100 * code[k] < 105 * n → l < 48 → l < t.pace[k].level ∧ t.pace[k].level ≤ 48) ∧
        (105 * n ≤ 100 * code[k] → 100 * code[k] < 115 * n → t.pace[k].level = min 48 (l + 1)) ∧
        (115 * n ≤ 100 * code[k] → 0 < n → 100 * code[k] ≤ 120 * n → t.pace[k].level = l) ∧
        (120 * n < 100 * code[k] → paceFloor s k < l → t.pace[k].level = l - 1)) ∧
      (paceOn s k = true → s.pace[k].stalled = false → l < paceFloor s k → t.pace[k].level = paceFloor s k)) ∧
  (∀ (k : Fin 3) (s : State), paceOn s k = true →
    exec (.canaryStall k) s = .next { s with pace := s.pace.set k ⟨48, true⟩ })
end

