-- ==== Sys2Proof/Laws/Frames.lean ====
section
/-! SUPPORT. Frames: how Only composes, and one lemma per set of parts that an update of the state names. -/

namespace Sys2Proof.Machine

/-- One list of parts lies within another. -/
def partsWithin (a b : List Part) : Bool := a.all fun p => b.contains p

theorem Only.refl (ps : List Part) (s : State) : Only ps s s := ⟨fun p _ => by cases p <;> rfl⟩

theorem Part.same_trans {p : Part} {s t u : State} (h : p.same s t) (k : p.same t u) : p.same s u := by
  cases p <;> exact Eq.trans k h

theorem not_contains_of_within {a b : List Part} (h : partsWithin a b = true) {p : Part} (hp : b.contains p = false) :
    a.contains p = false := by
  cases hc : a.contains p with
  | false => rfl
  | true =>
    have hm : p ∈ a := by simpa using hc
    have := List.all_eq_true.mp h p hm
    rw [hp] at this
    exact absurd this (by simp)

/-- A further change within the parts. -/
theorem Only.post {ps qs : List Part} {s t u : State} (h : Only ps s t) (k : Only qs t u)
    (w : partsWithin qs ps = true) : Only ps s u :=
  ⟨fun p hp => Part.same_trans (h.same p hp) (k.same p (not_contains_of_within w hp))⟩

/-- `Only.post`, its side condition first. -/
theorem Only.after {ps qs : List Part} {s t u : State} (w : partsWithin qs ps = true) (h : Only ps s t)
    (k : Only qs t u) : Only ps s u := Only.post h k w

/-- More parts may change. -/
theorem Only.mono {ps qs : List Part} {s t : State} (k : Only qs s t) (w : partsWithin qs ps = true) : Only ps s t :=
  Only.post (Only.refl ps s) k w

/-- A fold of changes within the parts. -/
theorem Only.foldl {α : Type} {ps : List Part} {s : State} {g : State → α → State}
    (hg : ∀ t x, Only ps s t → Only ps s (g t x)) (l : List α) {t : State} (h : Only ps s t) :
    Only ps s (l.foldl g t) := by
  induction l generalizing t with
  | nil => exact h
  | cons x r ih => exact ih (hg t x h)

/-- A pair known by its equation, state second. -/
theorem Only.after_snd {α : Type} {ps qs : List Part} {s t u : State} {a : α} {p : α × State} (w : partsWithin qs ps = true) (e : p = (a, u))
    (h : Only ps s t) (k : Only qs t p.2) : Only ps s u := by
  subst e; exact Only.post h k w

/-- A pair known by its equation, state first. -/
theorem Only.after_fst {α : Type} {ps qs : List Part} {s t u : State} {a : α} {p : State × α} (w : partsWithin qs ps = true) (e : p = (u, a))
    (h : Only ps s t) (k : Only qs t p.1) : Only ps s u := by
  subst e; exact Only.post h k w

/-- A triple known by its equation, state third. -/
theorem Only.after_thd {α β : Type} {ps qs : List Part} {s t u : State} {a : α} {b : β} {p : α × β × State}
    (w : partsWithin qs ps = true) (e : p = (a, b, u)) (h : Only ps s t) (k : Only qs t p.2.2) : Only ps s u := by
  subst e; exact Only.post h k w

/-- A fold of changes within the parts, of a state paired with more. -/
theorem Only.foldl_fst {α β : Type} {ps : List Part} {s : State} {g : State × β → α → State × β}
    (hg : ∀ t x, Only ps s t.1 → Only ps s (g t x).1) (l : List α) {t : State × β} (h : Only ps s t.1) :
    Only ps s (l.foldl g t).1 := by
  induction l generalizing t with
  | nil => exact h
  | cons x r ih => exact ih (hg t x h)

/-- Only, of a state that is written out field by field. -/
def OnlyMk (ps : List Part) (s t : State) : Prop := Only ps s t

theorem Only.mk_iff {ps : List Part} {s : State} {x0} {x1} {x2} {x3} {x4} {x5} {x6} {x7} {x8} {x9} {x10} {x11} {x12} {x13} {x14} {x15} {x16} {x17} {x18} {x19} {x20} {x21} {x22} {x23} {x24} {x25} {x26} {x27} {x28} {x29} :
    Only ps s (State.mk x0 x1 x2 x3 x4 x5 x6 x7 x8 x9 x10 x11 x12 x13 x14 x15 x16 x17 x18 x19 x20 x21 x22 x23 x24 x25 x26 x27 x28 x29) ↔
    OnlyMk ps s (State.mk x0 x1 x2 x3 x4 x5 x6 x7 x8 x9 x10 x11 x12 x13 x14 x15 x16 x17 x18 x19 x20 x21 x22 x23 x24 x25 x26 x27 x28 x29) := Iff.rfl

theorem Only.set_act {ps : List Part} {s t : State} (h : Only ps s t) (v0) (w : partsWithin [.act] ps = true) :
    OnlyMk ps s { t with act := v0 } :=
  Only.post h ⟨fun p hp => by cases p <;> first | rfl | simp at hp⟩ w

theorem Only.set_boot {ps : List Part} {s t : State} (h : Only ps s t) (v0) (w : partsWithin [.boot] ps = true) :
    OnlyMk ps s { t with boot := v0 } :=
  Only.post h ⟨fun p hp => by cases p <;> first | rfl | simp at hp⟩ w

theorem Only.set_bridle {ps : List Part} {s t : State} (h : Only ps s t) (v0) (w : partsWithin [.bridle] ps = true) :
    OnlyMk ps s { t with bridle := v0 } :=
  Only.post h ⟨fun p hp => by cases p <;> first | rfl | simp at hp⟩ w

theorem Only.set_drop {ps : List Part} {s t : State} (h : Only ps s t) (v0) (w : partsWithin [.drop] ps = true) :
    OnlyMk ps s { t with drop := v0 } :=
  Only.post h ⟨fun p hp => by cases p <;> first | rfl | simp at hp⟩ w

theorem Only.set_engs {ps : List Part} {s t : State} (h : Only ps s t) (v0) (w : partsWithin [.engs] ps = true) :
    OnlyMk ps s { t with engs := v0 } :=
  Only.post h ⟨fun p hp => by cases p <;> first | rfl | simp at hp⟩ w

theorem Only.set_flash {ps : List Part} {s t : State} (h : Only ps s t) (v0) (w : partsWithin [.flash] ps = true) :
    OnlyMk ps s { t with flash := v0 } :=
  Only.post h ⟨fun p hp => by cases p <;> first | rfl | simp at hp⟩ w

theorem Only.set_free {ps : List Part} {s t : State} (h : Only ps s t) (v0) (w : partsWithin [.free] ps = true) :
    OnlyMk ps s { t with free := v0 } :=
  Only.post h ⟨fun p hp => by cases p <;> first | rfl | simp at hp⟩ w

theorem Only.set_front {ps : List Part} {s t : State} (h : Only ps s t) (v0) (w : partsWithin [.front] ps = true) :
    OnlyMk ps s { t with front := v0 } :=
  Only.post h ⟨fun p hp => by cases p <;> first | rfl | simp at hp⟩ w

theorem Only.set_gauge {ps : List Part} {s t : State} (h : Only ps s t) (v0) (w : partsWithin [.gauge] ps = true) :
    OnlyMk ps s { t with gauge := v0 } :=
  Only.post h ⟨fun p hp => by cases p <;> first | rfl | simp at hp⟩ w

theorem Only.set_ident {ps : List Part} {s t : State} (h : Only ps s t) (v0) (w : partsWithin [.ident] ps = true) :
    OnlyMk ps s { t with ident := v0 } :=
  Only.post h ⟨fun p hp => by cases p <;> first | rfl | simp at hp⟩ w

theorem Only.set_integ {ps : List Part} {s t : State} (h : Only ps s t) (v0) (w : partsWithin [.integ] ps = true) :
    OnlyMk ps s { t with integ := v0 } :=
  Only.post h ⟨fun p hp => by cases p <;> first | rfl | simp at hp⟩ w

theorem Only.set_mons {ps : List Part} {s t : State} (h : Only ps s t) (v0) (w : partsWithin [.mons] ps = true) :
    OnlyMk ps s { t with mons := v0 } :=
  Only.post h ⟨fun p hp => by cases p <;> first | rfl | simp at hp⟩ w

theorem Only.set_now {ps : List Part} {s t : State} (h : Only ps s t) (v0) (w : partsWithin [.now] ps = true) :
    OnlyMk ps s { t with now := v0 } :=
  Only.post h ⟨fun p hp => by cases p <;> first | rfl | simp at hp⟩ w

theorem Only.set_nvm {ps : List Part} {s t : State} (h : Only ps s t) (v0) (w : partsWithin [.nvm] ps = true) :
    OnlyMk ps s { t with nvm := v0 } :=
  Only.post h ⟨fun p hp => by cases p <;> first | rfl | simp at hp⟩ w

theorem Only.set_outage {ps : List Part} {s t : State} (h : Only ps s t) (v0) (w : partsWithin [.outage] ps = true) :
    OnlyMk ps s { t with outage := v0 } :=
  Only.post h ⟨fun p hp => by cases p <;> first | rfl | simp at hp⟩ w

theorem Only.set_pace {ps : List Part} {s t : State} (h : Only ps s t) (v0) (w : partsWithin [.pace] ps = true) :
    OnlyMk ps s { t with pace := v0 } :=
  Only.post h ⟨fun p hp => by cases p <;> first | rfl | simp at hp⟩ w

theorem Only.set_pins {ps : List Part} {s t : State} (h : Only ps s t) (v0) (w : partsWithin [.pins] ps = true) :
    OnlyMk ps s { t with pins := v0 } :=
  Only.post h ⟨fun p hp => by cases p <;> first | rfl | simp at hp⟩ w

theorem Only.set_prot {ps : List Part} {s t : State} (h : Only ps s t) (v0) (w : partsWithin [.prot] ps = true) :
    OnlyMk ps s { t with prot := v0 } :=
  Only.post h ⟨fun p hp => by cases p <;> first | rfl | simp at hp⟩ w

theorem Only.set_queues {ps : List Part} {s t : State} (h : Only ps s t) (v0) (w : partsWithin [.queues] ps = true) :
    OnlyMk ps s { t with queues := v0 } :=
  Only.post h ⟨fun p hp => by cases p <;> first | rfl | simp at hp⟩ w

theorem Only.set_reg {ps : List Part} {s t : State} (h : Only ps s t) (v0) (w : partsWithin [.reg] ps = true) :
    OnlyMk ps s { t with reg := v0 } :=
  Only.post h ⟨fun p hp => by cases p <;> first | rfl | simp at hp⟩ w

theorem Only.set_rules {ps : List Part} {s t : State} (h : Only ps s t) (v0) (w : partsWithin [.rules] ps = true) :
    OnlyMk ps s { t with rules := v0 } :=
  Only.post h ⟨fun p hp => by cases p <;> first | rfl | simp at hp⟩ w

theorem Only.set_straps {ps : List Part} {s t : State} (h : Only ps s t) (v0) (w : partsWithin [.straps] ps = true) :
    OnlyMk ps s { t with straps := v0 } :=
  Only.post h ⟨fun p hp => by cases p <;> first | rfl | simp at hp⟩ w

theorem Only.set_sup {ps : List Part} {s t : State} (h : Only ps s t) (v0) (w : partsWithin [.sup] ps = true) :
    OnlyMk ps s { t with sup := v0 } :=
  Only.post h ⟨fun p hp => by cases p <;> first | rfl | simp at hp⟩ w

theorem Only.set_tap {ps : List Part} {s t : State} (h : Only ps s t) (v0) (w : partsWithin [.tap] ps = true) :
    OnlyMk ps s { t with tap := v0 } :=
  Only.post h ⟨fun p hp => by cases p <;> first | rfl | simp at hp⟩ w

theorem Only.set_tether {ps : List Part} {s t : State} (h : Only ps s t) (v0) (w : partsWithin [.tether] ps = true) :
    OnlyMk ps s { t with tether := v0 } :=
  Only.post h ⟨fun p hp => by cases p <;> first | rfl | simp at hp⟩ w

theorem Only.set_win {ps : List Part} {s t : State} (h : Only ps s t) (v0) (w : partsWithin [.win] ps = true) :
    OnlyMk ps s { t with win := v0 } :=
  Only.post h ⟨fun p hp => by cases p <;> first | rfl | simp at hp⟩ w

theorem Only.set_xfer {ps : List Part} {s t : State} (h : Only ps s t) (v0) (w : partsWithin [.xfer] ps = true) :
    OnlyMk ps s { t with xfer := v0 } :=
  Only.post h ⟨fun p hp => by cases p <;> first | rfl | simp at hp⟩ w

theorem Only.set_act_outage {ps : List Part} {s t : State} (h : Only ps s t) (v0) (v1) (w : partsWithin [.act, .outage] ps = true) :
    OnlyMk ps s { t with act := v0, outage := v1 } :=
  Only.post h ⟨fun p hp => by cases p <;> first | rfl | simp at hp⟩ w

theorem Only.set_boot_bridle {ps : List Part} {s t : State} (h : Only ps s t) (v0) (v1) (w : partsWithin [.boot, .bridle] ps = true) :
    OnlyMk ps s { t with boot := v0, bridle := v1 } :=
  Only.post h ⟨fun p hp => by cases p <;> first | rfl | simp at hp⟩ w

theorem Only.set_boot_engs {ps : List Part} {s t : State} (h : Only ps s t) (v0) (v1) (w : partsWithin [.boot, .engs] ps = true) :
    OnlyMk ps s { t with boot := v0, engs := v1 } :=
  Only.post h ⟨fun p hp => by cases p <;> first | rfl | simp at hp⟩ w

theorem Only.set_boot_ident {ps : List Part} {s t : State} (h : Only ps s t) (v0) (v1) (w : partsWithin [.boot, .ident] ps = true) :
    OnlyMk ps s { t with boot := v0, ident := v1 } :=
  Only.post h ⟨fun p hp => by cases p <;> first | rfl | simp at hp⟩ w

theorem Only.set_boot_pins {ps : List Part} {s t : State} (h : Only ps s t) (v0) (v1) (w : partsWithin [.boot, .pins] ps = true) :
    OnlyMk ps s { t with boot := v0, pins := v1 } :=
  Only.post h ⟨fun p hp => by cases p <;> first | rfl | simp at hp⟩ w

theorem Only.set_boot_straps {ps : List Part} {s t : State} (h : Only ps s t) (v0) (v1) (w : partsWithin [.boot, .straps] ps = true) :
    OnlyMk ps s { t with boot := v0, straps := v1 } :=
  Only.post h ⟨fun p hp => by cases p <;> first | rfl | simp at hp⟩ w

theorem Only.set_bridle_reg {ps : List Part} {s t : State} (h : Only ps s t) (v0) (v1) (w : partsWithin [.bridle, .reg] ps = true) :
    OnlyMk ps s { t with bridle := v0, reg := v1 } :=
  Only.post h ⟨fun p hp => by cases p <;> first | rfl | simp at hp⟩ w

theorem Only.set_engs_drop {ps : List Part} {s t : State} (h : Only ps s t) (v0) (v1) (w : partsWithin [.engs, .drop] ps = true) :
    OnlyMk ps s { t with engs := v0, drop := v1 } :=
  Only.post h ⟨fun p hp => by cases p <;> first | rfl | simp at hp⟩ w

theorem Only.set_flash_xfer {ps : List Part} {s t : State} (h : Only ps s t) (v0) (v1) (w : partsWithin [.flash, .xfer] ps = true) :
    OnlyMk ps s { t with flash := v0, xfer := v1 } :=
  Only.post h ⟨fun p hp => by cases p <;> first | rfl | simp at hp⟩ w

theorem Only.set_gauge_outage {ps : List Part} {s t : State} (h : Only ps s t) (v0) (v1) (w : partsWithin [.gauge, .outage] ps = true) :
    OnlyMk ps s { t with gauge := v0, outage := v1 } :=
  Only.post h ⟨fun p hp => by cases p <;> first | rfl | simp at hp⟩ w

theorem Only.set_mons_win {ps : List Part} {s t : State} (h : Only ps s t) (v0) (v1) (w : partsWithin [.mons, .win] ps = true) :
    OnlyMk ps s { t with mons := v0, win := v1 } :=
  Only.post h ⟨fun p hp => by cases p <;> first | rfl | simp at hp⟩ w

theorem Only.set_now_hours {ps : List Part} {s t : State} (h : Only ps s t) (v0) (v1) (w : partsWithin [.now, .hours] ps = true) :
    OnlyMk ps s { t with now := v0, hours := v1 } :=
  Only.post h ⟨fun p hp => by cases p <;> first | rfl | simp at hp⟩ w

theorem Only.set_nvm_prot {ps : List Part} {s t : State} (h : Only ps s t) (v0) (v1) (w : partsWithin [.nvm, .prot] ps = true) :
    OnlyMk ps s { t with nvm := v0, prot := v1 } :=
  Only.post h ⟨fun p hp => by cases p <;> first | rfl | simp at hp⟩ w

theorem Only.set_pins_bridle {ps : List Part} {s t : State} (h : Only ps s t) (v0) (v1) (w : partsWithin [.pins, .bridle] ps = true) :
    OnlyMk ps s { t with pins := v0, bridle := v1 } :=
  Only.post h ⟨fun p hp => by cases p <;> first | rfl | simp at hp⟩ w

theorem Only.set_prot_win {ps : List Part} {s t : State} (h : Only ps s t) (v0) (v1) (w : partsWithin [.prot, .win] ps = true) :
    OnlyMk ps s { t with prot := v0, win := v1 } :=
  Only.post h ⟨fun p hp => by cases p <;> first | rfl | simp at hp⟩ w

theorem Only.set_queues_integ {ps : List Part} {s t : State} (h : Only ps s t) (v0) (v1) (w : partsWithin [.queues, .integ] ps = true) :
    OnlyMk ps s { t with queues := v0, integ := v1 } :=
  Only.post h ⟨fun p hp => by cases p <;> first | rfl | simp at hp⟩ w

theorem Only.set_reg_mons {ps : List Part} {s t : State} (h : Only ps s t) (v0) (v1) (w : partsWithin [.reg, .mons] ps = true) :
    OnlyMk ps s { t with reg := v0, mons := v1 } :=
  Only.post h ⟨fun p hp => by cases p <;> first | rfl | simp at hp⟩ w

theorem Only.set_reg_outage {ps : List Part} {s t : State} (h : Only ps s t) (v0) (v1) (w : partsWithin [.reg, .outage] ps = true) :
    OnlyMk ps s { t with reg := v0, outage := v1 } :=
  Only.post h ⟨fun p hp => by cases p <;> first | rfl | simp at hp⟩ w

theorem Only.set_rules_bridle {ps : List Part} {s t : State} (h : Only ps s t) (v0) (v1) (w : partsWithin [.rules, .bridle] ps = true) :
    OnlyMk ps s { t with rules := v0, bridle := v1 } :=
  Only.post h ⟨fun p hp => by cases p <;> first | rfl | simp at hp⟩ w

theorem Only.set_rules_engs {ps : List Part} {s t : State} (h : Only ps s t) (v0) (v1) (w : partsWithin [.rules, .engs] ps = true) :
    OnlyMk ps s { t with rules := v0, engs := v1 } :=
  Only.post h ⟨fun p hp => by cases p <;> first | rfl | simp at hp⟩ w

theorem Only.set_rules_win {ps : List Part} {s t : State} (h : Only ps s t) (v0) (v1) (w : partsWithin [.rules, .win] ps = true) :
    OnlyMk ps s { t with rules := v0, win := v1 } :=
  Only.post h ⟨fun p hp => by cases p <;> first | rfl | simp at hp⟩ w

theorem Only.set_sup_gauge {ps : List Part} {s t : State} (h : Only ps s t) (v0) (v1) (w : partsWithin [.sup, .gauge] ps = true) :
    OnlyMk ps s { t with sup := v0, gauge := v1 } :=
  Only.post h ⟨fun p hp => by cases p <;> first | rfl | simp at hp⟩ w

theorem Only.set_sup_pins {ps : List Part} {s t : State} (h : Only ps s t) (v0) (v1) (w : partsWithin [.sup, .pins] ps = true) :
    OnlyMk ps s { t with sup := v0, pins := v1 } :=
  Only.post h ⟨fun p hp => by cases p <;> first | rfl | simp at hp⟩ w

theorem Only.set_sup_win {ps : List Part} {s t : State} (h : Only ps s t) (v0) (v1) (w : partsWithin [.sup, .win] ps = true) :
    OnlyMk ps s { t with sup := v0, win := v1 } :=
  Only.post h ⟨fun p hp => by cases p <;> first | rfl | simp at hp⟩ w

theorem Only.set_tether_queues {ps : List Part} {s t : State} (h : Only ps s t) (v0) (v1) (w : partsWithin [.tether, .queues] ps = true) :
    OnlyMk ps s { t with tether := v0, queues := v1 } :=
  Only.post h ⟨fun p hp => by cases p <;> first | rfl | simp at hp⟩ w

theorem Only.set_win_gauge {ps : List Part} {s t : State} (h : Only ps s t) (v0) (v1) (w : partsWithin [.win, .gauge] ps = true) :
    OnlyMk ps s { t with win := v0, gauge := v1 } :=
  Only.post h ⟨fun p hp => by cases p <;> first | rfl | simp at hp⟩ w

theorem Only.set_xfer_queues {ps : List Part} {s t : State} (h : Only ps s t) (v0) (v1) (w : partsWithin [.xfer, .queues] ps = true) :
    OnlyMk ps s { t with xfer := v0, queues := v1 } :=
  Only.post h ⟨fun p hp => by cases p <;> first | rfl | simp at hp⟩ w

theorem Only.set_act_gauge_outage {ps : List Part} {s t : State} (h : Only ps s t) (v0) (v1) (v2) (w : partsWithin [.act, .gauge, .outage] ps = true) :
    OnlyMk ps s { t with act := v0, gauge := v1, outage := v2 } :=
  Only.post h ⟨fun p hp => by cases p <;> first | rfl | simp at hp⟩ w

theorem Only.set_boot_act_outage {ps : List Part} {s t : State} (h : Only ps s t) (v0) (v1) (v2) (w : partsWithin [.boot, .act, .outage] ps = true) :
    OnlyMk ps s { t with boot := v0, act := v1, outage := v2 } :=
  Only.post h ⟨fun p hp => by cases p <;> first | rfl | simp at hp⟩ w

theorem Only.set_boot_gauge_outage {ps : List Part} {s t : State} (h : Only ps s t) (v0) (v1) (v2) (w : partsWithin [.boot, .gauge, .outage] ps = true) :
    OnlyMk ps s { t with boot := v0, gauge := v1, outage := v2 } :=
  Only.post h ⟨fun p hp => by cases p <;> first | rfl | simp at hp⟩ w

theorem Only.set_bridle_drop_win {ps : List Part} {s t : State} (h : Only ps s t) (v0) (v1) (v2) (w : partsWithin [.bridle, .drop, .win] ps = true) :
    OnlyMk ps s { t with bridle := v0, drop := v1, win := v2 } :=
  Only.post h ⟨fun p hp => by cases p <;> first | rfl | simp at hp⟩ w

theorem Only.set_front_rules_engs {ps : List Part} {s t : State} (h : Only ps s t) (v0) (v1) (v2) (w : partsWithin [.front, .rules, .engs] ps = true) :
    OnlyMk ps s { t with front := v0, rules := v1, engs := v2 } :=
  Only.post h ⟨fun p hp => by cases p <;> first | rfl | simp at hp⟩ w

theorem Only.set_hours_nvm_prot {ps : List Part} {s t : State} (h : Only ps s t) (v0) (v1) (v2) (w : partsWithin [.hours, .nvm, .prot] ps = true) :
    OnlyMk ps s { t with hours := v0, nvm := v1, prot := v2 } :=
  Only.post h ⟨fun p hp => by cases p <;> first | rfl | simp at hp⟩ w

theorem Only.set_nvm_gauge_outage {ps : List Part} {s t : State} (h : Only ps s t) (v0) (v1) (v2) (w : partsWithin [.nvm, .gauge, .outage] ps = true) :
    OnlyMk ps s { t with nvm := v0, gauge := v1, outage := v2 } :=
  Only.post h ⟨fun p hp => by cases p <;> first | rfl | simp at hp⟩ w

theorem Only.set_pins_bridle_reg {ps : List Part} {s t : State} (h : Only ps s t) (v0) (v1) (v2) (w : partsWithin [.pins, .bridle, .reg] ps = true) :
    OnlyMk ps s { t with pins := v0, bridle := v1, reg := v2 } :=
  Only.post h ⟨fun p hp => by cases p <;> first | rfl | simp at hp⟩ w

theorem Only.set_tether_queues_integ {ps : List Part} {s t : State} (h : Only ps s t) (v0) (v1) (v2) (w : partsWithin [.tether, .queues, .integ] ps = true) :
    OnlyMk ps s { t with tether := v0, queues := v1, integ := v2 } :=
  Only.post h ⟨fun p hp => by cases p <;> first | rfl | simp at hp⟩ w

theorem Only.set_boot_reel_front_queues {ps : List Part} {s t : State} (h : Only ps s t) (v0) (v1) (v2) (v3) (w : partsWithin [.boot, .reel, .front, .queues] ps = true) :
    OnlyMk ps s { t with boot := v0, reel := v1, front := v2, queues := v3 } :=
  Only.post h ⟨fun p hp => by cases p <;> first | rfl | simp at hp⟩ w

theorem Only.set_nvm_bridle_gauge_outage {ps : List Part} {s t : State} (h : Only ps s t) (v0) (v1) (v2) (v3) (w : partsWithin [.nvm, .bridle, .gauge, .outage] ps = true) :
    OnlyMk ps s { t with nvm := v0, bridle := v1, gauge := v2, outage := v3 } :=
  Only.post h ⟨fun p hp => by cases p <;> first | rfl | simp at hp⟩ w

theorem Only.set_nvm_rules_gauge_outage {ps : List Part} {s t : State} (h : Only ps s t) (v0) (v1) (v2) (v3) (w : partsWithin [.nvm, .rules, .gauge, .outage] ps = true) :
    OnlyMk ps s { t with nvm := v0, rules := v1, gauge := v2, outage := v3 } :=
  Only.post h ⟨fun p hp => by cases p <;> first | rfl | simp at hp⟩ w

theorem Only.set_boot_reel_rules_reg_queues {ps : List Part} {s t : State} (h : Only ps s t) (v0) (v1) (v2) (v3) (v4) (w : partsWithin [.boot, .reel, .rules, .reg, .queues] ps = true) :
    OnlyMk ps s { t with boot := v0, reel := v1, rules := v2, reg := v3, queues := v4 } :=
  Only.post h ⟨fun p hp => by cases p <;> first | rfl | simp at hp⟩ w

theorem Only.set_nvm_rules_bridle_gauge_outage {ps : List Part} {s t : State} (h : Only ps s t) (v0) (v1) (v2) (v3) (v4) (w : partsWithin [.nvm, .rules, .bridle, .gauge, .outage] ps = true) :
    OnlyMk ps s { t with nvm := v0, rules := v1, bridle := v2, gauge := v3, outage := v4 } :=
  Only.post h ⟨fun p hp => by cases p <;> first | rfl | simp at hp⟩ w

end Sys2Proof.Machine
end

