-- ==== Sys2Proof/Laws/OpsFrame.lean ====
section
/-! SUPPORT. What each definition of Machine/Ops.lean may change: of the parts of the state, those listed and no other. -/

namespace Sys2Proof.Machine

theorem takeFree_only (s : State) :
    Only [.free] s (takeFree s).2 := by
  unfold takeFree
  try dsimp only
  repeat' first
    | (simp only [Only.mk_iff]; with_reducible refine Only.set_free ?_ _ rfl)
    | (with_reducible exact Only.refl _ _)
    | (with_reducible assumption)
    | (split)

theorem addFault_only (s : State) (a : Alarm) :
    Only [.prot] s (addFault s a) := by
  unfold addFault
  try dsimp only
  repeat' first
    | (simp only [Only.mk_iff]; with_reducible refine Only.set_prot ?_ _ rfl)
    | (with_reducible exact Only.refl _ _)
    | (with_reducible assumption)
    | (split)

theorem dropFault_only (s : State) (a : Alarm) :
    Only [.prot] s (dropFault s a) := by
  unfold dropFault
  try dsimp only
  repeat' first
    | (simp only [Only.mk_iff]; with_reducible refine Only.set_prot ?_ _ rfl)
    | (with_reducible exact Only.refl _ _)
    | (with_reducible assumption)
    | (split)

theorem addAlert_only (s : State) (a : Alarm) :
    Only [.prot] s (addAlert s a) := by
  unfold addAlert
  try dsimp only
  repeat' first
    | (simp only [Only.mk_iff]; with_reducible refine Only.set_prot ?_ _ rfl)
    | (with_reducible exact Only.refl _ _)
    | (with_reducible assumption)
    | (split)

theorem dropAlert_only (s : State) (a : Alarm) :
    Only [.prot] s (dropAlert s a) := by
  unfold dropAlert
  try dsimp only
  repeat' first
    | (simp only [Only.mk_iff]; with_reducible refine Only.set_prot ?_ _ rfl)
    | (with_reducible exact Only.refl _ _)
    | (with_reducible assumption)
    | (split)

theorem modDom_only (s : State) (d : Nat) (f : Dom → Dom) :
    Only [.bridle] s (modDom s d f) := by
  unfold modDom
  try dsimp only
  repeat' first
    | (simp only [Only.mk_iff]; with_reducible refine Only.set_bridle ?_ _ rfl)
    | (with_reducible exact Only.refl _ _)
    | (with_reducible assumption)
    | (split)

theorem modChan_only (s : State) (c : Chan) (f : ChanSt → ChanSt) :
    Only [.reg] s (modChan s c f) := by
  unfold modChan
  try dsimp only
  repeat' first
    | (simp only [Only.mk_iff]; with_reducible refine Only.set_reg ?_ _ rfl)
    | (with_reducible exact Only.refl _ _)
    | (with_reducible assumption)
    | (split)

theorem modLink_only (s : State) (p : Port) (f : Link → Link) :
    Only [.tether] s (modLink s p f) := by
  unfold modLink
  try dsimp only
  repeat' first
    | (simp only [Only.mk_iff]; with_reducible refine Only.set_tether ?_ _ rfl)
    | (with_reducible exact Only.refl _ _)
    | (with_reducible assumption)
    | (split)

theorem raiseRail_only (s : State) (k : Nat) :
    Only [.free, .pace] s (raiseRail s k) := by
  unfold raiseRail
  try dsimp only
  repeat' first
    | (simp only [Only.mk_iff]; with_reducible refine Only.set_pace ?_ _ rfl)
    | (with_reducible exact Only.refl _ _)
    | (with_reducible assumption)
    | ((with_reducible apply Only.after (k := takeFree_only ..)); case w => rfl)
    | (split)

theorem raiseFor_only (s : State) (d : Nat) :
    Only [.free, .pace] s (raiseFor s d) := by
  unfold raiseFor
  try dsimp only
  repeat' first
    | (with_reducible exact Only.refl _ _)
    | (with_reducible assumption)
    | ((with_reducible apply Only.after (k := raiseRail_only ..)); case w => rfl)
    | (split)

theorem clockSettles_only (s : State) :
    Only [.free, .reg] s (clockSettles s) := by
  unfold clockSettles
  try dsimp only
  repeat' first
    | (simp only [Only.mk_iff]; with_reducible refine Only.set_reg ?_ _ rfl)
    | (with_reducible exact Only.refl _ _)
    | (with_reducible assumption)
    | ((with_reducible apply Only.after (k := takeFree_only ..)); case w => rfl)
    | (split)

end Sys2Proof.Machine
end

