-- ==== Sys2Proof/Laws/RequestsFrame.lean ====
section
/-! SUPPORT. What each definition of Machine/Requests.lean may change: of the parts of the state, those listed and no other. -/

namespace Sys2Proof.Machine

theorem recordW2E_only (s : State) (item : BitVec 4) (reason : Byte) (id : Half) :
    Only [.win] s (recordW2E s item reason id) := by
  unfold recordW2E
  try dsimp only
  repeat' first
    | (simp only [Only.mk_iff]; with_reducible refine Only.set_win ?_ _ rfl)
    | (with_reducible exact Only.refl _ _)
    | (with_reducible assumption)
    | (split)

theorem w0bEntry_only (s : State) (sel : BitVec 5) (o : Origin) (r : ReqResult) (reason : BitVec 4) (alert : Bool) :
    Only [.bridle, .prot] s (w0bEntry s sel o r reason alert) := by
  unfold w0bEntry
  try dsimp only
  repeat' first
    | (simp only [Only.mk_iff]; with_reducible refine Only.set_bridle ?_ _ rfl)
    | (with_reducible exact Only.refl _ _)
    | (with_reducible assumption)
    | ((with_reducible apply Only.after (k := addAlert_only ..)); case w => rfl)
    | (split)

theorem modWake_only (s : State) (k : Nat) (f : WakeWord → WakeWord) :
    Only [.act] s (modWake s k f) := by
  unfold modWake
  try dsimp only
  repeat' first
    | (simp only [Only.mk_iff]; with_reducible refine Only.set_act ?_ _ rfl)
    | (with_reducible exact Only.refl _ _)
    | (with_reducible assumption)
    | (split)

theorem eachPin_only (s : State) (mask : BitVec 4) (f : WakeWord → WakeWord) :
    Only [.act] s (eachPin s mask f) := by
  unfold eachPin
  try dsimp only
  repeat' first
    | (simp only [Only.mk_iff]; with_reducible refine Only.set_act ?_ _ rfl)
    | (with_reducible exact Only.refl _ _)
    | (with_reducible assumption)
    | (split)

theorem recordCause_only (s : State) (mask : BitVec 4) (cause : Byte) (src : BitVec 3) :
    Only [.act, .win] s (recordCause s mask cause src) := by
  unfold recordCause
  try dsimp only
  repeat' first
    | (simp only [Only.mk_iff]; with_reducible refine Only.set_act ?_ _ rfl)
    | (with_reducible exact Only.refl _ _)
    | (with_reducible assumption)
    | ((with_reducible apply Only.after (k := eachPin_only ..)); case w => rfl)
    | ((with_reducible apply Only.after (k := recordW2E_only ..)); case w => rfl)
    | (split)

theorem recordDevice_only (s : State) (mask : BitVec 4) (cause : Byte) :
    Only [.act, .win] s (recordDevice s mask cause) := by
  unfold recordDevice
  try dsimp only
  repeat' first
    | (with_reducible exact Only.refl _ _)
    | (with_reducible assumption)
    | ((with_reducible apply Only.after (k := eachPin_only ..)); case w => rfl)
    | ((with_reducible apply Only.after (k := recordCause_only ..)); case w => rfl)
    | (split)

theorem record83_only (s : State) (mask : BitVec 4) :
    Only [.act, .win] s (record83 s mask) := by
  unfold record83
  try dsimp only
  repeat' first
    | (with_reducible exact Only.refl _ _)
    | (with_reducible assumption)
    | ((with_reducible apply Only.after (k := recordDevice_only ..)); case w => rfl)
    | ((with_reducible apply Only.foldl); intro _ _ _)
    | ((with_reducible apply Only.foldl_fst); intro _ _ _)
    | (split)

theorem raisePins_only (s : State) (mask : BitVec 4) :
    Only [.act, .win] s (raisePins s mask) := by
  unfold raisePins
  try dsimp only
  repeat' first
    | (simp only [Only.mk_iff]; with_reducible refine Only.set_act ?_ _ rfl)
    | (with_reducible exact Only.refl _ _)
    | (with_reducible assumption)
    | ((with_reducible apply Only.after (k := eachPin_only ..)); case w => rfl)
    | ((with_reducible apply Only.after (k := record83_only ..)); case w => rfl)
    | (split)

theorem pendPins_only (s : State) (mask : BitVec 4) :
    Only [.act] s (pendPins s mask) := by
  unfold pendPins
  try dsimp only
  repeat' first
    | (with_reducible exact Only.refl _ _)
    | (with_reducible assumption)
    | ((with_reducible apply Only.after (k := eachPin_only ..)); case w => rfl)
    | (split)

theorem releasePins_only (s : State) (mask : BitVec 4) :
    Only [.act, .win] s (releasePins s mask) := by
  unfold releasePins
  try dsimp only
  repeat' first
    | (with_reducible exact Only.refl _ _)
    | (with_reducible assumption)
    | ((with_reducible apply Only.after (k := raisePins_only ..)); case w => rfl)
    | (split)

theorem railCause_only (s : State) (c : Chan) (mask : BitVec 4) :
    Only [.act, .win] s (railCause s c mask) := by
  unfold railCause
  try dsimp only
  repeat' first
    | (simp only [Only.mk_iff]; with_reducible refine Only.set_act ?_ _ rfl)
    | (with_reducible exact Only.refl _ _)
    | (with_reducible assumption)
    | ((with_reducible apply Only.after (k := eachPin_only ..)); case w => rfl)
    | ((with_reducible apply Only.after (k := recordCause_only ..)); case w => rfl)
    | ((with_reducible apply Only.after (k := recordDevice_only ..)); case w => rfl)
    | (split)

theorem pushResult_only (s : State) (r : Result) :
    Only [.act] s (pushResult s r) := by
  unfold pushResult
  try dsimp only
  repeat' first
    | (simp only [Only.mk_iff]; with_reducible refine Only.set_act ?_ _ rfl)
    | (with_reducible exact Only.refl _ _)
    | (with_reducible assumption)
    | (split)

theorem pushFrom_only (s : State) (e : Fin 4) (r : Result) :
    Only [.act] s (pushFrom s e r) := by
  unfold pushFrom
  try dsimp only
  repeat' first
    | (simp only [Only.mk_iff]; with_reducible refine Only.set_act ?_ _ rfl)
    | (with_reducible exact Only.refl _ _)
    | (with_reducible assumption)
    | ((with_reducible apply Only.after (k := pushResult_only ..)); case w => rfl)
    | (split)

theorem takeLate_only (s : State) :
    Only [.act] s (takeLate s) := by
  unfold takeLate
  try dsimp only
  repeat' first
    | (simp only [Only.mk_iff]; with_reducible refine Only.set_act ?_ _ rfl)
    | (with_reducible exact Only.refl _ _)
    | (with_reducible assumption)
    | ((with_reducible apply Only.after (k := pushResult_only ..)); case w => rfl)
    | (split)

theorem barred_only (s : State) (d : Nat) :
    Only [.free] s (barred s d).2 := by
  unfold barred
  try dsimp only
  repeat' first
    | (with_reducible exact Only.refl _ _)
    | (with_reducible assumption)
    | ((with_reducible apply Only.after (k := takeFree_only ..)); case w => rfl)
    | (split)

theorem jobComplete_only (s : State) (j : Job) :
    Only [.act, .bridle, .prot, .win] s (jobComplete s j) := by
  unfold jobComplete
  try dsimp only
  repeat' first
    | (simp only [Only.mk_iff]; with_reducible refine Only.set_act ?_ _ rfl)
    | (with_reducible exact Only.refl _ _)
    | (with_reducible assumption)
    | ((with_reducible apply Only.after (k := recordW2E_only ..)); case w => rfl)
    | ((with_reducible apply Only.after (k := w0bEntry_only ..)); case w => rfl)
    | ((with_reducible apply Only.after (k := releasePins_only ..)); case w => rfl)
    | ((with_reducible apply Only.after (k := record83_only ..)); case w => rfl)
    | (split)

theorem jobTarget_only (s : State) (id : Nat) (r : ReqResult) (reason : BitVec 4) :
    Only [.act, .bridle, .prot, .win] s (jobTarget s id r reason) := by
  unfold jobTarget
  try dsimp only
  repeat' first
    | (simp only [Only.mk_iff]; with_reducible refine Only.set_bridle ?_ _ rfl)
    | (with_reducible exact Only.refl _ _)
    | (with_reducible assumption)
    | ((with_reducible apply Only.after (k := jobComplete_only ..)); case w => rfl)
    | (split)

theorem resolve_only (s : State) (d : Nat) (q : Req) (r : ReqResult) (reason : BitVec 4) :
    Only [.act, .bridle, .prot, .win] s (resolve s d q r reason) := by
  unfold resolve
  try dsimp only
  repeat' first
    | (with_reducible exact Only.refl _ _)
    | (with_reducible assumption)
    | ((with_reducible apply Only.after (k := recordW2E_only ..)); case w => rfl)
    | ((with_reducible apply Only.after (k := w0bEntry_only ..)); case w => rfl)
    | ((with_reducible apply Only.after (k := modDom_only ..)); case w => rfl)
    | ((with_reducible apply Only.after (k := jobTarget_only ..)); case w => rfl)
    | (split)

theorem loseDescriptors_only (s : State) (f : Nat → Bool) :
    Only [.tether, .queues, .integ] s (loseDescriptors s f) := by
  unfold loseDescriptors
  try dsimp only
  repeat' first
    | (simp only [Only.mk_iff]; with_reducible refine Only.set_tether_queues_integ ?_ _ _ _ rfl)
    | (with_reducible exact Only.refl _ _)
    | (with_reducible assumption)
    | (split)

theorem recordLoss_only (s : State) (d bank : Nat) :
    Only [.tether, .queues, .integ] s (recordLoss s d bank) := by
  unfold recordLoss
  try dsimp only
  repeat' first
    | (simp only [Only.mk_iff]; with_reducible refine Only.set_integ ?_ _ rfl)
    | (with_reducible exact Only.refl _ _)
    | (with_reducible assumption)
    | ((with_reducible apply Only.after (k := loseDescriptors_only ..)); case w => rfl)
    | (split)

theorem loseBanks_only (s : State) (d : Nat) (keep : BitVec 16) :
    Only [.bridle, .tether, .queues, .integ] s (loseBanks s d keep) := by
  unfold loseBanks
  try dsimp only
  repeat' first
    | (with_reducible exact Only.refl _ _)
    | (with_reducible assumption)
    | ((with_reducible apply Only.after (k := modDom_only ..)); case w => rfl)
    | ((with_reducible apply Only.after (k := recordLoss_only ..)); case w => rfl)
    | ((with_reducible apply Only.foldl); intro _ _ _)
    | ((with_reducible apply Only.foldl_fst); intro _ _ _)
    | (split)

theorem forgetRules_only (s : State) (d : Nat) (t : DS) :
    Only [.rules] s (forgetRules s d t) := by
  unfold forgetRules
  try dsimp only
  repeat' first
    | (simp only [Only.mk_iff]; with_reducible refine Only.set_rules ?_ _ rfl)
    | (with_reducible exact Only.refl _ _)
    | (with_reducible assumption)
    | (split)

theorem endCur_only (s : State) (d : Nat) :
    Only [.bridle] s (endCur s d) := by
  unfold endCur
  try dsimp only
  repeat' first
    | (with_reducible exact Only.refl _ _)
    | (with_reducible assumption)
    | ((with_reducible apply Only.after (k := modDom_only ..)); case w => rfl)
    | (split)

theorem enqueue_only (s : State) (d : Nat) (q : Req) :
    Only [.bridle] s (enqueue s d q) := by
  unfold enqueue
  try dsimp only
  repeat' first
    | (with_reducible exact Only.refl _ _)
    | (with_reducible assumption)
    | ((with_reducible apply Only.after (k := modDom_only ..)); case w => rfl)
    | (split)

theorem advance_only (s : State) (d fuel : Nat) :
    Only [.rules, .act, .bridle, .prot, .tether, .queues, .win, .integ] s (advance s d fuel) := by
  induction fuel generalizing s d with
  | zero => exact Only.refl _ _
  | succ fuel ih =>
  unfold advance
  try dsimp only
  repeat' first
    | ((with_reducible apply Only.after (k := ih ..)); case w => rfl)
    | (with_reducible exact Only.refl _ _)
    | (with_reducible assumption)
    | ((with_reducible apply Only.after (k := modDom_only ..)); case w => rfl)
    | ((with_reducible apply Only.after (k := resolve_only ..)); case w => rfl)
    | ((with_reducible apply Only.after (k := forgetRules_only ..)); case w => rfl)
    | ((with_reducible apply Only.after (k := loseBanks_only ..)); case w => rfl)
    | (split)

theorem takeOrder_only (s : State) (d : Nat) :
    Only [.rules, .act, .bridle, .prot, .tether, .queues, .win, .integ] s (takeOrder s d) := by
  unfold takeOrder
  try dsimp only
  repeat' first
    | (with_reducible exact Only.refl _ _)
    | (with_reducible assumption)
    | ((with_reducible apply Only.after (k := advance_only ..)); case w => rfl)
    | (split)

theorem askRequired_only (s : State) (d : Nat) :
    Only [.rules, .act, .bridle, .prot, .tether, .queues, .win, .integ] s (askRequired s d) := by
  unfold askRequired
  try dsimp only
  repeat' first
    | (with_reducible exact Only.refl _ _)
    | (with_reducible assumption)
    | ((with_reducible apply Only.after (k := takeOrder_only ..)); case w => rfl)
    | ((with_reducible apply Only.after (k := enqueue_only ..)); case w => rfl)
    | ((with_reducible apply Only.foldl); intro _ _ _)
    | ((with_reducible apply Only.foldl_fst); intro _ _ _)
    | (split)

theorem settle_only (s : State) (d : Nat) :
    Only [.rules, .act, .bridle, .prot, .tether, .queues, .win, .integ] s (settle s d) := by
  unfold settle
  try dsimp only
  repeat' first
    | (with_reducible exact Only.refl _ _)
    | (with_reducible assumption)
    | ((with_reducible apply Only.after (k := askRequired_only ..)); case w => rfl)
    | ((with_reducible apply Only.after (k := takeOrder_only ..)); case w => rfl)
    | (split)

theorem request_only (s : State) (d : Nat) (q : Req) :
    Only [.rules, .act, .bridle, .prot, .tether, .queues, .win, .integ] s (request s d q) := by
  unfold request
  try dsimp only
  repeat' first
    | (with_reducible exact Only.refl _ _)
    | (with_reducible assumption)
    | ((with_reducible apply Only.after (k := settle_only ..)); case w => rfl)
    | ((with_reducible apply Only.after (k := enqueue_only ..)); case w => rfl)
    | (split)

theorem demand_only (s : State) (d : Nat) :
    Only [.rules, .act, .bridle, .prot, .tether, .queues, .win, .integ] s (demand s d) := by
  unfold demand
  try dsimp only
  repeat' first
    | (with_reducible exact Only.refl _ _)
    | (with_reducible assumption)
    | ((with_reducible apply Only.after (k := request_only ..)); case w => rfl)
    | (split)

theorem idleReturn_only (s : State) (d : Nat) :
    Only [.rules, .act, .bridle, .prot, .tether, .queues, .win, .integ] s (idleReturn s d) := by
  unfold idleReturn
  try dsimp only
  repeat' first
    | (with_reducible exact Only.refl _ _)
    | (with_reducible assumption)
    | ((with_reducible apply Only.after (k := demand_only ..)); case w => rfl)
    | (split)

end Sys2Proof.Machine
end

