-- ==== Sys2Proof/Laws/QueuesFrame.lean ====
section
/-! SUPPORT. What each definition of Machine/Queues.lean may change: of the parts of the state, those listed and no other. -/

namespace Sys2Proof.Machine

theorem setQueue_only (s : State) (tag : Nat) (l : List QFrame) :
    Only [.queues] s (setQueue s tag l) := by
  unfold setQueue
  try dsimp only
  repeat' first
    | (simp only [Only.mk_iff]; with_reducible refine Only.set_queues ?_ _ rfl)
    | (with_reducible exact Only.refl _ _)
    | (with_reducible assumption)
    | (split)

theorem askAccess_only (s : State) (f : QFrame) :
    Only [.rules, .act, .bridle, .prot, .tether, .queues, .win, .integ] s (askAccess s f) := by
  unfold askAccess
  try dsimp only
  repeat' first
    | (with_reducible exact Only.refl _ _)
    | (with_reducible assumption)
    | ((with_reducible apply Only.after (k := idleReturn_only ..)); case w => rfl)
    | ((with_reducible apply Only.foldl); intro _ _ _)
    | ((with_reducible apply Only.foldl_fst); intro _ _ _)
    | (split)

theorem allocCells_only (s : State) (cs : List Nat) :
    Only [.queues] s (allocCells s cs) := by
  unfold allocCells
  try dsimp only
  repeat' first
    | (simp only [Only.mk_iff]; with_reducible refine Only.set_queues ?_ _ rfl)
    | (with_reducible exact Only.refl _ _)
    | (with_reducible assumption)
    | ((with_reducible apply Only.foldl); intro _ _ _)
    | ((with_reducible apply Only.foldl_fst); intro _ _ _)
    | (split)

theorem freeCells_only (s : State) (cs : List Nat) :
    Only [.queues] s (freeCells s cs) := by
  unfold freeCells
  try dsimp only
  repeat' first
    | (simp only [Only.mk_iff]; with_reducible refine Only.set_queues ?_ _ rfl)
    | (with_reducible exact Only.refl _ _)
    | (with_reducible assumption)
    | (split)

theorem askMemory_only (s : State) :
    Only [.rules, .act, .bridle, .prot, .tether, .queues, .win, .integ] s (askMemory s) := by
  unfold askMemory
  try dsimp only
  repeat' first
    | (with_reducible exact Only.refl _ _)
    | (with_reducible assumption)
    | ((with_reducible apply Only.after (k := demand_only ..)); case w => rfl)
    | (split)

theorem markAccept_only (s : State) (src : Nat) (sseq : Half) :
    Only [.queues] s (markAccept s src sseq) := by
  unfold markAccept
  try dsimp only
  repeat' first
    | (simp only [Only.mk_iff]; with_reducible refine Only.set_queues ?_ _ rfl)
    | (with_reducible exact Only.refl _ _)
    | (with_reducible assumption)
    | (split)

theorem markRelease_only (s : State) (src : Nat) :
    Only [.queues] s (markRelease s src) := by
  unfold markRelease
  try dsimp only
  repeat' first
    | (simp only [Only.mk_iff]; with_reducible refine Only.set_queues ?_ _ rfl)
    | (with_reducible exact Only.refl _ _)
    | (with_reducible assumption)
    | (split)

theorem creditFreed_only (s : State) (f : QFrame) (n : Nat) :
    Only [.tether] s (creditFreed s f n) := by
  unfold creditFreed
  try dsimp only
  repeat' first
    | (with_reducible exact Only.refl _ _)
    | (with_reducible assumption)
    | ((with_reducible apply Only.after (k := modLink_only ..)); case w => rfl)
    | (split)

theorem afterRemoval_only (s : State) (f : QFrame) :
    Only [.tether, .queues] s (afterRemoval s f) := by
  unfold afterRemoval
  try dsimp only
  repeat' first
    | (with_reducible exact Only.refl _ _)
    | (with_reducible assumption)
    | ((with_reducible apply Only.after (k := freeCells_only ..)); case w => rfl)
    | ((with_reducible apply Only.after (k := creditFreed_only ..)); case w => rfl)
    | ((with_reducible apply Only.after (k := markRelease_only ..)); case w => rfl)
    | (split)

theorem releaseCopy_only (s : State) (tag : Nat) (f : QFrame) :
    Only [.tether, .queues] s (releaseCopy s tag f) := by
  unfold releaseCopy
  try dsimp only
  repeat' first
    | (with_reducible exact Only.refl _ _)
    | (with_reducible assumption)
    | ((with_reducible apply Only.after (k := afterRemoval_only ..)); case w => rfl)
    | ((with_reducible apply Only.after (k := setQueue_only ..)); case w => rfl)
    | (split)

theorem pushQueue_only (s : State) (tag : Nat) (f : QFrame) :
    Only [.queues] s (pushQueue s tag f) := by
  unfold pushQueue
  try dsimp only
  repeat' first
    | (with_reducible exact Only.refl _ _)
    | (with_reducible assumption)
    | ((with_reducible apply Only.after (k := setQueue_only ..)); case w => rfl)
    | (split)

theorem closeNotice_only (s : State) :
    Only [.rules, .act, .bridle, .prot, .tether, .queues, .win, .integ] s (closeNotice s) := by
  unfold closeNotice
  try dsimp only
  repeat' first
    | (simp only [Only.mk_iff]; with_reducible refine Only.set_tether_queues ?_ _ _ rfl)
    | (with_reducible exact Only.refl _ _)
    | (with_reducible assumption)
    | ((with_reducible apply Only.after (k := idleReturn_only ..)); case w => rfl)
    | ((with_reducible apply Only.after (k := pushQueue_only ..)); case w => rfl)
    | ((with_reducible apply Only.after (k := allocCells_only ..)); case w => rfl)
    | ((with_reducible apply Only.foldl); intro _ _ _)
    | ((with_reducible apply Only.foldl_fst); intro _ _ _)
    | (split)

theorem makeRoom_only (s : State) (es : List (List Byte)) :
    Only [.rules, .act, .bridle, .prot, .tether, .queues, .win, .integ] s (makeRoom s es) := by
  unfold makeRoom
  try dsimp only
  repeat' first
    | (with_reducible exact Only.refl _ _)
    | (with_reducible assumption)
    | ((with_reducible apply Only.after (k := closeNotice_only ..)); case w => rfl)
    | (split)

theorem entryW2E_only (s : State) (e : List Byte) :
    Only [.win] s (entryW2E s e) := by
  unfold entryW2E
  try dsimp only
  repeat' first
    | (with_reducible exact Only.refl _ _)
    | (with_reducible assumption)
    | ((with_reducible apply Only.after (k := recordW2E_only ..)); case w => rfl)
    | (split)

theorem addEntry_only (s : State) (e : List Byte) :
    Only [.rules, .act, .bridle, .prot, .tether, .queues, .win, .integ] s (addEntry s e) := by
  unfold addEntry
  try dsimp only
  repeat' first
    | (simp only [Only.mk_iff]; with_reducible refine Only.set_queues ?_ _ rfl)
    | (with_reducible exact Only.refl _ _)
    | (with_reducible assumption)
    | ((with_reducible apply Only.after (k := entryW2E_only ..)); case w => rfl)
    | ((with_reducible apply Only.after (k := makeRoom_only ..)); case w => rfl)
    | ((with_reducible apply Only.after (k := closeNotice_only ..)); case w => rfl)
    | ((with_reducible apply Only.after (k := askMemory_only ..)); case w => rfl)
    | (split)

theorem addEntries_only (s : State) (es : List (List Byte)) :
    Only [.rules, .act, .bridle, .prot, .tether, .queues, .win, .integ] s (addEntries s es) := by
  unfold addEntries
  try dsimp only
  repeat' first
    | (with_reducible exact Only.refl _ _)
    | (with_reducible assumption)
    | ((with_reducible apply Only.after (k := addEntry_only ..)); case w => rfl)
    | ((with_reducible apply Only.after (k := makeRoom_only ..)); case w => rfl)
    | ((with_reducible apply Only.foldl); intro _ _ _)
    | ((with_reducible apply Only.foldl_fst); intro _ _ _)
    | (split)

theorem deferEntry_only (s : State) (e : List Byte) :
    Only [.rules, .act, .bridle, .prot, .tether, .queues, .win, .integ] s (deferEntry s e) := by
  unfold deferEntry
  try dsimp only
  repeat' first
    | (simp only [Only.mk_iff]; with_reducible refine Only.set_queues ?_ _ rfl)
    | (with_reducible exact Only.refl _ _)
    | (with_reducible assumption)
    | ((with_reducible apply Only.after (k := entryW2E_only ..)); case w => rfl)
    | ((with_reducible apply Only.after (k := addEntry_only ..)); case w => rfl)
    | (split)

theorem originate_only (s : State) (typ : BitVec 4) (dst : Byte) (pay : List Byte) (p : Port) (wrap : Bool) :
    Only [.tether, .queues] s (originate s typ dst pay p wrap) := by
  unfold originate
  try dsimp only
  repeat' first
    | (simp only [Only.mk_iff]; with_reducible refine Only.set_tether_queues ?_ _ _ rfl)
    | (with_reducible exact Only.refl _ _)
    | (with_reducible assumption)
    | ((with_reducible apply Only.after (k := pushQueue_only ..)); case w => rfl)
    | ((with_reducible apply Only.after (k := allocCells_only ..)); case w => rfl)
    | (split)

theorem tallyAdd_only (s : State) (tag frames bytes : Nat) :
    Only [.act, .queues] s (tallyAdd s tag frames bytes) := by
  unfold tallyAdd
  try dsimp only
  repeat' first
    | (simp only [Only.mk_iff]; with_reducible refine Only.set_queues ?_ _ rfl)
    | (with_reducible exact Only.refl _ _)
    | (with_reducible assumption)
    | ((with_reducible apply Only.after (k := pushResult_only ..)); case w => rfl)
    | (split)

theorem placeCopy_only (s : State) (a : Accepted) (cs : List Nat) (c : CopyTo) (tag : Half) :
    Only [.act, .tether, .queues] s (placeCopy s a cs c tag) := by
  unfold placeCopy
  try dsimp only
  repeat' first
    | (with_reducible exact Only.refl _ _)
    | (with_reducible assumption)
    | ((with_reducible apply Only.after (k := tallyAdd_only ..)); case w => rfl)
    | ((with_reducible apply Only.after (k := pushQueue_only ..)); case w => rfl)
    | ((with_reducible apply Only.after (k := modLink_only ..)); case w => rfl)
    | (split)

theorem reportFrame_only (s : State) (b : List Byte) (tag : Half) (reason : Byte) :
    Only [.rules, .act, .bridle, .prot, .tether, .queues, .win, .integ] s (reportFrame s b tag reason) := by
  unfold reportFrame
  try dsimp only
  repeat' first
    | (with_reducible exact Only.refl _ _)
    | (with_reducible assumption)
    | ((with_reducible apply Only.after (k := addEntry_only ..)); case w => rfl)
    | (split)

theorem admitCopies_only (s : State) (a : Accepted) (cs : List CopyTo) (tag : Half) :
    Only [.rules, .act, .bridle, .prot, .tether, .queues, .win, .integ] s (admitCopies s a cs tag) := by
  unfold admitCopies
  try dsimp only
  repeat' first
    | (with_reducible exact Only.refl _ _)
    | (with_reducible assumption)
    | ((with_reducible apply Only.after (k := placeCopy_only ..)); case w => rfl)
    | ((with_reducible apply Only.after (k := allocCells_only ..)); case w => rfl)
    | ((with_reducible apply Only.after (k := reportFrame_only ..)); case w => rfl)
    | ((with_reducible apply Only.after (k := freeCells_only ..)); case w => rfl)
    | ((with_reducible apply Only.after (k := creditFreed_only ..)); case w => rfl)
    | ((with_reducible apply Only.after (k := markRelease_only ..)); case w => rfl)
    | ((with_reducible apply Only.foldl); intro _ _ _)
    | ((with_reducible apply Only.foldl_fst); intro _ _ _)
    | (split)

theorem consume_only (s : State) (a : Accepted) :
    Only [.tether, .queues] s (consume s a) := by
  unfold consume
  try dsimp only
  repeat' first
    | (with_reducible exact Only.refl _ _)
    | (with_reducible assumption)
    | ((with_reducible apply Only.after (k := creditFreed_only ..)); case w => rfl)
    | ((with_reducible apply Only.after (k := freeCells_only ..)); case w => rfl)
    | ((with_reducible apply Only.after (k := markRelease_only ..)); case w => rfl)
    | (split)

theorem failFrame_only (s : State) (tag : Nat) (f : QFrame) (reason : Byte) :
    Only [.rules, .act, .bridle, .prot, .tether, .queues, .win, .integ] s (failFrame s tag f reason) := by
  unfold failFrame
  try dsimp only
  repeat' first
    | (with_reducible exact Only.refl _ _)
    | (with_reducible assumption)
    | ((with_reducible apply Only.after (k := releaseCopy_only ..)); case w => rfl)
    | ((with_reducible apply Only.after (k := reportFrame_only ..)); case w => rfl)
    | (split)

end Sys2Proof.Machine
end

