-- ==== Sys2Proof/Laws/LinkOpsFrame.lean ====
section
/-! SUPPORT. What each definition of Machine/LinkOps.lean may change: of the parts of the state, those listed and no other. -/

namespace Sys2Proof.Machine

theorem addErr_only (s : State) (p : Port) (n : Nat) :
    Only [.tether] s (addErr s p n) := by
  unfold addErr
  try dsimp only
  repeat' first
    | (with_reducible exact Only.refl _ _)
    | (with_reducible assumption)
    | ((with_reducible apply Only.after (k := modLink_only ..)); case w => rfl)
    | (split)

theorem countCode_only (s : State) (p : Port) (rx : RxFrame) :
    Only [.tether] s (countCode s p rx) := by
  unfold countCode
  try dsimp only
  repeat' first
    | (with_reducible exact Only.refl _ _)
    | (with_reducible assumption)
    | ((with_reducible apply Only.after (k := addErr_only ..)); case w => rfl)
    | (split)

theorem resetLink_only (s : State) (p : Port) (st : LinkState) (step : Nat) :
    Only [.tether] s (resetLink s p st step) := by
  unfold resetLink
  try dsimp only
  repeat' first
    | (with_reducible exact Only.refl _ _)
    | (with_reducible assumption)
    | ((with_reducible apply Only.after (k := modLink_only ..)); case w => rfl)
    | (split)

theorem dropRings_only (s : State) (p : Port) :
    Only [.tether, .queues] s (dropRings s p) := by
  unfold dropRings
  try dsimp only
  repeat' first
    | (with_reducible exact Only.refl _ _)
    | (with_reducible assumption)
    | ((with_reducible apply Only.after (k := releaseCopy_only ..)); case w => rfl)
    | ((with_reducible apply Only.foldl); intro _ _ _)
    | ((with_reducible apply Only.foldl_fst); intro _ _ _)
    | (split)

theorem portDownAs_only (s : State) (p : Port) (c : DownCause) (orderly : Bool) :
    Only [.rules, .act, .bridle, .prot, .tether, .queues, .win, .integ] s (portDownAs s p c orderly) := by
  unfold portDownAs
  extract_lets o s1 s1_1 src s2 pay s3 s4 s5 s6
  have h_s1 : Only [.rules, .act, .bridle, .prot, .tether, .queues, .win, .integ] s s1 := by
    dsimp only [s1]
    repeat' first
    | (simp only [Only.mk_iff]; with_reducible refine Only.set_tether ?_ _ rfl)
    | (with_reducible exact Only.refl _ _)
    | (with_reducible assumption)
    | ((with_reducible apply Only.after (k := resetLink_only ..)); case w => rfl)
    | ((with_reducible apply Only.after (k := addErr_only ..)); case w => rfl)
    | ((with_reducible apply Only.after (k := dropRings_only ..)); case w => rfl)
    | ((with_reducible apply Only.after (k := originate_only ..)); case w => rfl)
    | ((with_reducible apply Only.after (k := addAlert_only ..)); case w => rfl)
    | ((with_reducible apply Only.after (k := addEntry_only ..)); case w => rfl)
    | (split)
  clear_value s1
  have h_s1_1 : Only [.rules, .act, .bridle, .prot, .tether, .queues, .win, .integ] s s1_1 := by
    dsimp only [s1_1]
    repeat' first
    | (simp only [Only.mk_iff]; with_reducible refine Only.set_tether ?_ _ rfl)
    | (with_reducible exact Only.refl _ _)
    | (with_reducible assumption)
    | ((with_reducible apply Only.after (k := resetLink_only ..)); case w => rfl)
    | ((with_reducible apply Only.after (k := addErr_only ..)); case w => rfl)
    | ((with_reducible apply Only.after (k := dropRings_only ..)); case w => rfl)
    | ((with_reducible apply Only.after (k := originate_only ..)); case w => rfl)
    | ((with_reducible apply Only.after (k := addAlert_only ..)); case w => rfl)
    | ((with_reducible apply Only.after (k := addEntry_only ..)); case w => rfl)
    | (split)
  clear_value s1_1
  have h_s2 : Only [.rules, .act, .bridle, .prot, .tether, .queues, .win, .integ] s s2 := by
    dsimp only [s2]
    repeat' first
    | (simp only [Only.mk_iff]; with_reducible refine Only.set_tether ?_ _ rfl)
    | (with_reducible exact Only.refl _ _)
    | (with_reducible assumption)
    | ((with_reducible apply Only.after (k := resetLink_only ..)); case w => rfl)
    | ((with_reducible apply Only.after (k := addErr_only ..)); case w => rfl)
    | ((with_reducible apply Only.after (k := dropRings_only ..)); case w => rfl)
    | ((with_reducible apply Only.after (k := originate_only ..)); case w => rfl)
    | ((with_reducible apply Only.after (k := addAlert_only ..)); case w => rfl)
    | ((with_reducible apply Only.after (k := addEntry_only ..)); case w => rfl)
    | (split)
  clear_value s2
  have h_s3 : Only [.rules, .act, .bridle, .prot, .tether, .queues, .win, .integ] s s3 := by
    dsimp only [s3]
    repeat' first
    | (simp only [Only.mk_iff]; with_reducible refine Only.set_tether ?_ _ rfl)
    | (with_reducible exact Only.refl _ _)
    | (with_reducible assumption)
    | ((with_reducible apply Only.after (k := resetLink_only ..)); case w => rfl)
    | ((with_reducible apply Only.after (k := addErr_only ..)); case w => rfl)
    | ((with_reducible apply Only.after (k := dropRings_only ..)); case w => rfl)
    | ((with_reducible apply Only.after (k := originate_only ..)); case w => rfl)
    | ((with_reducible apply Only.after (k := addAlert_only ..)); case w => rfl)
    | ((with_reducible apply Only.after (k := addEntry_only ..)); case w => rfl)
    | (split)
  clear_value s3
  have h_s4 : Only [.rules, .act, .bridle, .prot, .tether, .queues, .win, .integ] s s4 := by
    dsimp only [s4]
    repeat' first
    | (simp only [Only.mk_iff]; with_reducible refine Only.set_tether ?_ _ rfl)
    | (with_reducible exact Only.refl _ _)
    | (with_reducible assumption)
    | ((with_reducible apply Only.after (k := resetLink_only ..)); case w => rfl)
    | ((with_reducible apply Only.after (k := addErr_only ..)); case w => rfl)
    | ((with_reducible apply Only.after (k := dropRings_only ..)); case w => rfl)
    | ((with_reducible apply Only.after (k := originate_only ..)); case w => rfl)
    | ((with_reducible apply Only.after (k := addAlert_only ..)); case w => rfl)
    | ((with_reducible apply Only.after (k := addEntry_only ..)); case w => rfl)
    | (split)
  clear_value s4
  have h_s5 : Only [.rules, .act, .bridle, .prot, .tether, .queues, .win, .integ] s s5 := by
    dsimp only [s5]
    repeat' first
    | (simp only [Only.mk_iff]; with_reducible refine Only.set_tether ?_ _ rfl)
    | (with_reducible exact Only.refl _ _)
    | (with_reducible assumption)
    | ((with_reducible apply Only.after (k := resetLink_only ..)); case w => rfl)
    | ((with_reducible apply Only.after (k := addErr_only ..)); case w => rfl)
    | ((with_reducible apply Only.after (k := dropRings_only ..)); case w => rfl)
    | ((with_reducible apply Only.after (k := originate_only ..)); case w => rfl)
    | ((with_reducible apply Only.after (k := addAlert_only ..)); case w => rfl)
    | ((with_reducible apply Only.after (k := addEntry_only ..)); case w => rfl)
    | (split)
  clear_value s5
  have h_s6 : Only [.rules, .act, .bridle, .prot, .tether, .queues, .win, .integ] s s6 := by
    dsimp only [s6]
    repeat' first
    | (simp only [Only.mk_iff]; with_reducible refine Only.set_tether ?_ _ rfl)
    | (with_reducible exact Only.refl _ _)
    | (with_reducible assumption)
    | ((with_reducible apply Only.after (k := resetLink_only ..)); case w => rfl)
    | ((with_reducible apply Only.after (k := addErr_only ..)); case w => rfl)
    | ((with_reducible apply Only.after (k := dropRings_only ..)); case w => rfl)
    | ((with_reducible apply Only.after (k := originate_only ..)); case w => rfl)
    | ((with_reducible apply Only.after (k := addAlert_only ..)); case w => rfl)
    | ((with_reducible apply Only.after (k := addEntry_only ..)); case w => rfl)
    | (split)
  clear_value s6
  clear_value o src pay
  repeat' first
    | (simp only [Only.mk_iff]; with_reducible refine Only.set_tether ?_ _ rfl)
    | (with_reducible exact Only.refl _ _)
    | (with_reducible assumption)
    | ((with_reducible apply Only.after (k := resetLink_only ..)); case w => rfl)
    | ((with_reducible apply Only.after (k := addErr_only ..)); case w => rfl)
    | ((with_reducible apply Only.after (k := dropRings_only ..)); case w => rfl)
    | ((with_reducible apply Only.after (k := originate_only ..)); case w => rfl)
    | ((with_reducible apply Only.after (k := addAlert_only ..)); case w => rfl)
    | ((with_reducible apply Only.after (k := addEntry_only ..)); case w => rfl)
    | (split)

theorem portDown_only (s : State) (p : Port) (c : DownCause) :
    Only [.rules, .act, .bridle, .prot, .tether, .queues, .win, .integ] s (portDown s p c) := by
  unfold portDown
  try dsimp only
  repeat' first
    | (with_reducible exact Only.refl _ _)
    | (with_reducible assumption)
    | ((with_reducible apply Only.after (k := portDownAs_only ..)); case w => rfl)
    | (split)

theorem goBack_only (s : State) (p : Port) :
    Only [.rules, .act, .bridle, .prot, .tether, .queues, .win, .integ] s (goBack s p) := by
  unfold goBack
  try dsimp only
  repeat' first
    | (with_reducible exact Only.refl _ _)
    | (with_reducible assumption)
    | ((with_reducible apply Only.after (k := portDown_only ..)); case w => rfl)
    | ((with_reducible apply Only.after (k := modLink_only ..)); case w => rfl)
    | (split)

theorem ackOldest_only (s : State) (p : Port) (k : Nat) :
    Only [.tether, .queues] s (ackOldest s p k) := by
  unfold ackOldest
  try dsimp only
  repeat' first
    | (with_reducible exact Only.refl _ _)
    | (with_reducible assumption)
    | ((with_reducible apply Only.after (k := modLink_only ..)); case w => rfl)
    | ((with_reducible apply Only.after (k := afterRemoval_only ..)); case w => rfl)
    | ((with_reducible apply Only.foldl); intro _ _ _)
    | ((with_reducible apply Only.foldl_fst); intro _ _ _)
    | (split)

theorem takeAck_only (s : State) (p : Port) (e : Byte) (nak : Bool) :
    Only [.rules, .act, .bridle, .prot, .tether, .queues, .win, .integ] s (takeAck s p e nak) := by
  unfold takeAck
  try dsimp only
  repeat' first
    | (with_reducible exact Only.refl _ _)
    | (with_reducible assumption)
    | ((with_reducible apply Only.after (k := ackOldest_only ..)); case w => rfl)
    | ((with_reducible apply Only.after (k := goBack_only ..)); case w => rfl)
    | (split)

theorem sendAck_only (s : State) (p : Port) :
    Only [.tether] s (sendAck s p) := by
  unfold sendAck
  try dsimp only
  repeat' first
    | (with_reducible exact Only.refl _ _)
    | (with_reducible assumption)
    | ((with_reducible apply Only.after (k := modLink_only ..)); case w => rfl)
    | (split)

theorem discardReply_only (s : State) (p : Port) (rx : RxFrame) :
    Only [.tether] s (discardReply s p rx) := by
  unfold discardReply
  try dsimp only
  repeat' first
    | (with_reducible exact Only.refl _ _)
    | (with_reducible assumption)
    | ((with_reducible apply Only.after (k := modLink_only ..)); case w => rfl)
    | (split)

theorem countCrc_only (s : State) :
    Only [.win] s (countCrc s) := by
  unfold countCrc
  try dsimp only
  repeat' first
    | (simp only [Only.mk_iff]; with_reducible refine Only.set_win ?_ _ rfl)
    | (with_reducible exact Only.refl _ _)
    | (with_reducible assumption)
    | (split)

theorem discardFrame_only (s : State) (p : Port) (rx : RxFrame) :
    Only [.tether, .win] s (discardFrame s p rx) := by
  unfold discardFrame
  try dsimp only
  repeat' first
    | (with_reducible exact Only.refl _ _)
    | (with_reducible assumption)
    | ((with_reducible apply Only.after (k := countCrc_only ..)); case w => rfl)
    | ((with_reducible apply Only.after (k := discardReply_only ..)); case w => rfl)
    | (split)

theorem hopReceive_only (s : State) (p : Port) (rx : RxFrame) :
    Only [.tether, .queues, .win] s (hopReceive s p rx).1 := by
  unfold hopReceive
  try dsimp only
  repeat' first
    | (simp only [Only.mk_iff]; with_reducible refine Only.set_queues ?_ _ rfl)
    | (with_reducible exact Only.refl _ _)
    | (with_reducible assumption)
    | ((with_reducible apply Only.after (k := discardFrame_only ..)); case w => rfl)
    | ((with_reducible apply Only.after (k := addErr_only ..)); case w => rfl)
    | ((with_reducible apply Only.after (k := discardReply_only ..)); case w => rfl)
    | ((with_reducible apply Only.after (k := modLink_only ..)); case w => rfl)
    | ((with_reducible apply Only.after (k := allocCells_only ..)); case w => rfl)
    | ((with_reducible apply Only.after (k := markAccept_only ..)); case w => rfl)
    | (split)

theorem repeatFrame_only (s : State) (p : Port) (rx : RxFrame) :
    Only [.tether] s (repeatFrame s p rx) := by
  unfold repeatFrame
  try dsimp only
  repeat' first
    | (with_reducible exact Only.refl _ _)
    | (with_reducible assumption)
    | ((with_reducible apply Only.after (k := modLink_only ..)); case w => rfl)
    | (split)

theorem flushDeferred_only (s : State) :
    Only [.rules, .act, .bridle, .prot, .tether, .queues, .win, .integ] s (flushDeferred s) := by
  unfold flushDeferred
  try dsimp only
  repeat' first
    | (simp only [Only.mk_iff]; with_reducible refine Only.set_queues ?_ _ rfl)
    | (with_reducible exact Only.refl _ _)
    | (with_reducible assumption)
    | ((with_reducible apply Only.after (k := addEntry_only ..)); case w => rfl)
    | ((with_reducible apply Only.foldl); intro _ _ _)
    | ((with_reducible apply Only.foldl_fst); intro _ _ _)
    | (split)

end Sys2Proof.Machine
end

