-- ==== Sys2Proof/Laws/LinkFrame.lean ====
section
/-! SUPPORT. What each definition of Machine/Link.lean may change: of the parts of the state, those listed and no other. -/

namespace Sys2Proof.Machine

theorem execPllLock_only (p : Port) (s : State) (t : State) (h : execPllLock p s = .next t) :
    Only [.tether] s t := by
  unfold execPllLock at h
  try dsimp only at h
  cases h
  repeat' first
    | (with_reducible exact Only.refl _ _)
    | (with_reducible assumption)
    | ((with_reducible apply Only.after (k := modLink_only ..)); case w => rfl)
    | (split)

theorem execPllLockTimeout_only (p : Port) (s : State) (t : State) (h : execPllLockTimeout p s = .next t) :
    Only [.rules, .act, .bridle, .prot, .tether, .queues, .win, .integ] s t := by
  unfold execPllLockTimeout at h
  try dsimp only at h
  cases h
  repeat' first
    | (with_reducible exact Only.refl _ _)
    | (with_reducible assumption)
    | ((with_reducible apply Only.after (k := addAlert_only ..)); case w => rfl)
    | ((with_reducible apply Only.after (k := modLink_only ..)); case w => rfl)
    | ((with_reducible apply Only.after (k := addEntry_only ..)); case w => rfl)
    | (split)

theorem execSymbolLock_only (p : Port) (inverted : Bool) (addr flags : Byte) (s : State) (t : State) (h : execSymbolLock p inverted addr flags s = .next t) :
    Only [.prot, .tether] s t := by
  unfold execSymbolLock at h
  try dsimp only at h
  cases h
  repeat' first
    | (with_reducible exact Only.refl _ _)
    | (with_reducible assumption)
    | ((with_reducible apply Only.after (k := modLink_only ..)); case w => rfl)
    | ((with_reducible apply Only.after (k := addAlert_only ..)); case w => rfl)
    | (split)

theorem execEqualiserSettle_only (p : Port) (boost : BitVec 4) (partnerPe : BitVec 2) (s : State) (t : State) (h : execEqualiserSettle p boost partnerPe s = .next t) :
    Only [.tether] s t := by
  unfold execEqualiserSettle at h
  try dsimp only at h
  cases h
  repeat' first
    | (with_reducible exact Only.refl _ _)
    | (with_reducible assumption)
    | ((with_reducible apply Only.after (k := modLink_only ..)); case w => rfl)
    | (split)

theorem execPartnerPereqApplied_only (p : Port) (pereq : BitVec 2) (s : State) (t : State) (h : execPartnerPereqApplied p pereq s = .next t) :
    Only [.tether] s t := by
  unfold execPartnerPereqApplied at h
  try dsimp only at h
  cases h
  repeat' first
    | (with_reducible exact Only.refl _ _)
    | (with_reducible assumption)
    | ((with_reducible apply Only.after (k := modLink_only ..)); case w => rfl)
    | (split)

theorem execTrainingDone_only (p : Port) (s : State) (t : State) (h : execTrainingDone p s = .next t) :
    Only [.tether] s t := by
  unfold execTrainingDone at h
  try dsimp only at h
  cases h
  repeat' first
    | (with_reducible exact Only.refl _ _)
    | (with_reducible assumption)
    | ((with_reducible apply Only.after (k := modLink_only ..)); case w => rfl)
    | (split)

theorem execHelloTimeout_only (p : Port) (s : State) (t : State) (h : execHelloTimeout p s = .next t) :
    Only [.tether] s t := by
  unfold execHelloTimeout at h
  try dsimp only at h
  cases h
  repeat' first
    | (with_reducible exact Only.refl _ _)
    | (with_reducible assumption)
    | ((with_reducible apply Only.after (k := modLink_only ..)); case w => rfl)
    | (split)

theorem badLinkControl_only (s : State) (p : Port) (rx : RxFrame) :
    Only [.tether, .win] s (badLinkControl s p rx) := by
  unfold badLinkControl
  try dsimp only
  repeat' first
    | (with_reducible exact Only.refl _ _)
    | (with_reducible assumption)
    | ((with_reducible apply Only.after (k := countCrc_only ..)); case w => rfl)
    | ((with_reducible apply Only.after (k := addErr_only ..)); case w => rfl)
    | (split)

theorem bulkRaise_only (s : State) (p : Port) :
    Only [.free] s (bulkRaise s p).2 := by
  unfold bulkRaise
  try dsimp only
  repeat' first
    | (with_reducible exact Only.refl _ _)
    | (with_reducible assumption)
    | ((with_reducible apply Only.after (k := takeFree_only ..)); case w => rfl)
    | (split)

theorem sendCredit_only (s : State) (p : Port) :
    Only [.free, .tether] s (sendCredit s p) := by
  unfold sendCredit
  try dsimp only
  repeat' first
    | (with_reducible exact Only.refl _ _)
    | (with_reducible assumption)
    | ((with_reducible apply Only.after (k := bulkRaise_only ..)); case w => rfl)
    | ((with_reducible apply Only.after (k := modLink_only ..)); case w => rfl)
    | (split)

theorem resume_only (s : State) (p : Port) (e : Byte) (fresh : Bool) :
    Only [.tether, .queues] s (resume s p e fresh) := by
  unfold resume
  try dsimp only
  repeat' first
    | (with_reducible exact Only.refl _ _)
    | (with_reducible assumption)
    | ((with_reducible apply Only.after (k := modLink_only ..)); case w => rfl)
    | ((with_reducible apply Only.after (k := ackOldest_only ..)); case w => rfl)
    | (split)

theorem helloCopy_only (s : State) (b : List Byte) (d : Decision) :
    Only [.act, .queues] s (helloCopy s b d) := by
  unfold helloCopy
  try dsimp only
  repeat' first
    | (simp only [Only.mk_iff]; with_reducible refine Only.set_queues ?_ _ rfl)
    | (with_reducible exact Only.refl _ _)
    | (with_reducible assumption)
    | ((with_reducible apply Only.after (k := tallyAdd_only ..)); case w => rfl)
    | ((with_reducible apply Only.after (k := pushQueue_only ..)); case w => rfl)
    | ((with_reducible apply Only.after (k := allocCells_only ..)); case w => rfl)
    | (split)

theorem takeDecision_only (s : State) (p : Port) :
    Only [.engs] s (takeDecision s p).2 := by
  unfold takeDecision
  try dsimp only
  repeat' first
    | (simp only [Only.mk_iff]; with_reducible refine Only.set_engs ?_ _ rfl)
    | (with_reducible exact Only.refl _ _)
    | (with_reducible assumption)
    | (split)

theorem execHello_only (p : Port) (rx : RxFrame) (s : State) (t : State) (h : execHello p rx s = .next t) :
    Only [.free, .engs, .act, .prot, .tether, .queues, .win] s t := by
  unfold execHello at h
  try dsimp only at h
  cases h
  repeat' first
    | (with_reducible exact Only.refl _ _)
    | (with_reducible assumption)
    | ((with_reducible apply Only.after (k := badLinkControl_only ..)); case w => rfl)
    | ((with_reducible apply Only.after (k := countCode_only ..)); case w => rfl)
    | ((with_reducible apply Only.after (k := takeDecision_only ..)); case w => rfl)
    | ((with_reducible apply Only.after (k := modLink_only ..)); case w => rfl)
    | ((with_reducible apply Only.after (k := resume_only ..)); case w => rfl)
    | ((with_reducible apply Only.after (k := addAlert_only ..)); case w => rfl)
    | ((with_reducible apply Only.after (k := helloCopy_only ..)); case w => rfl)
    | ((with_reducible apply Only.after (k := sendCredit_only ..)); case w => rfl)
    | (split)

theorem execCredit_only (p : Port) (rx : RxFrame) (s : State) (t : State) (h : execCredit p rx s = .next t) :
    Only [.free, .front, .rules, .act, .bridle, .prot, .tether, .queues, .win, .integ, .pace] s t := by
  unfold execCredit at h
  try dsimp only at h
  cases h
  repeat' first
    | (simp only [Only.mk_iff]; with_reducible refine Only.set_front ?_ _ rfl)
    | (with_reducible exact Only.refl _ _)
    | (with_reducible assumption)
    | ((with_reducible apply Only.after (k := repeatFrame_only ..)); case w => rfl)
    | ((with_reducible apply Only.after (k := countCode_only ..)); case w => rfl)
    | ((with_reducible apply Only.after (k := badLinkControl_only ..)); case w => rfl)
    | ((with_reducible apply Only.after (k := modLink_only ..)); case w => rfl)
    | ((with_reducible apply Only.after (k := flushDeferred_only ..)); case w => rfl)
    | ((with_reducible apply Only.after (k := raiseRail_only ..)); case w => rfl)
    | ((with_reducible apply Only.foldl); intro _ _ _)
    | ((with_reducible apply Only.foldl_fst); intro _ _ _)
    | (split)

theorem execLinkDown_only (p : Port) (c : DownCause) (s : State) (t : State) (h : execLinkDown p c s = .next t) :
    Only [.rules, .act, .bridle, .prot, .tether, .queues, .win, .integ] s t := by
  unfold execLinkDown at h
  try dsimp only at h
  cases h
  repeat' first
    | (with_reducible exact Only.refl _ _)
    | (with_reducible assumption)
    | ((with_reducible apply Only.after (k := portDown_only ..)); case w => rfl)
    | (split)

theorem execAck_only (p : Port) (rx : RxFrame) (s : State) (t : State) (h : execAck p rx s = .next t) :
    Only [.rules, .act, .bridle, .prot, .tether, .queues, .win, .integ] s t := by
  unfold execAck at h
  try dsimp only at h
  cases h
  repeat' first
    | (with_reducible exact Only.refl _ _)
    | (with_reducible assumption)
    | ((with_reducible apply Only.after (k := countCode_only ..)); case w => rfl)
    | ((with_reducible apply Only.after (k := repeatFrame_only ..)); case w => rfl)
    | ((with_reducible apply Only.after (k := badLinkControl_only ..)); case w => rfl)
    | ((with_reducible apply Only.after (k := takeAck_only ..)); case w => rfl)
    | (split)

theorem execAckSend_only (p : Port) (s : State) (t : State) (h : execAckSend p s = .next t) :
    Only [.tether] s t := by
  unfold execAckSend at h
  try dsimp only at h
  cases h
  repeat' first
    | (with_reducible exact Only.refl _ _)
    | (with_reducible assumption)
    | ((with_reducible apply Only.after (k := sendAck_only ..)); case w => rfl)
    | (split)

theorem execGoBackTimeout_only (p : Port) (s : State) (t : State) (h : execGoBackTimeout p s = .next t) :
    Only [.rules, .act, .bridle, .prot, .tether, .queues, .win, .integ] s t := by
  unfold execGoBackTimeout at h
  try dsimp only at h
  cases h
  repeat' first
    | (with_reducible exact Only.refl _ _)
    | (with_reducible assumption)
    | ((with_reducible apply Only.after (k := goBack_only ..)); case w => rfl)
    | (split)

theorem execCreditSend_only (p : Port) (s : State) (t : State) (h : execCreditSend p s = .next t) :
    Only [.free, .tether] s t := by
  unfold execCreditSend at h
  try dsimp only at h
  cases h
  repeat' first
    | (with_reducible exact Only.refl _ _)
    | (with_reducible assumption)
    | ((with_reducible apply Only.after (k := sendCredit_only ..)); case w => rfl)
    | (split)

theorem countEcc_only (s : State) (e : EccResult) :
    Only [.win] s (countEcc s e) := by
  unfold countEcc
  try dsimp only
  repeat' first
    | (simp only [Only.mk_iff]; with_reducible refine Only.set_win ?_ _ rfl)
    | (with_reducible exact Only.refl _ _)
    | (with_reducible assumption)
    | (split)

theorem loseQueue_only (s : State) (tag : Nat) :
    Only [.tether, .queues, .win, .integ] s (loseQueue s tag) := by
  unfold loseQueue
  try dsimp only
  repeat' first
    | (simp only [Only.mk_iff]; with_reducible refine Only.set_win ?_ _ rfl)
    | (with_reducible exact Only.refl _ _)
    | (with_reducible assumption)
    | ((with_reducible apply Only.after (k := loseDescriptors_only ..)); case w => rfl)
    | (split)

theorem eccFail_only (s : State) (tag : Nat) (f : QFrame) (e : EccResult) :
    Only [.rules, .act, .bridle, .prot, .tether, .queues, .win, .integ] s (eccFail s tag f e) := by
  unfold eccFail
  try dsimp only
  repeat' first
    | (with_reducible exact Only.refl _ _)
    | (with_reducible assumption)
    | ((with_reducible apply Only.after (k := failFrame_only ..)); case w => rfl)
    | ((with_reducible apply Only.foldl); intro _ _ _)
    | ((with_reducible apply Only.foldl_fst); intro _ _ _)
    | (split)

theorem outFail_only (s : State) (p : Port) (h : Byte) (f : QFrame) (e : EccResult) :
    Only [.rules, .act, .bridle, .prot, .tether, .queues, .win, .integ] s (outFail s p h f e) := by
  unfold outFail
  try dsimp only
  repeat' first
    | (with_reducible exact Only.refl _ _)
    | (with_reducible assumption)
    | ((with_reducible apply Only.after (k := reportFrame_only ..)); case w => rfl)
    | ((with_reducible apply Only.after (k := modLink_only ..)); case w => rfl)
    | ((with_reducible apply Only.after (k := afterRemoval_only ..)); case w => rfl)
    | ((with_reducible apply Only.foldl); intro _ _ _)
    | ((with_reducible apply Only.foldl_fst); intro _ _ _)
    | (split)

theorem sendSafe_only (s : State) (p : Port) :
    Only [.tether, .queues] s (sendSafe s p) := by
  unfold sendSafe
  try dsimp only
  repeat' first
    | (with_reducible exact Only.refl _ _)
    | (with_reducible assumption)
    | ((with_reducible apply Only.after (k := releaseCopy_only ..)); case w => rfl)
    | ((with_reducible apply Only.after (k := modLink_only ..)); case w => rfl)
    | (split)

theorem sendNext_only (p : Port) (e : EccResult) (s : State) :
    Only [.rules, .act, .bridle, .prot, .tether, .queues, .win, .integ] s (sendNext p e s) := by
  unfold sendNext
  try dsimp only
  repeat' first
    | (with_reducible exact Only.refl _ _)
    | (with_reducible assumption)
    | ((with_reducible apply Only.after (k := sendSafe_only ..)); case w => rfl)
    | ((with_reducible apply Only.after (k := sendAck_only ..)); case w => rfl)
    | ((with_reducible apply Only.after (k := askAccess_only ..)); case w => rfl)
    | ((with_reducible apply Only.after (k := loseQueue_only ..)); case w => rfl)
    | ((with_reducible apply Only.after (k := countEcc_only ..)); case w => rfl)
    | ((with_reducible apply Only.after (k := outFail_only ..)); case w => rfl)
    | ((with_reducible apply Only.after (k := modLink_only ..)); case w => rfl)
    | ((with_reducible apply Only.after (k := eccFail_only ..)); case w => rfl)
    | ((with_reducible apply Only.after (k := setQueue_only ..)); case w => rfl)
    | (split)

theorem execFrameSend_only (p : Port) (e : EccResult) (s : State) (t : State) (h : execFrameSend p e s = .next t) :
    Only [.free, .rules, .act, .bridle, .prot, .tether, .queues, .win, .integ] s t := by
  unfold execFrameSend at h
  try dsimp only at h
  cases h
  repeat' first
    | (with_reducible exact Only.refl _ _)
    | (with_reducible assumption)
    | ((with_reducible apply Only.after (k := barred_only ..)); case w => rfl)
    | ((with_reducible apply Only.after (k := sendNext_only ..)); case w => rfl)
    | (split)

end Sys2Proof.Machine
end

