-- ==== Sys2Proof/Laws/FrameRowsFrame.lean ====
section
/-! SUPPORT. What each definition of Machine/FrameRows.lean may change: of the parts of the state, those listed and no other. -/

namespace Sys2Proof.Machine

theorem recordW2D_only (s : State) (port what : Nat) (start : Nat) :
    Only [.win] s (recordW2D s port what start) := by
  unfold recordW2D
  try dsimp only
  repeat' first
    | (simp only [Only.mk_iff]; with_reducible refine Only.set_win ?_ _ rfl)
    | (with_reducible exact Only.refl _ _)
    | (with_reducible assumption)
    | (split)

theorem modStreams_only (s : State) (k : StreamKind) (f : Stream → Stream) :
    Only [.engs] s (modStreams s k f) := by
  unfold modStreams
  try dsimp only
  repeat' first
    | (simp only [Only.mk_iff]; with_reducible refine Only.set_engs ?_ _ rfl)
    | (with_reducible exact Only.refl _ _)
    | (with_reducible assumption)
    | (split)

theorem frameDecision_only (s : State) (p : Port) :
    Only [.engs] s (frameDecision s p).2.2 := by
  unfold frameDecision
  try dsimp only
  repeat' first
    | (with_reducible exact Only.refl _ _)
    | (with_reducible assumption)
    | ((with_reducible apply Only.after (k := takeDecision_only ..)); case w => rfl)
    | ((with_reducible apply Only.after (k := modStreams_only ..)); case w => rfl)
    | (split)

theorem endEab_only (s : State) (o : Port) (b : List Byte) :
    Only [.tether] s (endEab s o b) := by
  unfold endEab
  try dsimp only
  repeat' first
    | (with_reducible exact Only.refl _ _)
    | (with_reducible assumption)
    | ((with_reducible apply Only.after (k := modLink_only ..)); case w => rfl)
    | (split)

theorem abortCut_only (s : State) (p : Port) (b : List Byte) (d : Disp) :
    Only [.tether] s (abortCut s p b d) := by
  unfold abortCut
  try dsimp only
  repeat' first
    | (with_reducible exact Only.refl _ _)
    | (with_reducible assumption)
    | ((with_reducible apply Only.after (k := endEab_only ..)); case w => rfl)
    | (split)

theorem abortBad_only (s : State) (p : Port) (b : List Byte) :
    Only [.tether] s (abortBad s p b) := by
  unfold abortBad
  try dsimp only
  repeat' first
    | (with_reducible exact Only.refl _ _)
    | (with_reducible assumption)
    | ((with_reducible apply Only.after (k := endEab_only ..)); case w => rfl)
    | (split)

theorem distribute_only (s : State) (p : Port) (a : Accepted) (d : Decision) (late spoilt : Bool) :
    Only [.rules, .act, .bridle, .prot, .tether, .queues, .win, .integ] s (distribute s p a d late spoilt) := by
  unfold distribute
  try dsimp only
  repeat' first
    | (with_reducible exact Only.refl _ _)
    | (with_reducible assumption)
    | ((with_reducible apply Only.after (k := endEab_only ..)); case w => rfl)
    | ((with_reducible apply Only.after (k := recordW2D_only ..)); case w => rfl)
    | ((with_reducible apply Only.after (k := abortCut_only ..)); case w => rfl)
    | ((with_reducible apply Only.after (k := reportFrame_only ..)); case w => rfl)
    | ((with_reducible apply Only.after (k := askMemory_only ..)); case w => rfl)
    | ((with_reducible apply Only.after (k := consume_only ..)); case w => rfl)
    | ((with_reducible apply Only.after (k := admitCopies_only ..)); case w => rfl)
    | (split)

theorem receive_only (ps : List Part) (hps : partsWithin [.rules, .engs, .act, .bridle, .prot, .tether, .queues, .win, .integ] ps = true) (s : State) (p : Port) (rx : RxFrame)
    (typs : List Nat) (act : State → List Byte → State) (hact : ∀ t b, Only ps t (act t b)) :
    Only ps s (receive s p rx typs act) := by
  have mono {a b : State} (k : Only [.rules, .engs, .act, .bridle, .prot, .tether, .queues, .win, .integ] a b) : Only ps a b := Only.mono k hps
  have trans {a b c : State} (h : Only ps a b) (k : Only ps b c) : Only ps a c := ⟨fun q hq => Part.same_trans (h.same q hq) (k.same q hq)⟩
  unfold receive
  dsimp only
  split
  · exact trans (mono (Only.mono (countCode_only s p rx) rfl)) (mono (Only.mono (repeatFrame_only (countCode s p rx) p rx) rfl))
  · split
    · exact Only.refl _ _
    · split
      · exact Only.refl _ _
      · have h0 : Only ps s (countCode s p rx) := mono (Only.mono (countCode_only ..) rfl)
        have h1 : Only ps s (frameDecision (countCode s p rx) p).2.2 := trans h0 (mono (Only.mono (frameDecision_only ..) rfl))
        have h2 := trans h1 (mono (Only.mono (hopReceive_only (frameDecision (countCode s p rx) p).2.2 p rx) rfl))
        split
        · exact h2
        · split
          · exact trans h2 (mono (Only.mono (consume_only _ _) rfl))
          · exact trans (trans h2 (hact _ _)) (mono (Only.mono (distribute_only _ _ _ _ _ _) rfl))

theorem managementRefused_only (s : State) (b : List Byte) :
    Only [.rules, .act, .bridle, .prot, .tether, .queues, .win, .integ] s (managementRefused s b) := by
  unfold managementRefused
  try dsimp only
  repeat' first
    | (with_reducible exact Only.refl _ _)
    | (with_reducible assumption)
    | ((with_reducible apply Only.after (k := reportFrame_only ..)); case w => rfl)
    | (split)

theorem execData_only (p : Port) (rx : RxFrame) (lost : Option Half) (s : State) (t : State) (h : execData p rx lost s = .next t) :
    Only [.rules, .engs, .act, .bridle, .prot, .tether, .queues, .win, .integ] s t := by
  unfold execData at h
  try dsimp only at h
  cases h
  repeat' first
    | (with_reducible exact Only.refl _ _)
    | (with_reducible assumption)
    | ((with_reducible apply Only.after (k := loseQueue_only ..)); case w => rfl)
    | ((with_reducible apply Only.after (k := managementRefused_only ..)); case w => rfl)
    | (refine Only.post ?_ (receive_only [.rules, .engs, .act, .bridle, .prot, .tether, .queues, .win, .integ] rfl _ _ _ _ _ fun _ _ => Only.mono (managementRefused_only ..) rfl) rfl)
    | (split)

theorem execNotice_only (p : Port) (rx : RxFrame) (s : State) (t : State) (h : execNotice p rx s = .next t) :
    Only [.rules, .engs, .act, .bridle, .prot, .tether, .queues, .win, .integ] s t := by
  unfold execNotice at h
  try dsimp only at h
  cases h
  repeat' first
    | (with_reducible exact Only.refl _ _)
    | (with_reducible assumption)
    | (refine Only.post ?_ (receive_only [.rules, .engs, .act, .bridle, .prot, .tether, .queues, .win, .integ] rfl _ _ _ _ _ fun _ _ => Only.refl _ _) rfl)
    | (split)

theorem echoAct_only (s : State) (b : List Byte) :
    Only [.tether, .queues] s (echoAct s b) := by
  unfold echoAct
  try dsimp only
  repeat' first
    | (with_reducible exact Only.refl _ _)
    | (with_reducible assumption)
    | ((with_reducible apply Only.after (k := originate_only ..)); case w => rfl)
    | (split)

theorem execEchoRequest_only (p : Port) (rx : RxFrame) (s : State) (t : State) (h : execEchoRequest p rx s = .next t) :
    Only [.rules, .engs, .act, .bridle, .prot, .tether, .queues, .win, .integ] s t := by
  unfold execEchoRequest at h
  try dsimp only at h
  cases h
  repeat' first
    | (with_reducible exact Only.refl _ _)
    | (with_reducible assumption)
    | ((with_reducible apply Only.after (k := echoAct_only ..)); case w => rfl)
    | (refine Only.post ?_ (receive_only [.rules, .engs, .act, .bridle, .prot, .tether, .queues, .win, .integ] rfl _ _ _ _ _ fun _ _ => Only.mono (echoAct_only ..) rfl) rfl)
    | (split)

theorem execEchoReply_only (p : Port) (rx : RxFrame) (s : State) (t : State) (h : execEchoReply p rx s = .next t) :
    Only [.rules, .engs, .act, .bridle, .prot, .tether, .queues, .win, .integ] s t := by
  unfold execEchoReply at h
  try dsimp only at h
  cases h
  repeat' first
    | (with_reducible exact Only.refl _ _)
    | (with_reducible assumption)
    | (refine Only.post ?_ (receive_only [.rules, .engs, .act, .bridle, .prot, .tether, .queues, .win, .integ] rfl _ _ _ _ _ fun _ _ => Only.refl _ _) rfl)
    | (split)

theorem probeAct_only (p : Port) (s : State) (b : List Byte) :
    Only [.tether] s (probeAct p s b) := by
  unfold probeAct
  try dsimp only
  repeat' first
    | (simp only [Only.mk_iff]; with_reducible refine Only.set_tether ?_ _ rfl)
    | (with_reducible exact Only.refl _ _)
    | (with_reducible assumption)
    | (split)

theorem breakAct_only (p : Port) (s : State) (u : List Byte) :
    Only [.tether] s (breakAct p s u) := by
  unfold breakAct
  try dsimp only
  repeat' first
    | (simp only [Only.mk_iff]; with_reducible refine Only.set_tether ?_ _ rfl)
    | (with_reducible exact Only.refl _ _)
    | (with_reducible assumption)
    | (split)

theorem execRingProbe_only (p : Port) (rx : RxFrame) (s : State) (t : State) (h : execRingProbe p rx s = .next t) :
    Only [.rules, .engs, .act, .bridle, .prot, .tether, .queues, .win, .integ] s t := by
  unfold execRingProbe at h
  try dsimp only at h
  cases h
  repeat' first
    | (with_reducible exact Only.refl _ _)
    | (with_reducible assumption)
    | ((with_reducible apply Only.after (k := probeAct_only ..)); case w => rfl)
    | (refine Only.post ?_ (receive_only [.rules, .engs, .act, .bridle, .prot, .tether, .queues, .win, .integ] rfl _ _ _ _ _ fun _ _ => Only.mono (probeAct_only ..) rfl) rfl)
    | (split)

theorem execRingBreak_only (p : Port) (rx : RxFrame) (s : State) (t : State) (h : execRingBreak p rx s = .next t) :
    Only [.rules, .engs, .act, .bridle, .prot, .tether, .queues, .win, .integ] s t := by
  unfold execRingBreak at h
  try dsimp only at h
  cases h
  repeat' first
    | (with_reducible exact Only.refl _ _)
    | (with_reducible assumption)
    | ((with_reducible apply Only.after (k := breakAct_only ..)); case w => rfl)
    | (refine Only.post ?_ (receive_only [.rules, .engs, .act, .bridle, .prot, .tether, .queues, .win, .integ] rfl _ _ _ _ _ fun _ _ => Only.mono (breakAct_only ..) rfl) rfl)
    | (split)

theorem execMalformedFrame_only (p : Port) (rx : RxFrame) (s : State) (t : State) (h : execMalformedFrame p rx s = .next t) :
    Only [.rules, .act, .bridle, .prot, .tether, .queues, .win, .integ] s t := by
  unfold execMalformedFrame at h
  try dsimp only at h
  cases h
  repeat' first
    | (with_reducible exact Only.refl _ _)
    | (with_reducible assumption)
    | ((with_reducible apply Only.after (k := repeatFrame_only ..)); case w => rfl)
    | ((with_reducible apply Only.after (k := countCode_only ..)); case w => rfl)
    | ((with_reducible apply Only.after (k := addErr_only ..)); case w => rfl)
    | ((with_reducible apply Only.after (k := hopReceive_only ..)); case w => rfl)
    | ((with_reducible apply Only.after (k := reportFrame_only ..)); case w => rfl)
    | ((with_reducible apply Only.after (k := consume_only ..)); case w => rfl)
    | (split)

theorem execFrameDiscarded_only (p : Port) (rx : RxFrame) (s : State) (t : State) (h : execFrameDiscarded p rx s = .next t) :
    Only [.engs, .tether, .win] s t := by
  unfold execFrameDiscarded at h
  try dsimp only at h
  cases h
  repeat' first
    | (with_reducible exact Only.refl _ _)
    | (with_reducible assumption)
    | ((with_reducible apply Only.after (k := repeatFrame_only ..)); case w => rfl)
    | ((with_reducible apply Only.after (k := countCode_only ..)); case w => rfl)
    | ((with_reducible apply Only.after (k := frameDecision_only ..)); case w => rfl)
    | ((with_reducible apply Only.after (k := badLinkControl_only ..)); case w => rfl)
    | ((with_reducible apply Only.after (k := addErr_only ..)); case w => rfl)
    | ((with_reducible apply Only.after (k := discardReply_only ..)); case w => rfl)
    | ((with_reducible apply Only.after (k := discardFrame_only ..)); case w => rfl)
    | ((with_reducible apply Only.after (k := abortBad_only ..)); case w => rfl)
    | (split)

end Sys2Proof.Machine
end

