-- ==== Sys2Proof/Laws/DeliveryFrame.lean ====
section
/-! SUPPORT. What each definition of Machine/Delivery.lean may change: of the parts of the state, those listed and no other. -/

namespace Sys2Proof.Machine

theorem partEntry_only (s : State) (reason : Byte) (b : List Byte) (sub : Nat) :
    Only [.rules, .act, .bridle, .prot, .tether, .queues, .win, .integ] s (partEntry s reason b sub) := by
  unfold partEntry
  try dsimp only
  repeat' first
    | (with_reducible exact Only.refl _ _)
    | (with_reducible assumption)
    | ((with_reducible apply Only.after (k := addEntry_only ..)); case w => rfl)
    | (split)

theorem firstPart_only (s : State) (b : List Byte) :
    Only [.xfer, .rules, .act, .bridle, .prot, .tether, .queues, .win, .integ] s (firstPart s b) := by
  unfold firstPart
  try dsimp only
  repeat' first
    | (simp only [Only.mk_iff]; with_reducible refine Only.set_xfer ?_ _ rfl)
    | (with_reducible exact Only.refl _ _)
    | (with_reducible assumption)
    | ((with_reducible apply Only.after (k := partEntry_only ..)); case w => rfl)
    | (split)

theorem takePart_only (s : State) (b : List Byte) :
    Only [.xfer, .rules, .act, .bridle, .prot, .tether, .queues, .win, .integ] s (takePart s b) := by
  unfold takePart
  try dsimp only
  repeat' first
    | (simp only [Only.mk_iff]; with_reducible refine Only.set_xfer ?_ _ rfl)
    | (with_reducible exact Only.refl _ _)
    | (with_reducible assumption)
    | ((with_reducible apply Only.after (k := partEntry_only ..)); case w => rfl)
    | ((with_reducible apply Only.after (k := firstPart_only ..)); case w => rfl)
    | (split)

theorem reelAct_only (s : State) (b : List Byte) :
    Only [.xfer, .rules, .act, .bridle, .prot, .tether, .queues, .win, .integ] s (reelAct s b) := by
  unfold reelAct
  try dsimp only
  repeat' first
    | (with_reducible exact Only.refl _ _)
    | (with_reducible assumption)
    | ((with_reducible apply Only.after (k := takePart_only ..)); case w => rfl)
    | ((with_reducible apply Only.after (k := managementRefused_only ..)); case w => rfl)
    | (split)

theorem receivePart_only (s : State) (p : Port) (rx : RxFrame) :
    Only [.xfer, .rules, .engs, .act, .bridle, .prot, .tether, .queues, .win, .integ] s (receivePart s p rx) := by
  unfold receivePart
  try dsimp only
  repeat' first
    | (with_reducible exact Only.refl _ _)
    | (with_reducible assumption)
    | ((with_reducible apply Only.after (k := repeatFrame_only ..)); case w => rfl)
    | ((with_reducible apply Only.after (k := countCode_only ..)); case w => rfl)
    | ((with_reducible apply Only.after (k := takePart_only ..)); case w => rfl)
    | ((with_reducible apply Only.after (k := reelAct_only ..)); case w => rfl)
    | (refine Only.post ?_ (receive_only [.xfer, .rules, .engs, .act, .bridle, .prot, .tether, .queues, .win, .integ] rfl _ _ _ _ _ fun _ _ => Only.mono (reelAct_only ..) rfl) rfl)
    | (split)

theorem arrivesOn_only (s : State) (p : Port) (b : List Byte) :
    Only [.xfer] s (arrivesOn s p b) := by
  unfold arrivesOn
  try dsimp only
  repeat' first
    | (simp only [Only.mk_iff]; with_reducible refine Only.set_xfer ?_ _ rfl)
    | (with_reducible exact Only.refl _ _)
    | (with_reducible assumption)
    | (split)

theorem execReelPart_only (p : Port) (rx : RxFrame) (s : State) (t : State) (h : execReelPart p rx s = .next t) :
    Only [.xfer, .rules, .engs, .act, .bridle, .prot, .tether, .queues, .win, .integ] s t := by
  unfold execReelPart at h
  try dsimp only at h
  cases h
  repeat' first
    | (with_reducible exact Only.refl _ _)
    | (with_reducible assumption)
    | ((with_reducible apply Only.after (k := arrivesOn_only ..)); case w => rfl)
    | ((with_reducible apply Only.after (k := receivePart_only ..)); case w => rfl)
    | (split)

theorem execReelPartLast_only (p : Port) (rx : RxFrame) (s : State) (t : State) (h : execReelPartLast p rx s = .next t) :
    Only [.xfer, .rules, .engs, .act, .bridle, .prot, .tether, .queues, .win, .integ] s t := by
  unfold execReelPartLast at h
  try dsimp only at h
  cases h
  repeat' first
    | (with_reducible exact Only.refl _ _)
    | (with_reducible assumption)
    | ((with_reducible apply Only.after (k := arrivesOn_only ..)); case w => rfl)
    | ((with_reducible apply Only.after (k := receivePart_only ..)); case w => rfl)
    | (split)

theorem finishPage_only (s : State) :
    Only [.free, .flash, .xfer] s (finishPage s) := by
  unfold finishPage
  try dsimp only
  repeat' first
    | (simp only [Only.mk_iff]; with_reducible refine Only.set_flash_xfer ?_ _ _ rfl)
    | (with_reducible exact Only.refl _ _)
    | (with_reducible assumption)
    | ((with_reducible apply Only.after (k := takeFree_only ..)); case w => rfl)
    | (split)

theorem abandonXfer_only (s : State) (sub : Nat) (waits : Bool) :
    Only [.xfer, .rules, .act, .bridle, .prot, .tether, .queues, .win, .integ] s (abandonXfer s sub waits) := by
  unfold abandonXfer
  try dsimp only
  repeat' first
    | (simp only [Only.mk_iff]; with_reducible refine Only.set_xfer ?_ _ rfl)
    | (with_reducible exact Only.refl _ _)
    | (with_reducible assumption)
    | ((with_reducible apply Only.after (k := deferEntry_only ..)); case w => rfl)
    | ((with_reducible apply Only.after (k := addEntry_only ..)); case w => rfl)
    | (split)

theorem execFlashPartProgrammed_only (ok : Bool) (s : State) (t : State) (h : execFlashPartProgrammed ok s = .next t) :
    Only [.flash, .xfer, .rules, .act, .bridle, .prot, .tether, .queues, .win, .integ] s t := by
  unfold execFlashPartProgrammed at h
  try dsimp only at h
  cases h
  repeat' first
    | (simp only [Only.mk_iff]; with_reducible refine Only.set_flash ?_ _ rfl)
    | (simp only [Only.mk_iff]; with_reducible refine Only.set_flash_xfer ?_ _ _ rfl)
    | (with_reducible exact Only.refl _ _)
    | (with_reducible assumption)
    | ((with_reducible apply Only.after (k := abandonXfer_only ..)); case w => rfl)
    | ((with_reducible apply Only.after (k := addEntry_only ..)); case w => rfl)
    | (split)

theorem execTransferTimeout_only (s : State) (t : State) (h : execTransferTimeout s = .next t) :
    Only [.xfer, .rules, .act, .bridle, .prot, .tether, .queues, .win, .integ] s t := by
  unfold execTransferTimeout at h
  try dsimp only at h
  cases h
  repeat' first
    | (with_reducible exact Only.refl _ _)
    | (with_reducible assumption)
    | ((with_reducible apply Only.after (k := abandonXfer_only ..)); case w => rfl)
    | (split)

end Sys2Proof.Machine
end

