-- ==== Sys2Proof/Laws/DropFrame.lean ====
section
/-! SUPPORT. What each definition of Machine/Drop.lean may change: of the parts of the state, those listed and no other. -/

namespace Sys2Proof.Machine

theorem turnPipe_only (s : State) :
    Only [.drop] s (turnPipe s) := by
  unfold turnPipe
  try dsimp only
  repeat' first
    | (simp only [Only.mk_iff]; with_reducible refine Only.set_drop ?_ _ rfl)
    | (with_reducible exact Only.refl _ _)
    | (with_reducible assumption)
    | (split)

theorem execDdirChange_only (level : Bool) (s : State) (t : State) (h : execDdirChange level s = .next t) :
    Only [.pins, .drop] s t := by
  unfold execDdirChange at h
  try dsimp only at h
  cases h
  repeat' first
    | (simp only [Only.mk_iff]; with_reducible refine Only.set_pins ?_ _ rfl)
    | (with_reducible exact Only.refl _ _)
    | (with_reducible assumption)
    | ((with_reducible apply Only.after (k := turnPipe_only ..)); case w => rfl)
    | (split)

theorem execIngressUnit_only (gapOver : Bool) (s : State) (t : State) (h : execIngressUnit gapOver s = .next t) :
    Only [.drop] s t := by
  unfold execIngressUnit at h
  try dsimp only at h
  cases h
  repeat' first
    | (simp only [Only.mk_iff]; with_reducible refine Only.set_drop ?_ _ rfl)
    | (with_reducible exact Only.refl _ _)
    | (with_reducible assumption)
    | (split)

theorem placeAll_only (s : State) (a : Accepted) (cs : List CopyTo) (tag : Half) :
    Only [.act, .tether, .queues] s (placeAll s a cs tag) := by
  unfold placeAll
  try dsimp only
  repeat' first
    | (with_reducible exact Only.refl _ _)
    | (with_reducible assumption)
    | ((with_reducible apply Only.after (k := placeCopy_only ..)); case w => rfl)
    | ((with_reducible apply Only.after (k := allocCells_only ..)); case w => rfl)
    | ((with_reducible apply Only.foldl); intro _ _ _)
    | ((with_reducible apply Only.foldl_fst); intro _ _ _)
    | (split)

theorem giveVerdict_only (s : State) (b : List Byte) (d : Decision) :
    Only [.rules, .act, .bridle, .prot, .tether, .queues, .win, .integ] s (giveVerdict s b d).1 := by
  unfold giveVerdict
  try dsimp only
  repeat' first
    | (simp only [Only.mk_iff]; with_reducible refine Only.set_tether_queues ?_ _ _ rfl)
    | (with_reducible exact Only.refl _ _)
    | (with_reducible assumption)
    | ((with_reducible apply Only.after (k := askMemory_only ..)); case w => rfl)
    | ((with_reducible apply Only.after (k := markAccept_only ..)); case w => rfl)
    | ((with_reducible apply Only.after (k := markRelease_only ..)); case w => rfl)
    | ((with_reducible apply Only.after (k := placeAll_only ..)); case w => rfl)
    | (split)

theorem execVerdictReady_only (s : State) (t : State) (h : execVerdictReady s = .next t) :
    Only [.rules, .engs, .act, .bridle, .prot, .tether, .queues, .drop, .win, .integ] s t := by
  unfold execVerdictReady at h
  try dsimp only at h
  cases h
  repeat' first
    | (simp only [Only.mk_iff]; with_reducible refine Only.set_engs ?_ _ rfl)
    | (simp only [Only.mk_iff]; with_reducible refine Only.set_drop ?_ _ rfl)
    | (simp only [Only.mk_iff]; with_reducible refine Only.set_engs_drop ?_ _ _ rfl)
    | (with_reducible exact Only.refl _ _)
    | (with_reducible assumption)
    | ((with_reducible apply Only.after (k := giveVerdict_only ..)); case w => rfl)
    | (split)

theorem execPullWord_only (word : Half) (dp : BitVec 2) (s : State) (t : State) (h : execPullWord word dp s = .next t) :
    Only [.drop] s t := by
  unfold execPullWord at h
  try dsimp only at h
  cases h
  repeat' first
    | (simp only [Only.mk_iff]; with_reducible refine Only.set_drop ?_ _ rfl)
    | (with_reducible exact Only.refl _ _)
    | (with_reducible assumption)
    | (split)

theorem startUnit_only (s : State) (l : List DropWord) (tag : Option Nat) :
    Only [.drop] s (startUnit s l tag) := by
  unfold startUnit
  try dsimp only
  repeat' first
    | (simp only [Only.mk_iff]; with_reducible refine Only.set_drop ?_ _ rfl)
    | (with_reducible exact Only.refl _ _)
    | (with_reducible assumption)
    | (split)

theorem markBusy_only (s : State) (tag : Nat) (busy : Bool) :
    Only [.queues] s (markBusy s tag busy) := by
  unfold markBusy
  try dsimp only
  repeat' first
    | (with_reducible exact Only.refl _ _)
    | (with_reducible assumption)
    | ((with_reducible apply Only.after (k := setQueue_only ..)); case w => rfl)
    | (split)

theorem startFrameUnit_only (s : State) (tag : Nat) (ecc : EccResult) :
    Only [.rules, .act, .bridle, .prot, .tether, .queues, .drop, .win, .integ] s (startFrameUnit s tag ecc) := by
  unfold startFrameUnit
  try dsimp only
  repeat' first
    | (simp only [Only.mk_iff]; with_reducible refine Only.set_drop ?_ _ rfl)
    | (with_reducible exact Only.refl _ _)
    | (with_reducible assumption)
    | ((with_reducible apply Only.after (k := countEcc_only ..)); case w => rfl)
    | ((with_reducible apply Only.after (k := turnPipe_only ..)); case w => rfl)
    | ((with_reducible apply Only.after (k := eccFail_only ..)); case w => rfl)
    | ((with_reducible apply Only.after (k := startUnit_only ..)); case w => rfl)
    | ((with_reducible apply Only.after (k := markBusy_only ..)); case w => rfl)
    | (split)

theorem awaitHead_only (s : State) (tag : Nat) :
    Only [.rules, .act, .bridle, .prot, .tether, .queues, .drop, .win, .integ] s (awaitHead s tag) := by
  unfold awaitHead
  try dsimp only
  repeat' first
    | (with_reducible exact Only.refl _ _)
    | (with_reducible assumption)
    | ((with_reducible apply Only.after (k := askAccess_only ..)); case w => rfl)
    | ((with_reducible apply Only.after (k := startUnit_only ..)); case w => rfl)
    | (split)

theorem execEgressFetch_only (ecc : EccResult) (s0 : State) (t : State) (h : execEgressFetch ecc s0 = .next t) :
    Only [.free, .rules, .act, .bridle, .prot, .tether, .queues, .drop, .win, .integ] s0 t := by
  unfold execEgressFetch at h
  try dsimp only at h
  cases h
  repeat' first
    | (simp only [Only.mk_iff]; with_reducible refine Only.set_drop ?_ _ rfl)
    | (with_reducible exact Only.refl _ _)
    | (with_reducible assumption)
    | ((with_reducible apply Only.after (k := barred_only ..)); case w => rfl)
    | ((with_reducible apply Only.after (k := startUnit_only ..)); case w => rfl)
    | ((with_reducible apply Only.after (k := awaitHead_only ..)); case w => rfl)
    | ((with_reducible apply Only.after (k := loseQueue_only ..)); case w => rfl)
    | ((with_reducible apply Only.after (k := startFrameUnit_only ..)); case w => rfl)
    | (split)

theorem egressWord_only (s : State) (g : Egress) (ecc : EccResult) :
    Only [.rules, .act, .bridle, .prot, .tether, .queues, .drop, .win, .integ] s (egressWord s g ecc) := by
  unfold egressWord
  try dsimp only
  repeat' first
    | (simp only [Only.mk_iff]; with_reducible refine Only.set_drop ?_ _ rfl)
    | (with_reducible exact Only.refl _ _)
    | (with_reducible assumption)
    | ((with_reducible apply Only.after (k := turnPipe_only ..)); case w => rfl)
    | ((with_reducible apply Only.after (k := countEcc_only ..)); case w => rfl)
    | ((with_reducible apply Only.after (k := eccFail_only ..)); case w => rfl)
    | ((with_reducible apply Only.after (k := markBusy_only ..)); case w => rfl)
    | (split)

theorem ingressWord_only (s : State) (w : DropWord) :
    Only [.free, .drop] s (ingressWord s w) := by
  unfold ingressWord
  try dsimp only
  repeat' first
    | (simp only [Only.mk_iff]; with_reducible refine Only.set_drop ?_ _ rfl)
    | (with_reducible exact Only.refl _ _)
    | (with_reducible assumption)
    | ((with_reducible apply Only.after (k := turnPipe_only ..)); case w => rfl)
    | ((with_reducible apply Only.after (k := barred_only ..)); case w => rfl)
    | (split)

theorem execDropWordTransfer_only (word : Half) (dp : BitVec 2) (dsof deof : Bool) (ecc : EccResult) (s : State) (t : State) (h : execDropWordTransfer word dp dsof deof ecc s = .next t) :
    Only [.free, .rules, .act, .bridle, .prot, .tether, .queues, .drop, .win, .integ] s t := by
  unfold execDropWordTransfer at h
  try dsimp only at h
  cases h
  repeat' first
    | (with_reducible exact Only.refl _ _)
    | (with_reducible assumption)
    | ((with_reducible apply Only.after (k := ingressWord_only ..)); case w => rfl)
    | ((with_reducible apply Only.after (k := egressWord_only ..)); case w => rfl)
    | (split)

theorem execEgressComplete_only (s : State) (t : State) (h : execEgressComplete s = .next t) :
    Only [.tether, .queues, .drop] s t := by
  unfold execEgressComplete at h
  try dsimp only at h
  cases h
  repeat' first
    | (simp only [Only.mk_iff]; with_reducible refine Only.set_drop ?_ _ rfl)
    | (with_reducible exact Only.refl _ _)
    | (with_reducible assumption)
    | ((with_reducible apply Only.after (k := turnPipe_only ..)); case w => rfl)
    | ((with_reducible apply Only.after (k := releaseCopy_only ..)); case w => rfl)
    | (split)

theorem dropLeaves_only (s : State) :
    Only [.engs, .queues, .drop] s (dropLeaves s) := by
  unfold dropLeaves
  try dsimp only
  repeat' first
    | (simp only [Only.mk_iff]; with_reducible refine Only.set_engs_drop ?_ _ _ rfl)
    | (with_reducible exact Only.refl _ _)
    | (with_reducible assumption)
    | ((with_reducible apply Only.after (k := markBusy_only ..)); case w => rfl)
    | (split)

theorem dropReturns_only (s : State) :
    Only [.drop] s (dropReturns s) := by
  unfold dropReturns
  try dsimp only
  repeat' first
    | (simp only [Only.mk_iff]; with_reducible refine Only.set_drop ?_ _ rfl)
    | (with_reducible exact Only.refl _ _)
    | (with_reducible assumption)
    | ((with_reducible apply Only.after (k := turnPipe_only ..)); case w => rfl)
    | (split)

end Sys2Proof.Machine
end

