-- ==== Sys2Proof/Laws/EngOpsFrame.lean ====
section
/-! SUPPORT. What each definition of Machine/EngOps.lean may change: of the parts of the state, those listed and no other. -/

namespace Sys2Proof.Machine

theorem modEng_only (s : State) (e : Nat) (f : Engine → Engine) :
    Only [.engs] s (modEng s e f) := by
  unfold modEng
  try dsimp only
  repeat' first
    | (simp only [Only.mk_iff]; with_reducible refine Only.set_engs ?_ _ rfl)
    | (with_reducible exact Only.refl _ _)
    | (with_reducible assumption)
    | (split)

theorem endEpoch_only (s : State) :
    Only [.rules] s (endEpoch s) := by
  unfold endEpoch
  try dsimp only
  repeat' first
    | (simp only [Only.mk_iff]; with_reducible refine Only.set_rules ?_ _ rfl)
    | (with_reducible exact Only.refl _ _)
    | (with_reducible assumption)
    | (split)

theorem stopStream_only (s : State) (x : Stream) (start : Nat) :
    Only [.win] s (stopStream s x start).1 := by
  unfold stopStream
  try dsimp only
  repeat' first
    | (with_reducible exact Only.refl _ _)
    | (with_reducible assumption)
    | ((with_reducible apply Only.after (k := recordW2D_only ..)); case w => rfl)
    | (split)

theorem markLost_only (s : State) (line place sub : Nat) :
    Only [.rules, .act, .bridle, .prot, .tether, .queues, .win, .integ] s (markLost s line place sub) := by
  unfold markLost
  try dsimp only
  repeat' first
    | (simp only [Only.mk_iff]; with_reducible refine Only.set_rules ?_ _ rfl)
    | (with_reducible exact Only.refl _ _)
    | (with_reducible assumption)
    | ((with_reducible apply Only.after (k := addEntry_only ..)); case w => rfl)
    | ((with_reducible apply Only.after (k := addAlert_only ..)); case w => rfl)
    | (split)

theorem repairPlace_only (s : State) (p : Nat) :
    Only [.rules, .engs, .act, .bridle, .prot, .tether, .queues, .win, .integ] s (repairPlace s p) := by
  unfold repairPlace
  try dsimp only
  repeat' first
    | (simp only [Only.mk_iff]; with_reducible refine Only.set_rules_engs ?_ _ _ rfl)
    | (with_reducible exact Only.refl _ _)
    | (with_reducible assumption)
    | ((with_reducible apply Only.after (k := markLost_only ..)); case w => rfl)
    | ((with_reducible apply Only.after (k := demand_only ..)); case w => rfl)
    | (split)

theorem countParity_only (s : State) :
    Only [.win] s (countParity s) := by
  unfold countParity
  try dsimp only
  repeat' first
    | (simp only [Only.mk_iff]; with_reducible refine Only.set_win ?_ _ rfl)
    | (with_reducible exact Only.refl _ _)
    | (with_reducible assumption)
    | (split)

theorem fillFails_only (s : State) (e line epoch : Nat) :
    Only [.rules, .engs, .act, .bridle, .prot, .tether, .queues, .win, .integ] s (fillFails s e line epoch) := by
  unfold fillFails
  try dsimp only
  repeat' first
    | (with_reducible exact Only.refl _ _)
    | (with_reducible assumption)
    | ((with_reducible apply Only.after (k := countParity_only ..)); case w => rfl)
    | ((with_reducible apply Only.after (k := stopStream_only ..)); case w => rfl)
    | ((with_reducible apply Only.after (k := addAlert_only ..)); case w => rfl)
    | ((with_reducible apply Only.after (k := modEng_only ..)); case w => rfl)
    | ((with_reducible apply Only.after (k := repairPlace_only ..)); case w => rfl)
    | (split)

theorem dropHolder_only (s : State) (e : Nat) :
    Only [.rules, .engs] s (dropHolder s e) := by
  unfold dropHolder
  try dsimp only
  repeat' first
    | (simp only [Only.mk_iff]; with_reducible refine Only.set_rules_engs ?_ _ _ rfl)
    | (with_reducible exact Only.refl _ _)
    | (with_reducible assumption)
    | (split)

theorem abandonStreams_only (s : State) (e : Nat) :
    Only [.rules, .engs, .win] s (abandonStreams s e) := by
  unfold abandonStreams
  try dsimp only
  repeat' first
    | (with_reducible exact Only.refl _ _)
    | (with_reducible assumption)
    | ((with_reducible apply Only.after (k := recordW2D_only ..)); case w => rfl)
    | ((with_reducible apply Only.after (k := endEpoch_only ..)); case w => rfl)
    | ((with_reducible apply Only.after (k := modEng_only ..)); case w => rfl)
    | ((with_reducible apply Only.foldl); intro _ _ _)
    | ((with_reducible apply Only.foldl_fst); intro _ _ _)
    | (split)

theorem engineLeaves_only (s : State) (e : Nat) :
    Only [.rules, .engs, .win] s (engineLeaves s e) := by
  unfold engineLeaves
  try dsimp only
  repeat' first
    | (with_reducible exact Only.refl _ _)
    | (with_reducible assumption)
    | ((with_reducible apply Only.after (k := modEng_only ..)); case w => rfl)
    | ((with_reducible apply Only.after (k := abandonStreams_only ..)); case w => rfl)
    | ((with_reducible apply Only.after (k := dropHolder_only ..)); case w => rfl)
    | (split)

theorem engineReturns_only (s : State) (e : Nat) :
    Only [.engs] s (engineReturns s e) := by
  unfold engineReturns
  try dsimp only
  repeat' first
    | (with_reducible exact Only.refl _ _)
    | (with_reducible assumption)
    | ((with_reducible apply Only.after (k := modEng_only ..)); case w => rfl)
    | (split)

theorem refuseSet_only (s : State) (setno : Half) (sub : Nat) :
    Only [.rules, .act, .bridle, .prot, .tether, .queues, .win, .integ] s (refuseSet s setno sub) := by
  unfold refuseSet
  try dsimp only
  repeat' first
    | (simp only [Only.mk_iff]; with_reducible refine Only.set_rules ?_ _ rfl)
    | (with_reducible exact Only.refl _ _)
    | (with_reducible assumption)
    | ((with_reducible apply Only.after (k := addEntry_only ..)); case w => rfl)
    | (split)

theorem ruleMemoryLeaves_only (s : State) :
    Only [.rules, .engs, .act, .bridle, .prot, .tether, .queues, .win, .integ] s (ruleMemoryLeaves s) := by
  unfold ruleMemoryLeaves
  try dsimp only
  repeat' first
    | (simp only [Only.mk_iff]; with_reducible refine Only.set_rules_engs ?_ _ _ rfl)
    | (with_reducible exact Only.refl _ _)
    | (with_reducible assumption)
    | ((with_reducible apply Only.after (k := engineLeaves_only ..)); case w => rfl)
    | ((with_reducible apply Only.after (k := refuseSet_only ..)); case w => rfl)
    | ((with_reducible apply Only.after (k := addEntry_only ..)); case w => rfl)
    | ((with_reducible apply Only.foldl); intro _ _ _)
    | ((with_reducible apply Only.foldl_fst); intro _ _ _)
    | (split)

theorem moveStream_only (s : State) (x : Stream) :
    Only [.engs, .act, .prot, .win] s (moveStream s x) := by
  unfold moveStream
  try dsimp only
  repeat' first
    | (with_reducible exact Only.refl _ _)
    | (with_reducible assumption)
    | ((with_reducible apply Only.after (k := modEng_only ..)); case w => rfl)
    | ((with_reducible apply Only.after (k := addAlert_only ..)); case w => rfl)
    | ((with_reducible apply Only.after (k := recordW2D_only ..)); case w => rfl)
    | ((with_reducible apply Only.after (k := pushResult_only ..)); case w => rfl)
    | (split)

theorem leftWithout_only (s : State) (k : StreamKind) (l : List Stream) :
    Only [.rules, .act, .bridle, .prot, .tether, .queues, .win, .integ] s (leftWithout s k l) := by
  unfold leftWithout
  try dsimp only
  repeat' first
    | (with_reducible exact Only.refl _ _)
    | (with_reducible assumption)
    | ((with_reducible apply Only.after (k := addEntry_only ..)); case w => rfl)
    | ((with_reducible apply Only.after (k := addAlert_only ..)); case w => rfl)
    | ((with_reducible apply Only.after (k := recordW2D_only ..)); case w => rfl)
    | (split)

theorem loseEngine_only (s : State) (e : Fin 4) :
    Only [.rules, .engs, .act, .bridle, .prot, .tether, .queues, .win, .integ] s (loseEngine s e) := by
  unfold loseEngine
  try dsimp only
  repeat' first
    | (simp only [Only.mk_iff]; with_reducible refine Only.set_engs ?_ _ rfl)
    | (with_reducible exact Only.refl _ _)
    | (with_reducible assumption)
    | ((with_reducible apply Only.after (k := modEng_only ..)); case w => rfl)
    | ((with_reducible apply Only.after (k := dropHolder_only ..)); case w => rfl)
    | ((with_reducible apply Only.after (k := moveStream_only ..)); case w => rfl)
    | ((with_reducible apply Only.after (k := leftWithout_only ..)); case w => rfl)
    | ((with_reducible apply Only.after (k := pushResult_only ..)); case w => rfl)
    | ((with_reducible apply Only.after (k := endEpoch_only ..)); case w => rfl)
    | ((with_reducible apply Only.foldl); intro _ _ _)
    | ((with_reducible apply Only.foldl_fst); intro _ _ _)
    | (split)

end Sys2Proof.Machine
end

