-- ==== Sys2Proof/Laws/RecordsFrame.lean ====
section
/-! SUPPORT. What each definition of Machine/Records.lean may change: of the parts of the state, those listed and no other. -/

namespace Sys2Proof.Machine

theorem settleRef_only (s : State) (c : Chan) :
    Only [.reg] s (settleRef s c) := by
  unfold settleRef
  try dsimp only
  repeat' first
    | (with_reducible exact Only.refl _ _)
    | (with_reducible assumption)
    | ((with_reducible apply Only.after (k := modChan_only ..)); case w => rfl)
    | (split)

theorem moveRef_only (s : State) (c : Chan) :
    Only [.free, .reg] s (moveRef s c) := by
  unfold moveRef
  try dsimp only
  repeat' first
    | (with_reducible exact Only.refl _ _)
    | (with_reducible assumption)
    | ((with_reducible apply Only.after (k := takeFree_only ..)); case w => rfl)
    | ((with_reducible apply Only.after (k := settleRef_only ..)); case w => rfl)
    | ((with_reducible apply Only.after (k := modChan_only ..)); case w => rfl)
    | (split)

theorem presentRef_only (s : State) (c : Chan) :
    Only [.free, .reg] s (presentRef s c).2 := by
  unfold presentRef
  try dsimp only
  repeat' first
    | (with_reducible exact Only.refl _ _)
    | (with_reducible assumption)
    | ((with_reducible apply Only.after (k := moveRef_only ..)); case w => rfl)
    | (split)

theorem pruneAlarms_only (s : State) :
    Only [.prot] s (pruneAlarms s) := by
  unfold pruneAlarms
  try dsimp only
  repeat' first
    | (simp only [Only.mk_iff]; with_reducible refine Only.set_prot ?_ _ rfl)
    | (with_reducible exact Only.refl _ _)
    | (with_reducible assumption)
    | (split)

theorem endAlarms_only (s : State) (codes : List (BitVec 5)) (aux : Bool) :
    Only [.prot] s (endAlarms s codes aux) := by
  unfold endAlarms
  try dsimp only
  repeat' first
    | (simp only [Only.mk_iff]; with_reducible refine Only.set_prot ?_ _ rfl)
    | (with_reducible exact Only.refl _ _)
    | (with_reducible assumption)
    | ((with_reducible apply Only.after (k := pruneAlarms_only ..)); case w => rfl)
    | (split)

theorem recordAlarm_only (s : State) (code : BitVec 5) (aux toFault ended : Bool) :
    Only [.prot] s (recordAlarm s code aux toFault ended) := by
  unfold recordAlarm
  try dsimp only
  repeat' first
    | (simp only [Only.mk_iff]; with_reducible refine Only.set_prot ?_ _ rfl)
    | (with_reducible exact Only.refl _ _)
    | (with_reducible assumption)
    | (split)

theorem capture_only (s : State) (code : BitVec 5) (phase : Nat) (c : Chan) (toFault : Bool) (snap : Snap) (companion : List Byte) :
    Only [.free, .rules, .act, .bridle, .reg, .prot, .tether, .queues, .win, .integ] s (capture s code phase c toFault snap companion) := by
  unfold capture
  try dsimp only
  repeat' first
    | (simp only [Only.mk_iff]; with_reducible refine Only.set_prot ?_ _ rfl)
    | (with_reducible exact Only.refl _ _)
    | (with_reducible assumption)
    | ((with_reducible apply Only.after (k := recordAlarm_only ..)); case w => rfl)
    | ((with_reducible apply Only.after (k := addEntry_only ..)); case w => rfl)
    | ((with_reducible apply Only.after (k := presentRef_only ..)); case w => rfl)
    | (split)

theorem addSlow_only (s : State) (i : SlowItem) :
    Only [.engs] s (addSlow s i) := by
  unfold addSlow
  try dsimp only
  repeat' first
    | (simp only [Only.mk_iff]; with_reducible refine Only.set_engs ?_ _ rfl)
    | (with_reducible exact Only.refl _ _)
    | (with_reducible assumption)
    | (split)

theorem presentSlow_only (s : State) (i : SlowItem) :
    Only [.rules, .engs, .act, .bridle, .prot, .tether, .queues, .win, .outage, .integ] s (presentSlow s i) := by
  unfold presentSlow
  try dsimp only
  repeat' first
    | (simp only [Only.mk_iff]; with_reducible refine Only.set_outage ?_ _ rfl)
    | (with_reducible exact Only.refl _ _)
    | (with_reducible assumption)
    | ((with_reducible apply Only.after (k := pushResult_only ..)); case w => rfl)
    | ((with_reducible apply Only.after (k := demand_only ..)); case w => rfl)
    | ((with_reducible apply Only.after (k := addSlow_only ..)); case w => rfl)
    | (split)

end Sys2Proof.Machine
end

