-- ==== Sys2Proof/Laws/FrontEndsFrame.lean ====
section
/-! SUPPORT. What each definition of Machine/FrontEnds.lean may change: of the parts of the state, those listed and no other. -/

namespace Sys2Proof.Machine

theorem setLocked_only (s : State) (fe : FrontEnd) (v : Bool) :
    Only [.front] s (setLocked s fe v) := by
  unfold setLocked
  try dsimp only
  repeat' first
    | (simp only [Only.mk_iff]; with_reducible refine Only.set_front ?_ _ rfl)
    | (with_reducible exact Only.refl _ _)
    | (with_reducible assumption)
    | (split)

theorem execPreambleLock_only (fe : FrontEnd) (s : State) (t : State) (h : execPreambleLock fe s = .next t) :
    Only [.front] s t := by
  unfold execPreambleLock at h
  try dsimp only at h
  cases h
  repeat' first
    | (with_reducible exact Only.refl _ _)
    | (with_reducible assumption)
    | ((with_reducible apply Only.after (k := setLocked_only ..)); case w => rfl)
    | (split)

theorem execSyncByteMismatch_only (fe : FrontEnd) (s : State) (t : State) (h : execSyncByteMismatch fe s = .next t) :
    Only [.front] s t := by
  unfold execSyncByteMismatch at h
  try dsimp only at h
  cases h
  repeat' first
    | (with_reducible exact Only.refl _ _)
    | (with_reducible assumption)
    | ((with_reducible apply Only.after (k := setLocked_only ..)); case w => rfl)
    | (split)

theorem macFailure_only (s : State) (fe : FrontEnd) :
    Only [.front, .prot] s (macFailure s fe) := by
  unfold macFailure
  try dsimp only
  repeat' first
    | (simp only [Only.mk_iff]; with_reducible refine Only.set_front ?_ _ rfl)
    | (with_reducible exact Only.refl _ _)
    | (with_reducible assumption)
    | ((with_reducible apply Only.after (k := addAlert_only ..)); case w => rfl)
    | (split)

theorem queueRelay_only (s : State) (out : Port) (body : Word32) (mac : Half) :
    Only [.front] s (queueRelay s out body mac) := by
  unfold queueRelay
  try dsimp only
  repeat' first
    | (simp only [Only.mk_iff]; with_reducible refine Only.set_front ?_ _ rfl)
    | (with_reducible exact Only.refl _ _)
    | (with_reducible assumption)
    | (split)

theorem freshWord_only (s : State) (fe : FrontEnd) (body : Word32) (mac : Half) :
    Only [.front, .rules, .engs, .act, .bridle, .prot, .tether, .queues, .win, .outage, .integ] s (freshWord s fe body mac) := by
  unfold freshWord
  try dsimp only
  repeat' first
    | (with_reducible exact Only.refl _ _)
    | (with_reducible assumption)
    | ((with_reducible apply Only.after (k := queueRelay_only ..)); case w => rfl)
    | ((with_reducible apply Only.after (k := presentSlow_only ..)); case w => rfl)
    | (split)

theorem decideWord_only (s : State) (fe : FrontEnd) (body : Word32) (mac : Half) (crc : Byte) :
    Only [.front, .rules, .engs, .act, .bridle, .prot, .tether, .queues, .win, .outage, .integ] s (decideWord s fe body mac crc) := by
  unfold decideWord
  try dsimp only
  repeat' first
    | (simp only [Only.mk_iff]; with_reducible refine Only.set_front ?_ _ rfl)
    | (with_reducible exact Only.refl _ _)
    | (with_reducible assumption)
    | ((with_reducible apply Only.after (k := macFailure_only ..)); case w => rfl)
    | ((with_reducible apply Only.after (k := freshWord_only ..)); case w => rfl)
    | (split)

theorem decideSafe_only (s : State) (body : Word32) (mac : Half) (crc : Byte) :
    Only [.front, .act, .prot, .win] s (decideSafe s body mac crc) := by
  unfold decideSafe
  try dsimp only
  repeat' first
    | (simp only [Only.mk_iff]; with_reducible refine Only.set_front ?_ _ rfl)
    | (with_reducible exact Only.refl _ _)
    | (with_reducible assumption)
    | ((with_reducible apply Only.after (k := macFailure_only ..)); case w => rfl)
    | ((with_reducible apply Only.after (k := recordDevice_only ..)); case w => rfl)
    | (split)

theorem execMainsWord_only (body : Word32) (mac : Half) (crc : Byte) (s : State) (t : State) (h : execMainsWord body mac crc s = .next t) :
    Only [.front, .rules, .engs, .act, .bridle, .prot, .tether, .queues, .win, .outage, .integ] s t := by
  unfold execMainsWord at h
  try dsimp only at h
  cases h
  repeat' first
    | (with_reducible exact Only.refl _ _)
    | (with_reducible assumption)
    | ((with_reducible apply Only.after (k := setLocked_only ..)); case w => rfl)
    | ((with_reducible apply Only.after (k := decideSafe_only ..)); case w => rfl)
    | ((with_reducible apply Only.after (k := decideWord_only ..)); case w => rfl)
    | (split)

theorem execTugWord_only (p : Port) (body : Word32) (mac : Half) (crc : Byte) (s : State) (t : State) (h : execTugWord p body mac crc s = .next t) :
    Only [.front, .rules, .engs, .act, .bridle, .prot, .tether, .queues, .win, .outage, .integ] s t := by
  unfold execTugWord at h
  try dsimp only at h
  cases h
  repeat' first
    | (with_reducible exact Only.refl _ _)
    | (with_reducible assumption)
    | ((with_reducible apply Only.after (k := decideWord_only ..)); case w => rfl)
    | ((with_reducible apply Only.after (k := setLocked_only ..)); case w => rfl)
    | (split)

theorem execTugRelay_only (out : Port) (s : State) (t : State) (h : execTugRelay out s = .next t) :
    Only [.front] s t := by
  unfold execTugRelay at h
  try dsimp only at h
  cases h
  repeat' first
    | (simp only [Only.mk_iff]; with_reducible refine Only.set_front ?_ _ rfl)
    | (with_reducible exact Only.refl _ _)
    | (with_reducible assumption)
    | (split)

theorem frontLeaves_only (s : State) (d : Nat) :
    Only [.front] s (frontLeaves s d) := by
  unfold frontLeaves
  try dsimp only
  repeat' first
    | (simp only [Only.mk_iff]; with_reducible refine Only.set_front ?_ _ rfl)
    | (with_reducible exact Only.refl _ _)
    | (with_reducible assumption)
    | ((with_reducible apply Only.after (k := setLocked_only ..)); case w => rfl)
    | (split)

end Sys2Proof.Machine
end

