-- ==== Sys2Proof/Laws/RegOpsFrame.lean ====
section
/-! SUPPORT. What each definition of Machine/RegOps.lean may change: of the parts of the state, those listed and no other. -/

namespace Sys2Proof.Machine

theorem modMon_only (s : State) (k : Nat) (f : MonSt → MonSt) :
    Only [.mons] s (modMon s k f) := by
  unfold modMon
  try dsimp only
  repeat' first
    | (simp only [Only.mk_iff]; with_reducible refine Only.set_mons ?_ _ rfl)
    | (with_reducible exact Only.refl _ _)
    | (with_reducible assumption)
    | (split)

theorem moveRefFor_only (s : State) (k : Nat) :
    Only [.free, .reg] s (moveRefFor s k) := by
  unfold moveRefFor
  try dsimp only
  repeat' first
    | (with_reducible exact Only.refl _ _)
    | (with_reducible assumption)
    | ((with_reducible apply Only.after (k := moveRef_only ..)); case w => rfl)
    | (split)

theorem setPwm_only (s : State) (c : Chan) (v : Pwm) :
    Only [.reg] s (setPwm s c v) := by
  unfold setPwm
  try dsimp only
  repeat' first
    | (simp only [Only.mk_iff]; with_reducible refine Only.set_reg ?_ _ rfl)
    | (with_reducible exact Only.refl _ _)
    | (with_reducible assumption)
    | (split)

theorem mapPwm_only (s : State) (f : Nat → Pwm → Pwm) :
    Only [.reg] s (mapPwm s f) := by
  unfold mapPwm
  try dsimp only
  repeat' first
    | (simp only [Only.mk_iff]; with_reducible refine Only.set_reg ?_ _ rfl)
    | (with_reducible exact Only.refl _ _)
    | (with_reducible assumption)
    | (split)

theorem endPulses_only (s : State) (c : Chan) :
    Only [.reg] s (endPulses s c) := by
  unfold endPulses
  try dsimp only
  repeat' first
    | (simp only [Only.mk_iff]; with_reducible refine Only.set_reg ?_ _ rfl)
    | (with_reducible exact Only.refl _ _)
    | (with_reducible assumption)
    | (split)

theorem tripPulses_only (s : State) (c : Chan) :
    Only [.reg] s (tripPulses s c) := by
  unfold tripPulses
  try dsimp only
  repeat' first
    | (simp only [Only.mk_iff]; with_reducible refine Only.set_reg ?_ _ rfl)
    | (with_reducible exact Only.refl _ _)
    | (with_reducible assumption)
    | ((with_reducible apply Only.after (k := endPulses_only ..)); case w => rfl)
    | ((with_reducible apply Only.after (k := mapPwm_only ..)); case w => rfl)
    | (split)

theorem setSet_only (s : State) (l : List (Fin 6)) :
    Only [.reg] s (setSet s l) := by
  unfold setSet
  try dsimp only
  repeat' first
    | (simp only [Only.mk_iff]; with_reducible refine Only.set_reg ?_ _ rfl)
    | (with_reducible exact Only.refl _ _)
    | (with_reducible assumption)
    | (split)

theorem addPhase_only (s : State) :
    Only [.reg] s (addPhase s) := by
  unfold addPhase
  try dsimp only
  repeat' first
    | (with_reducible exact Only.refl _ _)
    | (with_reducible assumption)
    | ((with_reducible apply Only.after (k := setSet_only ..)); case w => rfl)
    | (split)

theorem beginSwap_only (s : State) :
    Only [.reg] s (beginSwap s) := by
  unfold beginSwap
  try dsimp only
  repeat' first
    | (simp only [Only.mk_iff]; with_reducible refine Only.set_reg ?_ _ rfl)
    | (with_reducible exact Only.refl _ _)
    | (with_reducible assumption)
    | ((with_reducible apply Only.after (k := setSet_only ..)); case w => rfl)
    | (split)

theorem restoreAll_only (s : State) :
    Only [.reg] s (restoreAll s) := by
  unfold restoreAll
  try dsimp only
  repeat' first
    | (simp only [Only.mk_iff]; with_reducible refine Only.set_reg ?_ _ rfl)
    | (with_reducible exact Only.refl _ _)
    | (with_reducible assumption)
    | ((with_reducible apply Only.after (k := setSet_only ..)); case w => rfl)
    | (split)

theorem freezeRef_only (s : State) (c : Chan) :
    Only [.free, .reg] s (freezeRef s c) := by
  unfold freezeRef
  try dsimp only
  repeat' first
    | (with_reducible exact Only.refl _ _)
    | (with_reducible assumption)
    | ((with_reducible apply Only.after (k := modChan_only ..)); case w => rfl)
    | ((with_reducible apply Only.after (k := moveRef_only ..)); case w => rfl)
    | (split)

theorem refreshStraps_only (s : State) :
    Only [.reg] s (refreshStraps s) := by
  unfold refreshStraps
  try dsimp only
  repeat' first
    | (simp only [Only.mk_iff]; with_reducible refine Only.set_reg ?_ _ rfl)
    | (with_reducible exact Only.refl _ _)
    | (with_reducible assumption)
    | (split)

theorem dropPgood_only (s : State) (c : Chan) :
    Only [.reg] s (dropPgood s c) := by
  unfold dropPgood
  try dsimp only
  repeat' first
    | (with_reducible exact Only.refl _ _)
    | (with_reducible assumption)
    | ((with_reducible apply Only.after (k := modChan_only ..)); case w => rfl)
    | (split)

theorem stopChan_only (s : State) (c : Chan) (ph : ChPhase) :
    Only [.free, .reg] s (stopChan s c ph) := by
  unfold stopChan
  try dsimp only
  repeat' first
    | (simp only [Only.mk_iff]; with_reducible refine Only.set_reg ?_ _ rfl)
    | (with_reducible exact Only.refl _ _)
    | (with_reducible assumption)
    | ((with_reducible apply Only.after (k := dropPgood_only ..)); case w => rfl)
    | ((with_reducible apply Only.after (k := freezeRef_only ..)); case w => rfl)
    | ((with_reducible apply Only.after (k := setPwm_only ..)); case w => rfl)
    | ((with_reducible apply Only.after (k := endPulses_only ..)); case w => rfl)
    | ((with_reducible apply Only.after (k := modChan_only ..)); case w => rfl)
    | ((with_reducible apply Only.after (k := setSet_only ..)); case w => rfl)
    | ((with_reducible apply Only.after (k := refreshStraps_only ..)); case w => rfl)
    | (split)

theorem endLatch_only (s : State) (c : Chan) :
    Only [.prot] s (endLatch s c) := by
  unfold endLatch
  try dsimp only
  repeat' first
    | (with_reducible exact Only.refl _ _)
    | (with_reducible assumption)
    | ((with_reducible apply Only.after (k := endAlarms_only ..)); case w => rfl)
    | (split)

theorem roundFree_only (s : State) (n d : Int) :
    Only [.free] s (roundFree s n d).2 := by
  unfold roundFree
  try dsimp only
  repeat' first
    | (with_reducible exact Only.refl _ _)
    | (with_reducible assumption)
    | ((with_reducible apply Only.after (k := takeFree_only ..)); case w => rfl)
    | (split)

theorem dutyFf_only (s : State) (c : Chan) (ref vin : Nat) :
    Only [.free] s (dutyFf s c ref vin).2 := by
  unfold dutyFf
  try dsimp only
  repeat' first
    | (with_reducible exact Only.refl _ _)
    | (with_reducible assumption)
    | ((with_reducible apply Only.after (k := roundFree_only ..)); case w => rfl)
    | (split)

theorem placeRef_only (s : State) (c : Chan) (v : Nat) (high : Bool) :
    Only [.reg] s (placeRef s c v high) := by
  unfold placeRef
  try dsimp only
  repeat' first
    | (with_reducible exact Only.refl _ _)
    | (with_reducible assumption)
    | ((with_reducible apply Only.after (k := settleRef_only ..)); case w => rfl)
    | ((with_reducible apply Only.after (k := modChan_only ..)); case w => rfl)
    | (split)

theorem goodAtSetpoint_only (s : State) (c : Chan) :
    Only [.reg] s (goodAtSetpoint s c) := by
  unfold goodAtSetpoint
  try dsimp only
  repeat' first
    | (with_reducible exact Only.refl _ _)
    | (with_reducible assumption)
    | ((with_reducible apply Only.after (k := dropPgood_only ..)); case w => rfl)
    | (split)

theorem endSlew_only (s : State) (c : Chan) :
    Only [.reg] s (endSlew s c) := by
  unfold endSlew
  try dsimp only
  repeat' first
    | (simp only [Only.mk_iff]; with_reducible refine Only.set_reg ?_ _ rfl)
    | (with_reducible exact Only.refl _ _)
    | (with_reducible assumption)
    | ((with_reducible apply Only.after (k := placeRef_only ..)); case w => rfl)
    | ((with_reducible apply Only.after (k := modChan_only ..)); case w => rfl)
    | ((with_reducible apply Only.after (k := goodAtSetpoint_only ..)); case w => rfl)
    | (split)

theorem startSlew_only (s : State) (c : Chan) (k : Fin 8) :
    Only [.free, .reg] s (startSlew s c k) := by
  unfold startSlew
  try dsimp only
  repeat' first
    | (simp only [Only.mk_iff]; with_reducible refine Only.set_reg ?_ _ rfl)
    | (with_reducible exact Only.refl _ _)
    | (with_reducible assumption)
    | ((with_reducible apply Only.after (k := moveRef_only ..)); case w => rfl)
    | ((with_reducible apply Only.after (k := modChan_only ..)); case w => rfl)
    | ((with_reducible apply Only.after (k := goodAtSetpoint_only ..)); case w => rfl)
    | ((with_reducible apply Only.after (k := endSlew_only ..)); case w => rfl)
    | (split)

theorem selectIndex_only (s : State) (c : Chan) (k : Fin 8) :
    Only [.free, .reg] s (selectIndex s c k) := by
  unfold selectIndex
  try dsimp only
  repeat' first
    | (with_reducible exact Only.refl _ _)
    | (with_reducible assumption)
    | ((with_reducible apply Only.after (k := startSlew_only ..)); case w => rfl)
    | ((with_reducible apply Only.after (k := modChan_only ..)); case w => rfl)
    | (split)

theorem endRamp_only (s : State) (c : Chan) :
    Only [.free, .reg] s (endRamp s c) := by
  unfold endRamp
  try dsimp only
  repeat' first
    | (simp only [Only.mk_iff]; with_reducible refine Only.set_reg ?_ _ rfl)
    | (with_reducible exact Only.refl _ _)
    | (with_reducible assumption)
    | ((with_reducible apply Only.after (k := placeRef_only ..)); case w => rfl)
    | ((with_reducible apply Only.after (k := modChan_only ..)); case w => rfl)
    | ((with_reducible apply Only.after (k := startSlew_only ..)); case w => rfl)
    | (split)

theorem moveToVloc_only (s : State) (snap : Snap) :
    Only [.free, .rules, .act, .bridle, .reg, .prot, .tether, .queues, .win, .integ] s (moveToVloc s snap) := by
  unfold moveToVloc
  try dsimp only
  repeat' first
    | (with_reducible exact Only.refl _ _)
    | (with_reducible assumption)
    | ((with_reducible apply Only.after (k := modChan_only ..)); case w => rfl)
    | ((with_reducible apply Only.after (k := capture_only ..)); case w => rfl)
    | (split)

theorem beginRamp_only (s : State) (c : Chan) (m : StartReading) :
    Only [.free, .reg, .prot] s (beginRamp s c m) := by
  unfold beginRamp
  try dsimp only
  repeat' first
    | (simp only [Only.mk_iff]; with_reducible refine Only.set_reg ?_ _ rfl)
    | (with_reducible exact Only.refl _ _)
    | (with_reducible assumption)
    | ((with_reducible apply Only.after (k := modChan_only ..)); case w => rfl)
    | ((with_reducible apply Only.after (k := setSet_only ..)); case w => rfl)
    | ((with_reducible apply Only.after (k := endAlarms_only ..)); case w => rfl)
    | ((with_reducible apply Only.after (k := placeRef_only ..)); case w => rfl)
    | ((with_reducible apply Only.after (k := dutyFf_only ..)); case w => rfl)
    | ((with_reducible apply Only.after (k := setPwm_only ..)); case w => rfl)
    | ((with_reducible apply Only.after (k := endPulses_only ..)); case w => rfl)
    | ((with_reducible apply Only.after (k := endRamp_only ..)); case w => rfl)
    | (split)

theorem derateChan_only (s : State) (c : Chan) (snap : Snap) :
    Only [.free, .rules, .act, .bridle, .reg, .prot, .tether, .queues, .win, .integ] s (derateChan s c snap) := by
  unfold derateChan
  try dsimp only
  repeat' first
    | (with_reducible exact Only.refl _ _)
    | (with_reducible assumption)
    | ((with_reducible apply Only.after (k := stopChan_only ..)); case w => rfl)
    | ((with_reducible apply Only.after (k := capture_only ..)); case w => rfl)
    | ((with_reducible apply Only.after (k := endAlarms_only ..)); case w => rfl)
    | ((with_reducible apply Only.after (k := modChan_only ..)); case w => rfl)
    | (split)

theorem setLevel_only (s : State) (ext : Bool) (n : Nat) (snap : Snap) :
    Only [.free, .rules, .act, .bridle, .reg, .prot, .tether, .queues, .win, .integ] s (setLevel s ext n snap) := by
  unfold setLevel
  try dsimp only
  repeat' first
    | (simp only [Only.mk_iff]; with_reducible refine Only.set_reg ?_ _ rfl)
    | (with_reducible exact Only.refl _ _)
    | (with_reducible assumption)
    | ((with_reducible apply Only.after (k := derateChan_only ..)); case w => rfl)
    | ((with_reducible apply Only.after (k := capture_only ..)); case w => rfl)
    | ((with_reducible apply Only.after (k := endAlarms_only ..)); case w => rfl)
    | (split)

theorem failPhase_only (s : State) (k : Fin 6) (code : BitVec 5) (snap : Snap) :
    Only [.free, .rules, .act, .bridle, .reg, .prot, .tether, .queues, .win, .integ] s (failPhase s k code snap) := by
  unfold failPhase
  try dsimp only
  repeat' first
    | (simp only [Only.mk_iff]; with_reducible refine Only.set_reg ?_ _ rfl)
    | (with_reducible exact Only.refl _ _)
    | (with_reducible assumption)
    | ((with_reducible apply Only.after (k := capture_only ..)); case w => rfl)
    | ((with_reducible apply Only.after (k := stopChan_only ..)); case w => rfl)
    | ((with_reducible apply Only.after (k := setSet_only ..)); case w => rfl)
    | (split)

theorem overvoltage_only (s : State) (c : Chan) (snap : Snap) :
    Only [.free, .rules, .act, .bridle, .reg, .prot, .tether, .queues, .win, .integ] s (overvoltage s c snap) := by
  unfold overvoltage
  try dsimp only
  repeat' first
    | (simp only [Only.mk_iff]; with_reducible refine Only.set_reg ?_ _ rfl)
    | (with_reducible exact Only.refl _ _)
    | (with_reducible assumption)
    | ((with_reducible apply Only.after (k := stopChan_only ..)); case w => rfl)
    | ((with_reducible apply Only.after (k := capture_only ..)); case w => rfl)
    | ((with_reducible apply Only.after (k := modChan_only ..)); case w => rfl)
    | (split)

theorem applyTrips_only (s : State) (c : Chan) :
    Only [.reg] s (applyTrips s c) := by
  unfold applyTrips
  try dsimp only
  repeat' first
    | (simp only [Only.mk_iff]; with_reducible refine Only.set_reg ?_ _ rfl)
    | (with_reducible exact Only.refl _ _)
    | (with_reducible assumption)
    | ((with_reducible apply Only.after (k := modChan_only ..)); case w => rfl)
    | ((with_reducible apply Only.after (k := tripPulses_only ..)); case w => rfl)
    | (split)

theorem latchedDuty_only (s : State) (c : Chan) (since : Nat) :
    Only [.free] s (latchedDuty s c since).2 := by
  unfold latchedDuty
  try dsimp only
  repeat' first
    | (with_reducible exact Only.refl _ _)
    | (with_reducible assumption)
    | ((with_reducible apply Only.after (k := takeFree_only ..)); case w => rfl)
    | (split)

theorem putPwm_only (s : State) (k : Nat) (v : Pwm) :
    Only [.reg] s (putPwm s k v) := by
  unfold putPwm
  try dsimp only
  repeat' first
    | (simp only [Only.mk_iff]; with_reducible refine Only.set_reg ?_ _ rfl)
    | (with_reducible exact Only.refl _ _)
    | (with_reducible assumption)
    | (split)

theorem risePhase_only (s : State) (c : Chan) (k since ago : Nat) :
    Only [.free, .reg] s (risePhase s c k since ago) := by
  unfold risePhase
  try dsimp only
  repeat' first
    | (simp only [Only.mk_iff]; with_reducible refine Only.set_reg ?_ _ rfl)
    | (with_reducible exact Only.refl _ _)
    | (with_reducible assumption)
    | ((with_reducible apply Only.after (k := latchedDuty_only ..)); case w => rfl)
    | ((with_reducible apply Only.after (k := putPwm_only ..)); case w => rfl)
    | (split)

theorem runPulse_only (s : State) (k time : Nat) :
    Only [.reg] s (runPulse s k time) := by
  unfold runPulse
  try dsimp only
  repeat' first
    | (simp only [Only.mk_iff]; with_reducible refine Only.set_reg ?_ _ rfl)
    | (with_reducible exact Only.refl _ _)
    | (with_reducible assumption)
    | ((with_reducible apply Only.after (k := putPwm_only ..)); case w => rfl)
    | (split)

theorem runPhase_only (s : State) (from_ to_ : Nat) (k : Nat) :
    Only [.free, .reg] s (runPhase s from_ to_ k) := by
  unfold runPhase
  try dsimp only
  repeat' first
    | (with_reducible exact Only.refl _ _)
    | (with_reducible assumption)
    | ((with_reducible apply Only.after (k := runPulse_only ..)); case w => rfl)
    | ((with_reducible apply Only.after (k := risePhase_only ..)); case w => rfl)
    | (split)

theorem runPhases_only (s : State) (from_ to_ : Nat) :
    Only [.free, .reg] s (runPhases s from_ to_) := by
  unfold runPhases
  try dsimp only
  repeat' first
    | (with_reducible exact Only.refl _ _)
    | (with_reducible assumption)
    | ((with_reducible apply Only.after (k := runPhase_only ..)); case w => rfl)
    | ((with_reducible apply Only.foldl); intro _ _ _)
    | ((with_reducible apply Only.foldl_fst); intro _ _ _)
    | (split)

theorem runToSample_only (s : State) :
    Only [.free, .reg] s (runToSample s) := by
  unfold runToSample
  try dsimp only
  repeat' first
    | (simp only [Only.mk_iff]; with_reducible refine Only.set_reg ?_ _ rfl)
    | (with_reducible exact Only.refl _ _)
    | (with_reducible assumption)
    | ((with_reducible apply Only.after (k := runPhases_only ..)); case w => rfl)
    | (split)

theorem runAuxToSample_only (s : State) :
    Only [.free, .reg] s (runAuxToSample s) := by
  unfold runAuxToSample
  try dsimp only
  repeat' first
    | (simp only [Only.mk_iff]; with_reducible refine Only.set_reg ?_ _ rfl)
    | (with_reducible exact Only.refl _ _)
    | (with_reducible assumption)
    | ((with_reducible apply Only.after (k := runPulse_only ..)); case w => rfl)
    | ((with_reducible apply Only.after (k := risePhase_only ..)); case w => rfl)
    | (split)

theorem freqWithin_only (s : State) (lo hi : Nat) :
    Only [.free, .reg] s (freqWithin s lo hi) := by
  unfold freqWithin
  try dsimp only
  repeat' first
    | (simp only [Only.mk_iff]; with_reducible refine Only.set_reg ?_ _ rfl)
    | (with_reducible exact Only.refl _ _)
    | (with_reducible assumption)
    | ((with_reducible apply Only.after (k := takeFree_only ..)); case w => rfl)
    | (split)

theorem nextFreq_only (s : State) :
    Only [.free, .reg] s (nextFreq s) := by
  unfold nextFreq
  try dsimp only
  repeat' first
    | (with_reducible exact Only.refl _ _)
    | (with_reducible assumption)
    | ((with_reducible apply Only.after (k := freqWithin_only ..)); case w => rfl)
    | (split)

theorem nextPeriod_only (s : State) :
    Only [.free, .reg] s (nextPeriod s) := by
  unfold nextPeriod
  try dsimp only
  repeat' first
    | (simp only [Only.mk_iff]; with_reducible refine Only.set_reg ?_ _ rfl)
    | (with_reducible exact Only.refl _ _)
    | (with_reducible assumption)
    | ((with_reducible apply Only.after (k := nextFreq_only ..)); case w => rfl)
    | ((with_reducible apply Only.after (k := clockSettles_only ..)); case w => rfl)
    | (split)

theorem somePeriods_only (s : State) :
    Only [.free, .reg] s (somePeriods s) := by
  unfold somePeriods
  try dsimp only
  repeat' first
    | (simp only [Only.mk_iff]; with_reducible refine Only.set_reg ?_ _ rfl)
    | (with_reducible exact Only.refl _ _)
    | (with_reducible assumption)
    | ((with_reducible apply Only.after (k := takeFree_only ..)); case w => rfl)
    | ((with_reducible apply Only.after (k := clockSettles_only ..)); case w => rfl)
    | ((with_reducible apply Only.after (k := freqWithin_only ..)); case w => rfl)
    | (split)

theorem periodStart_only (s : State) (sense : Vector Half 7) :
    Only [.free, .reg] s (periodStart s sense) := by
  unfold periodStart
  extract_lets s1 src src_1 s2 s3 s4 l src_2 src_3 s5
  have h_s1 : Only [.free, .reg] s s1 := by
    dsimp only [s1]
    repeat' first
    | (simp only [Only.mk_iff]; with_reducible refine Only.set_reg ?_ _ rfl)
    | (with_reducible exact Only.refl _ _)
    | (with_reducible assumption)
    | ((with_reducible apply Only.after (k := nextPeriod_only ..)); case w => rfl)
    | ((with_reducible apply Only.after (k := runPhases_only ..)); case w => rfl)
    | ((with_reducible apply Only.after (k := restoreAll_only ..)); case w => rfl)
    | ((with_reducible apply Only.after (k := risePhase_only ..)); case w => rfl)
    | (split)
  clear_value s1
  have h_s2 : Only [.free, .reg] s s2 := by
    dsimp only [s2]
    repeat' first
    | (simp only [Only.mk_iff]; with_reducible refine Only.set_reg ?_ _ rfl)
    | (with_reducible exact Only.refl _ _)
    | (with_reducible assumption)
    | ((with_reducible apply Only.after (k := nextPeriod_only ..)); case w => rfl)
    | ((with_reducible apply Only.after (k := runPhases_only ..)); case w => rfl)
    | ((with_reducible apply Only.after (k := restoreAll_only ..)); case w => rfl)
    | ((with_reducible apply Only.after (k := risePhase_only ..)); case w => rfl)
    | (split)
  clear_value s2
  have h_s3 : Only [.free, .reg] s s3 := by
    dsimp only [s3]
    repeat' first
    | (simp only [Only.mk_iff]; with_reducible refine Only.set_reg ?_ _ rfl)
    | (with_reducible exact Only.refl _ _)
    | (with_reducible assumption)
    | ((with_reducible apply Only.after (k := nextPeriod_only ..)); case w => rfl)
    | ((with_reducible apply Only.after (k := runPhases_only ..)); case w => rfl)
    | ((with_reducible apply Only.after (k := restoreAll_only ..)); case w => rfl)
    | ((with_reducible apply Only.after (k := risePhase_only ..)); case w => rfl)
    | (split)
  clear_value s3
  have h_s4 : Only [.free, .reg] s s4 := by
    dsimp only [s4]
    repeat' first
    | (simp only [Only.mk_iff]; with_reducible refine Only.set_reg ?_ _ rfl)
    | (with_reducible exact Only.refl _ _)
    | (with_reducible assumption)
    | ((with_reducible apply Only.after (k := nextPeriod_only ..)); case w => rfl)
    | ((with_reducible apply Only.after (k := runPhases_only ..)); case w => rfl)
    | ((with_reducible apply Only.after (k := restoreAll_only ..)); case w => rfl)
    | ((with_reducible apply Only.after (k := risePhase_only ..)); case w => rfl)
    | (split)
  clear_value s4
  have h_s5 : Only [.free, .reg] s s5 := by
    dsimp only [s5]
    repeat' first
    | (simp only [Only.mk_iff]; with_reducible refine Only.set_reg ?_ _ rfl)
    | (with_reducible exact Only.refl _ _)
    | (with_reducible assumption)
    | ((with_reducible apply Only.after (k := nextPeriod_only ..)); case w => rfl)
    | ((with_reducible apply Only.after (k := runPhases_only ..)); case w => rfl)
    | ((with_reducible apply Only.after (k := restoreAll_only ..)); case w => rfl)
    | ((with_reducible apply Only.after (k := risePhase_only ..)); case w => rfl)
    | (split)
  clear_value s5
  clear_value src src_1 l src_2 src_3
  repeat' first
    | (simp only [Only.mk_iff]; with_reducible refine Only.set_reg ?_ _ rfl)
    | (with_reducible exact Only.refl _ _)
    | (with_reducible assumption)
    | ((with_reducible apply Only.after (k := nextPeriod_only ..)); case w => rfl)
    | ((with_reducible apply Only.after (k := runPhases_only ..)); case w => rfl)
    | ((with_reducible apply Only.after (k := restoreAll_only ..)); case w => rfl)
    | ((with_reducible apply Only.after (k := risePhase_only ..)); case w => rfl)
    | (split)

end Sys2Proof.Machine
end

