-- ==== Sys2Proof/Laws/ProtectionFrame.lean ====
section
/-! SUPPORT. What each definition of Machine/Protection.lean may change: of the parts of the state, those listed and no other. -/

namespace Sys2Proof.Machine

theorem hiccup_only (s : State) (c : Chan) (snap : Snap) :
    Only [.free, .rules, .act, .bridle, .reg, .prot, .tether, .queues, .win, .integ] s (hiccup s c snap) := by
  unfold hiccup
  try dsimp only
  repeat' first
    | (with_reducible exact Only.refl _ _)
    | (with_reducible assumption)
    | ((with_reducible apply Only.after (k := modChan_only ..)); case w => rfl)
    | ((with_reducible apply Only.after (k := capture_only ..)); case w => rfl)
    | ((with_reducible apply Only.after (k := stopChan_only ..)); case w => rfl)
    | (split)

theorem truncate_only (s : State) (c : Chan) (k : Nat) (successive : Bool) (snap : Snap) :
    Only [.free, .rules, .act, .bridle, .reg, .prot, .tether, .queues, .win, .integ] s (truncate s c k successive snap) := by
  unfold truncate
  try dsimp only
  repeat' first
    | (simp only [Only.mk_iff]; with_reducible refine Only.set_reg ?_ _ rfl)
    | (with_reducible exact Only.refl _ _)
    | (with_reducible assumption)
    | ((with_reducible apply Only.after (k := putPwm_only ..)); case w => rfl)
    | ((with_reducible apply Only.after (k := hiccup_only ..)); case w => rfl)
    | (split)

theorem execFastLimitTrip_only (c : Chan) (phase : Fin 6) (inPulse successive : Bool) (snap : Snap) (s : State) (t : State) (h : execFastLimitTrip c phase inPulse successive snap s = .next t) :
    Only [.free, .rules, .act, .bridle, .reg, .prot, .mons, .tether, .queues, .win, .integ] s t := by
  unfold execFastLimitTrip at h
  try dsimp only at h
  cases h
  repeat' first
    | (simp only [Only.mk_iff]; with_reducible refine Only.set_mons ?_ _ rfl)
    | (simp only [Only.mk_iff]; with_reducible refine Only.set_reg ?_ _ rfl)
    | (simp only [Only.mk_iff]; with_reducible refine Only.set_reg_mons ?_ _ _ rfl)
    | (with_reducible exact Only.refl _ _)
    | (with_reducible assumption)
    | ((with_reducible apply Only.after (k := truncate_only ..)); case w => rfl)
    | ((with_reducible apply Only.after (k := failPhase_only ..)); case w => rfl)
    | (split)

theorem execHiccupRestart_only (c : Chan) (s : State) (t : State) (h : execHiccupRestart c s = .next t) :
    Only [.reg] s t := by
  unfold execHiccupRestart at h
  try dsimp only at h
  cases h
  repeat' first
    | (with_reducible exact Only.refl _ _)
    | (with_reducible assumption)
    | ((with_reducible apply Only.after (k := modChan_only ..)); case w => rfl)
    | (split)

theorem overloadTrip_only (s : State) (c : Chan) (code : BitVec 5) (uv : Bool) (snap : Snap) :
    Only [.free, .rules, .act, .bridle, .reg, .prot, .tether, .queues, .win, .integ] s (overloadTrip s c code uv snap) := by
  unfold overloadTrip
  try dsimp only
  repeat' first
    | (with_reducible exact Only.refl _ _)
    | (with_reducible assumption)
    | ((with_reducible apply Only.after (k := capture_only ..)); case w => rfl)
    | ((with_reducible apply Only.after (k := stopChan_only ..)); case w => rfl)
    | ((with_reducible apply Only.after (k := modChan_only ..)); case w => rfl)
    | (split)

theorem execSlowLimitTrip_only (c : Chan) (average : Nat) (snap : Snap) (s : State) (t : State) (h : execSlowLimitTrip c average snap s = .next t) :
    Only [.free, .rules, .act, .bridle, .reg, .prot, .tether, .queues, .win, .integ] s t := by
  unfold execSlowLimitTrip at h
  try dsimp only at h
  cases h
  repeat' first
    | (with_reducible exact Only.refl _ _)
    | (with_reducible assumption)
    | ((with_reducible apply Only.after (k := overloadTrip_only ..)); case w => rfl)
    | (split)

theorem execUndervoltage_only (c : Chan) (feedback : Nat) (snap : Snap) (s : State) (t : State) (h : execUndervoltage c feedback snap s = .next t) :
    Only [.free, .rules, .act, .bridle, .reg, .prot, .tether, .queues, .win, .integ] s t := by
  unfold execUndervoltage at h
  try dsimp only at h
  cases h
  repeat' first
    | (with_reducible exact Only.refl _ _)
    | (with_reducible assumption)
    | ((with_reducible apply Only.after (k := overloadTrip_only ..)); case w => rfl)
    | (split)

theorem execProtectionRetry_only (c : Chan) (s : State) (t : State) (h : execProtectionRetry c s = .next t) :
    Only [.reg] s t := by
  unfold execProtectionRetry at h
  try dsimp only at h
  cases h
  repeat' first
    | (with_reducible exact Only.refl _ _)
    | (with_reducible assumption)
    | ((with_reducible apply Only.after (k := modChan_only ..)); case w => rfl)
    | (split)

theorem execAuxOvervoltage_only (snap : Snap) (s : State) (t : State) (h : execAuxOvervoltage snap s = .next t) :
    Only [.free, .rules, .act, .bridle, .reg, .prot, .tether, .queues, .win, .integ] s t := by
  unfold execAuxOvervoltage at h
  try dsimp only at h
  cases h
  repeat' first
    | (with_reducible exact Only.refl _ _)
    | (with_reducible assumption)
    | ((with_reducible apply Only.after (k := overvoltage_only ..)); case w => rfl)
    | (split)

theorem execOvervoltageRelease_only (c : Chan) (feedback : Nat) (s : State) (t : State) (h : execOvervoltageRelease c feedback s = .next t) :
    Only [.reg] s t := by
  unfold execOvervoltageRelease at h
  try dsimp only at h
  cases h
  repeat' first
    | (with_reducible exact Only.refl _ _)
    | (with_reducible assumption)
    | ((with_reducible apply Only.after (k := setPwm_only ..)); case w => rfl)
    | ((with_reducible apply Only.after (k := modChan_only ..)); case w => rfl)
    | (split)

theorem execSenseLoss_only (snap : Snap) (s : State) (t : State) (h : execSenseLoss snap s = .next t) :
    Only [.free, .rules, .act, .bridle, .reg, .prot, .tether, .queues, .win, .integ] s t := by
  unfold execSenseLoss at h
  try dsimp only at h
  cases h
  repeat' first
    | (with_reducible exact Only.refl _ _)
    | (with_reducible assumption)
    | ((with_reducible apply Only.after (k := moveToVloc_only ..)); case w => rfl)
    | (split)

theorem execVlocLost_only (vloc dv : Nat) (snap : Snap) (s : State) (t : State) (h : execVlocLost vloc dv snap s = .next t) :
    Only [.free, .rules, .act, .bridle, .reg, .prot, .tether, .queues, .win, .integ] s t := by
  unfold execVlocLost at h
  try dsimp only at h
  cases h
  repeat' first
    | (with_reducible exact Only.refl _ _)
    | (with_reducible assumption)
    | ((with_reducible apply Only.after (k := moveRef_only ..)); case w => rfl)
    | ((with_reducible apply Only.after (k := stopChan_only ..)); case w => rfl)
    | ((with_reducible apply Only.after (k := capture_only ..)); case w => rfl)
    | (split)

theorem hotter_only (s : State) (ext : Bool) (snap : Snap) :
    Only [.free, .rules, .act, .bridle, .reg, .prot, .tether, .queues, .win, .integ] s (hotter s ext snap) := by
  unfold hotter
  try dsimp only
  repeat' first
    | (simp only [Only.mk_iff]; with_reducible refine Only.set_reg ?_ _ rfl)
    | (with_reducible exact Only.refl _ _)
    | (with_reducible assumption)
    | ((with_reducible apply Only.after (k := setLevel_only ..)); case w => rfl)
    | (split)

theorem execDerateInterval_only (ext : Bool) (low high vana : Nat) (snap : Snap) (s : State) (t : State) (h : execDerateInterval ext low high vana snap s = .next t) :
    Only [.free, .rules, .act, .bridle, .reg, .prot, .tether, .queues, .win, .integ] s t := by
  unfold execDerateInterval at h
  try dsimp only at h
  cases h
  repeat' first
    | (simp only [Only.mk_iff]; with_reducible refine Only.set_reg ?_ _ rfl)
    | (with_reducible exact Only.refl _ _)
    | (with_reducible assumption)
    | ((with_reducible apply Only.after (k := setLevel_only ..)); case w => rfl)
    | (split)

theorem execRecordCommit_only (s : State) (t : State) (h : execRecordCommit s = .next t) :
    Only [.nvm, .rules, .act, .bridle, .prot, .tether, .queues, .win, .integ] s t := by
  unfold execRecordCommit at h
  try dsimp only at h
  cases h
  repeat' first
    | (simp only [Only.mk_iff]; with_reducible refine Only.set_nvm_prot ?_ _ _ rfl)
    | (with_reducible exact Only.refl _ _)
    | (with_reducible assumption)
    | ((with_reducible apply Only.after (k := recordAlarm_only ..)); case w => rfl)
    | ((with_reducible apply Only.after (k := railCause_only ..)); case w => rfl)
    | ((with_reducible apply Only.after (k := addEntries_only ..)); case w => rfl)
    | (split)

theorem execHourCountStore_only (s : State) (t : State) (h : execHourCountStore s = .next t) :
    Only [.nvm] s t := by
  unfold execHourCountStore at h
  try dsimp only at h
  cases h
  repeat' first
    | (simp only [Only.mk_iff]; with_reducible refine Only.set_nvm ?_ _ rfl)
    | (with_reducible exact Only.refl _ _)
    | (with_reducible assumption)
    | (split)

end Sys2Proof.Machine
end

