-- ==== Sys2Proof/Laws/RegulatorFrame.lean ====
section
/-! SUPPORT. What each definition of Machine/Regulator.lean may change: of the parts of the state, those listed and no other. -/

namespace Sys2Proof.Machine

theorem execChannelStart_only (c : Chan) (m : StartReading) (snap : Snap) (s : State) (t : State) (h : execChannelStart c m snap s = .next t) :
    Only [.free, .rules, .act, .bridle, .reg, .prot, .tether, .queues, .win, .integ] s t := by
  unfold execChannelStart at h
  try dsimp only at h
  cases h
  repeat' first
    | (with_reducible exact Only.refl _ _)
    | (with_reducible assumption)
    | ((with_reducible apply Only.after (k := moveToVloc_only ..)); case w => rfl)
    | ((with_reducible apply Only.after (k := beginRamp_only ..)); case w => rfl)
    | ((with_reducible apply Only.after (k := modChan_only ..)); case w => rfl)
    | ((with_reducible apply Only.after (k := capture_only ..)); case w => rfl)
    | (split)

theorem execRampComplete_only (c : Chan) (s : State) (t : State) (h : execRampComplete c s = .next t) :
    Only [.free, .reg] s t := by
  unfold execRampComplete at h
  try dsimp only at h
  cases h
  repeat' first
    | (with_reducible exact Only.refl _ _)
    | (with_reducible assumption)
    | ((with_reducible apply Only.after (k := endRamp_only ..)); case w => rfl)
    | (split)

theorem execPgoodAssert_only (c : Chan) (feedback : Nat) (s : State) (t : State) (h : execPgoodAssert c feedback s = .next t) :
    Only [.free, .act, .reg, .prot] s t := by
  unfold execPgoodAssert at h
  try dsimp only at h
  cases h
  repeat' first
    | (simp only [Only.mk_iff]; with_reducible refine Only.set_act ?_ _ rfl)
    | (with_reducible exact Only.refl _ _)
    | (with_reducible assumption)
    | ((with_reducible apply Only.after (k := moveRef_only ..)); case w => rfl)
    | ((with_reducible apply Only.after (k := modChan_only ..)); case w => rfl)
    | ((with_reducible apply Only.after (k := endAlarms_only ..)); case w => rfl)
    | (split)

theorem execPgoodDeassert_only (c : Chan) (feedback : Nat) (s : State) (t : State) (h : execPgoodDeassert c feedback s = .next t) :
    Only [.free, .reg] s t := by
  unfold execPgoodDeassert at h
  try dsimp only at h
  cases h
  repeat' first
    | (with_reducible exact Only.refl _ _)
    | (with_reducible assumption)
    | ((with_reducible apply Only.after (k := moveRef_only ..)); case w => rfl)
    | ((with_reducible apply Only.after (k := dropPgood_only ..)); case w => rfl)
    | (split)

theorem execVselChange_only (v : Fin 8) (s : State) (t : State) (h : execVselChange v s = .next t) :
    Only [.free, .pins, .reg] s t := by
  unfold execVselChange at h
  try dsimp only at h
  cases h
  repeat' first
    | (simp only [Only.mk_iff]; with_reducible refine Only.set_pins ?_ _ rfl)
    | (with_reducible exact Only.refl _ _)
    | (with_reducible assumption)
    | ((with_reducible apply Only.after (k := selectIndex_only ..)); case w => rfl)
    | (split)

theorem execSlewComplete_only (c : Chan) (s : State) (t : State) (h : execSlewComplete c s = .next t) :
    Only [.reg] s t := by
  unfold execSlewComplete at h
  try dsimp only at h
  cases h
  repeat' first
    | (with_reducible exact Only.refl _ _)
    | (with_reducible assumption)
    | ((with_reducible apply Only.after (k := endSlew_only ..)); case w => rfl)
    | (split)

theorem execEnableLow_only (c : Chan) (s : State) (t : State) (h : execEnableLow c s = .next t) :
    Only [.free, .pins, .reg, .prot] s t := by
  unfold execEnableLow at h
  try dsimp only at h
  cases h
  repeat' first
    | (simp only [Only.mk_iff]; with_reducible refine Only.set_pins ?_ _ rfl)
    | (with_reducible exact Only.refl _ _)
    | (with_reducible assumption)
    | ((with_reducible apply Only.after (k := modChan_only ..)); case w => rfl)
    | ((with_reducible apply Only.after (k := stopChan_only ..)); case w => rfl)
    | ((with_reducible apply Only.after (k := endLatch_only ..)); case w => rfl)
    | (split)

theorem execEnableHigh_only (c : Chan) (s : State) (t : State) (h : execEnableHigh c s = .next t) :
    Only [.pins] s t := by
  unfold execEnableHigh at h
  try dsimp only at h
  cases h
  repeat' first
    | (simp only [Only.mk_iff]; with_reducible refine Only.set_pins ?_ _ rfl)
    | (with_reducible exact Only.refl _ _)
    | (with_reducible assumption)
    | (split)

theorem syncEdge_only (s : State) (spacing : Nat) :
    Only [.reg] s (syncEdge s spacing) := by
  unfold syncEdge
  try dsimp only
  repeat' first
    | (simp only [Only.mk_iff]; with_reducible refine Only.set_reg ?_ _ rfl)
    | (with_reducible exact Only.refl _ _)
    | (with_reducible assumption)
    | (split)

theorem execSyncLock_only (spacings : List Nat) (s : State) (t : State) (h : execSyncLock spacings s = .next t) :
    Only [.reg] s t := by
  unfold execSyncLock at h
  try dsimp only at h
  cases h
  repeat' first
    | (simp only [Only.mk_iff]; with_reducible refine Only.set_reg ?_ _ rfl)
    | (with_reducible exact Only.refl _ _)
    | (with_reducible assumption)
    | ((with_reducible apply Only.after (k := syncEdge_only ..)); case w => rfl)
    | ((with_reducible apply Only.foldl); intro _ _ _)
    | ((with_reducible apply Only.foldl_fst); intro _ _ _)
    | (split)

theorem execSyncLoss_only (s : State) (t : State) (h : execSyncLoss s = .next t) :
    Only [.reg] s t := by
  unfold execSyncLoss at h
  try dsimp only at h
  cases h
  repeat' first
    | (simp only [Only.mk_iff]; with_reducible refine Only.set_reg ?_ _ rfl)
    | (with_reducible exact Only.refl _ _)
    | (with_reducible assumption)
    | (split)

theorem execTrkChange_only (uv steps : Nat) (s : State) (t : State) (h : execTrkChange uv steps s = .next t) :
    Only [.free, .reg] s t := by
  unfold execTrkChange at h
  try dsimp only at h
  cases h
  repeat' first
    | (simp only [Only.mk_iff]; with_reducible refine Only.set_reg ?_ _ rfl)
    | (with_reducible exact Only.refl _ _)
    | (with_reducible assumption)
    | ((with_reducible apply Only.after (k := moveRef_only ..)); case w => rfl)
    | ((with_reducible apply Only.after (k := goodAtSetpoint_only ..)); case w => rfl)
    | ((with_reducible apply Only.after (k := settleRef_only ..)); case w => rfl)
    | (split)

theorem errorCode_only (s : State) (ref feedback : Nat) :
    Only [.free] s (errorCode s ref feedback).2 := by
  unfold errorCode
  try dsimp only
  repeat' first
    | (with_reducible exact Only.refl _ _)
    | (with_reducible assumption)
    | ((with_reducible apply Only.after (k := roundFree_only ..)); case w => rfl)
    | (split)

theorem execCompensatorSample_only (c : Chan) (feedback vloc vin : Nat) (s : State) (t : State) (h : execCompensatorSample c feedback vloc vin s = .next t) :
    Only [.free, .reg] s t := by
  unfold execCompensatorSample at h
  try dsimp only at h
  cases h
  repeat' first
    | (simp only [Only.mk_iff]; with_reducible refine Only.set_reg ?_ _ rfl)
    | (with_reducible exact Only.refl _ _)
    | (with_reducible assumption)
    | ((with_reducible apply Only.after (k := runToSample_only ..)); case w => rfl)
    | ((with_reducible apply Only.after (k := runAuxToSample_only ..)); case w => rfl)
    | ((with_reducible apply Only.after (k := presentRef_only ..)); case w => rfl)
    | ((with_reducible apply Only.after (k := errorCode_only ..)); case w => rfl)
    | ((with_reducible apply Only.after (k := dutyFf_only ..)); case w => rfl)
    | ((with_reducible apply Only.after (k := roundFree_only ..)); case w => rfl)
    | ((with_reducible apply Only.after (k := modChan_only ..)); case w => rfl)
    | (split)

theorem execZeroCrossing_only (c : Chan) (phase : Fin 6) (s : State) (t : State) (h : execZeroCrossing c phase s = .next t) :
    Only [.reg] s t := by
  unfold execZeroCrossing at h
  try dsimp only at h
  cases h
  repeat' first
    | (with_reducible exact Only.refl _ _)
    | (with_reducible assumption)
    | ((with_reducible apply Only.after (k := putPwm_only ..)); case w => rfl)
    | (split)

theorem updateTrims_only (s : State) (i : Vector Half 6) :
    Only [.reg] s (updateTrims s i) := by
  unfold updateTrims
  try dsimp only
  repeat' first
    | (simp only [Only.mk_iff]; with_reducible refine Only.set_reg ?_ _ rfl)
    | (with_reducible exact Only.refl _ _)
    | (with_reducible assumption)
    | (split)

theorem failChecks_only (s : State) (snap : Snap) :
    Only [.free, .rules, .act, .bridle, .reg, .prot, .tether, .queues, .win, .integ] s (failChecks s snap) := by
  unfold failChecks
  try dsimp only
  repeat' first
    | (with_reducible exact Only.refl _ _)
    | (with_reducible assumption)
    | ((with_reducible apply Only.after (k := failPhase_only ..)); case w => rfl)
    | ((with_reducible apply Only.foldl); intro _ _ _)
    | ((with_reducible apply Only.foldl_fst); intro _ _ _)
    | (split)

theorem execBalanceUpdate_only (i : Vector Half 6) (snap : Snap) (s : State) (t : State) (h : execBalanceUpdate i snap s = .next t) :
    Only [.free, .rules, .act, .bridle, .reg, .prot, .tether, .queues, .win, .integ] s t := by
  unfold execBalanceUpdate at h
  try dsimp only at h
  cases h
  repeat' first
    | (simp only [Only.mk_iff]; with_reducible refine Only.set_reg ?_ _ rfl)
    | (with_reducible exact Only.refl _ _)
    | (with_reducible assumption)
    | ((with_reducible apply Only.after (k := updateTrims_only ..)); case w => rfl)
    | ((with_reducible apply Only.after (k := failChecks_only ..)); case w => rfl)
    | (split)

theorem execShedDecision_only (i : Vector Half 6) (s : State) (t : State) (h : execShedDecision i s = .next t) :
    Only [.reg] s t := by
  unfold execShedDecision at h
  try dsimp only at h
  cases h
  repeat' first
    | (with_reducible exact Only.refl _ _)
    | (with_reducible assumption)
    | ((with_reducible apply Only.after (k := beginSwap_only ..)); case w => rfl)
    | ((with_reducible apply Only.after (k := addPhase_only ..)); case w => rfl)
    | ((with_reducible apply Only.after (k := setSet_only ..)); case w => rfl)
    | (split)

theorem execSwapShed_only (i : Vector Half 6) (s : State) (t : State) (h : execSwapShed i s = .next t) :
    Only [.reg] s t := by
  unfold execSwapShed at h
  try dsimp only at h
  cases h
  repeat' first
    | (simp only [Only.mk_iff]; with_reducible refine Only.set_reg ?_ _ rfl)
    | (with_reducible exact Only.refl _ _)
    | (with_reducible assumption)
    | ((with_reducible apply Only.after (k := setSet_only ..)); case w => rfl)
    | (split)

theorem wholeHour_only (s : State) :
    Only [.reg] s (wholeHour s) := by
  unfold wholeHour
  try dsimp only
  repeat' first
    | (simp only [Only.mk_iff]; with_reducible refine Only.set_reg ?_ _ rfl)
    | (with_reducible exact Only.refl _ _)
    | (with_reducible assumption)
    | ((with_reducible apply Only.after (k := beginSwap_only ..)); case w => rfl)
    | (split)

theorem execHourPass_only (s : State) (t : State) (h : execHourPass s = .next t) :
    Only [.now, .hours, .reg] s t := by
  unfold execHourPass at h
  try dsimp only at h
  cases h
  repeat' first
    | (simp only [Only.mk_iff]; with_reducible refine Only.set_now_hours ?_ _ _ rfl)
    | (with_reducible exact Only.refl _ _)
    | (with_reducible assumption)
    | ((with_reducible apply Only.after (k := wholeHour_only ..)); case w => rfl)
    | (split)

theorem execUndershootRestore_only (s : State) (t : State) (h : execUndershootRestore s = .next t) :
    Only [.reg] s t := by
  unfold execUndershootRestore at h
  try dsimp only at h
  cases h
  repeat' first
    | (simp only [Only.mk_iff]; with_reducible refine Only.set_reg ?_ _ rfl)
    | (with_reducible exact Only.refl _ _)
    | (with_reducible assumption)
    | (split)

end Sys2Proof.Machine
end

