-- ==== Sys2Proof/Laws/MonitorsFrame.lean ====
section
/-! SUPPORT. What each definition of Machine/Monitors.lean may change: of the parts of the state, those listed and no other. -/

namespace Sys2Proof.Machine

theorem recordEvent_only (s : State) (k : Fin 24) :
    Only [.rules, .engs, .act, .bridle, .prot, .mons, .tether, .queues, .win, .outage, .integ] s (recordEvent s k) := by
  unfold recordEvent
  try dsimp only
  repeat' first
    | (with_reducible exact Only.refl _ _)
    | (with_reducible assumption)
    | ((with_reducible apply Only.after (k := presentSlow_only ..)); case w => rfl)
    | ((with_reducible apply Only.after (k := modMon_only ..)); case w => rfl)
    | (split)

theorem tripsNow_only (s : State) :
    Only [.reg] s (tripsNow s) := by
  unfold tripsNow
  try dsimp only
  repeat' first
    | (with_reducible exact Only.refl _ _)
    | (with_reducible assumption)
    | ((with_reducible apply Only.after (k := applyTrips_only ..)); case w => rfl)
    | (split)

theorem monActs_only (s : State) (k : Fin 24) (side : Side) (snap : Snap) :
    Only [.free, .rules, .engs, .act, .bridle, .reg, .prot, .mons, .tether, .queues, .win, .outage, .integ] s (monActs s k side snap) := by
  unfold monActs
  try dsimp only
  repeat' first
    | (with_reducible exact Only.refl _ _)
    | (with_reducible assumption)
    | ((with_reducible apply Only.after (k := modMon_only ..)); case w => rfl)
    | ((with_reducible apply Only.after (k := overvoltage_only ..)); case w => rfl)
    | ((with_reducible apply Only.after (k := hotter_only ..)); case w => rfl)
    | ((with_reducible apply Only.after (k := recordEvent_only ..)); case w => rfl)
    | ((with_reducible apply Only.after (k := tripsNow_only ..)); case w => rfl)
    | (split)

theorem execMonitorAssert_only (k : Fin 24) (side : Side) (m : MonReading) (snap : Snap) (s : State) (t : State) (h : execMonitorAssert k side m snap s = .next t) :
    Only [.free, .rules, .engs, .act, .bridle, .reg, .prot, .mons, .tether, .queues, .win, .outage, .integ] s t := by
  unfold execMonitorAssert at h
  try dsimp only at h
  cases h
  repeat' first
    | (with_reducible exact Only.refl _ _)
    | (with_reducible assumption)
    | ((with_reducible apply Only.after (k := moveRefFor_only ..)); case w => rfl)
    | ((with_reducible apply Only.after (k := monActs_only ..)); case w => rfl)
    | (split)

theorem execMonitorDeassert_only (k : Fin 24) (side : Side) (m : MonReading) (s : State) (t : State) (h : execMonitorDeassert k side m s = .next t) :
    Only [.free, .rules, .engs, .act, .bridle, .reg, .prot, .mons, .tether, .queues, .win, .outage, .integ] s t := by
  unfold execMonitorDeassert at h
  try dsimp only at h
  cases h
  repeat' first
    | (with_reducible exact Only.refl _ _)
    | (with_reducible assumption)
    | ((with_reducible apply Only.after (k := moveRefFor_only ..)); case w => rfl)
    | ((with_reducible apply Only.after (k := modMon_only ..)); case w => rfl)
    | ((with_reducible apply Only.after (k := recordEvent_only ..)); case w => rfl)
    | ((with_reducible apply Only.after (k := tripsNow_only ..)); case w => rfl)
    | (split)

theorem execEventHoldoffEnd_only (k : Fin 24) (s : State) (t : State) (h : execEventHoldoffEnd k s = .next t) :
    Only [.rules, .engs, .act, .bridle, .prot, .mons, .tether, .queues, .win, .outage, .integ] s t := by
  unfold execEventHoldoffEnd at h
  try dsimp only at h
  cases h
  repeat' first
    | (with_reducible exact Only.refl _ _)
    | (with_reducible assumption)
    | ((with_reducible apply Only.after (k := recordEvent_only ..)); case w => rfl)
    | ((with_reducible apply Only.after (k := modMon_only ..)); case w => rfl)
    | (split)

theorem execMonitorSettled_only (k : Fin 24) (m : MonReading) (snap : Snap) (s : State) (t : State) (h : execMonitorSettled k m snap s = .next t) :
    Only [.free, .rules, .engs, .act, .bridle, .reg, .prot, .mons, .tether, .queues, .win, .outage, .integ] s t := by
  unfold execMonitorSettled at h
  try dsimp only at h
  cases h
  repeat' first
    | (with_reducible exact Only.refl _ _)
    | (with_reducible assumption)
    | ((with_reducible apply Only.after (k := moveRefFor_only ..)); case w => rfl)
    | ((with_reducible apply Only.after (k := modMon_only ..)); case w => rfl)
    | ((with_reducible apply Only.after (k := monActs_only ..)); case w => rfl)
    | (split)

theorem clearLatches_only (s : State) (f : Nat → Bool) :
    Only [.mons] s (clearLatches s f) := by
  unfold clearLatches
  try dsimp only
  repeat' first
    | (simp only [Only.mk_iff]; with_reducible refine Only.set_mons ?_ _ rfl)
    | (with_reducible exact Only.refl _ _)
    | (with_reducible assumption)
    | (split)

theorem execLatchPeriodClear_only (sense : Vector Half 7) (s : State) (t : State) (h : execLatchPeriodClear sense s = .next t) :
    Only [.free, .reg, .mons] s t := by
  unfold execLatchPeriodClear at h
  try dsimp only at h
  cases h
  repeat' first
    | (with_reducible exact Only.refl _ _)
    | (with_reducible assumption)
    | ((with_reducible apply Only.after (k := clearLatches_only ..)); case w => rfl)
    | ((with_reducible apply Only.after (k := periodStart_only ..)); case w => rfl)
    | (split)

theorem pinsRiseAgain_only (s : State) :
    Only [.act] s (pinsRiseAgain s) := by
  unfold pinsRiseAgain
  try dsimp only
  repeat' first
    | (with_reducible exact Only.refl _ _)
    | (with_reducible assumption)
    | ((with_reducible apply Only.after (k := eachPin_only ..)); case w => rfl)
    | (split)

theorem clockTick_only (s : State) :
    Only [.free, .reg, .mons] s (clockTick s) := by
  unfold clockTick
  try dsimp only
  repeat' first
    | (simp only [Only.mk_iff]; with_reducible refine Only.set_reg ?_ _ rfl)
    | (with_reducible exact Only.refl _ _)
    | (with_reducible assumption)
    | ((with_reducible apply Only.after (k := somePeriods_only ..)); case w => rfl)
    | ((with_reducible apply Only.after (k := clearLatches_only ..)); case w => rfl)
    | (split)

theorem tickOnce_only (s : State) :
    Only [.now, .free, .hours, .act, .reg, .mons] s (tickOnce s) := by
  unfold tickOnce
  try dsimp only
  repeat' first
    | (simp only [Only.mk_iff]; with_reducible refine Only.set_now_hours ?_ _ _ rfl)
    | (simp only [Only.mk_iff]; with_reducible refine Only.set_now ?_ _ rfl)
    | (with_reducible exact Only.refl _ _)
    | (with_reducible assumption)
    | ((with_reducible apply Only.after (k := pinsRiseAgain_only ..)); case w => rfl)
    | ((with_reducible apply Only.after (k := clockTick_only ..)); case w => rfl)
    | ((with_reducible apply Only.after (k := wholeHour_only ..)); case w => rfl)
    | (split)

theorem execClrw_only (qsel : BitVec 6) (s : State) (t : State) (h : execClrw qsel s = .next t) :
    Only [.mons] s t := by
  unfold execClrw at h
  try dsimp only at h
  cases h
  repeat' first
    | (simp only [Only.mk_iff]; with_reducible refine Only.set_mons ?_ _ rfl)
    | (with_reducible exact Only.refl _ _)
    | (with_reducible assumption)
    | ((with_reducible apply Only.after (k := clearLatches_only ..)); case w => rfl)
    | (split)

theorem execReadLatchWord_only (second : Bool) (s : State) (t : State) (h : execReadLatchWord second s = .next t) :
    Only [.mons, .win] s t := by
  unfold execReadLatchWord at h
  try dsimp only at h
  cases h
  repeat' first
    | (simp only [Only.mk_iff]; with_reducible refine Only.set_mons_win ?_ _ _ rfl)
    | (with_reducible exact Only.refl _ _)
    | (with_reducible assumption)
    | (split)

theorem monitorsLeave_only (s : State) (d : Nat) :
    Only [.mons] s (monitorsLeave s d) := by
  unfold monitorsLeave
  try dsimp only
  repeat' first
    | (simp only [Only.mk_iff]; with_reducible refine Only.set_mons ?_ _ rfl)
    | (with_reducible exact Only.refl _ _)
    | (with_reducible assumption)
    | (split)

end Sys2Proof.Machine
end

