-- ==== Sys2Proof/Laws/QueueRowsFrame.lean ====
section
/-! SUPPORT. What each definition of Machine/QueueRows.lean may change: of the parts of the state, those listed and no other. -/

namespace Sys2Proof.Machine

theorem execNoticeClose_only (s : State) (t : State) (h : execNoticeClose s = .next t) :
    Only [.rules, .act, .bridle, .prot, .tether, .queues, .win, .integ] s t := by
  unfold execNoticeClose at h
  try dsimp only at h
  cases h
  repeat' first
    | (with_reducible exact Only.refl _ _)
    | (with_reducible assumption)
    | ((with_reducible apply Only.after (k := closeNotice_only ..)); case w => rfl)
    | (split)

theorem entryIfRoom_only (s : State) (e : List Byte) (t : State) (h : entryIfRoom s e = some t) :
    Only [.rules, .act, .bridle, .prot, .tether, .queues, .win, .integ] s t := by
  unfold entryIfRoom at h
  split at h
  · cases h
  · dsimp only at h
    split at h
    · cases h; exact addEntry_only s e
    · cases h

theorem execLostEntryReport_only (s : State) (t : State) (h : execLostEntryReport s = .next t) :
    Only [.rules, .act, .bridle, .prot, .tether, .queues, .win, .integ] s t := by
  unfold execLostEntryReport at h
  cases h
  repeat' first
    | (simp only [Only.mk_iff]; with_reducible refine Only.set_queues ?_ _ rfl)
    | (with_reducible exact Only.refl _ _)
    | (exact entryIfRoom_only _ _ _ (by with_reducible assumption))
    | split

theorem execAgeingExpiry_only (tag : Half) (s : State) (t : State) (h : execAgeingExpiry tag s = .next t) :
    Only [.rules, .act, .bridle, .prot, .tether, .queues, .win, .integ] s t := by
  unfold execAgeingExpiry at h
  try dsimp only at h
  cases h
  repeat' first
    | (with_reducible exact Only.refl _ _)
    | (with_reducible assumption)
    | ((with_reducible apply Only.after (k := reportFrame_only ..)); case w => rfl)
    | ((with_reducible apply Only.after (k := afterRemoval_only ..)); case w => rfl)
    | ((with_reducible apply Only.after (k := modLink_only ..)); case w => rfl)
    | ((with_reducible apply Only.after (k := failFrame_only ..)); case w => rfl)
    | ((with_reducible apply Only.foldl); intro _ _ _)
    | ((with_reducible apply Only.foldl_fst); intro _ _ _)
    | (split)

theorem storeEarliest_only (s : State) (d : Nat) :
    Only [.queues] s (storeEarliest s d) := by
  unfold storeEarliest
  try dsimp only
  repeat' first
    | (simp only [Only.mk_iff]; with_reducible refine Only.set_queues ?_ _ rfl)
    | (with_reducible exact Only.refl _ _)
    | (with_reducible assumption)
    | (split)

theorem execAgeingWake_only (s : State) (t : State) (h : execAgeingWake s = .next t) :
    Only [.rules, .act, .bridle, .prot, .tether, .queues, .win, .integ] s t := by
  unfold execAgeingWake at h
  try dsimp only at h
  cases h
  repeat' first
    | (simp only [Only.mk_iff]; with_reducible refine Only.set_queues ?_ _ rfl)
    | (with_reducible exact Only.refl _ _)
    | (with_reducible assumption)
    | ((with_reducible apply Only.after (k := demand_only ..)); case w => rfl)
    | ((with_reducible apply Only.foldl); intro _ _ _)
    | ((with_reducible apply Only.foldl_fst); intro _ _ _)
    | (split)

theorem watermarkReport_only (s : State) (reason : Byte) :
    Only [.queues, .integ] s (watermarkReport s reason) := by
  unfold watermarkReport
  try dsimp only
  repeat' first
    | (simp only [Only.mk_iff]; with_reducible refine Only.set_queues_integ ?_ _ _ rfl)
    | (with_reducible exact Only.refl _ _)
    | (with_reducible assumption)
    | (split)

theorem execWatermarkReportEntry_only (s : State) (t : State) (h : execWatermarkReportEntry s = .next t) :
    Only [.rules, .act, .bridle, .prot, .tether, .queues, .win, .integ] s t := by
  unfold execWatermarkReportEntry at h
  cases h
  repeat' first
    | (simp only [Only.mk_iff]; with_reducible refine Only.set_queues ?_ _ rfl)
    | (simp only [Only.mk_iff]; with_reducible refine Only.set_integ ?_ _ rfl)
    | (with_reducible exact Only.refl _ _)
    | (exact entryIfRoom_only _ _ _ (by with_reducible assumption))
    | split

theorem readFirst_only (bad : List Nat) (s : State) (f : QFrame) :
    Only [.win] s (readFirst bad s f).1 := by
  unfold readFirst
  try dsimp only
  repeat' first
    | (with_reducible exact Only.refl _ _)
    | (with_reducible assumption)
    | ((with_reducible apply Only.after (k := countEcc_only ..)); case w => rfl)
    | (split)

theorem cutQueue_only (bad : List Nat) (s : State) (l : List QFrame) :
    Only [.rules, .act, .bridle, .prot, .tether, .queues, .win, .integ] s (cutQueue bad s l).1 := by
  unfold cutQueue
  try dsimp only
  repeat' first
    | (with_reducible exact Only.refl _ _)
    | (with_reducible assumption)
    | ((with_reducible apply Only.after (k := readFirst_only ..)); case w => rfl)
    | ((with_reducible apply Only.after (k := reportFrame_only ..)); case w => rfl)
    | (split)

theorem walkQueue_only (bad : List Nat) (acc : State × List QFrame × Bool) (q : Nat × List QFrame) :
    Only [.rules, .act, .bridle, .prot, .tether, .queues, .win, .integ] acc.1 (walkQueue bad acc q).1 := by
  unfold walkQueue
  try dsimp only
  repeat' first
    | (simp only [Only.mk_iff]; with_reducible refine Only.set_integ ?_ _ rfl)
    | (with_reducible exact Only.refl _ _)
    | (with_reducible assumption)
    | ((with_reducible apply Only.after (k := cutQueue_only ..)); case w => rfl)
    | ((with_reducible apply Only.after (k := setQueue_only ..)); case w => rfl)
    | ((with_reducible apply Only.after (k := afterRemoval_only ..)); case w => rfl)
    | (split)

theorem walkOut_only (bad : List Nat) (acc : State × List QFrame × Bool) (p : Port) :
    Only [.rules, .act, .bridle, .prot, .tether, .queues, .win, .integ] acc.1 (walkOut bad acc p).1 := by
  unfold walkOut
  try dsimp only
  repeat' first
    | (simp only [Only.mk_iff]; with_reducible refine Only.set_integ ?_ _ rfl)
    | (with_reducible exact Only.refl _ _)
    | (with_reducible assumption)
    | ((with_reducible apply Only.after (k := cutQueue_only ..)); case w => rfl)
    | ((with_reducible apply Only.after (k := modLink_only ..)); case w => rfl)
    | ((with_reducible apply Only.after (k := afterRemoval_only ..)); case w => rfl)
    | (split)

theorem sweepFrames_only (bad : List Nat) (l : List (Byte × QFrame)) (s : State) (unnamed : Bool) :
    Only [.rules, .act, .bridle, .prot, .tether, .queues, .win, .integ] s (sweepFrames bad l s unnamed).1 := by
  induction l generalizing s unnamed with
  | nil => exact Only.refl _ _
  | cons x l ih =>
  unfold sweepFrames
  try dsimp only
  repeat' first
    | ((with_reducible apply Only.after (k := ih ..)); case w => rfl)
    | (simp only [Only.mk_iff]; with_reducible refine Only.set_integ ?_ _ rfl)
    | (with_reducible exact Only.refl _ _)
    | (with_reducible assumption)
    | ((with_reducible apply Only.after (k := readFirst_only ..)); case w => rfl)
    | ((with_reducible apply Only.after (k := reportFrame_only ..)); case w => rfl)
    | ((with_reducible apply Only.after (k := afterRemoval_only ..)); case w => rfl)
    | (split)

theorem releaseAll_only (s : State) :
    Only [.tether, .queues, .integ] s (releaseAll s) := by
  unfold releaseAll
  try dsimp only
  repeat' first
    | (simp only [Only.mk_iff]; with_reducible refine Only.set_tether_queues_integ ?_ _ _ _ rfl)
    | (with_reducible exact Only.refl _ _)
    | (with_reducible assumption)
    | ((with_reducible apply Only.after (k := creditFreed_only ..)); case w => rfl)
    | ((with_reducible apply Only.foldl); intro _ _ _)
    | ((with_reducible apply Only.foldl_fst); intro _ _ _)
    | (split)

theorem resolveLoss_only (bad : List Nat) (s : State) :
    Only [.rules, .act, .bridle, .prot, .tether, .queues, .win, .integ] s (resolveLoss bad s) := by
  unfold resolveLoss
  try dsimp only
  repeat' first
    | (simp only [Only.mk_iff]; with_reducible refine Only.set_integ ?_ _ rfl)
    | (with_reducible exact Only.refl _ _)
    | (with_reducible assumption)
    | ((with_reducible apply Only.after (k := releaseAll_only ..)); case w => rfl)
    | ((with_reducible apply Only.after (k := watermarkReport_only ..)); case w => rfl)
    | ((with_reducible apply Only.after (k := walkQueue_only ..)); case w => rfl)
    | ((with_reducible apply Only.after (k := walkOut_only ..)); case w => rfl)
    | ((with_reducible apply Only.after (k := sweepFrames_only ..)); case w => rfl)
    | ((with_reducible apply Only.foldl); intro _ _ _)
    | ((with_reducible apply Only.foldl_fst); intro _ _ _)
    | (split)

theorem execLossResolution_only (unreadable : List Nat) (s : State) (t : State) (h : execLossResolution unreadable s = .next t) :
    Only [.rules, .act, .bridle, .prot, .tether, .queues, .win, .integ] s t := by
  unfold execLossResolution at h
  try dsimp only at h
  cases h
  repeat' first
    | (with_reducible exact Only.refl _ _)
    | (with_reducible assumption)
    | ((with_reducible apply Only.after (k := resolveLoss_only ..)); case w => rfl)
    | (split)

end Sys2Proof.Machine
end

