-- ==== Sys2Proof/Laws/BridleOpsFrame.lean ====
section
/-! SUPPORT. What each definition of Machine/BridleOps.lean may change: of the parts of the state, those listed and no other. -/

namespace Sys2Proof.Machine

theorem modTry_only (s : State) (c : Chan) (f : RailTry → RailTry) :
    Only [.act] s (modTry s c f) := by
  unfold modTry
  try dsimp only
  repeat' first
    | (simp only [Only.mk_iff]; with_reducible refine Only.set_act ?_ _ rfl)
    | (with_reducible exact Only.refl _ _)
    | (with_reducible assumption)
    | (split)

theorem railAsked_only (s : State) (d : Nat) (t : DS) :
    Only [.act, .reg, .win] s (railAsked s d t) := by
  unfold railAsked
  try dsimp only
  repeat' first
    | (with_reducible exact Only.refl _ _)
    | (with_reducible assumption)
    | ((with_reducible apply Only.after (k := modChan_only ..)); case w => rfl)
    | ((with_reducible apply Only.after (k := modTry_only ..)); case w => rfl)
    | ((with_reducible apply Only.after (k := releasePins_only ..)); case w => rfl)
    | (split)

theorem channelLeaves_only (s : State) (c : Chan) (forced : Bool) :
    Only [.free, .reg, .prot] s (channelLeaves s c forced) := by
  unfold channelLeaves
  try dsimp only
  repeat' first
    | (simp only [Only.mk_iff]; with_reducible refine Only.set_reg ?_ _ rfl)
    | (with_reducible exact Only.refl _ _)
    | (with_reducible assumption)
    | ((with_reducible apply Only.after (k := stopChan_only ..)); case w => rfl)
    | ((with_reducible apply Only.after (k := setPwm_only ..)); case w => rfl)
    | ((with_reducible apply Only.after (k := dropPgood_only ..)); case w => rfl)
    | ((with_reducible apply Only.after (k := endLatch_only ..)); case w => rfl)
    | ((with_reducible apply Only.after (k := modChan_only ..)); case w => rfl)
    | ((with_reducible apply Only.after (k := refreshStraps_only ..)); case w => rfl)
    | (split)

theorem portLeaves_only (s : State) (p : Port) (forced : Bool) :
    Only [.rules, .act, .bridle, .prot, .tether, .queues, .win, .integ] s (portLeaves s p forced) := by
  unfold portLeaves
  try dsimp only
  repeat' first
    | (with_reducible exact Only.refl _ _)
    | (with_reducible assumption)
    | ((with_reducible apply Only.after (k := portDownAs_only ..)); case w => rfl)
    | ((with_reducible apply Only.after (k := modLink_only ..)); case w => rfl)
    | (split)

theorem blockLeaves_only (s : State) (d : Nat) (forced : Bool) :
    Only [.free, .xfer, .front, .rules, .engs, .act, .bridle, .reg, .prot, .mons, .tether, .queues, .drop, .win, .integ] s (blockLeaves s d forced) := by
  unfold blockLeaves
  try dsimp only
  repeat' first
    | (simp only [Only.mk_iff]; with_reducible refine Only.set_rules ?_ _ rfl)
    | (simp only [Only.mk_iff]; with_reducible refine Only.set_win ?_ _ rfl)
    | (simp only [Only.mk_iff]; with_reducible refine Only.set_rules_win ?_ _ _ rfl)
    | (with_reducible exact Only.refl _ _)
    | (with_reducible assumption)
    | ((with_reducible apply Only.after (k := storeEarliest_only ..)); case w => rfl)
    | ((with_reducible apply Only.after (k := frontLeaves_only ..)); case w => rfl)
    | ((with_reducible apply Only.after (k := engineLeaves_only ..)); case w => rfl)
    | ((with_reducible apply Only.after (k := ruleMemoryLeaves_only ..)); case w => rfl)
    | ((with_reducible apply Only.after (k := abandonXfer_only ..)); case w => rfl)
    | ((with_reducible apply Only.after (k := dropLeaves_only ..)); case w => rfl)
    | ((with_reducible apply Only.after (k := monitorsLeave_only ..)); case w => rfl)
    | ((with_reducible apply Only.after (k := channelLeaves_only ..)); case w => rfl)
    | (split)

theorem pinsAtRailDown_only (s : State) (d : Nat) :
    Only [.act, .win] s (pinsAtRailDown s d) := by
  unfold pinsAtRailDown
  try dsimp only
  repeat' first
    | (with_reducible exact Only.refl _ _)
    | (with_reducible assumption)
    | ((with_reducible apply Only.after (k := releasePins_only ..)); case w => rfl)
    | (split)

theorem domLeaves_only (s : State) (d : Nat) (t : DS) (forced : Bool) :
    Only [.free, .xfer, .front, .rules, .engs, .act, .bridle, .reg, .prot, .mons, .tether, .queues, .drop, .win, .integ] s (domLeaves s d t forced) := by
  unfold domLeaves
  try dsimp only
  repeat' first
    | (with_reducible exact Only.refl _ _)
    | (with_reducible assumption)
    | ((with_reducible apply Only.after (k := blockLeaves_only ..)); case w => rfl)
    | ((with_reducible apply Only.after (k := loseBanks_only ..)); case w => rfl)
    | ((with_reducible apply Only.after (k := modDom_only ..)); case w => rfl)
    | ((with_reducible apply Only.after (k := forgetRules_only ..)); case w => rfl)
    | ((with_reducible apply Only.after (k := portLeaves_only ..)); case w => rfl)
    | (split)

theorem ruleMemoryReturns_only (s : State) :
    Only [.rules, .act, .bridle, .prot, .tether, .queues, .win, .integ] s (ruleMemoryReturns s) := by
  unfold ruleMemoryReturns
  try dsimp only
  repeat' first
    | (simp only [Only.mk_iff]; with_reducible refine Only.set_rules ?_ _ rfl)
    | (with_reducible exact Only.refl _ _)
    | (with_reducible assumption)
    | ((with_reducible apply Only.after (k := modDom_only ..)); case w => rfl)
    | ((with_reducible apply Only.after (k := demand_only ..)); case w => rfl)
    | (split)

theorem channelReturns_only (s : State) (c : Chan) :
    Only [.act, .reg] s (channelReturns s c) := by
  unfold channelReturns
  try dsimp only
  repeat' first
    | (simp only [Only.mk_iff]; with_reducible refine Only.set_reg ?_ _ rfl)
    | (with_reducible exact Only.refl _ _)
    | (with_reducible assumption)
    | ((with_reducible apply Only.after (k := modChan_only ..)); case w => rfl)
    | ((with_reducible apply Only.after (k := modTry_only ..)); case w => rfl)
    | (split)

theorem portReturns_only (s : State) (p : Port) :
    Only [.tether] s (portReturns s p) := by
  unfold portReturns
  try dsimp only
  repeat' first
    | (with_reducible exact Only.refl _ _)
    | (with_reducible assumption)
    | ((with_reducible apply Only.after (k := modLink_only ..)); case w => rfl)
    | (split)

theorem domReturns_only (s : State) (d : Nat) :
    Only [.free, .rules, .engs, .act, .bridle, .reg, .prot, .tether, .queues, .drop, .win, .integ, .pace] s (domReturns s d) := by
  unfold domReturns
  try dsimp only
  repeat' first
    | (with_reducible exact Only.refl _ _)
    | (with_reducible assumption)
    | ((with_reducible apply Only.after (k := raiseFor_only ..)); case w => rfl)
    | ((with_reducible apply Only.after (k := modDom_only ..)); case w => rfl)
    | ((with_reducible apply Only.after (k := engineReturns_only ..)); case w => rfl)
    | ((with_reducible apply Only.after (k := ruleMemoryReturns_only ..)); case w => rfl)
    | ((with_reducible apply Only.after (k := portReturns_only ..)); case w => rfl)
    | ((with_reducible apply Only.after (k := dropReturns_only ..)); case w => rfl)
    | ((with_reducible apply Only.after (k := channelReturns_only ..)); case w => rfl)
    | (split)

theorem askAgain_only (s : State) (d : Nat) :
    Only [.rules, .act, .bridle, .prot, .tether, .queues, .win, .integ] s (askAgain s d) := by
  unfold askAgain
  try dsimp only
  repeat' first
    | (with_reducible exact Only.refl _ _)
    | (with_reducible assumption)
    | ((with_reducible apply Only.after (k := askRequired_only ..)); case w => rfl)
    | ((with_reducible apply Only.foldl); intro _ _ _)
    | ((with_reducible apply Only.foldl_fst); intro _ _ _)
    | (split)

theorem refuseBelow_only (s : State) (d : Nat) :
    Only [.rules, .act, .bridle, .prot, .tether, .queues, .win, .integ] s (refuseBelow s d) := by
  unfold refuseBelow
  try dsimp only
  repeat' first
    | (with_reducible exact Only.refl _ _)
    | (with_reducible assumption)
    | ((with_reducible apply Only.after (k := settle_only ..)); case w => rfl)
    | ((with_reducible apply Only.after (k := resolve_only ..)); case w => rfl)
    | ((with_reducible apply Only.after (k := endCur_only ..)); case w => rfl)
    | ((with_reducible apply Only.foldl); intro _ _ _)
    | ((with_reducible apply Only.foldl_fst); intro _ _ _)
    | (split)

theorem finish_only (s : State) (d : Nat) (q : Req) :
    Only [.rules, .act, .bridle, .prot, .tether, .queues, .win, .integ] s (finish s d q) := by
  unfold finish
  try dsimp only
  repeat' first
    | (with_reducible exact Only.refl _ _)
    | (with_reducible assumption)
    | ((with_reducible apply Only.after (k := settle_only ..)); case w => rfl)
    | ((with_reducible apply Only.after (k := resolve_only ..)); case w => rfl)
    | ((with_reducible apply Only.after (k := endCur_only ..)); case w => rfl)
    | (split)

theorem attachPins_only (s : State) (d : Nat) (q : Req) :
    Only [.act] s (attachPins s d q) := by
  unfold attachPins
  try dsimp only
  repeat' first
    | (with_reducible exact Only.refl _ _)
    | (with_reducible assumption)
    | ((with_reducible apply Only.after (k := modTry_only ..)); case w => rfl)
    | (split)

theorem tryLive_only (s : State) (d : Nat) :
    Only [.free, .rules, .engs, .act, .bridle, .reg, .prot, .tether, .queues, .drop, .win, .integ, .pace] s (tryLive s d) := by
  unfold tryLive
  try dsimp only
  repeat' first
    | (with_reducible exact Only.refl _ _)
    | (with_reducible assumption)
    | ((with_reducible apply Only.after (k := finish_only ..)); case w => rfl)
    | ((with_reducible apply Only.after (k := domReturns_only ..)); case w => rfl)
    | ((with_reducible apply Only.after (k := attachPins_only ..)); case w => rfl)
    | (split)

theorem leaveNow_only (s : State) (d : Nat) (q : Req) :
    Only [.free, .xfer, .front, .rules, .engs, .act, .bridle, .reg, .prot, .mons, .tether, .queues, .drop, .win, .integ] s (leaveNow s d q) := by
  unfold leaveNow
  try dsimp only
  repeat' first
    | (with_reducible exact Only.refl _ _)
    | (with_reducible assumption)
    | ((with_reducible apply Only.after (k := domLeaves_only ..)); case w => rfl)
    | ((with_reducible apply Only.after (k := askAgain_only ..)); case w => rfl)
    | ((with_reducible apply Only.after (k := pinsAtRailDown_only ..)); case w => rfl)
    | ((with_reducible apply Only.after (k := finish_only ..)); case w => rfl)
    | (split)

theorem forceDown_only (s : State) (d : Nat) (r : ReqResult) (reason : BitVec 4) :
    Only [.free, .xfer, .front, .rules, .engs, .act, .bridle, .reg, .prot, .mons, .tether, .queues, .drop, .win, .integ] s (forceDown s d r reason) := by
  unfold forceDown
  try dsimp only
  repeat' first
    | (with_reducible exact Only.refl _ _)
    | (with_reducible assumption)
    | ((with_reducible apply Only.after (k := modTry_only ..)); case w => rfl)
    | ((with_reducible apply Only.after (k := domLeaves_only ..)); case w => rfl)
    | ((with_reducible apply Only.after (k := forgetRules_only ..)); case w => rfl)
    | ((with_reducible apply Only.after (k := modDom_only ..)); case w => rfl)
    | ((with_reducible apply Only.after (k := loseBanks_only ..)); case w => rfl)
    | ((with_reducible apply Only.after (k := resolve_only ..)); case w => rfl)
    | ((with_reducible apply Only.after (k := endCur_only ..)); case w => rfl)
    | ((with_reducible apply Only.after (k := pinsAtRailDown_only ..)); case w => rfl)
    | (split)

theorem passProfile_only (s : State) (k : Fin 8) (o : Origin) (mask : BitVec 4) (hostCmd : Bool) :
    Only [.bridle] s (passProfile s k o mask hostCmd) := by
  unfold passProfile
  try dsimp only
  repeat' first
    | (simp only [Only.mk_iff]; with_reducible refine Only.set_bridle ?_ _ rfl)
    | (with_reducible exact Only.refl _ _)
    | (with_reducible assumption)
    | (split)

end Sys2Proof.Machine
end

