-- ==== Sys2Proof/Laws/OutageOpsFrame.lean ====
section
/-! SUPPORT. What each definition of Machine/OutageOps.lean may change: of the parts of the state, those listed and no other. -/

namespace Sys2Proof.Machine

theorem setDrift_only (s : State) :
    Only [.prot, .gauge] s (setDrift s) := by
  unfold setDrift
  try dsimp only
  repeat' first
    | (simp only [Only.mk_iff]; with_reducible refine Only.set_gauge ?_ _ rfl)
    | (with_reducible exact Only.refl _ _)
    | (with_reducible assumption)
    | ((with_reducible apply Only.after (k := addAlert_only ..)); case w => rfl)
    | (split)

theorem rebase_only (s : State) :
    Only [.prot, .gauge] s (rebase s) := by
  unfold rebase
  try dsimp only
  repeat' first
    | (simp only [Only.mk_iff]; with_reducible refine Only.set_gauge ?_ _ rfl)
    | (with_reducible exact Only.refl _ _)
    | (with_reducible assumption)
    | ((with_reducible apply Only.after (k := setDrift_only ..)); case w => rfl)
    | (split)

theorem backToVaon_only (s : State) :
    Only [.prot, .gauge] s (backToVaon s) := by
  unfold backToVaon
  try dsimp only
  repeat' first
    | (simp only [Only.mk_iff]; with_reducible refine Only.set_gauge ?_ _ rfl)
    | (with_reducible exact Only.refl _ _)
    | (with_reducible assumption)
    | ((with_reducible apply Only.after (k := rebase_only ..)); case w => rfl)
    | ((with_reducible apply Only.after (k := dropAlert_only ..)); case w => rfl)
    | (split)

theorem cancelRequests_only (s : State) (d : Nat) :
    Only [.act, .bridle, .prot, .win] s (cancelRequests s d) := by
  unfold cancelRequests
  try dsimp only
  repeat' first
    | (with_reducible exact Only.refl _ _)
    | (with_reducible assumption)
    | ((with_reducible apply Only.after (k := modDom_only ..)); case w => rfl)
    | ((with_reducible apply Only.after (k := resolve_only ..)); case w => rfl)
    | ((with_reducible apply Only.foldl); intro _ _ _)
    | ((with_reducible apply Only.foldl_fst); intro _ _ _)
    | (split)

theorem cancelJob_only (s : State) (j : Job) :
    Only [.act, .bridle, .prot, .win] s (cancelJob s j) := by
  unfold cancelJob
  try dsimp only
  repeat' first
    | (simp only [Only.mk_iff]; with_reducible refine Only.set_act ?_ _ rfl)
    | (with_reducible exact Only.refl _ _)
    | (with_reducible assumption)
    | ((with_reducible apply Only.after (k := w0bEntry_only ..)); case w => rfl)
    | ((with_reducible apply Only.after (k := record83_only ..)); case w => rfl)
    | (split)

theorem cancelBehind_only (s : State) :
    Only [.act, .bridle, .prot, .win] s (cancelBehind s) := by
  unfold cancelBehind
  try dsimp only
  repeat' first
    | (simp only [Only.mk_iff]; with_reducible refine Only.set_bridle ?_ _ rfl)
    | (with_reducible exact Only.refl _ _)
    | (with_reducible assumption)
    | ((with_reducible apply Only.after (k := resolve_only ..)); case w => rfl)
    | ((with_reducible apply Only.foldl); intro _ _ _)
    | ((with_reducible apply Only.foldl_fst); intro _ _ _)
    | (split)

theorem endTries_only (s : State) (c : Chan) :
    Only [.act, .reg] s (endTries s c) := by
  unfold endTries
  try dsimp only
  repeat' first
    | (with_reducible exact Only.refl _ _)
    | (with_reducible assumption)
    | ((with_reducible apply Only.after (k := modChan_only ..)); case w => rfl)
    | ((with_reducible apply Only.after (k := modTry_only ..)); case w => rfl)
    | (split)

theorem beginOutage_only (s : State) (x : Starter) :
    Only [.free, .nvm, .flash, .xfer, .rules, .act, .bridle, .reg, .prot, .tether, .queues, .win, .gauge, .outage, .integ] s (beginOutage s x) := by
  unfold beginOutage
  try dsimp only
  repeat' first
    | (simp only [Only.mk_iff]; with_reducible refine Only.set_nvm_gauge_outage ?_ _ _ _ rfl)
    | (simp only [Only.mk_iff]; with_reducible refine Only.set_bridle ?_ _ rfl)
    | (simp only [Only.mk_iff]; with_reducible refine Only.set_rules ?_ _ rfl)
    | (simp only [Only.mk_iff]; with_reducible refine Only.set_nvm_bridle_gauge_outage ?_ _ _ _ _ rfl)
    | (simp only [Only.mk_iff]; with_reducible refine Only.set_nvm_rules_gauge_outage ?_ _ _ _ _ rfl)
    | (simp only [Only.mk_iff]; with_reducible refine Only.set_rules_bridle ?_ _ _ rfl)
    | (simp only [Only.mk_iff]; with_reducible refine Only.set_nvm_rules_bridle_gauge_outage ?_ _ _ _ _ _ rfl)
    | (with_reducible exact Only.refl _ _)
    | (with_reducible assumption)
    | ((with_reducible apply Only.after (k := cancelRequests_only ..)); case w => rfl)
    | ((with_reducible apply Only.after (k := cancelBehind_only ..)); case w => rfl)
    | ((with_reducible apply Only.after (k := cancelJob_only ..)); case w => rfl)
    | ((with_reducible apply Only.after (k := endTries_only ..)); case w => rfl)
    | ((with_reducible apply Only.after (k := abandonXfer_only ..)); case w => rfl)
    | ((with_reducible apply Only.after (k := finishPage_only ..)); case w => rfl)
    | ((with_reducible apply Only.after (k := deferEntry_only ..)); case w => rfl)
    | ((with_reducible apply Only.foldl); intro _ _ _)
    | ((with_reducible apply Only.foldl_fst); intro _ _ _)
    | (split)

theorem fireStarter_only (s : State) (x : Starter) :
    Only [.free, .nvm, .flash, .xfer, .rules, .act, .bridle, .reg, .prot, .tether, .queues, .win, .gauge, .outage, .integ] s (fireStarter s x) := by
  unfold fireStarter
  try dsimp only
  repeat' first
    | (simp only [Only.mk_iff]; with_reducible refine Only.set_outage ?_ _ rfl)
    | (with_reducible exact Only.refl _ _)
    | (with_reducible assumption)
    | ((with_reducible apply Only.after (k := beginOutage_only ..)); case w => rfl)
    | (split)

theorem moveCells_only (s : State) (f : QFrame) (cs : List Nat) :
    Only [.queues] s (moveCells s f cs) := by
  unfold moveCells
  try dsimp only
  repeat' first
    | (with_reducible exact Only.refl _ _)
    | (with_reducible assumption)
    | ((with_reducible apply Only.after (k := allocCells_only ..)); case w => rfl)
    | ((with_reducible apply Only.after (k := freeCells_only ..)); case w => rfl)
    | (split)

theorem holdQueued_only (tag : Nat) (s : State) (f : QFrame) :
    Only [.rules, .act, .bridle, .prot, .tether, .queues, .win, .integ] s (holdQueued tag s f) := by
  unfold holdQueued
  try dsimp only
  repeat' first
    | (with_reducible exact Only.refl _ _)
    | (with_reducible assumption)
    | ((with_reducible apply Only.after (k := setQueue_only ..)); case w => rfl)
    | ((with_reducible apply Only.after (k := moveCells_only ..)); case w => rfl)
    | ((with_reducible apply Only.after (k := failFrame_only ..)); case w => rfl)
    | (split)

theorem holdOut_only (p : Port) (s : State) (x : Byte × QFrame) :
    Only [.rules, .act, .bridle, .prot, .tether, .queues, .win, .integ] s (holdOut p s x) := by
  unfold holdOut
  try dsimp only
  repeat' first
    | (with_reducible exact Only.refl _ _)
    | (with_reducible assumption)
    | ((with_reducible apply Only.after (k := modLink_only ..)); case w => rfl)
    | ((with_reducible apply Only.after (k := moveCells_only ..)); case w => rfl)
    | ((with_reducible apply Only.after (k := afterRemoval_only ..)); case w => rfl)
    | ((with_reducible apply Only.after (k := reportFrame_only ..)); case w => rfl)
    | (split)

theorem flightEnds_only (s : State) :
    Only [.rules, .act, .bridle, .prot, .tether, .queues, .win, .integ] s (flightEnds s) := by
  unfold flightEnds
  try dsimp only
  repeat' first
    | (with_reducible exact Only.refl _ _)
    | (with_reducible assumption)
    | ((with_reducible apply Only.after (k := holdQueued_only ..)); case w => rfl)
    | ((with_reducible apply Only.after (k := holdOut_only ..)); case w => rfl)
    | ((with_reducible apply Only.foldl); intro _ _ _)
    | ((with_reducible apply Only.foldl_fst); intro _ _ _)
    | (split)

theorem requestAll_only (s : State) (l : List (Nat × DS)) :
    Only [.rules, .act, .bridle, .prot, .tether, .queues, .win, .integ] s (requestAll s l) := by
  unfold requestAll
  try dsimp only
  repeat' first
    | (with_reducible exact Only.refl _ _)
    | (with_reducible assumption)
    | ((with_reducible apply Only.after (k := enqueue_only ..)); case w => rfl)
    | ((with_reducible apply Only.after (k := settle_only ..)); case w => rfl)
    | ((with_reducible apply Only.foldl); intro _ _ _)
    | ((with_reducible apply Only.foldl_fst); intro _ _ _)
    | (split)

theorem enterStep6_only (s : State) :
    Only [.rules, .act, .bridle, .reg, .prot, .tether, .queues, .win, .outage, .integ] s (enterStep6 s) := by
  unfold enterStep6
  try dsimp only
  repeat' first
    | (simp only [Only.mk_iff]; with_reducible refine Only.set_reg_outage ?_ _ _ rfl)
    | (with_reducible exact Only.refl _ _)
    | (with_reducible assumption)
    | ((with_reducible apply Only.after (k := requestAll_only ..)); case w => rfl)
    | (split)

theorem resumeAgeing_only (s : State) :
    Only [.tether, .queues, .integ] s (resumeAgeing s) := by
  unfold resumeAgeing
  try dsimp only
  repeat' first
    | (simp only [Only.mk_iff]; with_reducible refine Only.set_tether_queues_integ ?_ _ _ _ rfl)
    | (with_reducible exact Only.refl _ _)
    | (with_reducible assumption)
    | (split)

theorem pinsFor_only (s : State) (p : Profile) (mask : BitVec 4) :
    Only [.act, .win] s (pinsFor s p mask) := by
  unfold pinsFor
  try dsimp only
  repeat' first
    | (with_reducible exact Only.refl _ _)
    | (with_reducible assumption)
    | ((with_reducible apply Only.after (k := raisePins_only ..)); case w => rfl)
    | ((with_reducible apply Only.after (k := pendPins_only ..)); case w => rfl)
    | (split)

theorem presentKept_only (s : State) (l : List SlowItem) :
    Only [.rules, .engs, .act, .bridle, .prot, .tether, .queues, .win, .outage, .integ] s (presentKept s l) := by
  unfold presentKept
  try dsimp only
  repeat' first
    | (with_reducible exact Only.refl _ _)
    | (with_reducible assumption)
    | ((with_reducible apply Only.after (k := presentSlow_only ..)); case w => rfl)
    | ((with_reducible apply Only.foldl); intro _ _ _)
    | ((with_reducible apply Only.foldl_fst); intro _ _ _)
    | (split)

theorem applyRecorded_only (s : State) :
    Only [.act, .bridle, .win, .outage] s (applyRecorded s) := by
  unfold applyRecorded
  try dsimp only
  repeat' first
    | (simp only [Only.mk_iff]; with_reducible refine Only.set_outage ?_ _ rfl)
    | (simp only [Only.mk_iff]; with_reducible refine Only.set_act ?_ _ rfl)
    | (simp only [Only.mk_iff]; with_reducible refine Only.set_act_outage ?_ _ _ rfl)
    | (with_reducible exact Only.refl _ _)
    | (with_reducible assumption)
    | ((with_reducible apply Only.after (k := passProfile_only ..)); case w => rfl)
    | ((with_reducible apply Only.after (k := pinsFor_only ..)); case w => rfl)
    | ((with_reducible apply Only.after (k := releasePins_only ..)); case w => rfl)
    | (split)

theorem settleEnd_only (s : State) :
    Only [.act, .bridle, .win, .outage] s (settleEnd s) := by
  unfold settleEnd
  try dsimp only
  repeat' first
    | (with_reducible exact Only.refl _ _)
    | (with_reducible assumption)
    | ((with_reducible apply Only.after (k := applyRecorded_only ..)); case w => rfl)
    | (split)

theorem safeRailsOff_only (s : State) :
    Only [.rules, .act, .bridle, .reg, .prot, .tether, .queues, .win, .integ] s (safeRailsOff s) := by
  unfold safeRailsOff
  try dsimp only
  repeat' first
    | (simp only [Only.mk_iff]; with_reducible refine Only.set_reg ?_ _ rfl)
    | (with_reducible exact Only.refl _ _)
    | (with_reducible assumption)
    | ((with_reducible apply Only.after (k := requestAll_only ..)); case w => rfl)
    | (split)

theorem endOutage_only (s : State) :
    Only [.boot, .rules, .engs, .act, .bridle, .reg, .prot, .tether, .queues, .win, .gauge, .outage, .integ] s (endOutage s) := by
  unfold endOutage
  try dsimp only
  repeat' first
    | (simp only [Only.mk_iff]; with_reducible refine Only.set_gauge_outage ?_ _ _ rfl)
    | (simp only [Only.mk_iff]; with_reducible refine Only.set_boot ?_ _ rfl)
    | (simp only [Only.mk_iff]; with_reducible refine Only.set_boot_gauge_outage ?_ _ _ _ rfl)
    | (with_reducible exact Only.refl _ _)
    | (with_reducible assumption)
    | ((with_reducible apply Only.after (k := resumeAgeing_only ..)); case w => rfl)
    | ((with_reducible apply Only.after (k := backToVaon_only ..)); case w => rfl)
    | ((with_reducible apply Only.after (k := passProfile_only ..)); case w => rfl)
    | ((with_reducible apply Only.after (k := askMemory_only ..)); case w => rfl)
    | ((with_reducible apply Only.after (k := safeRailsOff_only ..)); case w => rfl)
    | ((with_reducible apply Only.after (k := applyRecorded_only ..)); case w => rfl)
    | ((with_reducible apply Only.after (k := settleEnd_only ..)); case w => rfl)
    | ((with_reducible apply Only.after (k := presentKept_only ..)); case w => rfl)
    | (split)

theorem enterU5_only (s : State) :
    Only [.rules, .act, .bridle, .reg, .prot, .tether, .queues, .win, .outage, .integ] s (enterU5 s) := by
  unfold enterU5
  try dsimp only
  repeat' first
    | (simp only [Only.mk_iff]; with_reducible refine Only.set_reg_outage ?_ _ _ rfl)
    | (with_reducible exact Only.refl _ _)
    | (with_reducible assumption)
    | ((with_reducible apply Only.after (k := requestAll_only ..)); case w => rfl)
    | (split)

theorem descentEnds_only (s : State) :
    Only [.rules, .act, .bridle, .reg, .prot, .tether, .queues, .win, .outage, .integ] s (descentEnds s) := by
  unfold descentEnds
  try dsimp only
  repeat' first
    | (simp only [Only.mk_iff]; with_reducible refine Only.set_outage ?_ _ rfl)
    | (with_reducible exact Only.refl _ _)
    | (with_reducible assumption)
    | ((with_reducible apply Only.after (k := enterU5_only ..)); case w => rfl)
    | ((with_reducible apply Only.after (k := enterStep6_only ..)); case w => rfl)
    | (split)

theorem enterStep5_only (s0 : State) :
    Only [.rules, .act, .bridle, .reg, .prot, .tether, .queues, .win, .outage, .integ] s0 (enterStep5 s0) := by
  unfold enterStep5
  try dsimp only
  repeat' first
    | (simp only [Only.mk_iff]; with_reducible refine Only.set_reg_outage ?_ _ _ rfl)
    | (with_reducible exact Only.refl _ _)
    | (with_reducible assumption)
    | ((with_reducible apply Only.after (k := endTries_only ..)); case w => rfl)
    | ((with_reducible apply Only.after (k := requestAll_only ..)); case w => rfl)
    | ((with_reducible apply Only.after (k := descentEnds_only ..)); case w => rfl)
    | (split)

theorem undoGoesOn_only (s : State) :
    Only [.rules, .act, .bridle, .reg, .prot, .tether, .queues, .win, .outage, .integ] s (undoGoesOn s) := by
  unfold undoGoesOn
  try dsimp only
  repeat' first
    | (with_reducible exact Only.refl _ _)
    | (with_reducible assumption)
    | ((with_reducible apply Only.after (k := enterU5_only ..)); case w => rfl)
    | ((with_reducible apply Only.after (k := enterStep6_only ..)); case w => rfl)
    | (split)

theorem enterU6_only (s : State) :
    Only [.rules, .act, .bridle, .reg, .prot, .tether, .queues, .win, .outage, .integ] s (enterU6 s) := by
  unfold enterU6
  try dsimp only
  repeat' first
    | (simp only [Only.mk_iff]; with_reducible refine Only.set_outage ?_ _ rfl)
    | (with_reducible exact Only.refl _ _)
    | (with_reducible assumption)
    | ((with_reducible apply Only.after (k := undoGoesOn_only ..)); case w => rfl)
    | ((with_reducible apply Only.after (k := requestAll_only ..)); case w => rfl)
    | (split)

theorem descentGoesOn_only (s : State) :
    Only [.rules, .act, .bridle, .reg, .prot, .tether, .queues, .win, .outage, .integ] s (descentGoesOn s) := by
  unfold descentGoesOn
  try dsimp only
  repeat' first
    | (with_reducible exact Only.refl _ _)
    | (with_reducible assumption)
    | ((with_reducible apply Only.after (k := descentEnds_only ..)); case w => rfl)
    | (split)

theorem outageGoesOn_only (s : State) :
    Only [.rules, .act, .bridle, .reg, .prot, .tether, .queues, .win, .outage, .integ] s (outageGoesOn s) := by
  unfold outageGoesOn
  try dsimp only
  repeat' first
    | (with_reducible exact Only.refl _ _)
    | (with_reducible assumption)
    | ((with_reducible apply Only.after (k := undoGoesOn_only ..)); case w => rfl)
    | ((with_reducible apply Only.after (k := descentGoesOn_only ..)); case w => rfl)
    | (split)

end Sys2Proof.Machine
end

