-- ==== Sys2Proof/Laws/ActionsFrame.lean ====
section
/-! SUPPORT. What each definition of Machine/Actions.lean may change: of the parts of the state, those listed and no other. -/

namespace Sys2Proof.Machine

theorem applyProfile_only (s : State) (k : Fin 8) (mask : BitVec 4) :
    Only [.act, .bridle, .win] s (applyProfile s k mask) := by
  unfold applyProfile
  try dsimp only
  repeat' first
    | (simp only [Only.mk_iff]; with_reducible refine Only.set_act ?_ _ rfl)
    | (with_reducible exact Only.refl _ _)
    | (with_reducible assumption)
    | ((with_reducible apply Only.after (k := pendPins_only ..)); case w => rfl)
    | ((with_reducible apply Only.after (k := pinsFor_only ..)); case w => rfl)
    | ((with_reducible apply Only.after (k := passProfile_only ..)); case w => rfl)
    | (split)

theorem applyRule_only (s : State) (num : Nat) (a : Assoc) (kind : StreamKind) (name : Option FrameName) :
    Only [.rules, .act, .bridle, .prot, .tether, .queues, .win, .integ] s (applyRule s num a kind name) := by
  unfold applyRule
  try dsimp only
  repeat' first
    | (with_reducible exact Only.refl _ _)
    | (with_reducible assumption)
    | ((with_reducible apply Only.after (k := recordCause_only ..)); case w => rfl)
    | ((with_reducible apply Only.after (k := applyProfile_only ..)); case w => rfl)
    | ((with_reducible apply Only.after (k := raisePins_only ..)); case w => rfl)
    | ((with_reducible apply Only.after (k := tallyAdd_only ..)); case w => rfl)
    | ((with_reducible apply Only.after (k := addEntry_only ..)); case w => rfl)
    | (split)

theorem applyEngineLost_only (s : State) :
    Only [.act, .bridle, .win] s (applyEngineLost s) := by
  unfold applyEngineLost
  try dsimp only
  repeat' first
    | (with_reducible exact Only.refl _ _)
    | (with_reducible assumption)
    | ((with_reducible apply Only.after (k := applyProfile_only ..)); case w => rfl)
    | ((with_reducible apply Only.after (k := recordCause_only ..)); case w => rfl)
    | (split)

theorem takeResult_only (s : State) :
    Only [.rules, .act, .bridle, .prot, .tether, .queues, .win, .integ] s (takeResult s) := by
  unfold takeResult
  try dsimp only
  repeat' first
    | (simp only [Only.mk_iff]; with_reducible refine Only.set_act ?_ _ rfl)
    | (with_reducible exact Only.refl _ _)
    | (with_reducible assumption)
    | ((with_reducible apply Only.after (k := takeLate_only ..)); case w => rfl)
    | ((with_reducible apply Only.after (k := applyRule_only ..)); case w => rfl)
    | ((with_reducible apply Only.after (k := raisePins_only ..)); case w => rfl)
    | ((with_reducible apply Only.after (k := recordCause_only ..)); case w => rfl)
    | ((with_reducible apply Only.after (k := applyEngineLost_only ..)); case w => rfl)
    | (split)

theorem execResultApply_only (s : State) (t : State) (h : execResultApply s = .next t) :
    Only [.rules, .act, .bridle, .prot, .tether, .queues, .win, .outage, .integ] s t := by
  unfold execResultApply at h
  try dsimp only at h
  cases h
  repeat' first
    | (with_reducible exact Only.refl _ _)
    | (with_reducible assumption)
    | ((with_reducible apply Only.after (k := settleEnd_only ..)); case w => rfl)
    | ((with_reducible apply Only.after (k := takeResult_only ..)); case w => rfl)
    | (split)

theorem execPendingPinRise_only (s : State) (t : State) (h : execPendingPinRise s = .next t) :
    Only [.act, .win] s t := by
  unfold execPendingPinRise at h
  try dsimp only at h
  cases h
  repeat' first
    | (with_reducible exact Only.refl _ _)
    | (with_reducible assumption)
    | ((with_reducible apply Only.after (k := releasePins_only ..)); case w => rfl)
    | (split)

theorem freeSnap_only (s : State) :
    Only [.free] s (freeSnap s).2 := by
  unfold freeSnap
  try dsimp only
  repeat' first
    | (simp only [Only.mk_iff]; with_reducible refine Only.set_free ?_ _ rfl)
    | (with_reducible exact Only.refl _ _)
    | (with_reducible assumption)
    | (split)

theorem railFails_only (s : State) (c : Chan) (snap : Snap) :
    Only [.free, .rules, .act, .bridle, .reg, .prot, .tether, .queues, .win, .integ] s (railFails s c snap) := by
  unfold railFails
  try dsimp only
  repeat' first
    | (with_reducible exact Only.refl _ _)
    | (with_reducible assumption)
    | ((with_reducible apply Only.after (k := capture_only ..)); case w => rfl)
    | ((with_reducible apply Only.after (k := railCause_only ..)); case w => rfl)
    | ((with_reducible apply Only.after (k := modChan_only ..)); case w => rfl)
    | ((with_reducible apply Only.after (k := modTry_only ..)); case w => rfl)
    | (split)

theorem attemptFails_only (s : State) (c : Chan) (snap : Snap) :
    Only [.free, .rules, .act, .bridle, .reg, .prot, .tether, .queues, .win, .integ] s (attemptFails s c snap) := by
  unfold attemptFails
  try dsimp only
  repeat' first
    | (with_reducible exact Only.refl _ _)
    | (with_reducible assumption)
    | ((with_reducible apply Only.after (k := modChan_only ..)); case w => rfl)
    | ((with_reducible apply Only.after (k := modTry_only ..)); case w => rfl)
    | ((with_reducible apply Only.after (k := railFails_only ..)); case w => rfl)
    | (split)

theorem execRailAttemptFail_only (c : Chan) (snap : Snap) (s : State) (t : State) (h : execRailAttemptFail c snap s = .next t) :
    Only [.free, .xfer, .front, .rules, .engs, .act, .bridle, .reg, .prot, .mons, .tether, .queues, .drop, .win, .integ] s t := by
  unfold execRailAttemptFail at h
  try dsimp only at h
  cases h
  repeat' first
    | (with_reducible exact Only.refl _ _)
    | (with_reducible assumption)
    | ((with_reducible apply Only.after (k := attemptFails_only ..)); case w => rfl)
    | ((with_reducible apply Only.after (k := domLeaves_only ..)); case w => rfl)
    | (split)

theorem execRailRetry_only (c : Chan) (s : State) (t : State) (h : execRailRetry c s = .next t) :
    Only [.free, .rules, .act, .bridle, .reg, .prot, .tether, .queues, .win, .integ] s t := by
  unfold execRailRetry at h
  try dsimp only at h
  cases h
  repeat' first
    | (with_reducible exact Only.refl _ _)
    | (with_reducible assumption)
    | ((with_reducible apply Only.after (k := modChan_only ..)); case w => rfl)
    | ((with_reducible apply Only.after (k := modTry_only ..)); case w => rfl)
    | ((with_reducible apply Only.after (k := request_only ..)); case w => rfl)
    | ((with_reducible apply Only.after (k := freeSnap_only ..)); case w => rfl)
    | ((with_reducible apply Only.after (k := attemptFails_only ..)); case w => rfl)
    | (split)

theorem execWack_only (qsel : BitVec 6) (s : State) (t : State) (h : execWack qsel s = .next t) :
    Only [.act] s t := by
  unfold execWack at h
  try dsimp only at h
  cases h
  repeat' first
    | (simp only [Only.mk_iff]; with_reducible refine Only.set_act ?_ _ rfl)
    | (with_reducible exact Only.refl _ _)
    | (with_reducible assumption)
    | ((with_reducible apply Only.after (k := modWake_only ..)); case w => rfl)
    | (split)

end Sys2Proof.Machine
end

