-- ==== Sys2Proof/Laws/Rise.lean ====
section
/-! SUPPORT. What brings a domain to on: how NoRise composes, and its lemmas for an update
of the state. -/

namespace Sys2Proof.Machine

/-- No domain is on in the second state that was not on in the first. -/
structure NoRise (s t : State) : Prop where
  /-- A domain that is on was on. -/
  fall : ∀ d : Nat, isOn t d = true → isOn s d = true

theorem NoRise.refl (s : State) : NoRise s s := ⟨fun _ h => h⟩

theorem NoRise.after {s t u : State} (h : NoRise s t) (k : NoRise t u) : NoRise s u :=
  ⟨fun d x => h.fall d (k.fall d x)⟩

theorem NoRise.of_doms {s t : State} (h : t.bridle.doms = s.bridle.doms) : NoRise s t :=
  ⟨fun d x => by simpa [isOn, domSt, dom, h] using x⟩

theorem NoRise.of_only {ps : List Part} {s t : State} (k : Only ps s t) (w : ps.contains .bridle = false) : NoRise s t :=
  NoRise.of_doms (congrArg Bridle.doms (k.same .bridle w))

theorem NoRise.after_only {ps : List Part} {s t u : State} (w : ps.contains .bridle = false) (h : NoRise s t)
    (k : Only ps t u) : NoRise s u := NoRise.after h (NoRise.of_only k w)

/-- A fold of changes. -/
theorem NoRise.foldl {α : Type} {s : State} {g : State → α → State} (hg : ∀ t x, NoRise s t → NoRise s (g t x))
    (l : List α) {t : State} (h : NoRise s t) : NoRise s (l.foldl g t) := by
  induction l generalizing t with
  | nil => exact h
  | cons x r ih => exact ih (hg t x h)

/-- A fold of changes of a state paired with more. -/
theorem NoRise.foldl_fst {α β : Type} {s : State} {g : State × β → α → State × β}
    (hg : ∀ t x, NoRise s t.1 → NoRise s (g t x).1) (l : List α) {t : State × β} (h : NoRise s t.1) :
    NoRise s (l.foldl g t).1 := by
  induction l generalizing t with
  | nil => exact h
  | cons x r ih => exact ih (hg t x h)

/-- Pairs known by their equation. -/
theorem NoRise.after_snd {α : Type} {s t u : State} {a : α} {p : α × State} (e : p = (a, u)) (h : NoRise s t)
    (k : NoRise t p.2) : NoRise s u := by
  subst e; exact NoRise.after h k

/-- `NoRise.after_snd`, by a frame. -/
theorem NoRise.after_only_snd {α : Type} {ps : List Part} {s t u : State} {a : α} {p : α × State}
    (w : ps.contains .bridle = false) (e : p = (a, u)) (h : NoRise s t) (k : Only ps t p.2) : NoRise s u := by
  subst e; exact NoRise.after_only w h k

/-- A pair, state first. -/
theorem NoRise.after_fst {α : Type} {s t u : State} {a : α} {p : State × α} (e : p = (u, a)) (h : NoRise s t)
    (k : NoRise t p.1) : NoRise s u := by
  subst e; exact NoRise.after h k

/-- `NoRise.after_fst`, by a frame. -/
theorem NoRise.after_only_fst {α : Type} {ps : List Part} {s t u : State} {a : α} {p : State × α}
    (w : ps.contains .bridle = false) (e : p = (u, a)) (h : NoRise s t) (k : Only ps t p.1) : NoRise s u := by
  subst e; exact NoRise.after_only w h k

/-- A triple, state third. -/
theorem NoRise.after_thd {α β : Type} {s t u : State} {a : α} {b : β} {p : α × β × State} (e : p = (a, b, u))
    (h : NoRise s t) (k : NoRise t p.2.2) : NoRise s u := by
  subst e; exact NoRise.after h k

/-- `NoRise.after_thd`, by a frame. -/
theorem NoRise.after_only_thd {α β : Type} {ps : List Part} {s t u : State} {a : α} {b : β} {p : α × β × State}
    (w : ps.contains .bridle = false) (e : p = (a, b, u)) (h : NoRise s t) (k : Only ps t p.2.2) : NoRise s u := by
  subst e; exact NoRise.after_only w h k

theorem vget_vmod {α : Type} {n : Nat} (v : Vector α n) (z : α) (f : α → α) (d e : Nat) :
    vget (vmod v d f) z e = if d = e ∧ e < n then f (vget v z e) else vget v z e := by
  unfold vget vmod
  by_cases hd : d < n <;> by_cases he : e < n <;> simp [hd, he, Vector.getElem_set]
  · by_cases hde : d = e
    · subst hde; simp
    · simp [hde]
  · intro hde; omega

/-- A domain of a state in which one was changed. -/
theorem dom_modDom (s : State) (d e : Nat) (f : Dom → Dom) :
    dom (modDom s d f) e = if d = e ∧ e < 20 then f (dom s e) else dom s e := vget_vmod ..

/-- A domain changed in no way that turns it on. -/
theorem NoRise.modDom {s t : State} {d : Nat} {f : Dom → Dom} (hf : ∀ m : Dom, (f m).st = .on → m.st = .on) (h : NoRise s t) : NoRise s (modDom t d f) := by
  refine NoRise.after h ⟨fun e he => ?_⟩
  simp only [isOn, domSt, beq_iff_eq, dom_modDom] at he ⊢
  split at he
  · exact hf _ he
  · exact he

/-- NoRise, of a state that is written out field by field. -/
def NoRiseMk (s t : State) : Prop := NoRise s t

theorem NoRise.mk_iff {s : State} {x0} {x1} {x2} {x3} {x4} {x5} {x6} {x7} {x8} {x9} {x10} {x11} {x12} {x13} {x14} {x15} {x16} {x17} {x18} {x19} {x20} {x21} {x22} {x23} {x24} {x25} {x26} {x27} {x28} {x29} :
    NoRise s (State.mk x0 x1 x2 x3 x4 x5 x6 x7 x8 x9 x10 x11 x12 x13 x14 x15 x16 x17 x18 x19 x20 x21 x22 x23 x24 x25 x26 x27 x28 x29) ↔ NoRiseMk s (State.mk x0 x1 x2 x3 x4 x5 x6 x7 x8 x9 x10 x11 x12 x13 x14 x15 x16 x17 x18 x19 x20 x21 x22 x23 x24 x25 x26 x27 x28 x29) := Iff.rfl

/-- An update that leaves Bridle as it is. -/
theorem NoRise.mk_same {s t : State} {x0} {x1} {x2} {x3} {x4} {x5} {x6} {x7} {x8} {x9} {x10} {x11} {x12} {x13} {x14} {x15} {x16} {x17} {x19} {x20} {x21} {x22} {x23} {x24} {x25} {x26} {x27} {x28} {x29} (h : NoRise s t) :
    NoRiseMk s (State.mk x0 x1 x2 x3 x4 x5 x6 x7 x8 x9 x10 x11 x12 x13 x14 x15 x16 x17 t.bridle x19 x20 x21 x22 x23 x24 x25 x26 x27 x28 x29) := NoRise.after h (NoRise.of_doms rfl)

/-- An update of Bridle that leaves the domains as they are. -/
theorem NoRise.mk_bridle {s t : State} {x0} {x1} {x2} {x3} {x4} {x5} {x6} {x7} {x8} {x9} {x10} {x11} {x12} {x13} {x14} {x15} {x16} {x17} {x19} {x20} {x21} {x22} {x23} {x24} {x25} {x26} {x27} {x28} {x29} {w0} {w1} {w2} {w3} {w4} {w5} {w6} {w7} (h : NoRise s t) :
    NoRiseMk s (State.mk x0 x1 x2 x3 x4 x5 x6 x7 x8 x9 x10 x11 x12 x13 x14 x15 x16 x17 (Bridle.mk t.bridle.doms w0 w1 w2 w3 w4 w5 w6 w7) x19 x20 x21 x22 x23 x24 x25 x26 x27 x28 x29) := NoRise.after h (NoRise.of_doms rfl)

end Sys2Proof.Machine
end

