-- ==== Sys2Proof/Laws/RequestsRise.lean ====
section
/-! SUPPORT. The definitions of Machine/Requests.lean that reach Bridle turn no domain on. -/

namespace Sys2Proof.Machine

theorem w0bEntry_noRise (s : State) (sel : BitVec 5) (o : Origin) (r : ReqResult) (reason : BitVec 4) (alert : Bool) :
    NoRise s (w0bEntry s sel o r reason alert) := by
  unfold w0bEntry
  try dsimp only
  repeat' first
    | (simp only [NoRise.mk_iff]; with_reducible refine NoRise.mk_bridle ?_)
    | (with_reducible exact NoRise.refl _)
    | (with_reducible assumption)
    | ((with_reducible apply NoRise.after_only (k := addAlert_only ..)); case w => rfl)
    | (split)

theorem jobComplete_noRise (s : State) (j : Job) :
    NoRise s (jobComplete s j) := by
  unfold jobComplete
  try dsimp only
  repeat' first
    | (simp only [NoRise.mk_iff]; with_reducible refine NoRise.mk_same ?_)
    | (with_reducible exact NoRise.refl _)
    | (with_reducible assumption)
    | ((with_reducible apply NoRise.after_only (k := recordW2E_only ..)); case w => rfl)
    | (with_reducible apply NoRise.after (k := w0bEntry_noRise ..))
    | ((with_reducible apply NoRise.after_only (k := releasePins_only ..)); case w => rfl)
    | ((with_reducible apply NoRise.after_only (k := record83_only ..)); case w => rfl)
    | (split)

theorem jobTarget_noRise (s : State) (id : Nat) (r : ReqResult) (reason : BitVec 4) :
    NoRise s (jobTarget s id r reason) := by
  unfold jobTarget
  try dsimp only
  repeat' first
    | (simp only [NoRise.mk_iff]; with_reducible refine NoRise.mk_bridle ?_)
    | (with_reducible exact NoRise.refl _)
    | (with_reducible assumption)
    | (with_reducible apply NoRise.after (k := jobComplete_noRise ..))
    | (split)

theorem resolve_noRise (s : State) (d : Nat) (q : Req) (r : ReqResult) (reason : BitVec 4) :
    NoRise s (resolve s d q r reason) := by
  unfold resolve
  try dsimp only
  repeat' first
    | (with_reducible exact NoRise.refl _)
    | (with_reducible assumption)
    | ((with_reducible apply NoRise.after_only (k := recordW2E_only ..)); case w => rfl)
    | (with_reducible apply NoRise.after (k := w0bEntry_noRise ..))
    | ((with_reducible apply NoRise.modDom); case hf => (intro m h; simp_all))
    | (with_reducible apply NoRise.after (k := jobTarget_noRise ..))
    | (split)

theorem loseBanks_noRise (s : State) (d : Nat) (keep : BitVec 16) :
    NoRise s (loseBanks s d keep) := by
  unfold loseBanks
  try dsimp only
  repeat' first
    | (with_reducible exact NoRise.refl _)
    | (with_reducible assumption)
    | ((with_reducible apply NoRise.modDom); case hf => (intro m h; simp_all))
    | ((with_reducible apply NoRise.after_only (k := recordLoss_only ..)); case w => rfl)
    | ((with_reducible apply NoRise.foldl); intro _ _ _)
    | ((with_reducible apply NoRise.foldl_fst); intro _ _ _)
    | (split)

theorem endCur_noRise (s : State) (d : Nat) :
    NoRise s (endCur s d) := by
  unfold endCur
  try dsimp only
  repeat' first
    | (with_reducible exact NoRise.refl _)
    | (with_reducible assumption)
    | ((with_reducible apply NoRise.modDom); case hf => (intro m h; simp_all))
    | (split)

theorem enqueue_noRise (s : State) (d : Nat) (q : Req) :
    NoRise s (enqueue s d q) := by
  unfold enqueue
  try dsimp only
  repeat' first
    | (with_reducible exact NoRise.refl _)
    | (with_reducible assumption)
    | ((with_reducible apply NoRise.modDom); case hf => (intro m h; simp_all [dropIdle]))
    | (split)

theorem advance_noRise (s : State) (d fuel : Nat) :
    NoRise s (advance s d fuel) := by
  induction fuel generalizing s d with
  | zero => exact NoRise.refl _
  | succ fuel ih =>
  unfold advance
  try dsimp only
  repeat' first
    | (with_reducible apply NoRise.after (k := ih ..))
    | (with_reducible exact NoRise.refl _)
    | (with_reducible assumption)
    | ((with_reducible apply NoRise.modDom); case hf => (intro m h; simp_all))
    | (with_reducible apply NoRise.after (k := resolve_noRise ..))
    | ((with_reducible apply NoRise.after_only (k := forgetRules_only ..)); case w => rfl)
    | (with_reducible apply NoRise.after (k := loseBanks_noRise ..))
    | (split)

theorem takeOrder_noRise (s : State) (d : Nat) :
    NoRise s (takeOrder s d) := by
  unfold takeOrder
  try dsimp only
  repeat' first
    | (with_reducible exact NoRise.refl _)
    | (with_reducible assumption)
    | (with_reducible apply NoRise.after (k := advance_noRise ..))
    | (split)

theorem askRequired_noRise (s : State) (d : Nat) :
    NoRise s (askRequired s d) := by
  unfold askRequired
  try dsimp only
  repeat' first
    | (with_reducible exact NoRise.refl _)
    | (with_reducible assumption)
    | (with_reducible apply NoRise.after (k := takeOrder_noRise ..))
    | (with_reducible apply NoRise.after (k := enqueue_noRise ..))
    | ((with_reducible apply NoRise.foldl); intro _ _ _)
    | ((with_reducible apply NoRise.foldl_fst); intro _ _ _)
    | (split)

theorem settle_noRise (s : State) (d : Nat) :
    NoRise s (settle s d) := by
  unfold settle
  try dsimp only
  repeat' first
    | (with_reducible exact NoRise.refl _)
    | (with_reducible assumption)
    | (with_reducible apply NoRise.after (k := askRequired_noRise ..))
    | (with_reducible apply NoRise.after (k := takeOrder_noRise ..))
    | (split)

theorem request_noRise (s : State) (d : Nat) (q : Req) :
    NoRise s (request s d q) := by
  unfold request
  try dsimp only
  repeat' first
    | (with_reducible exact NoRise.refl _)
    | (with_reducible assumption)
    | (with_reducible apply NoRise.after (k := settle_noRise ..))
    | (with_reducible apply NoRise.after (k := enqueue_noRise ..))
    | (split)

theorem demand_noRise (s : State) (d : Nat) :
    NoRise s (demand s d) := by
  unfold demand
  try dsimp only
  repeat' first
    | (with_reducible exact NoRise.refl _)
    | (with_reducible assumption)
    | (with_reducible apply NoRise.after (k := request_noRise ..))
    | (split)

theorem idleReturn_noRise (s : State) (d : Nat) :
    NoRise s (idleReturn s d) := by
  unfold idleReturn
  try dsimp only
  repeat' first
    | (with_reducible exact NoRise.refl _)
    | (with_reducible assumption)
    | (with_reducible apply NoRise.after (k := demand_noRise ..))
    | (split)

end Sys2Proof.Machine
end

