-- ==== Sys2Proof/Laws/QueuesRise.lean ====
section
/-! SUPPORT. The definitions of Machine/Queues.lean that reach Bridle turn no domain on. -/

namespace Sys2Proof.Machine

theorem askAccess_noRise (s : State) (f : QFrame) :
    NoRise s (askAccess s f) := by
  unfold askAccess
  try dsimp only
  repeat' first
    | (with_reducible exact NoRise.refl _)
    | (with_reducible assumption)
    | (with_reducible apply NoRise.after (k := idleReturn_noRise ..))
    | ((with_reducible apply NoRise.foldl); intro _ _ _)
    | ((with_reducible apply NoRise.foldl_fst); intro _ _ _)
    | (split)

theorem askMemory_noRise (s : State) :
    NoRise s (askMemory s) := by
  unfold askMemory
  try dsimp only
  repeat' first
    | (with_reducible exact NoRise.refl _)
    | (with_reducible assumption)
    | (with_reducible apply NoRise.after (k := demand_noRise ..))
    | (split)

theorem closeNotice_noRise (s : State) :
    NoRise s (closeNotice s) := by
  unfold closeNotice
  try dsimp only
  repeat' first
    | (simp only [NoRise.mk_iff]; with_reducible refine NoRise.mk_same ?_)
    | (with_reducible exact NoRise.refl _)
    | (with_reducible assumption)
    | (with_reducible apply NoRise.after (k := idleReturn_noRise ..))
    | ((with_reducible apply NoRise.after_only (k := pushQueue_only ..)); case w => rfl)
    | ((with_reducible apply NoRise.after_only (k := allocCells_only ..)); case w => rfl)
    | ((with_reducible apply NoRise.foldl); intro _ _ _)
    | ((with_reducible apply NoRise.foldl_fst); intro _ _ _)
    | (split)

theorem makeRoom_noRise (s : State) (es : List (List Byte)) :
    NoRise s (makeRoom s es) := by
  unfold makeRoom
  try dsimp only
  repeat' first
    | (with_reducible exact NoRise.refl _)
    | (with_reducible assumption)
    | (with_reducible apply NoRise.after (k := closeNotice_noRise ..))
    | (split)

theorem addEntry_noRise (s : State) (e : List Byte) :
    NoRise s (addEntry s e) := by
  unfold addEntry
  try dsimp only
  repeat' first
    | (simp only [NoRise.mk_iff]; with_reducible refine NoRise.mk_same ?_)
    | (with_reducible exact NoRise.refl _)
    | (with_reducible assumption)
    | ((with_reducible apply NoRise.after_only (k := entryW2E_only ..)); case w => rfl)
    | (with_reducible apply NoRise.after (k := makeRoom_noRise ..))
    | (with_reducible apply NoRise.after (k := closeNotice_noRise ..))
    | (with_reducible apply NoRise.after (k := askMemory_noRise ..))
    | (split)

theorem addEntries_noRise (s : State) (es : List (List Byte)) :
    NoRise s (addEntries s es) := by
  unfold addEntries
  try dsimp only
  repeat' first
    | (with_reducible exact NoRise.refl _)
    | (with_reducible assumption)
    | (with_reducible apply NoRise.after (k := addEntry_noRise ..))
    | (with_reducible apply NoRise.after (k := makeRoom_noRise ..))
    | ((with_reducible apply NoRise.foldl); intro _ _ _)
    | ((with_reducible apply NoRise.foldl_fst); intro _ _ _)
    | (split)

theorem deferEntry_noRise (s : State) (e : List Byte) :
    NoRise s (deferEntry s e) := by
  unfold deferEntry
  try dsimp only
  repeat' first
    | (simp only [NoRise.mk_iff]; with_reducible refine NoRise.mk_same ?_)
    | (with_reducible exact NoRise.refl _)
    | (with_reducible assumption)
    | ((with_reducible apply NoRise.after_only (k := entryW2E_only ..)); case w => rfl)
    | (with_reducible apply NoRise.after (k := addEntry_noRise ..))
    | (split)

theorem reportFrame_noRise (s : State) (b : List Byte) (tag : Half) (reason : Byte) :
    NoRise s (reportFrame s b tag reason) := by
  unfold reportFrame
  try dsimp only
  repeat' first
    | (with_reducible exact NoRise.refl _)
    | (with_reducible assumption)
    | (with_reducible apply NoRise.after (k := addEntry_noRise ..))
    | (split)

theorem admitCopies_noRise (s : State) (a : Accepted) (cs : List CopyTo) (tag : Half) :
    NoRise s (admitCopies s a cs tag) := by
  unfold admitCopies
  try dsimp only
  repeat' first
    | (with_reducible exact NoRise.refl _)
    | (with_reducible assumption)
    | ((with_reducible apply NoRise.after_only (k := placeCopy_only ..)); case w => rfl)
    | ((with_reducible apply NoRise.after_only (k := allocCells_only ..)); case w => rfl)
    | (with_reducible apply NoRise.after (k := reportFrame_noRise ..))
    | ((with_reducible apply NoRise.after_only (k := freeCells_only ..)); case w => rfl)
    | ((with_reducible apply NoRise.after_only (k := creditFreed_only ..)); case w => rfl)
    | ((with_reducible apply NoRise.after_only (k := markRelease_only ..)); case w => rfl)
    | ((with_reducible apply NoRise.foldl); intro _ _ _)
    | ((with_reducible apply NoRise.foldl_fst); intro _ _ _)
    | (split)

theorem failFrame_noRise (s : State) (tag : Nat) (f : QFrame) (reason : Byte) :
    NoRise s (failFrame s tag f reason) := by
  unfold failFrame
  try dsimp only
  repeat' first
    | (with_reducible exact NoRise.refl _)
    | (with_reducible assumption)
    | ((with_reducible apply NoRise.after_only (k := releaseCopy_only ..)); case w => rfl)
    | (with_reducible apply NoRise.after (k := reportFrame_noRise ..))
    | (split)

end Sys2Proof.Machine
end

