-- ==== Sys2Proof/Laws/FrameRowsRise.lean ====
section
/-! SUPPORT. The definitions of Machine/FrameRows.lean that reach Bridle turn no domain on. -/

namespace Sys2Proof.Machine

theorem distribute_noRise (s : State) (p : Port) (a : Accepted) (d : Decision) (late spoilt : Bool) :
    NoRise s (distribute s p a d late spoilt) := by
  unfold distribute
  try dsimp only
  repeat' first
    | (with_reducible exact NoRise.refl _)
    | (with_reducible assumption)
    | ((with_reducible apply NoRise.after_only (k := endEab_only ..)); case w => rfl)
    | ((with_reducible apply NoRise.after_only (k := recordW2D_only ..)); case w => rfl)
    | ((with_reducible apply NoRise.after_only (k := abortCut_only ..)); case w => rfl)
    | (with_reducible apply NoRise.after (k := reportFrame_noRise ..))
    | (with_reducible apply NoRise.after (k := askMemory_noRise ..))
    | ((with_reducible apply NoRise.after_only (k := consume_only ..)); case w => rfl)
    | (with_reducible apply NoRise.after (k := admitCopies_noRise ..))
    | (split)

theorem receive_noRise (s : State) (p : Port) (rx : RxFrame) (typs : List Nat) (act : State → List Byte → State)
    (hact : ∀ t b, NoRise t (act t b)) : NoRise s (receive s p rx typs act) := by
  unfold receive
  dsimp only
  split
  · exact NoRise.after (NoRise.of_only (countCode_only s p rx) rfl) (NoRise.of_only (repeatFrame_only (countCode s p rx) p rx) rfl)
  · split
    · exact NoRise.refl _
    · split
      · exact NoRise.refl _
      · have h1 : NoRise s (frameDecision (countCode s p rx) p).2.2 :=
          NoRise.after (NoRise.of_only (countCode_only s p rx) rfl) (NoRise.of_only (frameDecision_only (countCode s p rx) p) rfl)
        have h2 := NoRise.after h1 (NoRise.of_only (hopReceive_only (frameDecision (countCode s p rx) p).2.2 p rx) rfl)
        split
        · exact h2
        · split
          · exact NoRise.after h2 (NoRise.of_only (by apply consume_only) rfl)
          · exact NoRise.after (NoRise.after h2 (hact _ _)) (by apply distribute_noRise)

theorem managementRefused_noRise (s : State) (b : List Byte) :
    NoRise s (managementRefused s b) := by
  unfold managementRefused
  try dsimp only
  repeat' first
    | (with_reducible exact NoRise.refl _)
    | (with_reducible assumption)
    | (with_reducible apply NoRise.after (k := reportFrame_noRise ..))
    | (split)

theorem execData_noRise (p : Port) (rx : RxFrame) (lost : Option Half) (s : State) (t : State) (h : execData p rx lost s = .next t) :
    NoRise s t := by
  unfold execData at h
  try dsimp only at h
  cases h
  repeat' first
    | (with_reducible exact NoRise.refl _)
    | (with_reducible assumption)
    | ((with_reducible apply NoRise.after_only (k := loseQueue_only ..)); case w => rfl)
    | (with_reducible apply NoRise.after (k := managementRefused_noRise ..))
    | (refine NoRise.after ?_ (receive_noRise _ _ _ _ _ fun _ _ => (by apply managementRefused_noRise)))
    | (split)

theorem execNotice_noRise (p : Port) (rx : RxFrame) (s : State) (t : State) (h : execNotice p rx s = .next t) :
    NoRise s t := by
  unfold execNotice at h
  try dsimp only at h
  cases h
  repeat' first
    | (with_reducible exact NoRise.refl _)
    | (with_reducible assumption)
    | (refine NoRise.after ?_ (receive_noRise _ _ _ _ _ fun _ _ => NoRise.refl _))
    | (split)

theorem execEchoRequest_noRise (p : Port) (rx : RxFrame) (s : State) (t : State) (h : execEchoRequest p rx s = .next t) :
    NoRise s t := by
  unfold execEchoRequest at h
  try dsimp only at h
  cases h
  repeat' first
    | (with_reducible exact NoRise.refl _)
    | (with_reducible assumption)
    | ((with_reducible apply NoRise.after_only (k := echoAct_only ..)); case w => rfl)
    | (refine NoRise.after ?_ (receive_noRise _ _ _ _ _ fun _ _ => NoRise.of_only (by apply echoAct_only) rfl))
    | (split)

theorem execEchoReply_noRise (p : Port) (rx : RxFrame) (s : State) (t : State) (h : execEchoReply p rx s = .next t) :
    NoRise s t := by
  unfold execEchoReply at h
  try dsimp only at h
  cases h
  repeat' first
    | (with_reducible exact NoRise.refl _)
    | (with_reducible assumption)
    | (refine NoRise.after ?_ (receive_noRise _ _ _ _ _ fun _ _ => NoRise.refl _))
    | (split)

theorem execRingProbe_noRise (p : Port) (rx : RxFrame) (s : State) (t : State) (h : execRingProbe p rx s = .next t) :
    NoRise s t := by
  unfold execRingProbe at h
  try dsimp only at h
  cases h
  repeat' first
    | (with_reducible exact NoRise.refl _)
    | (with_reducible assumption)
    | ((with_reducible apply NoRise.after_only (k := probeAct_only ..)); case w => rfl)
    | (refine NoRise.after ?_ (receive_noRise _ _ _ _ _ fun _ _ => NoRise.of_only (by apply probeAct_only) rfl))
    | (split)

theorem execRingBreak_noRise (p : Port) (rx : RxFrame) (s : State) (t : State) (h : execRingBreak p rx s = .next t) :
    NoRise s t := by
  unfold execRingBreak at h
  try dsimp only at h
  cases h
  repeat' first
    | (with_reducible exact NoRise.refl _)
    | (with_reducible assumption)
    | ((with_reducible apply NoRise.after_only (k := breakAct_only ..)); case w => rfl)
    | (refine NoRise.after ?_ (receive_noRise _ _ _ _ _ fun _ _ => NoRise.of_only (by apply breakAct_only) rfl))
    | (split)

theorem execMalformedFrame_noRise (p : Port) (rx : RxFrame) (s : State) (t : State) (h : execMalformedFrame p rx s = .next t) :
    NoRise s t := by
  unfold execMalformedFrame at h
  try dsimp only at h
  cases h
  repeat' first
    | (with_reducible exact NoRise.refl _)
    | (with_reducible assumption)
    | ((with_reducible apply NoRise.after_only (k := repeatFrame_only ..)); case w => rfl)
    | ((with_reducible apply NoRise.after_only (k := countCode_only ..)); case w => rfl)
    | ((with_reducible apply NoRise.after_only (k := addErr_only ..)); case w => rfl)
    | ((with_reducible apply NoRise.after_only (k := hopReceive_only ..)); case w => rfl)
    | (with_reducible apply NoRise.after (k := reportFrame_noRise ..))
    | ((with_reducible apply NoRise.after_only (k := consume_only ..)); case w => rfl)
    | (split)

end Sys2Proof.Machine
end

