-- ==== Sys2Proof/Laws/DeliveryRise.lean ====
section
/-! SUPPORT. The definitions of Machine/Delivery.lean that reach Bridle turn no domain on. -/

namespace Sys2Proof.Machine

theorem partEntry_noRise (s : State) (reason : Byte) (b : List Byte) (sub : Nat) :
    NoRise s (partEntry s reason b sub) := by
  unfold partEntry
  try dsimp only
  repeat' first
    | (with_reducible exact NoRise.refl _)
    | (with_reducible assumption)
    | (with_reducible apply NoRise.after (k := addEntry_noRise ..))
    | (split)

theorem firstPart_noRise (s : State) (b : List Byte) :
    NoRise s (firstPart s b) := by
  unfold firstPart
  try dsimp only
  repeat' first
    | (simp only [NoRise.mk_iff]; with_reducible refine NoRise.mk_same ?_)
    | (with_reducible exact NoRise.refl _)
    | (with_reducible assumption)
    | (with_reducible apply NoRise.after (k := partEntry_noRise ..))
    | (split)

theorem takePart_noRise (s : State) (b : List Byte) :
    NoRise s (takePart s b) := by
  unfold takePart
  try dsimp only
  repeat' first
    | (simp only [NoRise.mk_iff]; with_reducible refine NoRise.mk_same ?_)
    | (with_reducible exact NoRise.refl _)
    | (with_reducible assumption)
    | (with_reducible apply NoRise.after (k := partEntry_noRise ..))
    | (with_reducible apply NoRise.after (k := firstPart_noRise ..))
    | (split)

theorem reelAct_noRise (s : State) (b : List Byte) :
    NoRise s (reelAct s b) := by
  unfold reelAct
  try dsimp only
  repeat' first
    | (with_reducible exact NoRise.refl _)
    | (with_reducible assumption)
    | (with_reducible apply NoRise.after (k := takePart_noRise ..))
    | (with_reducible apply NoRise.after (k := managementRefused_noRise ..))
    | (split)

theorem receivePart_noRise (s : State) (p : Port) (rx : RxFrame) :
    NoRise s (receivePart s p rx) := by
  unfold receivePart
  try dsimp only
  repeat' first
    | (with_reducible exact NoRise.refl _)
    | (with_reducible assumption)
    | ((with_reducible apply NoRise.after_only (k := repeatFrame_only ..)); case w => rfl)
    | ((with_reducible apply NoRise.after_only (k := countCode_only ..)); case w => rfl)
    | (with_reducible apply NoRise.after (k := takePart_noRise ..))
    | (with_reducible apply NoRise.after (k := reelAct_noRise ..))
    | (refine NoRise.after ?_ (receive_noRise _ _ _ _ _ fun _ _ => (by apply reelAct_noRise)))
    | (split)

theorem execReelPart_noRise (p : Port) (rx : RxFrame) (s : State) (t : State) (h : execReelPart p rx s = .next t) :
    NoRise s t := by
  unfold execReelPart at h
  try dsimp only at h
  cases h
  repeat' first
    | (with_reducible exact NoRise.refl _)
    | (with_reducible assumption)
    | ((with_reducible apply NoRise.after_only (k := arrivesOn_only ..)); case w => rfl)
    | (with_reducible apply NoRise.after (k := receivePart_noRise ..))
    | (split)

theorem execReelPartLast_noRise (p : Port) (rx : RxFrame) (s : State) (t : State) (h : execReelPartLast p rx s = .next t) :
    NoRise s t := by
  unfold execReelPartLast at h
  try dsimp only at h
  cases h
  repeat' first
    | (with_reducible exact NoRise.refl _)
    | (with_reducible assumption)
    | ((with_reducible apply NoRise.after_only (k := arrivesOn_only ..)); case w => rfl)
    | (with_reducible apply NoRise.after (k := receivePart_noRise ..))
    | (split)

theorem abandonXfer_noRise (s : State) (sub : Nat) (waits : Bool) :
    NoRise s (abandonXfer s sub waits) := by
  unfold abandonXfer
  try dsimp only
  repeat' first
    | (simp only [NoRise.mk_iff]; with_reducible refine NoRise.mk_same ?_)
    | (with_reducible exact NoRise.refl _)
    | (with_reducible assumption)
    | (with_reducible apply NoRise.after (k := deferEntry_noRise ..))
    | (with_reducible apply NoRise.after (k := addEntry_noRise ..))
    | (split)

theorem execFlashPartProgrammed_noRise (ok : Bool) (s : State) (t : State) (h : execFlashPartProgrammed ok s = .next t) :
    NoRise s t := by
  unfold execFlashPartProgrammed at h
  try dsimp only at h
  cases h
  repeat' first
    | (simp only [NoRise.mk_iff]; with_reducible refine NoRise.mk_same ?_)
    | (with_reducible exact NoRise.refl _)
    | (with_reducible assumption)
    | (with_reducible apply NoRise.after (k := abandonXfer_noRise ..))
    | (with_reducible apply NoRise.after (k := addEntry_noRise ..))
    | (split)

theorem execTransferTimeout_noRise (s : State) (t : State) (h : execTransferTimeout s = .next t) :
    NoRise s t := by
  unfold execTransferTimeout at h
  try dsimp only at h
  cases h
  repeat' first
    | (with_reducible exact NoRise.refl _)
    | (with_reducible assumption)
    | (with_reducible apply NoRise.after (k := abandonXfer_noRise ..))
    | (split)

end Sys2Proof.Machine
end

