-- ==== Sys2Proof/Laws/EngOpsRise.lean ====
section
/-! SUPPORT. The definitions of Machine/EngOps.lean that reach Bridle turn no domain on. -/

namespace Sys2Proof.Machine

theorem markLost_noRise (s : State) (line place sub : Nat) :
    NoRise s (markLost s line place sub) := by
  unfold markLost
  try dsimp only
  repeat' first
    | (simp only [NoRise.mk_iff]; with_reducible refine NoRise.mk_same ?_)
    | (with_reducible exact NoRise.refl _)
    | (with_reducible assumption)
    | (with_reducible apply NoRise.after (k := addEntry_noRise ..))
    | ((with_reducible apply NoRise.after_only (k := addAlert_only ..)); case w => rfl)
    | (split)

theorem repairPlace_noRise (s : State) (p : Nat) :
    NoRise s (repairPlace s p) := by
  unfold repairPlace
  try dsimp only
  repeat' first
    | (simp only [NoRise.mk_iff]; with_reducible refine NoRise.mk_same ?_)
    | (with_reducible exact NoRise.refl _)
    | (with_reducible assumption)
    | (with_reducible apply NoRise.after (k := markLost_noRise ..))
    | (with_reducible apply NoRise.after (k := demand_noRise ..))
    | (split)

theorem fillFails_noRise (s : State) (e line epoch : Nat) :
    NoRise s (fillFails s e line epoch) := by
  unfold fillFails
  try dsimp only
  repeat' first
    | (with_reducible exact NoRise.refl _)
    | (with_reducible assumption)
    | ((with_reducible apply NoRise.after_only (k := countParity_only ..)); case w => rfl)
    | ((with_reducible apply NoRise.after_only (k := stopStream_only ..)); case w => rfl)
    | ((with_reducible apply NoRise.after_only (k := addAlert_only ..)); case w => rfl)
    | ((with_reducible apply NoRise.after_only (k := modEng_only ..)); case w => rfl)
    | (with_reducible apply NoRise.after (k := repairPlace_noRise ..))
    | (split)

theorem refuseSet_noRise (s : State) (setno : Half) (sub : Nat) :
    NoRise s (refuseSet s setno sub) := by
  unfold refuseSet
  try dsimp only
  repeat' first
    | (simp only [NoRise.mk_iff]; with_reducible refine NoRise.mk_same ?_)
    | (with_reducible exact NoRise.refl _)
    | (with_reducible assumption)
    | (with_reducible apply NoRise.after (k := addEntry_noRise ..))
    | (split)

theorem ruleMemoryLeaves_noRise (s : State) :
    NoRise s (ruleMemoryLeaves s) := by
  unfold ruleMemoryLeaves
  try dsimp only
  repeat' first
    | (simp only [NoRise.mk_iff]; with_reducible refine NoRise.mk_same ?_)
    | (with_reducible exact NoRise.refl _)
    | (with_reducible assumption)
    | ((with_reducible apply NoRise.after_only (k := engineLeaves_only ..)); case w => rfl)
    | (with_reducible apply NoRise.after (k := refuseSet_noRise ..))
    | (with_reducible apply NoRise.after (k := addEntry_noRise ..))
    | ((with_reducible apply NoRise.foldl); intro _ _ _)
    | ((with_reducible apply NoRise.foldl_fst); intro _ _ _)
    | (split)

theorem leftWithout_noRise (s : State) (k : StreamKind) (l : List Stream) :
    NoRise s (leftWithout s k l) := by
  unfold leftWithout
  try dsimp only
  repeat' first
    | (with_reducible exact NoRise.refl _)
    | (with_reducible assumption)
    | (with_reducible apply NoRise.after (k := addEntry_noRise ..))
    | ((with_reducible apply NoRise.after_only (k := addAlert_only ..)); case w => rfl)
    | ((with_reducible apply NoRise.after_only (k := recordW2D_only ..)); case w => rfl)
    | (split)

theorem loseEngine_noRise (s : State) (e : Fin 4) :
    NoRise s (loseEngine s e) := by
  unfold loseEngine
  try dsimp only
  repeat' first
    | (simp only [NoRise.mk_iff]; with_reducible refine NoRise.mk_same ?_)
    | (with_reducible exact NoRise.refl _)
    | (with_reducible assumption)
    | ((with_reducible apply NoRise.after_only (k := modEng_only ..)); case w => rfl)
    | ((with_reducible apply NoRise.after_only (k := dropHolder_only ..)); case w => rfl)
    | ((with_reducible apply NoRise.after_only (k := moveStream_only ..)); case w => rfl)
    | (with_reducible apply NoRise.after (k := leftWithout_noRise ..))
    | ((with_reducible apply NoRise.after_only (k := pushResult_only ..)); case w => rfl)
    | ((with_reducible apply NoRise.after_only (k := endEpoch_only ..)); case w => rfl)
    | ((with_reducible apply NoRise.foldl); intro _ _ _)
    | ((with_reducible apply NoRise.foldl_fst); intro _ _ _)
    | (split)

end Sys2Proof.Machine
end

