-- ==== Sys2Proof/Laws/LinkOpsRise.lean ====
section
/-! SUPPORT. The definitions of Machine/LinkOps.lean that reach Bridle turn no domain on. -/

namespace Sys2Proof.Machine

theorem portDownAs_noRise (s : State) (p : Port) (c : DownCause) (orderly : Bool) :
    NoRise s (portDownAs s p c orderly) := by
  unfold portDownAs
  extract_lets o s1 s1_1 src s2 pay s3 s4 s5 s6
  have h_s1 : NoRise s s1 := by
    dsimp only [s1]
    repeat' first
    | (simp only [NoRise.mk_iff]; with_reducible refine NoRise.mk_same ?_)
    | (with_reducible exact NoRise.refl _)
    | (with_reducible assumption)
    | ((with_reducible apply NoRise.after_only (k := resetLink_only ..)); case w => rfl)
    | ((with_reducible apply NoRise.after_only (k := addErr_only ..)); case w => rfl)
    | ((with_reducible apply NoRise.after_only (k := dropRings_only ..)); case w => rfl)
    | ((with_reducible apply NoRise.after_only (k := originate_only ..)); case w => rfl)
    | ((with_reducible apply NoRise.after_only (k := addAlert_only ..)); case w => rfl)
    | (with_reducible apply NoRise.after (k := addEntry_noRise ..))
    | (split)
  clear_value s1
  have h_s1_1 : NoRise s s1_1 := by
    dsimp only [s1_1]
    repeat' first
    | (simp only [NoRise.mk_iff]; with_reducible refine NoRise.mk_same ?_)
    | (with_reducible exact NoRise.refl _)
    | (with_reducible assumption)
    | ((with_reducible apply NoRise.after_only (k := resetLink_only ..)); case w => rfl)
    | ((with_reducible apply NoRise.after_only (k := addErr_only ..)); case w => rfl)
    | ((with_reducible apply NoRise.after_only (k := dropRings_only ..)); case w => rfl)
    | ((with_reducible apply NoRise.after_only (k := originate_only ..)); case w => rfl)
    | ((with_reducible apply NoRise.after_only (k := addAlert_only ..)); case w => rfl)
    | (with_reducible apply NoRise.after (k := addEntry_noRise ..))
    | (split)
  clear_value s1_1
  have h_s2 : NoRise s s2 := by
    dsimp only [s2]
    repeat' first
    | (simp only [NoRise.mk_iff]; with_reducible refine NoRise.mk_same ?_)
    | (with_reducible exact NoRise.refl _)
    | (with_reducible assumption)
    | ((with_reducible apply NoRise.after_only (k := resetLink_only ..)); case w => rfl)
    | ((with_reducible apply NoRise.after_only (k := addErr_only ..)); case w => rfl)
    | ((with_reducible apply NoRise.after_only (k := dropRings_only ..)); case w => rfl)
    | ((with_reducible apply NoRise.after_only (k := originate_only ..)); case w => rfl)
    | ((with_reducible apply NoRise.after_only (k := addAlert_only ..)); case w => rfl)
    | (with_reducible apply NoRise.after (k := addEntry_noRise ..))
    | (split)
  clear_value s2
  have h_s3 : NoRise s s3 := by
    dsimp only [s3]
    repeat' first
    | (simp only [NoRise.mk_iff]; with_reducible refine NoRise.mk_same ?_)
    | (with_reducible exact NoRise.refl _)
    | (with_reducible assumption)
    | ((with_reducible apply NoRise.after_only (k := resetLink_only ..)); case w => rfl)
    | ((with_reducible apply NoRise.after_only (k := addErr_only ..)); case w => rfl)
    | ((with_reducible apply NoRise.after_only (k := dropRings_only ..)); case w => rfl)
    | ((with_reducible apply NoRise.after_only (k := originate_only ..)); case w => rfl)
    | ((with_reducible apply NoRise.after_only (k := addAlert_only ..)); case w => rfl)
    | (with_reducible apply NoRise.after (k := addEntry_noRise ..))
    | (split)
  clear_value s3
  have h_s4 : NoRise s s4 := by
    dsimp only [s4]
    repeat' first
    | (simp only [NoRise.mk_iff]; with_reducible refine NoRise.mk_same ?_)
    | (with_reducible exact NoRise.refl _)
    | (with_reducible assumption)
    | ((with_reducible apply NoRise.after_only (k := resetLink_only ..)); case w => rfl)
    | ((with_reducible apply NoRise.after_only (k := addErr_only ..)); case w => rfl)
    | ((with_reducible apply NoRise.after_only (k := dropRings_only ..)); case w => rfl)
    | ((with_reducible apply NoRise.after_only (k := originate_only ..)); case w => rfl)
    | ((with_reducible apply NoRise.after_only (k := addAlert_only ..)); case w => rfl)
    | (with_reducible apply NoRise.after (k := addEntry_noRise ..))
    | (split)
  clear_value s4
  have h_s5 : NoRise s s5 := by
    dsimp only [s5]
    repeat' first
    | (simp only [NoRise.mk_iff]; with_reducible refine NoRise.mk_same ?_)
    | (with_reducible exact NoRise.refl _)
    | (with_reducible assumption)
    | ((with_reducible apply NoRise.after_only (k := resetLink_only ..)); case w => rfl)
    | ((with_reducible apply NoRise.after_only (k := addErr_only ..)); case w => rfl)
    | ((with_reducible apply NoRise.after_only (k := dropRings_only ..)); case w => rfl)
    | ((with_reducible apply NoRise.after_only (k := originate_only ..)); case w => rfl)
    | ((with_reducible apply NoRise.after_only (k := addAlert_only ..)); case w => rfl)
    | (with_reducible apply NoRise.after (k := addEntry_noRise ..))
    | (split)
  clear_value s5
  have h_s6 : NoRise s s6 := by
    dsimp only [s6]
    repeat' first
    | (simp only [NoRise.mk_iff]; with_reducible refine NoRise.mk_same ?_)
    | (with_reducible exact NoRise.refl _)
    | (with_reducible assumption)
    | ((with_reducible apply NoRise.after_only (k := resetLink_only ..)); case w => rfl)
    | ((with_reducible apply NoRise.after_only (k := addErr_only ..)); case w => rfl)
    | ((with_reducible apply NoRise.after_only (k := dropRings_only ..)); case w => rfl)
    | ((with_reducible apply NoRise.after_only (k := originate_only ..)); case w => rfl)
    | ((with_reducible apply NoRise.after_only (k := addAlert_only ..)); case w => rfl)
    | (with_reducible apply NoRise.after (k := addEntry_noRise ..))
    | (split)
  clear_value s6
  clear_value o src pay
  repeat' first
    | (simp only [NoRise.mk_iff]; with_reducible refine NoRise.mk_same ?_)
    | (with_reducible exact NoRise.refl _)
    | (with_reducible assumption)
    | ((with_reducible apply NoRise.after_only (k := resetLink_only ..)); case w => rfl)
    | ((with_reducible apply NoRise.after_only (k := addErr_only ..)); case w => rfl)
    | ((with_reducible apply NoRise.after_only (k := dropRings_only ..)); case w => rfl)
    | ((with_reducible apply NoRise.after_only (k := originate_only ..)); case w => rfl)
    | ((with_reducible apply NoRise.after_only (k := addAlert_only ..)); case w => rfl)
    | (with_reducible apply NoRise.after (k := addEntry_noRise ..))
    | (split)

theorem portDown_noRise (s : State) (p : Port) (c : DownCause) :
    NoRise s (portDown s p c) := by
  unfold portDown
  try dsimp only
  repeat' first
    | (with_reducible exact NoRise.refl _)
    | (with_reducible assumption)
    | (with_reducible apply NoRise.after (k := portDownAs_noRise ..))
    | (split)

theorem goBack_noRise (s : State) (p : Port) :
    NoRise s (goBack s p) := by
  unfold goBack
  try dsimp only
  repeat' first
    | (with_reducible exact NoRise.refl _)
    | (with_reducible assumption)
    | (with_reducible apply NoRise.after (k := portDown_noRise ..))
    | ((with_reducible apply NoRise.after_only (k := modLink_only ..)); case w => rfl)
    | (split)

theorem takeAck_noRise (s : State) (p : Port) (e : Byte) (nak : Bool) :
    NoRise s (takeAck s p e nak) := by
  unfold takeAck
  try dsimp only
  repeat' first
    | (with_reducible exact NoRise.refl _)
    | (with_reducible assumption)
    | ((with_reducible apply NoRise.after_only (k := ackOldest_only ..)); case w => rfl)
    | (with_reducible apply NoRise.after (k := goBack_noRise ..))
    | (split)

theorem flushDeferred_noRise (s : State) :
    NoRise s (flushDeferred s) := by
  unfold flushDeferred
  try dsimp only
  repeat' first
    | (simp only [NoRise.mk_iff]; with_reducible refine NoRise.mk_same ?_)
    | (with_reducible exact NoRise.refl _)
    | (with_reducible assumption)
    | (with_reducible apply NoRise.after (k := addEntry_noRise ..))
    | ((with_reducible apply NoRise.foldl); intro _ _ _)
    | ((with_reducible apply NoRise.foldl_fst); intro _ _ _)
    | (split)

end Sys2Proof.Machine
end

