-- ==== Sys2Proof/Laws/BridleOpsRise.lean ====
section
/-! SUPPORT. The definitions of Machine/BridleOps.lean that reach Bridle turn no domain on. -/

namespace Sys2Proof.Machine

theorem portLeaves_noRise (s : State) (p : Port) (forced : Bool) :
    NoRise s (portLeaves s p forced) := by
  unfold portLeaves
  try dsimp only
  repeat' first
    | (with_reducible exact NoRise.refl _)
    | (with_reducible assumption)
    | (with_reducible apply NoRise.after (k := portDownAs_noRise ..))
    | ((with_reducible apply NoRise.after_only (k := modLink_only ..)); case w => rfl)
    | (split)

theorem blockLeaves_noRise (s : State) (d : Nat) (forced : Bool) :
    NoRise s (blockLeaves s d forced) := by
  unfold blockLeaves
  try dsimp only
  repeat' first
    | (simp only [NoRise.mk_iff]; with_reducible refine NoRise.mk_same ?_)
    | (with_reducible exact NoRise.refl _)
    | (with_reducible assumption)
    | ((with_reducible apply NoRise.after_only (k := storeEarliest_only ..)); case w => rfl)
    | ((with_reducible apply NoRise.after_only (k := frontLeaves_only ..)); case w => rfl)
    | ((with_reducible apply NoRise.after_only (k := engineLeaves_only ..)); case w => rfl)
    | (with_reducible apply NoRise.after (k := ruleMemoryLeaves_noRise ..))
    | (with_reducible apply NoRise.after (k := abandonXfer_noRise ..))
    | ((with_reducible apply NoRise.after_only (k := dropLeaves_only ..)); case w => rfl)
    | ((with_reducible apply NoRise.after_only (k := monitorsLeave_only ..)); case w => rfl)
    | ((with_reducible apply NoRise.after_only (k := channelLeaves_only ..)); case w => rfl)
    | (split)

theorem domLeaves_noRise (s : State) (d : Nat) (x : DS) (forced : Bool) (hx : x ≠ .on) : NoRise s (domLeaves s d x forced) := by
  unfold domLeaves
  extract_lets s1 s2 s3 s4
  have h1 : NoRise s s1 := (by apply blockLeaves_noRise)
  have h2 : NoRise s s2 := NoRise.after h1 (by apply loseBanks_noRise)
  have h3 : NoRise s s3 := NoRise.modDom (fun m h => absurd h hx) h2
  have h4 : NoRise s s4 := NoRise.after_only rfl h3 (forgetRules_only ..)
  repeat' first
    | (with_reducible exact h4)
    | (with_reducible apply NoRise.after (k := portLeaves_noRise ..))
    | split

theorem ruleMemoryReturns_noRise (s : State) :
    NoRise s (ruleMemoryReturns s) := by
  unfold ruleMemoryReturns
  try dsimp only
  repeat' first
    | (simp only [NoRise.mk_iff]; with_reducible refine NoRise.mk_same ?_)
    | (with_reducible exact NoRise.refl _)
    | (with_reducible assumption)
    | ((with_reducible apply NoRise.modDom); case hf => (intro m h; simp_all))
    | (with_reducible apply NoRise.after (k := demand_noRise ..))
    | (split)

theorem askAgain_noRise (s : State) (d : Nat) :
    NoRise s (askAgain s d) := by
  unfold askAgain
  try dsimp only
  repeat' first
    | (with_reducible exact NoRise.refl _)
    | (with_reducible assumption)
    | (with_reducible apply NoRise.after (k := askRequired_noRise ..))
    | ((with_reducible apply NoRise.foldl); intro _ _ _)
    | ((with_reducible apply NoRise.foldl_fst); intro _ _ _)
    | (split)

theorem refuseBelow_noRise (s : State) (d : Nat) :
    NoRise s (refuseBelow s d) := by
  unfold refuseBelow
  try dsimp only
  repeat' first
    | (with_reducible exact NoRise.refl _)
    | (with_reducible assumption)
    | (with_reducible apply NoRise.after (k := settle_noRise ..))
    | (with_reducible apply NoRise.after (k := resolve_noRise ..))
    | (with_reducible apply NoRise.after (k := endCur_noRise ..))
    | ((with_reducible apply NoRise.foldl); intro _ _ _)
    | ((with_reducible apply NoRise.foldl_fst); intro _ _ _)
    | (split)

theorem finish_noRise (s : State) (d : Nat) (q : Req) :
    NoRise s (finish s d q) := by
  unfold finish
  try dsimp only
  repeat' first
    | (with_reducible exact NoRise.refl _)
    | (with_reducible assumption)
    | (with_reducible apply NoRise.after (k := settle_noRise ..))
    | (with_reducible apply NoRise.after (k := resolve_noRise ..))
    | (with_reducible apply NoRise.after (k := endCur_noRise ..))
    | (split)

theorem leaveNow_noRise (s : State) (d : Nat) (q : Req) (hx : q.target ≠ .on) : NoRise s (leaveNow s d q) := by
  unfold leaveNow
  dsimp only
  repeat' first
    | (with_reducible exact NoRise.refl _)
    | exact domLeaves_noRise _ _ _ _ hx
    | (with_reducible apply NoRise.after (k := askAgain_noRise ..))
    | ((with_reducible apply NoRise.after_only (k := pinsAtRailDown_only ..)); case w => rfl)
    | (with_reducible apply NoRise.after (k := finish_noRise ..))

theorem forceDown_noRise (s : State) (d : Nat) (r : ReqResult) (reason : BitVec 4) :
    NoRise s (forceDown s d r reason) := by
  unfold forceDown
  dsimp only
  repeat' first
    | (simp only [NoRise.mk_iff]; with_reducible refine NoRise.mk_same ?_)
    | (with_reducible exact NoRise.refl _)
    | ((with_reducible apply NoRise.after (k := domLeaves_noRise _ _ _ _ (by decide))))
    | ((with_reducible apply NoRise.modDom); case hf => (intro m h; cases h))
    | ((with_reducible apply NoRise.after_only (k := forgetRules_only ..)); case w => rfl)
    | ((with_reducible apply NoRise.after_only (k := pinsAtRailDown_only ..)); case w => rfl)
    | (with_reducible apply NoRise.after (k := resolve_noRise ..))
    | (with_reducible apply NoRise.after (k := endCur_noRise ..))
    | ((with_reducible apply NoRise.after_only (k := modTry_only ..)); case w => rfl)
    | (with_reducible apply NoRise.after (k := loseBanks_noRise ..))
    | split

theorem passProfile_noRise (s : State) (k : Fin 8) (o : Origin) (mask : BitVec 4) (hostCmd : Bool) :
    NoRise s (passProfile s k o mask hostCmd) := by
  unfold passProfile
  try dsimp only
  repeat' first
    | (simp only [NoRise.mk_iff]; with_reducible refine NoRise.mk_bridle ?_)
    | (with_reducible exact NoRise.refl _)
    | (with_reducible assumption)
    | (split)

end Sys2Proof.Machine
end

