-- ==== Sys2Proof/Laws/RecordsRise.lean ====
section
/-! SUPPORT. The definitions of Machine/Records.lean that reach Bridle turn no domain on. -/

namespace Sys2Proof.Machine

theorem capture_noRise (s : State) (code : BitVec 5) (phase : Nat) (c : Chan) (toFault : Bool) (snap : Snap) (companion : List Byte) :
    NoRise s (capture s code phase c toFault snap companion) := by
  unfold capture
  try dsimp only
  repeat' first
    | (simp only [NoRise.mk_iff]; with_reducible refine NoRise.mk_same ?_)
    | (with_reducible exact NoRise.refl _)
    | (with_reducible assumption)
    | ((with_reducible apply NoRise.after_only (k := recordAlarm_only ..)); case w => rfl)
    | (with_reducible apply NoRise.after (k := addEntry_noRise ..))
    | ((with_reducible apply NoRise.after_only (k := presentRef_only ..)); case w => rfl)
    | (split)

theorem presentSlow_noRise (s : State) (i : SlowItem) :
    NoRise s (presentSlow s i) := by
  unfold presentSlow
  try dsimp only
  repeat' first
    | (simp only [NoRise.mk_iff]; with_reducible refine NoRise.mk_same ?_)
    | (with_reducible exact NoRise.refl _)
    | (with_reducible assumption)
    | ((with_reducible apply NoRise.after_only (k := pushResult_only ..)); case w => rfl)
    | (with_reducible apply NoRise.after (k := demand_noRise ..))
    | ((with_reducible apply NoRise.after_only (k := addSlow_only ..)); case w => rfl)
    | (split)

end Sys2Proof.Machine
end

