-- ==== Sys2Proof/Laws/OutageOpsRise.lean ====
section
/-! SUPPORT. The definitions of Machine/OutageOps.lean that reach Bridle turn no domain on. -/

namespace Sys2Proof.Machine

theorem cancelRequests_noRise (s : State) (d : Nat) :
    NoRise s (cancelRequests s d) := by
  unfold cancelRequests
  try dsimp only
  repeat' first
    | (with_reducible exact NoRise.refl _)
    | (with_reducible assumption)
    | ((with_reducible apply NoRise.modDom); case hf => (intro m h; simp_all))
    | (with_reducible apply NoRise.after (k := resolve_noRise ..))
    | ((with_reducible apply NoRise.foldl); intro _ _ _)
    | ((with_reducible apply NoRise.foldl_fst); intro _ _ _)
    | (split)

theorem cancelJob_noRise (s : State) (j : Job) :
    NoRise s (cancelJob s j) := by
  unfold cancelJob
  try dsimp only
  repeat' first
    | (simp only [NoRise.mk_iff]; with_reducible refine NoRise.mk_same ?_)
    | (with_reducible exact NoRise.refl _)
    | (with_reducible assumption)
    | (with_reducible apply NoRise.after (k := w0bEntry_noRise ..))
    | ((with_reducible apply NoRise.after_only (k := record83_only ..)); case w => rfl)
    | (split)

theorem cancelBehind_noRise (s : State) :
    NoRise s (cancelBehind s) := by
  unfold cancelBehind
  try dsimp only
  repeat' first
    | (simp only [NoRise.mk_iff]; with_reducible refine NoRise.mk_bridle ?_)
    | (with_reducible exact NoRise.refl _)
    | (with_reducible assumption)
    | (with_reducible apply NoRise.after (k := resolve_noRise ..))
    | ((with_reducible apply NoRise.foldl); intro _ _ _)
    | ((with_reducible apply NoRise.foldl_fst); intro _ _ _)
    | (split)

theorem beginOutage_noRise (s : State) (x : Starter) :
    NoRise s (beginOutage s x) := by
  unfold beginOutage
  try dsimp only
  repeat' first
    | (simp only [NoRise.mk_iff]; with_reducible refine NoRise.mk_same ?_)
    | (simp only [NoRise.mk_iff]; with_reducible refine NoRise.mk_bridle ?_)
    | (with_reducible exact NoRise.refl _)
    | (with_reducible assumption)
    | (with_reducible apply NoRise.after (k := cancelRequests_noRise ..))
    | (with_reducible apply NoRise.after (k := cancelBehind_noRise ..))
    | (with_reducible apply NoRise.after (k := cancelJob_noRise ..))
    | ((with_reducible apply NoRise.after_only (k := endTries_only ..)); case w => rfl)
    | (with_reducible apply NoRise.after (k := abandonXfer_noRise ..))
    | ((with_reducible apply NoRise.after_only (k := finishPage_only ..)); case w => rfl)
    | (with_reducible apply NoRise.after (k := deferEntry_noRise ..))
    | ((with_reducible apply NoRise.foldl); intro _ _ _)
    | ((with_reducible apply NoRise.foldl_fst); intro _ _ _)
    | (split)

theorem fireStarter_noRise (s : State) (x : Starter) :
    NoRise s (fireStarter s x) := by
  unfold fireStarter
  try dsimp only
  repeat' first
    | (simp only [NoRise.mk_iff]; with_reducible refine NoRise.mk_same ?_)
    | (with_reducible exact NoRise.refl _)
    | (with_reducible assumption)
    | (with_reducible apply NoRise.after (k := beginOutage_noRise ..))
    | (split)

theorem holdQueued_noRise (tag : Nat) (s : State) (f : QFrame) :
    NoRise s (holdQueued tag s f) := by
  unfold holdQueued
  try dsimp only
  repeat' first
    | (with_reducible exact NoRise.refl _)
    | (with_reducible assumption)
    | ((with_reducible apply NoRise.after_only (k := setQueue_only ..)); case w => rfl)
    | ((with_reducible apply NoRise.after_only (k := moveCells_only ..)); case w => rfl)
    | (with_reducible apply NoRise.after (k := failFrame_noRise ..))
    | (split)

theorem holdOut_noRise (p : Port) (s : State) (x : Byte × QFrame) :
    NoRise s (holdOut p s x) := by
  unfold holdOut
  try dsimp only
  repeat' first
    | (with_reducible exact NoRise.refl _)
    | (with_reducible assumption)
    | ((with_reducible apply NoRise.after_only (k := modLink_only ..)); case w => rfl)
    | ((with_reducible apply NoRise.after_only (k := moveCells_only ..)); case w => rfl)
    | ((with_reducible apply NoRise.after_only (k := afterRemoval_only ..)); case w => rfl)
    | (with_reducible apply NoRise.after (k := reportFrame_noRise ..))
    | (split)

theorem flightEnds_noRise (s : State) :
    NoRise s (flightEnds s) := by
  unfold flightEnds
  try dsimp only
  repeat' first
    | (with_reducible exact NoRise.refl _)
    | (with_reducible assumption)
    | (with_reducible apply NoRise.after (k := holdQueued_noRise ..))
    | (with_reducible apply NoRise.after (k := holdOut_noRise ..))
    | ((with_reducible apply NoRise.foldl); intro _ _ _)
    | ((with_reducible apply NoRise.foldl_fst); intro _ _ _)
    | (split)

theorem requestAll_noRise (s : State) (l : List (Nat × DS)) :
    NoRise s (requestAll s l) := by
  unfold requestAll
  try dsimp only
  repeat' first
    | (with_reducible exact NoRise.refl _)
    | (with_reducible assumption)
    | (with_reducible apply NoRise.after (k := enqueue_noRise ..))
    | (with_reducible apply NoRise.after (k := settle_noRise ..))
    | ((with_reducible apply NoRise.foldl); intro _ _ _)
    | ((with_reducible apply NoRise.foldl_fst); intro _ _ _)
    | (split)

theorem enterStep6_noRise (s : State) :
    NoRise s (enterStep6 s) := by
  unfold enterStep6
  try dsimp only
  repeat' first
    | (simp only [NoRise.mk_iff]; with_reducible refine NoRise.mk_same ?_)
    | (with_reducible exact NoRise.refl _)
    | (with_reducible assumption)
    | (with_reducible apply NoRise.after (k := requestAll_noRise ..))
    | (split)

theorem presentKept_noRise (s : State) (l : List SlowItem) :
    NoRise s (presentKept s l) := by
  unfold presentKept
  try dsimp only
  repeat' first
    | (with_reducible exact NoRise.refl _)
    | (with_reducible assumption)
    | (with_reducible apply NoRise.after (k := presentSlow_noRise ..))
    | ((with_reducible apply NoRise.foldl); intro _ _ _)
    | ((with_reducible apply NoRise.foldl_fst); intro _ _ _)
    | (split)

theorem applyRecorded_noRise (s : State) :
    NoRise s (applyRecorded s) := by
  unfold applyRecorded
  try dsimp only
  repeat' first
    | (simp only [NoRise.mk_iff]; with_reducible refine NoRise.mk_same ?_)
    | (with_reducible exact NoRise.refl _)
    | (with_reducible assumption)
    | (with_reducible apply NoRise.after (k := passProfile_noRise ..))
    | ((with_reducible apply NoRise.after_only (k := pinsFor_only ..)); case w => rfl)
    | ((with_reducible apply NoRise.after_only (k := releasePins_only ..)); case w => rfl)
    | (split)

theorem settleEnd_noRise (s : State) :
    NoRise s (settleEnd s) := by
  unfold settleEnd
  try dsimp only
  repeat' first
    | (with_reducible exact NoRise.refl _)
    | (with_reducible assumption)
    | (with_reducible apply NoRise.after (k := applyRecorded_noRise ..))
    | (split)

theorem safeRailsOff_noRise (s : State) :
    NoRise s (safeRailsOff s) := by
  unfold safeRailsOff
  try dsimp only
  repeat' first
    | (simp only [NoRise.mk_iff]; with_reducible refine NoRise.mk_same ?_)
    | (with_reducible exact NoRise.refl _)
    | (with_reducible assumption)
    | (with_reducible apply NoRise.after (k := requestAll_noRise ..))
    | (split)

theorem endOutage_noRise (s : State) :
    NoRise s (endOutage s) := by
  unfold endOutage
  try dsimp only
  repeat' first
    | (simp only [NoRise.mk_iff]; with_reducible refine NoRise.mk_same ?_)
    | (with_reducible exact NoRise.refl _)
    | (with_reducible assumption)
    | ((with_reducible apply NoRise.after_only (k := resumeAgeing_only ..)); case w => rfl)
    | ((with_reducible apply NoRise.after_only (k := backToVaon_only ..)); case w => rfl)
    | (with_reducible apply NoRise.after (k := passProfile_noRise ..))
    | (with_reducible apply NoRise.after (k := askMemory_noRise ..))
    | (with_reducible apply NoRise.after (k := safeRailsOff_noRise ..))
    | (with_reducible apply NoRise.after (k := applyRecorded_noRise ..))
    | (with_reducible apply NoRise.after (k := settleEnd_noRise ..))
    | (with_reducible apply NoRise.after (k := presentKept_noRise ..))
    | (split)

theorem enterU5_noRise (s : State) :
    NoRise s (enterU5 s) := by
  unfold enterU5
  try dsimp only
  repeat' first
    | (simp only [NoRise.mk_iff]; with_reducible refine NoRise.mk_same ?_)
    | (with_reducible exact NoRise.refl _)
    | (with_reducible assumption)
    | (with_reducible apply NoRise.after (k := requestAll_noRise ..))
    | (split)

theorem descentEnds_noRise (s : State) :
    NoRise s (descentEnds s) := by
  unfold descentEnds
  try dsimp only
  repeat' first
    | (simp only [NoRise.mk_iff]; with_reducible refine NoRise.mk_same ?_)
    | (with_reducible exact NoRise.refl _)
    | (with_reducible assumption)
    | (with_reducible apply NoRise.after (k := enterU5_noRise ..))
    | (with_reducible apply NoRise.after (k := enterStep6_noRise ..))
    | (split)

theorem enterStep5_noRise (s0 : State) :
    NoRise s0 (enterStep5 s0) := by
  unfold enterStep5
  try dsimp only
  repeat' first
    | (simp only [NoRise.mk_iff]; with_reducible refine NoRise.mk_same ?_)
    | (with_reducible exact NoRise.refl _)
    | (with_reducible assumption)
    | ((with_reducible apply NoRise.after_only (k := endTries_only ..)); case w => rfl)
    | (with_reducible apply NoRise.after (k := requestAll_noRise ..))
    | (with_reducible apply NoRise.after (k := descentEnds_noRise ..))
    | (split)

theorem undoGoesOn_noRise (s : State) :
    NoRise s (undoGoesOn s) := by
  unfold undoGoesOn
  try dsimp only
  repeat' first
    | (with_reducible exact NoRise.refl _)
    | (with_reducible assumption)
    | (with_reducible apply NoRise.after (k := enterU5_noRise ..))
    | (with_reducible apply NoRise.after (k := enterStep6_noRise ..))
    | (split)

theorem enterU6_noRise (s : State) :
    NoRise s (enterU6 s) := by
  unfold enterU6
  try dsimp only
  repeat' first
    | (simp only [NoRise.mk_iff]; with_reducible refine NoRise.mk_same ?_)
    | (with_reducible exact NoRise.refl _)
    | (with_reducible assumption)
    | (with_reducible apply NoRise.after (k := undoGoesOn_noRise ..))
    | (with_reducible apply NoRise.after (k := requestAll_noRise ..))
    | (split)

theorem descentGoesOn_noRise (s : State) :
    NoRise s (descentGoesOn s) := by
  unfold descentGoesOn
  try dsimp only
  repeat' first
    | (with_reducible exact NoRise.refl _)
    | (with_reducible assumption)
    | (with_reducible apply NoRise.after (k := descentEnds_noRise ..))
    | (split)

theorem outageGoesOn_noRise (s : State) :
    NoRise s (outageGoesOn s) := by
  unfold outageGoesOn
  try dsimp only
  repeat' first
    | (with_reducible exact NoRise.refl _)
    | (with_reducible assumption)
    | (with_reducible apply NoRise.after (k := undoGoesOn_noRise ..))
    | (with_reducible apply NoRise.after (k := descentGoesOn_noRise ..))
    | (split)

end Sys2Proof.Machine
end

