-- ==== Sys2Proof/Laws/ActionsRise.lean ====
section
/-! SUPPORT. The definitions of Machine/Actions.lean that reach Bridle turn no domain on. -/

namespace Sys2Proof.Machine

theorem applyProfile_noRise (s : State) (k : Fin 8) (mask : BitVec 4) :
    NoRise s (applyProfile s k mask) := by
  unfold applyProfile
  try dsimp only
  repeat' first
    | (simp only [NoRise.mk_iff]; with_reducible refine NoRise.mk_same ?_)
    | (with_reducible exact NoRise.refl _)
    | (with_reducible assumption)
    | ((with_reducible apply NoRise.after_only (k := pendPins_only ..)); case w => rfl)
    | ((with_reducible apply NoRise.after_only (k := pinsFor_only ..)); case w => rfl)
    | (with_reducible apply NoRise.after (k := passProfile_noRise ..))
    | (split)

theorem applyRule_noRise (s : State) (num : Nat) (a : Assoc) (kind : StreamKind) (name : Option FrameName) :
    NoRise s (applyRule s num a kind name) := by
  unfold applyRule
  try dsimp only
  repeat' first
    | (with_reducible exact NoRise.refl _)
    | (with_reducible assumption)
    | ((with_reducible apply NoRise.after_only (k := recordCause_only ..)); case w => rfl)
    | (with_reducible apply NoRise.after (k := applyProfile_noRise ..))
    | ((with_reducible apply NoRise.after_only (k := raisePins_only ..)); case w => rfl)
    | ((with_reducible apply NoRise.after_only (k := tallyAdd_only ..)); case w => rfl)
    | (with_reducible apply NoRise.after (k := addEntry_noRise ..))
    | (split)

theorem applyEngineLost_noRise (s : State) :
    NoRise s (applyEngineLost s) := by
  unfold applyEngineLost
  try dsimp only
  repeat' first
    | (with_reducible exact NoRise.refl _)
    | (with_reducible assumption)
    | (with_reducible apply NoRise.after (k := applyProfile_noRise ..))
    | ((with_reducible apply NoRise.after_only (k := recordCause_only ..)); case w => rfl)
    | (split)

theorem takeResult_noRise (s : State) :
    NoRise s (takeResult s) := by
  unfold takeResult
  try dsimp only
  repeat' first
    | (simp only [NoRise.mk_iff]; with_reducible refine NoRise.mk_same ?_)
    | (with_reducible exact NoRise.refl _)
    | (with_reducible assumption)
    | ((with_reducible apply NoRise.after_only (k := takeLate_only ..)); case w => rfl)
    | (with_reducible apply NoRise.after (k := applyRule_noRise ..))
    | ((with_reducible apply NoRise.after_only (k := raisePins_only ..)); case w => rfl)
    | ((with_reducible apply NoRise.after_only (k := recordCause_only ..)); case w => rfl)
    | (with_reducible apply NoRise.after (k := applyEngineLost_noRise ..))
    | (split)

theorem execResultApply_noRise (s : State) (t : State) (h : execResultApply s = .next t) :
    NoRise s t := by
  unfold execResultApply at h
  try dsimp only at h
  cases h
  repeat' first
    | (with_reducible exact NoRise.refl _)
    | (with_reducible assumption)
    | (with_reducible apply NoRise.after (k := settleEnd_noRise ..))
    | (with_reducible apply NoRise.after (k := takeResult_noRise ..))
    | (split)

theorem railFails_noRise (s : State) (c : Chan) (snap : Snap) :
    NoRise s (railFails s c snap) := by
  unfold railFails
  try dsimp only
  repeat' first
    | (with_reducible exact NoRise.refl _)
    | (with_reducible assumption)
    | (with_reducible apply NoRise.after (k := capture_noRise ..))
    | ((with_reducible apply NoRise.after_only (k := railCause_only ..)); case w => rfl)
    | ((with_reducible apply NoRise.after_only (k := modChan_only ..)); case w => rfl)
    | ((with_reducible apply NoRise.after_only (k := modTry_only ..)); case w => rfl)
    | (split)

theorem attemptFails_noRise (s : State) (c : Chan) (snap : Snap) :
    NoRise s (attemptFails s c snap) := by
  unfold attemptFails
  try dsimp only
  repeat' first
    | (with_reducible exact NoRise.refl _)
    | (with_reducible assumption)
    | ((with_reducible apply NoRise.after_only (k := modChan_only ..)); case w => rfl)
    | ((with_reducible apply NoRise.after_only (k := modTry_only ..)); case w => rfl)
    | (with_reducible apply NoRise.after (k := railFails_noRise ..))
    | (split)

theorem execRailAttemptFail_noRise (c : Chan) (snap : Snap) (s : State) (t : State) (h : execRailAttemptFail c snap s = .next t) :
    NoRise s t := by
  unfold execRailAttemptFail at h
  dsimp only at h
  rw [← Host.Outcome.next.inj h]
  repeat' first
    | (with_reducible exact NoRise.refl _)
    | exact domLeaves_noRise _ _ _ _ (by decide)
    | (with_reducible apply NoRise.after (k := attemptFails_noRise ..))
    | split

theorem execRailRetry_noRise (c : Chan) (s : State) (t : State) (h : execRailRetry c s = .next t) :
    NoRise s t := by
  unfold execRailRetry at h
  try dsimp only at h
  cases h
  repeat' first
    | (with_reducible exact NoRise.refl _)
    | (with_reducible assumption)
    | ((with_reducible apply NoRise.after_only (k := modChan_only ..)); case w => rfl)
    | ((with_reducible apply NoRise.after_only (k := modTry_only ..)); case w => rfl)
    | (with_reducible apply NoRise.after (k := request_noRise ..))
    | ((with_reducible apply NoRise.after_only (k := freeSnap_only ..)); case w => rfl)
    | (with_reducible apply NoRise.after (k := attemptFails_noRise ..))
    | (split)

end Sys2Proof.Machine
end

