-- ==== Sys2Proof/Laws/BridleFrame.lean ====
section
/-! SUPPORT. What each definition of Machine/Bridle.lean may change: of the parts of the state, those listed and no other. -/

namespace Sys2Proof.Machine

theorem refuseSetpoint_only (s : State) (j : Job) (c : Chan) :
    Only [.bridle, .prot] s (refuseSetpoint s j c).1 := by
  unfold refuseSetpoint
  try dsimp only
  repeat' first
    | (with_reducible exact Only.refl _ _)
    | (with_reducible assumption)
    | ((with_reducible apply Only.after (k := w0bEntry_only ..)); case w => rfl)
    | (split)

theorem takeBehind_only (s : State) (k : Nat) :
    Only [.rules, .act, .bridle, .reg, .prot, .tether, .queues, .win, .integ] s (takeBehind s k) := by
  unfold takeBehind
  try dsimp only
  repeat' first
    | (simp only [Only.mk_iff]; with_reducible refine Only.set_bridle ?_ _ rfl)
    | (with_reducible exact Only.refl _ _)
    | (with_reducible assumption)
    | ((with_reducible apply Only.after (k := request_only ..)); case w => rfl)
    | ((with_reducible apply Only.after (k := railAsked_only ..)); case w => rfl)
    | ((with_reducible apply Only.foldl); intro _ _ _)
    | ((with_reducible apply Only.foldl_fst); intro _ _ _)
    | (split)

theorem startJob_only (s : State) (j : Job) (v : Fin 8) :
    Only [.free, .pins, .rules, .act, .bridle, .reg, .prot, .tether, .queues, .win, .integ] s (startJob s j v) := by
  unfold startJob
  try dsimp only
  repeat' first
    | (simp only [Only.mk_iff]; with_reducible refine Only.set_pins_bridle ?_ _ _ rfl)
    | (simp only [Only.mk_iff]; with_reducible refine Only.set_reg ?_ _ rfl)
    | (simp only [Only.mk_iff]; with_reducible refine Only.set_bridle ?_ _ rfl)
    | (simp only [Only.mk_iff]; with_reducible refine Only.set_pins_bridle_reg ?_ _ _ _ rfl)
    | (simp only [Only.mk_iff]; with_reducible refine Only.set_bridle_reg ?_ _ _ rfl)
    | (with_reducible exact Only.refl _ _)
    | (with_reducible assumption)
    | ((with_reducible apply Only.after (k := refuseSetpoint_only ..)); case w => rfl)
    | ((with_reducible apply Only.after (k := selectIndex_only ..)); case w => rfl)
    | ((with_reducible apply Only.after (k := railAsked_only ..)); case w => rfl)
    | ((with_reducible apply Only.after (k := takeBehind_only ..)); case w => rfl)
    | ((with_reducible apply Only.after (k := jobComplete_only ..)); case w => rfl)
    | ((with_reducible apply Only.after (k := request_only ..)); case w => rfl)
    | ((with_reducible apply Only.after (k := enqueue_only ..)); case w => rfl)
    | ((with_reducible apply Only.after (k := settle_only ..)); case w => rfl)
    | ((with_reducible apply Only.foldl); intro _ _ _)
    | ((with_reducible apply Only.foldl_fst); intro _ _ _)
    | (split)

theorem execProfileStart_only (vsel : Fin 8) (s : State) (t : State) (h : execProfileStart vsel s = .next t) :
    Only [.free, .pins, .rules, .act, .bridle, .reg, .prot, .tether, .queues, .win, .integ] s t := by
  unfold execProfileStart at h
  try dsimp only at h
  cases h
  repeat' first
    | (simp only [Only.mk_iff]; with_reducible refine Only.set_bridle ?_ _ rfl)
    | (with_reducible exact Only.refl _ _)
    | (with_reducible assumption)
    | ((with_reducible apply Only.after (k := startJob_only ..)); case w => rfl)
    | (split)

theorem hostAnswer_only (s : State) (pres : BitVec 2) :
    Only [.bridle] s (hostAnswer s pres) := by
  unfold hostAnswer
  try dsimp only
  repeat' first
    | (simp only [Only.mk_iff]; with_reducible refine Only.set_bridle ?_ _ rfl)
    | (with_reducible exact Only.refl _ _)
    | (with_reducible assumption)
    | (split)

theorem hostRefuse_only (s : State) (sel : BitVec 5) (reason : BitVec 4) :
    Only [.bridle, .prot] s (hostRefuse s sel reason) := by
  unfold hostRefuse
  try dsimp only
  repeat' first
    | (with_reducible exact Only.refl _ _)
    | (with_reducible assumption)
    | ((with_reducible apply Only.after (k := hostAnswer_only ..)); case w => rfl)
    | ((with_reducible apply Only.after (k := w0bEntry_only ..)); case w => rfl)
    | (split)

theorem hostState_only (s : State) (d : Fin 20) (t : DS) :
    Only [.rules, .act, .bridle, .reg, .prot, .tether, .queues, .win, .integ] s (hostState s d t) := by
  unfold hostState
  try dsimp only
  repeat' first
    | (simp only [Only.mk_iff]; with_reducible refine Only.set_bridle ?_ _ rfl)
    | (with_reducible exact Only.refl _ _)
    | (with_reducible assumption)
    | ((with_reducible apply Only.after (k := hostRefuse_only ..)); case w => rfl)
    | ((with_reducible apply Only.after (k := settle_only ..)); case w => rfl)
    | ((with_reducible apply Only.after (k := modDom_only ..)); case w => rfl)
    | ((with_reducible apply Only.after (k := hostAnswer_only ..)); case w => rfl)
    | ((with_reducible apply Only.after (k := railAsked_only ..)); case w => rfl)
    | ((with_reducible apply Only.after (k := request_only ..)); case w => rfl)
    | (split)

theorem execHostOff_only (d : Fin 20) (s : State) (t : State) (h : execHostOff d s = .next t) :
    Only [.rules, .act, .bridle, .reg, .prot, .tether, .queues, .win, .integ] s t := by
  unfold execHostOff at h
  try dsimp only at h
  cases h
  repeat' first
    | (with_reducible exact Only.refl _ _)
    | (with_reducible assumption)
    | ((with_reducible apply Only.after (k := hostState_only ..)); case w => rfl)
    | (split)

theorem execHostRetention_only (d : Fin 20) (s : State) (t : State) (h : execHostRetention d s = .next t) :
    Only [.rules, .act, .bridle, .reg, .prot, .tether, .queues, .win, .integ] s t := by
  unfold execHostRetention at h
  try dsimp only at h
  cases h
  repeat' first
    | (with_reducible exact Only.refl _ _)
    | (with_reducible assumption)
    | ((with_reducible apply Only.after (k := hostState_only ..)); case w => rfl)
    | (split)

theorem execHostOn_only (d : Fin 20) (s : State) (t : State) (h : execHostOn d s = .next t) :
    Only [.rules, .act, .bridle, .reg, .prot, .tether, .queues, .win, .integ] s t := by
  unfold execHostOn at h
  try dsimp only at h
  cases h
  repeat' first
    | (with_reducible exact Only.refl _ _)
    | (with_reducible assumption)
    | ((with_reducible apply Only.after (k := hostState_only ..)); case w => rfl)
    | (split)

theorem execHostQuery_only (d : Fin 20) (s : State) (t : State) (h : execHostQuery d s = .next t) :
    Only [.bridle, .prot] s t := by
  unfold execHostQuery at h
  try dsimp only at h
  cases h
  repeat' first
    | (with_reducible exact Only.refl _ _)
    | (with_reducible assumption)
    | ((with_reducible apply Only.after (k := hostRefuse_only ..)); case w => rfl)
    | ((with_reducible apply Only.after (k := hostAnswer_only ..)); case w => rfl)
    | (split)

theorem execHostApply_only (k : Fin 8) (s : State) (t : State) (h : execHostApply k s = .next t) :
    Only [.bridle, .prot] s t := by
  unfold execHostApply at h
  try dsimp only at h
  cases h
  repeat' first
    | (with_reducible exact Only.refl _ _)
    | (with_reducible assumption)
    | ((with_reducible apply Only.after (k := hostRefuse_only ..)); case w => rfl)
    | ((with_reducible apply Only.after (k := passProfile_only ..)); case w => rfl)
    | ((with_reducible apply Only.after (k := hostAnswer_only ..)); case w => rfl)
    | (split)

theorem execHostInvalidCommand_only (psel : BitVec 5) (pcmd : BitVec 2) (s : State) (t : State) (h : execHostInvalidCommand psel pcmd s = .next t) :
    Only [.bridle, .prot] s t := by
  unfold execHostInvalidCommand at h
  try dsimp only at h
  cases h
  repeat' first
    | (with_reducible exact Only.refl _ _)
    | (with_reducible assumption)
    | ((with_reducible apply Only.after (k := hostRefuse_only ..)); case w => rfl)
    | (split)

theorem execPstbFall_only (s : State) (t : State) (h : execPstbFall s = .next t) :
    Only [.bridle] s t := by
  unfold execPstbFall at h
  try dsimp only at h
  cases h
  repeat' first
    | (simp only [Only.mk_iff]; with_reducible refine Only.set_bridle ?_ _ rfl)
    | (with_reducible exact Only.refl _ _)
    | (with_reducible assumption)
    | (split)

theorem toStage_only (s : State) (d : Nat) (q : Req) (g : Stage) :
    Only [.bridle] s (toStage s d q g) := by
  unfold toStage
  try dsimp only
  repeat' first
    | (with_reducible exact Only.refl _ _)
    | (with_reducible assumption)
    | ((with_reducible apply Only.after (k := modDom_only ..)); case w => rfl)
    | (split)

theorem execAsk_only (d : Fin 20) (s : State) (t : State) (h : execAsk d s = .next t) :
    Only [.bridle] s t := by
  unfold execAsk at h
  try dsimp only at h
  cases h
  repeat' first
    | (with_reducible exact Only.refl _ _)
    | (with_reducible assumption)
    | ((with_reducible apply Only.after (k := toStage_only ..)); case w => rfl)
    | (split)

theorem beginStop_only (s : State) (c : Chan) :
    Only [.free, .reg] s (beginStop s c) := by
  unfold beginStop
  try dsimp only
  repeat' first
    | (simp only [Only.mk_iff]; with_reducible refine Only.set_reg ?_ _ rfl)
    | (with_reducible exact Only.refl _ _)
    | (with_reducible assumption)
    | ((with_reducible apply Only.after (k := modChan_only ..)); case w => rfl)
    | ((with_reducible apply Only.after (k := freezeRef_only ..)); case w => rfl)
    | ((with_reducible apply Only.after (k := dropPgood_only ..)); case w => rfl)
    | (split)

theorem execDrain_only (d : Fin 20) (s : State) (t : State) (h : execDrain d s = .next t) :
    Only [.free, .bridle, .reg] s t := by
  unfold execDrain at h
  try dsimp only at h
  cases h
  repeat' first
    | (with_reducible exact Only.refl _ _)
    | (with_reducible assumption)
    | ((with_reducible apply Only.after (k := toStage_only ..)); case w => rfl)
    | ((with_reducible apply Only.after (k := beginStop_only ..)); case w => rfl)
    | (split)

theorem execGrant_only (d : Fin 20) (s : State) (t : State) (h : execGrant d s = .next t) :
    Only [.free, .xfer, .front, .rules, .engs, .act, .bridle, .reg, .prot, .mons, .tether, .queues, .drop, .win, .outage, .integ] s t := by
  unfold execGrant at h
  try dsimp only at h
  cases h
  repeat' first
    | (with_reducible exact Only.refl _ _)
    | (with_reducible assumption)
    | ((with_reducible apply Only.after (k := outageGoesOn_only ..)); case w => rfl)
    | ((with_reducible apply Only.after (k := leaveNow_only ..)); case w => rfl)
    | (split)

theorem execRefuse_only (d : Fin 20) (s : State) (t : State) (h : execRefuse d s = .next t) :
    Only [.rules, .act, .bridle, .reg, .prot, .tether, .queues, .win, .outage, .integ] s t := by
  unfold execRefuse at h
  try dsimp only at h
  cases h
  repeat' first
    | (with_reducible exact Only.refl _ _)
    | (with_reducible assumption)
    | ((with_reducible apply Only.after (k := outageGoesOn_only ..)); case w => rfl)
    | ((with_reducible apply Only.after (k := settle_only ..)); case w => rfl)
    | ((with_reducible apply Only.after (k := refuseBelow_only ..)); case w => rfl)
    | ((with_reducible apply Only.after (k := resolve_only ..)); case w => rfl)
    | ((with_reducible apply Only.after (k := endCur_only ..)); case w => rfl)
    | (split)

theorem execHold_only (d : Fin 20) (s : State) (t : State) (h : execHold d s = .next t) :
    Only [.bridle] s t := by
  unfold execHold at h
  try dsimp only at h
  cases h
  repeat' first
    | (with_reducible exact Only.refl _ _)
    | (with_reducible assumption)
    | ((with_reducible apply Only.after (k := toStage_only ..)); case w => rfl)
    | (split)

theorem execLive_only (d : Fin 20) (s : State) (t : State) (h : execLive d s = .next t) :
    Only [.free, .rules, .engs, .act, .bridle, .reg, .prot, .tether, .queues, .drop, .win, .outage, .integ, .pace] s t := by
  unfold execLive at h
  try dsimp only at h
  cases h
  repeat' first
    | (with_reducible exact Only.refl _ _)
    | (with_reducible assumption)
    | ((with_reducible apply Only.after (k := tryLive_only ..)); case w => rfl)
    | ((with_reducible apply Only.after (k := toStage_only ..)); case w => rfl)
    | ((with_reducible apply Only.after (k := outageGoesOn_only ..)); case w => rfl)
    | ((with_reducible apply Only.foldl); intro _ _ _)
    | ((with_reducible apply Only.foldl_fst); intro _ _ _)
    | (split)

theorem slowLost_only (s : State) :
    Only [.engs, .act] s (slowLost s) := by
  unfold slowLost
  try dsimp only
  repeat' first
    | (simp only [Only.mk_iff]; with_reducible refine Only.set_engs ?_ _ rfl)
    | (with_reducible exact Only.refl _ _)
    | (with_reducible assumption)
    | ((with_reducible apply Only.after (k := pushResult_only ..)); case w => rfl)
    | ((with_reducible apply Only.foldl); intro _ _ _)
    | ((with_reducible apply Only.foldl_fst); intro _ _ _)
    | (split)

theorem failWaiting_only (s : State) (d : Nat) :
    Only [.act, .bridle, .prot, .win] s (failWaiting s d) := by
  unfold failWaiting
  try dsimp only
  repeat' first
    | (with_reducible exact Only.refl _ _)
    | (with_reducible assumption)
    | ((with_reducible apply Only.after (k := resolve_only ..)); case w => rfl)
    | ((with_reducible apply Only.after (k := modDom_only ..)); case w => rfl)
    | ((with_reducible apply Only.foldl); intro _ _ _)
    | ((with_reducible apply Only.foldl_fst); intro _ _ _)
    | (split)

theorem execDomainFaulty_only (d : Fin 20) (snap : Snap) (s : State) (t : State) (h : execDomainFaulty d snap s = .next t) :
    Only [.free, .xfer, .front, .rules, .engs, .act, .bridle, .reg, .prot, .mons, .tether, .queues, .drop, .win, .outage, .integ] s t := by
  unfold execDomainFaulty at h
  try dsimp only at h
  cases h
  repeat' first
    | (with_reducible exact Only.refl _ _)
    | (with_reducible assumption)
    | ((with_reducible apply Only.after (k := slowLost_only ..)); case w => rfl)
    | ((with_reducible apply Only.after (k := loseEngine_only ..)); case w => rfl)
    | ((with_reducible apply Only.after (k := capture_only ..)); case w => rfl)
    | ((with_reducible apply Only.after (k := forceDown_only ..)); case w => rfl)
    | ((with_reducible apply Only.after (k := modDom_only ..)); case w => rfl)
    | ((with_reducible apply Only.after (k := outageGoesOn_only ..)); case w => rfl)
    | ((with_reducible apply Only.after (k := askAgain_only ..)); case w => rfl)
    | ((with_reducible apply Only.after (k := failWaiting_only ..)); case w => rfl)
    | (split)

theorem execIdleRequest_only (d : Fin 20) (s : State) (t : State) (h : execIdleRequest d s = .next t) :
    Only [.rules, .act, .bridle, .prot, .tether, .queues, .win, .integ] s t := by
  unfold execIdleRequest at h
  try dsimp only at h
  cases h
  repeat' first
    | (with_reducible exact Only.refl _ _)
    | (with_reducible assumption)
    | ((with_reducible apply Only.after (k := request_only ..)); case w => rfl)
    | (split)

theorem execRmapChange_only (v : Fin 4) (s : State) (t : State) (h : execRmapChange v s = .next t) :
    Only [.pins, .bridle, .tether, .queues, .integ] s t := by
  unfold execRmapChange at h
  rw [← Host.Outcome.next.inj h]
  refine Only.foldl (fun t x h => ?_) _ (Only.set_pins (Only.refl _ _) _ rfl)
  split
  · exact Only.post h (loseBanks_only ..) rfl
  · exact h

theorem execDrained_only (d : Fin 20) (s : State) (t : State) (h : execDrained d s = .next t) :
    Only [.free, .xfer, .front, .rules, .engs, .act, .bridle, .reg, .prot, .mons, .tether, .queues, .drop, .win, .outage, .integ] s t := by
  unfold execDrained at h
  try dsimp only at h
  cases h
  repeat' first
    | (with_reducible exact Only.refl _ _)
    | (with_reducible assumption)
    | ((with_reducible apply Only.after (k := outageGoesOn_only ..)); case w => rfl)
    | ((with_reducible apply Only.after (k := leaveNow_only ..)); case w => rfl)
    | (split)

end Sys2Proof.Machine
end

