-- ==== Sys2Proof/Laws/ReelFrame.lean ====
section
/-! SUPPORT. What each definition of Machine/Reel.lean may change: of the parts of the state, those listed and no other. -/

namespace Sys2Proof.Machine

theorem sealSlot_only (s : State) (slot : Fin 2) (h : Header) (key : List Byte × KeyForm) :
    Only [.flash] s (sealSlot s slot h key) := by
  unfold sealSlot
  try dsimp only
  repeat' first
    | (simp only [Only.mk_iff]; with_reducible refine Only.set_flash ?_ _ rfl)
    | (with_reducible exact Only.refl _ _)
    | (with_reducible assumption)
    | (split)

end Sys2Proof.Machine
end

