-- ==== Sys2Proof/Laws/BootFrame.lean ====
section
/-! SUPPORT. What each definition of Machine/Boot.lean may change: of the parts of the state, those listed and no other. -/

namespace Sys2Proof.Machine

theorem holdChan_only (s : State) (c : Chan) :
    Only [.free, .reg] s (holdChan s c) := by
  unfold holdChan
  try dsimp only
  repeat' first
    | (with_reducible exact Only.refl _ _)
    | (with_reducible assumption)
    | ((with_reducible apply Only.after (k := modChan_only ..)); case w => rfl)
    | ((with_reducible apply Only.after (k := freezeRef_only ..)); case w => rfl)
    | (split)

theorem resetState_only (s : State) (rcause : Byte) :
    Only [.free, .boot, .tap, .nvm, .reel, .xfer, .front, .rules, .engs, .act, .bridle, .reg, .prot, .mons, .tether, .queues, .drop, .win, .gauge, .outage, .integ, .pace] s (resetState s rcause) := by
  unfold resetState
  extract_lets m a warm s0 dz dom sb st sn sf se sa sbr sp sm sq s1
  have h0 : Only [.free, .boot, .tap, .nvm, .reel, .xfer, .front, .rules, .engs, .act, .bridle, .reg, .prot, .mons, .tether, .queues, .drop, .win, .gauge, .outage, .integ, .pace] s s0 := Only.post (Only.mono (holdChan_only s .main) rfl) (holdChan_only ..) rfl
  have h1 : Only [.free, .boot, .tap, .nvm, .reel, .xfer, .front, .rules, .engs, .act, .bridle, .reg, .prot, .mons, .tether, .queues, .drop, .win, .gauge, .outage, .integ, .pace] s s1 := Only.post (qs := [.boot, .tap, .nvm, .reel, .xfer, .front, .rules, .engs, .act, .bridle, .reg, .prot, .mons, .tether, .queues, .drop, .win, .gauge, .outage, .integ, .pace]) h0 ⟨fun p hp => by cases p <;> first | exact absurd hp (by decide) | rfl⟩ rfl
  split
  · exact Only.post h1 (backToVaon_only ..) rfl
  · exact h1

theorem execResetAssert_only (lowNs : Nat) (s : State) (t : State) (h : execResetAssert lowNs s = .next t) :
    Only [.free, .boot, .pins, .tap, .nvm, .reel, .xfer, .front, .rules, .engs, .act, .bridle, .reg, .prot, .mons, .tether, .queues, .drop, .win, .gauge, .outage, .integ, .pace] s t := by
  unfold execResetAssert at h
  try dsimp only at h
  cases h
  repeat' first
    | (simp only [Only.mk_iff]; with_reducible refine Only.set_boot_pins ?_ _ _ rfl)
    | (with_reducible exact Only.refl _ _)
    | (with_reducible assumption)
    | ((with_reducible apply Only.after (k := takeFree_only ..)); case w => rfl)
    | ((with_reducible apply Only.after (k := resetState_only ..)); case w => rfl)
    | (split)

theorem enterStep5Boot_only (s : State) :
    Only [.boot] s (enterStep5Boot s) := by
  unfold enterStep5Boot
  try dsimp only
  repeat' first
    | (simp only [Only.mk_iff]; with_reducible refine Only.set_boot ?_ _ rfl)
    | (with_reducible exact Only.refl _ _)
    | (with_reducible assumption)
    | (split)

theorem execResetRelease_only (s : State) (t : State) (h : execResetRelease s = .next t) :
    Only [.boot, .pins] s t := by
  unfold execResetRelease at h
  try dsimp only at h
  cases h
  repeat' first
    | (simp only [Only.mk_iff]; with_reducible refine Only.set_boot_pins ?_ _ _ rfl)
    | (with_reducible exact Only.refl _ _)
    | (with_reducible assumption)
    | ((with_reducible apply Only.after (k := enterStep5Boot_only ..)); case w => rfl)
    | (split)

theorem execDevicePor_only (s : State) (t : State) (h : execDevicePor s = .next t) :
    Only [.sup, .boot, .ident, .straps, .tap, .hours, .nvm, .reel, .xfer, .front, .rules, .engs, .act, .bridle, .reg, .prot, .mons, .tether, .queues, .drop, .win, .gauge, .outage, .integ, .pace] s t := by
  rw [← Host.Outcome.next.inj h]
  exact ⟨fun p hp => by cases p <;> first | exact absurd hp (by decide) | rfl⟩

theorem recoverRecords_only (s0 : State) :
    Only [.free, .hours, .nvm, .prot] s0 (recoverRecords s0) := by
  unfold recoverRecords
  try dsimp only
  repeat' first
    | (simp only [Only.mk_iff]; with_reducible refine Only.set_hours_nvm_prot ?_ _ _ _ rfl)
    | (with_reducible exact Only.refl _ _)
    | (with_reducible assumption)
    | ((with_reducible apply Only.after (k := takeFree_only ..)); case w => rfl)
    | (split)

theorem sensed_only (s : State) :
    Only [.boot, .engs] s (sensed s) := by
  unfold sensed
  try dsimp only
  repeat' first
    | (simp only [Only.mk_iff]; with_reducible refine Only.set_boot_engs ?_ _ _ rfl)
    | (with_reducible exact Only.refl _ _)
    | (with_reducible assumption)
    | ((with_reducible apply Only.after (k := enterStep5Boot_only ..)); case w => rfl)
    | (split)

theorem acceptIdentity_only (s : State) (id : BitVec 64) (t : State) (h : acceptIdentity s id = .next t) :
    Only [.boot, .ident, .engs] s t := by
  unfold acceptIdentity at h
  split at h
  · rw [← Host.Outcome.next.inj h]
    exact Only.after (by rfl) (Only.set_ident (Only.refl _ _) _ rfl) (sensed_only ..)
  · cases h

theorem execPowerOn_only (up : Supplies) (tickStarts : Bool) (id : BitVec 64) (s : State) (t : State) (h : execPowerOn up tickStarts id s = .next t) :
    Only [.free, .sup, .boot, .ident, .hours, .nvm, .engs, .prot, .gauge] s t := by
  unfold execPowerOn at h
  extract_lets s1 g s2 b s3 b3 at h
  have h1 : Only [.free, .sup, .boot, .ident, .hours, .nvm, .engs, .prot, .gauge] s s1 := Only.set_sup (Only.refl _ _) _ rfl
  have h2 : Only [.free, .sup, .boot, .ident, .hours, .nvm, .engs, .prot, .gauge] s s2 := Only.set_gauge h1 _ rfl
  have h3 : Only [.free, .sup, .boot, .ident, .hours, .nvm, .engs, .prot, .gauge] s s3 :=
    Only.post (Only.post (Only.set_boot h2 _ rfl) (dropFault_only ..) rfl) (recoverRecords_only ..) rfl
  have hid : Only [.free, .sup, .boot, .ident, .hours, .nvm, .engs, .prot, .gauge] s { s3 with ident := id, boot.step := .idRetry, boot.idTries := 0 } := Only.set_boot_ident h3 _ _ rfl
  have ht : Only [.free, .sup, .boot, .ident, .hours, .nvm, .engs, .prot, .gauge] s { s2 with boot.step := .tickWait } := Only.set_boot h2 _ rfl
  have hv : Only [.free, .sup, .boot, .ident, .hours, .nvm, .engs, .prot, .gauge] s (if s.outage.step = 0 && s1.sup.vaon then backToVaon s1 else s1) := by
    split
    · exact Only.post h1 (backToVaon_only ..) rfl
    · exact h1
  split at h
  · exact Host.Outcome.next.inj h ▸ h1
  · split at h
    · split at h
      · exact Host.Outcome.next.inj h ▸ ht
      · split at h
        · exact Only.post h3 (acceptIdentity_only _ _ _ h) rfl
        · exact Host.Outcome.next.inj h ▸ hid
    · split at h
      · exact Host.Outcome.next.inj h ▸ ht
      · split at h
        · exact Only.post h3 (acceptIdentity_only _ _ _ h) rfl
        · exact Host.Outcome.next.inj h ▸ hid
    · exact Host.Outcome.next.inj h ▸ hv

theorem execIdentityResense_only (id : BitVec 64) (s : State) (t : State) (h : execIdentityResense id s = .next t) :
    Only [.boot, .ident, .engs, .prot] s t := by
  unfold execIdentityResense at h
  split at h
  · cases h; exact Only.refl _ _
  · split at h
    · exact Only.mono (acceptIdentity_only _ _ _ h) rfl
    · split at h
      · cases h; exact Only.set_boot_ident (Only.refl _ _) _ _ rfl
      · rw [← Host.Outcome.next.inj h]
        exact Only.set_boot_ident (Only.mono (addFault_only ..) rfl) _ _ rfl

theorem execTickStartFail_only (s : State) (t : State) (h : execTickStartFail s = .next t) :
    Only [.prot] s t := by
  unfold execTickStartFail at h
  try dsimp only at h
  cases h
  repeat' first
    | (with_reducible exact Only.refl _ _)
    | (with_reducible assumption)
    | ((with_reducible apply Only.after (k := addFault_only ..)); case w => rfl)
    | (split)

theorem execCrystalQualify_only (s : State) (t : State) (h : execCrystalQualify s = .next t) :
    Only [.boot] s t := by
  unfold execCrystalQualify at h
  try dsimp only at h
  cases h
  repeat' first
    | (simp only [Only.mk_iff]; with_reducible refine Only.set_boot ?_ _ rfl)
    | (with_reducible exact Only.refl _ _)
    | (with_reducible assumption)
    | (split)

theorem execCrystalTimeout_only (s : State) (t : State) (h : execCrystalTimeout s = .next t) :
    Only [.boot] s t := by
  unfold execCrystalTimeout at h
  try dsimp only at h
  cases h
  repeat' first
    | (simp only [Only.mk_iff]; with_reducible refine Only.set_boot ?_ _ rfl)
    | (with_reducible exact Only.refl _ _)
    | (with_reducible assumption)
    | (split)

theorem execCrystalLoss_only (s : State) (t : State) (h : execCrystalLoss s = .next t) :
    Only [.boot, .prot] s t := by
  unfold execCrystalLoss at h
  try dsimp only at h
  cases h
  repeat' first
    | (simp only [Only.mk_iff]; with_reducible refine Only.set_boot ?_ _ rfl)
    | (with_reducible exact Only.refl _ _)
    | (with_reducible assumption)
    | ((with_reducible apply Only.after (k := addAlert_only ..)); case w => rfl)
    | (split)

theorem pfailNow_only (s : State) :
    Only [.free, .nvm, .flash, .xfer, .rules, .act, .bridle, .reg, .prot, .tether, .queues, .win, .gauge, .outage, .integ] s (pfailNow s) := by
  unfold pfailNow
  try dsimp only
  repeat' first
    | (with_reducible exact Only.refl _ _)
    | (with_reducible assumption)
    | ((with_reducible apply Only.after (k := fireStarter_only ..)); case w => rfl)
    | (split)

theorem bringUp_only (s : State) (l : List Nat) :
    Only [.rules, .act, .bridle, .prot, .tether, .queues, .win, .integ] s (bringUp s l) := by
  unfold bringUp
  try dsimp only
  repeat' first
    | (with_reducible exact Only.refl _ _)
    | (with_reducible assumption)
    | ((with_reducible apply Only.after (k := requestAll_only ..)); case w => rfl)
    | (split)

theorem writeNvm_only (s : State) (minVer : Word32) (keyHash : Option (BitVec 256)) :
    Only [.nvm] s (writeNvm s minVer keyHash) := by
  unfold writeNvm
  try dsimp only
  repeat' first
    | (simp only [Only.mk_iff]; with_reducible refine Only.set_nvm ?_ _ rfl)
    | (with_reducible exact Only.refl _ _)
    | (with_reducible assumption)
    | (split)

theorem checkNvm_only (s : State) :
    Only [.nvm, .prot] s (checkNvm s) := by
  unfold checkNvm
  try dsimp only
  repeat' first
    | (simp only [Only.mk_iff]; with_reducible refine Only.set_nvm ?_ _ rfl)
    | (with_reducible exact Only.refl _ _)
    | (with_reducible assumption)
    | ((with_reducible apply Only.after (k := writeNvm_only ..)); case w => rfl)
    | ((with_reducible apply Only.after (k := addFault_only ..)); case w => rfl)
    | (split)

theorem enterSafe_only (s0 : State) :
    Only [.free, .boot, .nvm, .flash, .reel, .xfer, .front, .rules, .act, .bridle, .reg, .prot, .tether, .queues, .win, .gauge, .outage, .integ] s0 (enterSafe s0) := by
  unfold enterSafe
  try dsimp only
  repeat' first
    | (simp only [Only.mk_iff]; with_reducible refine Only.set_boot_reel_front_queues ?_ _ _ _ _ rfl)
    | (with_reducible exact Only.refl _ _)
    | (with_reducible assumption)
    | ((with_reducible apply Only.after (k := checkNvm_only ..)); case w => rfl)
    | ((with_reducible apply Only.after (k := pfailNow_only ..)); case w => rfl)
    | ((with_reducible apply Only.after (k := bringUp_only ..)); case w => rfl)
    | ((with_reducible apply Only.after (k := safeRailsOff_only ..)); case w => rfl)
    | ((with_reducible apply Only.after (k := addFault_only ..)); case w => rfl)
    | (split)

theorem raiseKept_only (s : State) :
    Only [.act] s (raiseKept s) := by
  unfold raiseKept
  try dsimp only
  repeat' first
    | (simp only [Only.mk_iff]; with_reducible refine Only.set_act ?_ _ rfl)
    | (with_reducible exact Only.refl _ _)
    | (with_reducible assumption)
    | (split)

theorem strapAlarms_only (s : State) :
    Only [.straps, .prot] s (strapAlarms s) := by
  unfold strapAlarms
  try dsimp only
  repeat' first
    | (simp only [Only.mk_iff]; with_reducible refine Only.set_straps ?_ _ rfl)
    | (with_reducible exact Only.refl _ _)
    | (with_reducible assumption)
    | ((with_reducible apply Only.after (k := dropFault_only ..)); case w => rfl)
    | ((with_reducible apply Only.after (k := addFault_only ..)); case w => rfl)
    | ((with_reducible apply Only.after (k := addAlert_only ..)); case w => rfl)
    | (split)

theorem execStrapDecode_only (r : Vector (Vector Nat 3) 12) (t : Vector (Vector PullReading 3) 7) (s : State) (u : State) (h : execStrapDecode r t s = .next u) :
    Only [.free, .boot, .straps, .nvm, .flash, .reel, .xfer, .front, .rules, .act, .bridle, .reg, .prot, .tether, .queues, .win, .gauge, .outage, .integ] s u := by
  unfold execStrapDecode at h
  try dsimp only at h
  cases h
  repeat' first
    | (simp only [Only.mk_iff]; with_reducible refine Only.set_boot_straps ?_ _ _ rfl)
    | (with_reducible exact Only.refl _ _)
    | (with_reducible assumption)
    | ((with_reducible apply Only.after (k := raiseKept_only ..)); case w => rfl)
    | ((with_reducible apply Only.after (k := strapAlarms_only ..)); case w => rfl)
    | ((with_reducible apply Only.after (k := refreshStraps_only ..)); case w => rfl)
    | ((with_reducible apply Only.after (k := enterSafe_only ..)); case w => rfl)
    | (split)

theorem loaderOn_only (s : State) (v : Bool) :
    Only [.bridle] s (loaderOn s v) := by
  unfold loaderOn
  try dsimp only
  repeat' first
    | (with_reducible exact Only.refl _ _)
    | (with_reducible assumption)
    | ((with_reducible apply Only.after (k := modDom_only ..)); case w => rfl)
    | (split)

theorem execLoaderStart_only (s : State) (t : State) (h : execLoaderStart s = .next t) :
    Only [.boot, .bridle] s t := by
  unfold execLoaderStart at h
  try dsimp only at h
  cases h
  repeat' first
    | (simp only [Only.mk_iff]; with_reducible refine Only.set_boot ?_ _ rfl)
    | (with_reducible exact Only.refl _ _)
    | (with_reducible assumption)
    | ((with_reducible apply Only.after (k := loaderOn_only ..)); case w => rfl)
    | (split)

theorem execFlashProbe_only (j : BitVec 24) (f : FlashPart) (s : State) (t : State) (h : execFlashProbe j f s = .next t) :
    Only [.free, .boot, .nvm, .flash, .reel, .xfer, .front, .rules, .act, .bridle, .reg, .prot, .tether, .queues, .win, .gauge, .outage, .integ] s t := by
  unfold execFlashProbe at h
  try dsimp only at h
  cases h
  repeat' first
    | (simp only [Only.mk_iff]; with_reducible refine Only.set_boot ?_ _ rfl)
    | (with_reducible exact Only.refl _ _)
    | (with_reducible assumption)
    | ((with_reducible apply Only.after (k := enterSafe_only ..)); case w => rfl)
    | (split)

theorem abandonLoad_only (s : State) :
    Only [.boot, .bridle] s (abandonLoad s) := by
  unfold abandonLoad
  try dsimp only
  repeat' first
    | (simp only [Only.mk_iff]; with_reducible refine Only.set_boot ?_ _ rfl)
    | (with_reducible exact Only.refl _ _)
    | (with_reducible assumption)
    | ((with_reducible apply Only.after (k := loaderOn_only ..)); case w => rfl)
    | (split)

theorem adoptLabel_only (s : State) (l : BitVec 64) :
    Only [.front] s (adoptLabel s l) := by
  unfold adoptLabel
  try dsimp only
  repeat' first
    | (simp only [Only.mk_iff]; with_reducible refine Only.set_front ?_ _ rfl)
    | (with_reducible exact Only.refl _ _)
    | (with_reducible assumption)
    | (split)

theorem readopt_only (s : State) (c : Chan) :
    Only [.reg] s (readopt s c) := by
  unfold readopt
  try dsimp only
  repeat' first
    | (with_reducible exact Only.refl _ _)
    | (with_reducible assumption)
    | ((with_reducible apply Only.after (k := modChan_only ..)); case w => rfl)
    | (split)

theorem slewToReel_only (s : State) (c : Chan) :
    Only [.free, .reg] s (slewToReel s c) := by
  unfold slewToReel
  try dsimp only
  repeat' first
    | (with_reducible exact Only.refl _ _)
    | (with_reducible assumption)
    | ((with_reducible apply Only.after (k := startSlew_only ..)); case w => rfl)
    | (split)

theorem adoptReel_only (s : State) (n : NvmCopy) (slot : Fin 2) (h : Header) (key : List Byte × KeyForm) :
    Only [.boot, .nvm, .flash, .reel, .front, .rules, .bridle, .reg, .prot, .queues] s (adoptReel s n slot h key) := by
  unfold adoptReel
  try dsimp only
  repeat' first
    | (simp only [Only.mk_iff]; with_reducible refine Only.set_boot_reel_rules_reg_queues ?_ _ _ _ _ _ rfl)
    | (with_reducible exact Only.refl _ _)
    | (with_reducible assumption)
    | ((with_reducible apply Only.after (k := sealSlot_only ..)); case w => rfl)
    | ((with_reducible apply Only.after (k := writeNvm_only ..)); case w => rfl)
    | ((with_reducible apply Only.after (k := adoptLabel_only ..)); case w => rfl)
    | ((with_reducible apply Only.after (k := modDom_only ..)); case w => rfl)
    | ((with_reducible apply Only.after (k := addAlert_only ..)); case w => rfl)
    | ((with_reducible apply Only.after (k := readopt_only ..)); case w => rfl)
    | (split)

theorem reportReset_only (s : State) :
    Only [.queues, .integ] s (reportReset s) := by
  unfold reportReset
  try dsimp only
  repeat' first
    | (with_reducible exact Only.refl _ _)
    | (with_reducible assumption)
    | ((with_reducible apply Only.after (k := watermarkReport_only ..)); case w => rfl)
    | (split)

theorem bootProfile_only (s : State) (k vsel : Fin 8) :
    Only [.free, .boot, .pins, .nvm, .flash, .xfer, .rules, .act, .bridle, .reg, .prot, .tether, .queues, .win, .gauge, .outage, .integ] s (bootProfile s k vsel) := by
  unfold bootProfile
  try dsimp only
  repeat' first
    | (simp only [Only.mk_iff]; with_reducible refine Only.set_boot ?_ _ rfl)
    | (simp only [Only.mk_iff]; with_reducible refine Only.set_bridle ?_ _ rfl)
    | (simp only [Only.mk_iff]; with_reducible refine Only.set_boot_bridle ?_ _ _ rfl)
    | (with_reducible exact Only.refl _ _)
    | (with_reducible assumption)
    | ((with_reducible apply Only.after (k := fireStarter_only ..)); case w => rfl)
    | ((with_reducible apply Only.after (k := passProfile_only ..)); case w => rfl)
    | ((with_reducible apply Only.after (k := startJob_only ..)); case w => rfl)
    | (split)

theorem execReelLoad_only (vsel : Fin 8) (s : State) (t : State) (h : execReelLoad vsel s = .next t) :
    Only [.free, .boot, .pins, .nvm, .flash, .reel, .xfer, .front, .rules, .act, .bridle, .reg, .prot, .tether, .queues, .win, .gauge, .outage, .integ] s t := by
  unfold execReelLoad at h
  try dsimp only at h
  cases h
  repeat' first
    | (simp only [Only.mk_iff]; with_reducible refine Only.set_boot ?_ _ rfl)
    | (with_reducible exact Only.refl _ _)
    | (with_reducible assumption)
    | ((with_reducible apply Only.after (k := enterSafe_only ..)); case w => rfl)
    | ((with_reducible apply Only.after (k := checkNvm_only ..)); case w => rfl)
    | ((with_reducible apply Only.after (k := reportReset_only ..)); case w => rfl)
    | ((with_reducible apply Only.after (k := adoptReel_only ..)); case w => rfl)
    | ((with_reducible apply Only.after (k := bootProfile_only ..)); case w => rfl)
    | ((with_reducible apply Only.after (k := slewToReel_only ..)); case w => rfl)
    | (split)

theorem execSlotVerified_only (s : State) (t : State) (h : execSlotVerified s = .next t) :
    Only [.free, .boot, .tap, .nvm, .reel, .xfer, .front, .rules, .engs, .act, .bridle, .reg, .prot, .mons, .tether, .queues, .drop, .win, .gauge, .outage, .integ, .pace] s t := by
  unfold execSlotVerified at h
  try dsimp only at h
  cases h
  repeat' first
    | (simp only [Only.mk_iff]; with_reducible refine Only.set_xfer ?_ _ rfl)
    | (simp only [Only.mk_iff]; with_reducible refine Only.set_queues ?_ _ rfl)
    | (simp only [Only.mk_iff]; with_reducible refine Only.set_xfer_queues ?_ _ _ rfl)
    | (with_reducible exact Only.refl _ _)
    | (with_reducible assumption)
    | ((with_reducible apply Only.after (k := enterStep5Boot_only ..)); case w => rfl)
    | ((with_reducible apply Only.after (k := resetState_only ..)); case w => rfl)
    | ((with_reducible apply Only.after (k := addEntry_only ..)); case w => rfl)
    | (split)

theorem pwmLost_only (s : State) (c : Chan) :
    Only [.free, .reg] s (pwmLost s c) := by
  unfold pwmLost
  try dsimp only
  repeat' first
    | (with_reducible exact Only.refl _ _)
    | (with_reducible assumption)
    | ((with_reducible apply Only.after (k := stopChan_only ..)); case w => rfl)
    | (split)

theorem vioLost_only (s : State) :
    Only [.bridle, .queues, .drop, .win] s (vioLost s) := by
  unfold vioLost
  try dsimp only
  repeat' first
    | (simp only [Only.mk_iff]; with_reducible refine Only.set_bridle_drop_win ?_ _ _ _ rfl)
    | (with_reducible exact Only.refl _ _)
    | (with_reducible assumption)
    | ((with_reducible apply Only.after (k := markBusy_only ..)); case w => rfl)
    | (split)

theorem supplyFalls_only (s : State) (x : Supply) (snap : Snap) :
    Only [.free, .sup, .boot, .xfer, .front, .rules, .engs, .act, .bridle, .reg, .prot, .mons, .tether, .queues, .drop, .win, .gauge, .outage, .integ] s (supplyFalls s x snap) := by
  unfold supplyFalls
  try dsimp only
  repeat' first
    | (simp only [Only.mk_iff]; with_reducible refine Only.set_sup ?_ _ rfl)
    | (with_reducible exact Only.refl _ _)
    | (with_reducible assumption)
    | ((with_reducible apply Only.after (k := capture_only ..)); case w => rfl)
    | ((with_reducible apply Only.after (k := forceDown_only ..)); case w => rfl)
    | ((with_reducible apply Only.after (k := abandonLoad_only ..)); case w => rfl)
    | ((with_reducible apply Only.after (k := vioLost_only ..)); case w => rfl)
    | ((with_reducible apply Only.after (k := pwmLost_only ..)); case w => rfl)
    | ((with_reducible apply Only.after (k := backToVaon_only ..)); case w => rfl)
    | ((with_reducible apply Only.after (k := outageGoesOn_only ..)); case w => rfl)
    | ((with_reducible apply Only.after (k := settle_only ..)); case w => rfl)
    | ((with_reducible apply Only.foldl); intro _ _ _)
    | ((with_reducible apply Only.foldl_fst); intro _ _ _)
    | (split)

theorem execSupplyFall_only (x : Supply) (snap : Snap) (s : State) (t : State) (h : execSupplyFall x snap s = .next t) :
    Only [.free, .sup, .boot, .xfer, .front, .rules, .engs, .act, .bridle, .reg, .prot, .mons, .tether, .queues, .drop, .win, .gauge, .outage, .integ] s t := by
  unfold execSupplyFall at h
  try dsimp only at h
  cases h
  repeat' first
    | (with_reducible exact Only.refl _ _)
    | (with_reducible assumption)
    | ((with_reducible apply Only.after (k := supplyFalls_only ..)); case w => rfl)
    | (split)

theorem execLoadAbandon_only (x : Supply) (s : State) (t : State) (h : execLoadAbandon x s = .next t) :
    Only [.free, .sup, .boot, .xfer, .front, .rules, .engs, .act, .bridle, .reg, .prot, .mons, .tether, .queues, .drop, .win, .gauge, .outage, .integ] s t := by
  unfold execLoadAbandon at h
  try dsimp only at h
  cases h
  repeat' first
    | (simp only [Only.mk_iff]; with_reducible refine Only.set_sup_gauge ?_ _ _ rfl)
    | (with_reducible exact Only.refl _ _)
    | (with_reducible assumption)
    | ((with_reducible apply Only.after (k := freeSnap_only ..)); case w => rfl)
    | ((with_reducible apply Only.after (k := supplyFalls_only ..)); case w => rfl)
    | ((with_reducible apply Only.after (k := abandonLoad_only ..)); case w => rfl)
    | (split)

theorem execVioRise_only (q : BitVec 6) (csN oeN : Bool) (s : State) (t : State) (h : execVioRise q csN oeN s = .next t) :
    Only [.sup, .win] s t := by
  unfold execVioRise at h
  try dsimp only at h
  cases h
  repeat' first
    | (simp only [Only.mk_iff]; with_reducible refine Only.set_sup ?_ _ rfl)
    | (simp only [Only.mk_iff]; with_reducible refine Only.set_win ?_ _ rfl)
    | (simp only [Only.mk_iff]; with_reducible refine Only.set_sup_win ?_ _ _ rfl)
    | (with_reducible exact Only.refl _ _)
    | (with_reducible assumption)
    | (split)

theorem tapForces_only (s : State) :
    Only [.free, .tap, .rules, .act, .bridle, .reg, .prot, .tether, .queues, .win, .integ] s (tapForces s) := by
  unfold tapForces
  try dsimp only
  repeat' first
    | (simp only [Only.mk_iff]; with_reducible refine Only.set_tap ?_ _ rfl)
    | (with_reducible exact Only.refl _ _)
    | (with_reducible assumption)
    | ((with_reducible apply Only.after (k := setPwm_only ..)); case w => rfl)
    | ((with_reducible apply Only.after (k := modChan_only ..)); case w => rfl)
    | ((with_reducible apply Only.after (k := stopChan_only ..)); case w => rfl)
    | ((with_reducible apply Only.after (k := modLink_only ..)); case w => rfl)
    | ((with_reducible apply Only.after (k := portDownAs_only ..)); case w => rfl)
    | (split)

theorem execExtest_only (b : BitVec 128) (s : State) (t : State) (h : execExtest b s = .next t) :
    Only [.free, .tap, .rules, .act, .bridle, .reg, .prot, .tether, .queues, .win, .integ] s t := by
  unfold execExtest at h
  try dsimp only at h
  cases h
  repeat' first
    | (simp only [Only.mk_iff]; with_reducible refine Only.set_tap ?_ _ rfl)
    | (with_reducible exact Only.refl _ _)
    | (with_reducible assumption)
    | ((with_reducible apply Only.after (k := tapForces_only ..)); case w => rfl)
    | (split)

theorem execSamplePreload_only (s : State) (t : State) (h : execSamplePreload s = .next t) :
    Only [.free, .tap] s t := by
  unfold execSamplePreload at h
  try dsimp only at h
  cases h
  repeat' first
    | (simp only [Only.mk_iff]; with_reducible refine Only.set_tap ?_ _ rfl)
    | (with_reducible exact Only.refl _ _)
    | (with_reducible assumption)
    | ((with_reducible apply Only.after (k := takeFree_only ..)); case w => rfl)
    | (split)

theorem execClamp_only (b : BitVec 128) (s : State) (t : State) (h : execClamp b s = .next t) :
    Only [.free, .tap, .rules, .act, .bridle, .reg, .prot, .tether, .queues, .win, .integ] s t := by
  unfold execClamp at h
  try dsimp only at h
  cases h
  repeat' first
    | (simp only [Only.mk_iff]; with_reducible refine Only.set_tap ?_ _ rfl)
    | (with_reducible exact Only.refl _ _)
    | (with_reducible assumption)
    | ((with_reducible apply Only.after (k := tapForces_only ..)); case w => rfl)
    | (split)

theorem execHighz_only (s : State) (t : State) (h : execHighz s = .next t) :
    Only [.free, .tap, .rules, .act, .bridle, .reg, .prot, .tether, .queues, .win, .integ] s t := by
  unfold execHighz at h
  try dsimp only at h
  cases h
  repeat' first
    | (simp only [Only.mk_iff]; with_reducible refine Only.set_tap ?_ _ rfl)
    | (with_reducible exact Only.refl _ _)
    | (with_reducible assumption)
    | ((with_reducible apply Only.after (k := tapForces_only ..)); case w => rfl)
    | (split)

theorem execBypass_only (s : State) (t : State) (h : execBypass s = .next t) :
    Only [.tap] s t := by
  unfold execBypass at h
  try dsimp only at h
  cases h
  repeat' first
    | (simp only [Only.mk_iff]; with_reducible refine Only.set_tap ?_ _ rfl)
    | (with_reducible exact Only.refl _ _)
    | (with_reducible assumption)
    | (split)

end Sys2Proof.Machine
end

