-- ==== Sys2Proof/Laws/BridleRise.lean ====
section
/-! SUPPORT. The definitions of Machine/Bridle.lean that reach Bridle turn no domain on. -/

namespace Sys2Proof.Machine

theorem refuseSetpoint_noRise (s : State) (j : Job) (c : Chan) :
    NoRise s (refuseSetpoint s j c).1 := by
  unfold refuseSetpoint
  try dsimp only
  repeat' first
    | (with_reducible exact NoRise.refl _)
    | (with_reducible assumption)
    | (with_reducible apply NoRise.after (k := w0bEntry_noRise ..))
    | (split)

theorem takeBehind_noRise (s : State) (k : Nat) :
    NoRise s (takeBehind s k) := by
  unfold takeBehind
  try dsimp only
  repeat' first
    | (simp only [NoRise.mk_iff]; with_reducible refine NoRise.mk_bridle ?_)
    | (with_reducible exact NoRise.refl _)
    | (with_reducible assumption)
    | (with_reducible apply NoRise.after (k := request_noRise ..))
    | ((with_reducible apply NoRise.after_only (k := railAsked_only ..)); case w => rfl)
    | ((with_reducible apply NoRise.foldl); intro _ _ _)
    | ((with_reducible apply NoRise.foldl_fst); intro _ _ _)
    | (split)

theorem startJob_noRise (s : State) (j : Job) (v : Fin 8) :
    NoRise s (startJob s j v) := by
  unfold startJob
  try dsimp only
  repeat' first
    | (simp only [NoRise.mk_iff]; with_reducible refine NoRise.mk_same ?_)
    | (simp only [NoRise.mk_iff]; with_reducible refine NoRise.mk_bridle ?_)
    | (with_reducible exact NoRise.refl _)
    | (with_reducible assumption)
    | (with_reducible apply NoRise.after (k := refuseSetpoint_noRise ..))
    | ((with_reducible apply NoRise.after_only (k := selectIndex_only ..)); case w => rfl)
    | ((with_reducible apply NoRise.after_only (k := railAsked_only ..)); case w => rfl)
    | (with_reducible apply NoRise.after (k := takeBehind_noRise ..))
    | (with_reducible apply NoRise.after (k := jobComplete_noRise ..))
    | (with_reducible apply NoRise.after (k := request_noRise ..))
    | (with_reducible apply NoRise.after (k := enqueue_noRise ..))
    | (with_reducible apply NoRise.after (k := settle_noRise ..))
    | ((with_reducible apply NoRise.foldl); intro _ _ _)
    | ((with_reducible apply NoRise.foldl_fst); intro _ _ _)
    | (split)

theorem execProfileStart_noRise (vsel : Fin 8) (s : State) (t : State) (h : execProfileStart vsel s = .next t) :
    NoRise s t := by
  unfold execProfileStart at h
  try dsimp only at h
  cases h
  repeat' first
    | (simp only [NoRise.mk_iff]; with_reducible refine NoRise.mk_bridle ?_)
    | (with_reducible exact NoRise.refl _)
    | (with_reducible assumption)
    | (with_reducible apply NoRise.after (k := startJob_noRise ..))
    | (split)

theorem hostAnswer_noRise (s : State) (pres : BitVec 2) :
    NoRise s (hostAnswer s pres) := by
  unfold hostAnswer
  try dsimp only
  repeat' first
    | (simp only [NoRise.mk_iff]; with_reducible refine NoRise.mk_bridle ?_)
    | (with_reducible exact NoRise.refl _)
    | (with_reducible assumption)
    | (split)

theorem hostRefuse_noRise (s : State) (sel : BitVec 5) (reason : BitVec 4) :
    NoRise s (hostRefuse s sel reason) := by
  unfold hostRefuse
  try dsimp only
  repeat' first
    | (with_reducible exact NoRise.refl _)
    | (with_reducible assumption)
    | (with_reducible apply NoRise.after (k := hostAnswer_noRise ..))
    | (with_reducible apply NoRise.after (k := w0bEntry_noRise ..))
    | (split)

theorem hostState_noRise (s : State) (d : Fin 20) (t : DS) :
    NoRise s (hostState s d t) := by
  unfold hostState
  try dsimp only
  repeat' first
    | (simp only [NoRise.mk_iff]; with_reducible refine NoRise.mk_bridle ?_)
    | (with_reducible exact NoRise.refl _)
    | (with_reducible assumption)
    | (with_reducible apply NoRise.after (k := hostRefuse_noRise ..))
    | (with_reducible apply NoRise.after (k := settle_noRise ..))
    | ((with_reducible apply NoRise.modDom); case hf => (intro m h; simp_all [dropIdle]))
    | (with_reducible apply NoRise.after (k := hostAnswer_noRise ..))
    | ((with_reducible apply NoRise.after_only (k := railAsked_only ..)); case w => rfl)
    | (with_reducible apply NoRise.after (k := request_noRise ..))
    | (split)

theorem execHostOff_noRise (d : Fin 20) (s : State) (t : State) (h : execHostOff d s = .next t) :
    NoRise s t := by
  unfold execHostOff at h
  try dsimp only at h
  cases h
  repeat' first
    | (with_reducible exact NoRise.refl _)
    | (with_reducible assumption)
    | (with_reducible apply NoRise.after (k := hostState_noRise ..))
    | (split)

theorem execHostRetention_noRise (d : Fin 20) (s : State) (t : State) (h : execHostRetention d s = .next t) :
    NoRise s t := by
  unfold execHostRetention at h
  try dsimp only at h
  cases h
  repeat' first
    | (with_reducible exact NoRise.refl _)
    | (with_reducible assumption)
    | (with_reducible apply NoRise.after (k := hostState_noRise ..))
    | (split)

theorem execHostOn_noRise (d : Fin 20) (s : State) (t : State) (h : execHostOn d s = .next t) :
    NoRise s t := by
  unfold execHostOn at h
  try dsimp only at h
  cases h
  repeat' first
    | (with_reducible exact NoRise.refl _)
    | (with_reducible assumption)
    | (with_reducible apply NoRise.after (k := hostState_noRise ..))
    | (split)

theorem execHostQuery_noRise (d : Fin 20) (s : State) (t : State) (h : execHostQuery d s = .next t) :
    NoRise s t := by
  unfold execHostQuery at h
  try dsimp only at h
  cases h
  repeat' first
    | (with_reducible exact NoRise.refl _)
    | (with_reducible assumption)
    | (with_reducible apply NoRise.after (k := hostRefuse_noRise ..))
    | (with_reducible apply NoRise.after (k := hostAnswer_noRise ..))
    | (split)

theorem execHostApply_noRise (k : Fin 8) (s : State) (t : State) (h : execHostApply k s = .next t) :
    NoRise s t := by
  unfold execHostApply at h
  try dsimp only at h
  cases h
  repeat' first
    | (with_reducible exact NoRise.refl _)
    | (with_reducible assumption)
    | (with_reducible apply NoRise.after (k := hostRefuse_noRise ..))
    | (with_reducible apply NoRise.after (k := passProfile_noRise ..))
    | (with_reducible apply NoRise.after (k := hostAnswer_noRise ..))
    | (split)

theorem execHostInvalidCommand_noRise (psel : BitVec 5) (pcmd : BitVec 2) (s : State) (t : State) (h : execHostInvalidCommand psel pcmd s = .next t) :
    NoRise s t := by
  unfold execHostInvalidCommand at h
  try dsimp only at h
  cases h
  repeat' first
    | (with_reducible exact NoRise.refl _)
    | (with_reducible assumption)
    | (with_reducible apply NoRise.after (k := hostRefuse_noRise ..))
    | (split)

theorem execPstbFall_noRise (s : State) (t : State) (h : execPstbFall s = .next t) :
    NoRise s t := by
  unfold execPstbFall at h
  try dsimp only at h
  cases h
  repeat' first
    | (simp only [NoRise.mk_iff]; with_reducible refine NoRise.mk_bridle ?_)
    | (with_reducible exact NoRise.refl _)
    | (with_reducible assumption)
    | (split)

theorem toStage_noRise (s : State) (d : Nat) (q : Req) (g : Stage) :
    NoRise s (toStage s d q g) := by
  unfold toStage
  try dsimp only
  repeat' first
    | (with_reducible exact NoRise.refl _)
    | (with_reducible assumption)
    | ((with_reducible apply NoRise.modDom); case hf => (intro m h; simp_all))
    | (split)

theorem execAsk_noRise (d : Fin 20) (s : State) (t : State) (h : execAsk d s = .next t) :
    NoRise s t := by
  unfold execAsk at h
  try dsimp only at h
  cases h
  repeat' first
    | (with_reducible exact NoRise.refl _)
    | (with_reducible assumption)
    | (with_reducible apply NoRise.after (k := toStage_noRise ..))
    | (split)

theorem execDrain_noRise (d : Fin 20) (s : State) (t : State) (h : execDrain d s = .next t) :
    NoRise s t := by
  unfold execDrain at h
  try dsimp only at h
  cases h
  repeat' first
    | (with_reducible exact NoRise.refl _)
    | (with_reducible assumption)
    | (with_reducible apply NoRise.after (k := toStage_noRise ..))
    | ((with_reducible apply NoRise.after_only (k := beginStop_only ..)); case w => rfl)
    | (split)

theorem execGrant_noRise (d : Fin 20) (s : State) (t : State) (h : execGrant d s = .next t) :
    NoRise s t := by
  unfold execGrant at h
  rw [← Host.Outcome.next.inj h]
  split
  · rename_i q hq
    have hx : q.target ≠ .on := by
      unfold askedFor at hq
      split at hq
      all_goals first | (split at hq <;> first | (cases hq; assumption) | cases hq) | cases hq
    split
    · exact NoRise.after (leaveNow_noRise _ _ _ hx) (outageGoesOn_noRise ..)
    · exact NoRise.refl _
  · exact NoRise.refl _

theorem execRefuse_noRise (d : Fin 20) (s : State) (t : State) (h : execRefuse d s = .next t) :
    NoRise s t := by
  unfold execRefuse at h
  try dsimp only at h
  cases h
  repeat' first
    | (with_reducible exact NoRise.refl _)
    | (with_reducible assumption)
    | (with_reducible apply NoRise.after (k := outageGoesOn_noRise ..))
    | (with_reducible apply NoRise.after (k := settle_noRise ..))
    | (with_reducible apply NoRise.after (k := refuseBelow_noRise ..))
    | (with_reducible apply NoRise.after (k := resolve_noRise ..))
    | (with_reducible apply NoRise.after (k := endCur_noRise ..))
    | (split)

theorem execHold_noRise (d : Fin 20) (s : State) (t : State) (h : execHold d s = .next t) :
    NoRise s t := by
  unfold execHold at h
  try dsimp only at h
  cases h
  repeat' first
    | (with_reducible exact NoRise.refl _)
    | (with_reducible assumption)
    | (with_reducible apply NoRise.after (k := toStage_noRise ..))
    | (split)

theorem failWaiting_noRise (s : State) (d : Nat) :
    NoRise s (failWaiting s d) := by
  unfold failWaiting
  try dsimp only
  repeat' first
    | (with_reducible exact NoRise.refl _)
    | (with_reducible assumption)
    | (with_reducible apply NoRise.after (k := resolve_noRise ..))
    | ((with_reducible apply NoRise.modDom); case hf => (intro m h; simp_all))
    | ((with_reducible apply NoRise.foldl); intro _ _ _)
    | ((with_reducible apply NoRise.foldl_fst); intro _ _ _)
    | (split)

theorem execDomainFaulty_noRise (d : Fin 20) (snap : Snap) (s : State) (t : State) (h : execDomainFaulty d snap s = .next t) :
    NoRise s t := by
  unfold execDomainFaulty at h
  try dsimp only at h
  cases h
  repeat' first
    | (with_reducible exact NoRise.refl _)
    | (with_reducible assumption)
    | ((with_reducible apply NoRise.after_only (k := slowLost_only ..)); case w => rfl)
    | (with_reducible apply NoRise.after (k := loseEngine_noRise ..))
    | (with_reducible apply NoRise.after (k := capture_noRise ..))
    | (with_reducible apply NoRise.after (k := forceDown_noRise ..))
    | ((with_reducible apply NoRise.modDom); case hf => (intro m h; simp_all))
    | (with_reducible apply NoRise.after (k := outageGoesOn_noRise ..))
    | (with_reducible apply NoRise.after (k := askAgain_noRise ..))
    | (with_reducible apply NoRise.after (k := failWaiting_noRise ..))
    | (split)

theorem execIdleRequest_noRise (d : Fin 20) (s : State) (t : State) (h : execIdleRequest d s = .next t) :
    NoRise s t := by
  unfold execIdleRequest at h
  try dsimp only at h
  cases h
  repeat' first
    | (with_reducible exact NoRise.refl _)
    | (with_reducible assumption)
    | (with_reducible apply NoRise.after (k := request_noRise ..))
    | (split)

theorem execRmapChange_noRise (v : Fin 4) (s : State) (t : State) (h : execRmapChange v s = .next t) :
    NoRise s t := by
  unfold execRmapChange at h
  rw [← Host.Outcome.next.inj h]
  refine NoRise.foldl (fun t x h => ?_) _ (NoRise.of_doms rfl)
  split
  · exact NoRise.after h (loseBanks_noRise ..)
  · exact h

theorem execDrained_noRise (d : Fin 20) (s : State) (t : State) (h : execDrained d s = .next t) :
    NoRise s t := by
  unfold execDrained at h
  rw [← Host.Outcome.next.inj h]
  repeat' first
    | (with_reducible exact NoRise.refl _)
    | exact NoRise.after (leaveNow_noRise _ _ _ (by with_reducible assumption)) (outageGoesOn_noRise ..)
    | split

end Sys2Proof.Machine
end

