-- ==== Sys2Proof/Laws/BootRise.lean ====
section
/-! SUPPORT. The definitions of Machine/Boot.lean that reach Bridle turn no domain on. -/

namespace Sys2Proof.Machine

theorem resetState_fall (s : State) (rcause : Byte) (e : Nat) (he : isOn (resetState s rcause) e = true) : isOn s e = true := by
  unfold resetState at he
  extract_lets m a warm s0 dz dom sb st sn sf se sa sbr sp sm sq s1 at he
  have h1 : ∀ e, isOn s1 e = true → isOn s e = true := by
    intro e he
    have hm : m = true → isOn s 17 = true := fun h => by simp [m, keepsRunning, chanDom] at h; exact h.1.2
    have ha : a = true → isOn s 18 = true := fun h => by simp [a, keepsRunning, chanDom] at h; exact h.1.2
    have hd : ((decide (e = 17) && m) || (decide (e = 18) && a)) = true := by
      simp only [isOn, domSt, Machine.dom, s1, vget, vgen, Vector.getElem_ofFn, beq_iff_eq] at he
      split at he
      · dsimp only [dom] at he
        split at he
        · assumption
        · cases he
      · cases he
    simp only [Bool.or_eq_true, Bool.and_eq_true, decide_eq_true_eq] at hd
    rcases hd with ⟨rfl, h⟩ | ⟨rfl, h⟩
    · exact hm h
    · exact ha h
  split at he
  · exact h1 e ((NoRise.of_only (backToVaon_only s1) rfl).fall e he)
  · exact h1 e he


theorem resetState_noRise (s : State) (rcause : Byte) :
    NoRise s (resetState s rcause) := by
  exact ⟨fun e he => resetState_fall s rcause e he⟩

theorem pfailNow_noRise (s : State) :
    NoRise s (pfailNow s) := by
  unfold pfailNow
  try dsimp only
  repeat' first
    | (with_reducible exact NoRise.refl _)
    | (with_reducible assumption)
    | (with_reducible apply NoRise.after (k := fireStarter_noRise ..))
    | (split)

theorem bringUp_noRise (s : State) (l : List Nat) :
    NoRise s (bringUp s l) := by
  unfold bringUp
  try dsimp only
  repeat' first
    | (with_reducible exact NoRise.refl _)
    | (with_reducible assumption)
    | (with_reducible apply NoRise.after (k := requestAll_noRise ..))
    | (split)

theorem enterSafe_noRise (s0 : State) :
    NoRise s0 (enterSafe s0) := by
  unfold enterSafe
  try dsimp only
  repeat' first
    | (simp only [NoRise.mk_iff]; with_reducible refine NoRise.mk_same ?_)
    | (with_reducible exact NoRise.refl _)
    | (with_reducible assumption)
    | ((with_reducible apply NoRise.after_only (k := checkNvm_only ..)); case w => rfl)
    | (with_reducible apply NoRise.after (k := pfailNow_noRise ..))
    | (with_reducible apply NoRise.after (k := bringUp_noRise ..))
    | (with_reducible apply NoRise.after (k := safeRailsOff_noRise ..))
    | ((with_reducible apply NoRise.after_only (k := addFault_only ..)); case w => rfl)
    | (split)

theorem execStrapDecode_noRise (r : Vector (Vector Nat 3) 12) (t : Vector (Vector PullReading 3) 7) (s : State) (u : State) (h : execStrapDecode r t s = .next u) :
    NoRise s u := by
  unfold execStrapDecode at h
  try dsimp only at h
  cases h
  repeat' first
    | (simp only [NoRise.mk_iff]; with_reducible refine NoRise.mk_same ?_)
    | (with_reducible exact NoRise.refl _)
    | (with_reducible assumption)
    | ((with_reducible apply NoRise.after_only (k := raiseKept_only ..)); case w => rfl)
    | ((with_reducible apply NoRise.after_only (k := strapAlarms_only ..)); case w => rfl)
    | ((with_reducible apply NoRise.after_only (k := refreshStraps_only ..)); case w => rfl)
    | (with_reducible apply NoRise.after (k := enterSafe_noRise ..))
    | (split)

theorem execFlashProbe_noRise (j : BitVec 24) (f : FlashPart) (s : State) (t : State) (h : execFlashProbe j f s = .next t) :
    NoRise s t := by
  unfold execFlashProbe at h
  try dsimp only at h
  cases h
  repeat' first
    | (simp only [NoRise.mk_iff]; with_reducible refine NoRise.mk_same ?_)
    | (with_reducible exact NoRise.refl _)
    | (with_reducible assumption)
    | (with_reducible apply NoRise.after (k := enterSafe_noRise ..))
    | (split)

theorem abandonLoad_noRise (s : State) :
    NoRise s (abandonLoad s) := by
  unfold abandonLoad
  split
  · exact NoRise.modDom (fun m h => by cases h) (NoRise.of_doms rfl)
  · exact NoRise.modDom (fun m h => by cases h) (NoRise.of_doms rfl)
  · exact NoRise.refl _

theorem bootProfile_noRise (s : State) (k vsel : Fin 8) :
    NoRise s (bootProfile s k vsel) := by
  unfold bootProfile
  try dsimp only
  repeat' first
    | (simp only [NoRise.mk_iff]; with_reducible refine NoRise.mk_same ?_)
    | (simp only [NoRise.mk_iff]; with_reducible refine NoRise.mk_bridle ?_)
    | (with_reducible exact NoRise.refl _)
    | (with_reducible assumption)
    | (with_reducible apply NoRise.after (k := fireStarter_noRise ..))
    | (with_reducible apply NoRise.after (k := passProfile_noRise ..))
    | (with_reducible apply NoRise.after (k := startJob_noRise ..))
    | (split)

theorem vioLost_noRise (s : State) :
    NoRise s (vioLost s) := by
  unfold vioLost
  try dsimp only
  repeat' first
    | (simp only [NoRise.mk_iff]; with_reducible refine NoRise.mk_bridle ?_)
    | (with_reducible exact NoRise.refl _)
    | (with_reducible assumption)
    | ((with_reducible apply NoRise.after_only (k := markBusy_only ..)); case w => rfl)
    | (split)

theorem supplyFalls_noRise (s : State) (x : Supply) (snap : Snap) :
    NoRise s (supplyFalls s x snap) := by
  unfold supplyFalls
  try dsimp only
  repeat' first
    | (simp only [NoRise.mk_iff]; with_reducible refine NoRise.mk_same ?_)
    | (with_reducible exact NoRise.refl _)
    | (with_reducible assumption)
    | (with_reducible apply NoRise.after (k := capture_noRise ..))
    | (with_reducible apply NoRise.after (k := forceDown_noRise ..))
    | (with_reducible apply NoRise.after (k := abandonLoad_noRise ..))
    | (with_reducible apply NoRise.after (k := vioLost_noRise ..))
    | ((with_reducible apply NoRise.after_only (k := pwmLost_only ..)); case w => rfl)
    | ((with_reducible apply NoRise.after_only (k := backToVaon_only ..)); case w => rfl)
    | (with_reducible apply NoRise.after (k := outageGoesOn_noRise ..))
    | (with_reducible apply NoRise.after (k := settle_noRise ..))
    | ((with_reducible apply NoRise.foldl); intro _ _ _)
    | ((with_reducible apply NoRise.foldl_fst); intro _ _ _)
    | (split)

theorem execSupplyFall_noRise (x : Supply) (snap : Snap) (s : State) (t : State) (h : execSupplyFall x snap s = .next t) :
    NoRise s t := by
  unfold execSupplyFall at h
  try dsimp only at h
  cases h
  repeat' first
    | (with_reducible exact NoRise.refl _)
    | (with_reducible assumption)
    | (with_reducible apply NoRise.after (k := supplyFalls_noRise ..))
    | (split)

theorem execLoadAbandon_noRise (x : Supply) (s : State) (t : State) (h : execLoadAbandon x s = .next t) :
    NoRise s t := by
  unfold execLoadAbandon at h
  try dsimp only at h
  cases h
  repeat' first
    | (simp only [NoRise.mk_iff]; with_reducible refine NoRise.mk_same ?_)
    | (with_reducible exact NoRise.refl _)
    | (with_reducible assumption)
    | ((with_reducible apply NoRise.after_only (k := freeSnap_only ..)); case w => rfl)
    | (with_reducible apply NoRise.after (k := supplyFalls_noRise ..))
    | (with_reducible apply NoRise.after (k := abandonLoad_noRise ..))
    | (split)

theorem tapForces_noRise (s : State) :
    NoRise s (tapForces s) := by
  unfold tapForces
  try dsimp only
  repeat' first
    | (simp only [NoRise.mk_iff]; with_reducible refine NoRise.mk_same ?_)
    | (with_reducible exact NoRise.refl _)
    | (with_reducible assumption)
    | ((with_reducible apply NoRise.after_only (k := setPwm_only ..)); case w => rfl)
    | ((with_reducible apply NoRise.after_only (k := modChan_only ..)); case w => rfl)
    | ((with_reducible apply NoRise.after_only (k := stopChan_only ..)); case w => rfl)
    | ((with_reducible apply NoRise.after_only (k := modLink_only ..)); case w => rfl)
    | (with_reducible apply NoRise.after (k := portDownAs_noRise ..))
    | (split)

theorem execExtest_noRise (b : BitVec 128) (s : State) (t : State) (h : execExtest b s = .next t) :
    NoRise s t := by
  unfold execExtest at h
  try dsimp only at h
  cases h
  repeat' first
    | (simp only [NoRise.mk_iff]; with_reducible refine NoRise.mk_same ?_)
    | (with_reducible exact NoRise.refl _)
    | (with_reducible assumption)
    | (with_reducible apply NoRise.after (k := tapForces_noRise ..))
    | (split)

theorem execClamp_noRise (b : BitVec 128) (s : State) (t : State) (h : execClamp b s = .next t) :
    NoRise s t := by
  unfold execClamp at h
  try dsimp only at h
  cases h
  repeat' first
    | (simp only [NoRise.mk_iff]; with_reducible refine NoRise.mk_same ?_)
    | (with_reducible exact NoRise.refl _)
    | (with_reducible assumption)
    | (with_reducible apply NoRise.after (k := tapForces_noRise ..))
    | (split)

theorem execHighz_noRise (s : State) (t : State) (h : execHighz s = .next t) :
    NoRise s t := by
  unfold execHighz at h
  try dsimp only at h
  cases h
  repeat' first
    | (simp only [NoRise.mk_iff]; with_reducible refine NoRise.mk_same ?_)
    | (with_reducible exact NoRise.refl _)
    | (with_reducible assumption)
    | (with_reducible apply NoRise.after (k := tapForces_noRise ..))
    | (split)

theorem execDevicePor_fall (s t : State) (h : execDevicePor s = .next t) (e : Nat) : isOn t e = false := by
  rw [← Host.Outcome.next.inj h]
  have : domSt State.reset e = .off := by
    unfold domSt dom vget
    split
    · simp [State.reset, Bridle.zero, Dom.zero]
    · rfl
  show (domSt State.reset e == DS.on) = false
  rw [this]; rfl

end Sys2Proof.Machine
end

