-- ==== Sys2Proof/Laws/LinkRise.lean ====
section
/-! SUPPORT. The definitions of Machine/Link.lean that reach Bridle turn no domain on. -/

namespace Sys2Proof.Machine

theorem execPllLockTimeout_noRise (p : Port) (s : State) (t : State) (h : execPllLockTimeout p s = .next t) :
    NoRise s t := by
  unfold execPllLockTimeout at h
  try dsimp only at h
  cases h
  repeat' first
    | (with_reducible exact NoRise.refl _)
    | (with_reducible assumption)
    | ((with_reducible apply NoRise.after_only (k := addAlert_only ..)); case w => rfl)
    | ((with_reducible apply NoRise.after_only (k := modLink_only ..)); case w => rfl)
    | (with_reducible apply NoRise.after (k := addEntry_noRise ..))
    | (split)

theorem execCredit_noRise (p : Port) (rx : RxFrame) (s : State) (t : State) (h : execCredit p rx s = .next t) :
    NoRise s t := by
  unfold execCredit at h
  try dsimp only at h
  cases h
  repeat' first
    | (simp only [NoRise.mk_iff]; with_reducible refine NoRise.mk_same ?_)
    | (with_reducible exact NoRise.refl _)
    | (with_reducible assumption)
    | ((with_reducible apply NoRise.after_only (k := repeatFrame_only ..)); case w => rfl)
    | ((with_reducible apply NoRise.after_only (k := countCode_only ..)); case w => rfl)
    | ((with_reducible apply NoRise.after_only (k := badLinkControl_only ..)); case w => rfl)
    | ((with_reducible apply NoRise.after_only (k := modLink_only ..)); case w => rfl)
    | (with_reducible apply NoRise.after (k := flushDeferred_noRise ..))
    | ((with_reducible apply NoRise.after_only (k := raiseRail_only ..)); case w => rfl)
    | ((with_reducible apply NoRise.foldl); intro _ _ _)
    | ((with_reducible apply NoRise.foldl_fst); intro _ _ _)
    | (split)

theorem execLinkDown_noRise (p : Port) (c : DownCause) (s : State) (t : State) (h : execLinkDown p c s = .next t) :
    NoRise s t := by
  unfold execLinkDown at h
  try dsimp only at h
  cases h
  repeat' first
    | (with_reducible exact NoRise.refl _)
    | (with_reducible assumption)
    | (with_reducible apply NoRise.after (k := portDown_noRise ..))
    | (split)

theorem execAck_noRise (p : Port) (rx : RxFrame) (s : State) (t : State) (h : execAck p rx s = .next t) :
    NoRise s t := by
  unfold execAck at h
  try dsimp only at h
  cases h
  repeat' first
    | (with_reducible exact NoRise.refl _)
    | (with_reducible assumption)
    | ((with_reducible apply NoRise.after_only (k := countCode_only ..)); case w => rfl)
    | ((with_reducible apply NoRise.after_only (k := repeatFrame_only ..)); case w => rfl)
    | ((with_reducible apply NoRise.after_only (k := badLinkControl_only ..)); case w => rfl)
    | (with_reducible apply NoRise.after (k := takeAck_noRise ..))
    | (split)

theorem execGoBackTimeout_noRise (p : Port) (s : State) (t : State) (h : execGoBackTimeout p s = .next t) :
    NoRise s t := by
  unfold execGoBackTimeout at h
  try dsimp only at h
  cases h
  repeat' first
    | (with_reducible exact NoRise.refl _)
    | (with_reducible assumption)
    | (with_reducible apply NoRise.after (k := goBack_noRise ..))
    | (split)

theorem eccFail_noRise (s : State) (tag : Nat) (f : QFrame) (e : EccResult) :
    NoRise s (eccFail s tag f e) := by
  unfold eccFail
  try dsimp only
  repeat' first
    | (with_reducible exact NoRise.refl _)
    | (with_reducible assumption)
    | (with_reducible apply NoRise.after (k := failFrame_noRise ..))
    | ((with_reducible apply NoRise.foldl); intro _ _ _)
    | ((with_reducible apply NoRise.foldl_fst); intro _ _ _)
    | (split)

theorem outFail_noRise (s : State) (p : Port) (h : Byte) (f : QFrame) (e : EccResult) :
    NoRise s (outFail s p h f e) := by
  unfold outFail
  try dsimp only
  repeat' first
    | (with_reducible exact NoRise.refl _)
    | (with_reducible assumption)
    | (with_reducible apply NoRise.after (k := reportFrame_noRise ..))
    | ((with_reducible apply NoRise.after_only (k := modLink_only ..)); case w => rfl)
    | ((with_reducible apply NoRise.after_only (k := afterRemoval_only ..)); case w => rfl)
    | ((with_reducible apply NoRise.foldl); intro _ _ _)
    | ((with_reducible apply NoRise.foldl_fst); intro _ _ _)
    | (split)

theorem sendNext_noRise (p : Port) (e : EccResult) (s : State) :
    NoRise s (sendNext p e s) := by
  unfold sendNext
  try dsimp only
  repeat' first
    | (with_reducible exact NoRise.refl _)
    | (with_reducible assumption)
    | ((with_reducible apply NoRise.after_only (k := sendSafe_only ..)); case w => rfl)
    | ((with_reducible apply NoRise.after_only (k := sendAck_only ..)); case w => rfl)
    | (with_reducible apply NoRise.after (k := askAccess_noRise ..))
    | ((with_reducible apply NoRise.after_only (k := loseQueue_only ..)); case w => rfl)
    | ((with_reducible apply NoRise.after_only (k := countEcc_only ..)); case w => rfl)
    | (with_reducible apply NoRise.after (k := outFail_noRise ..))
    | ((with_reducible apply NoRise.after_only (k := modLink_only ..)); case w => rfl)
    | (with_reducible apply NoRise.after (k := eccFail_noRise ..))
    | ((with_reducible apply NoRise.after_only (k := setQueue_only ..)); case w => rfl)
    | (split)

theorem execFrameSend_noRise (p : Port) (e : EccResult) (s : State) (t : State) (h : execFrameSend p e s = .next t) :
    NoRise s t := by
  unfold execFrameSend at h
  try dsimp only at h
  cases h
  repeat' first
    | (with_reducible exact NoRise.refl _)
    | (with_reducible assumption)
    | ((with_reducible apply NoRise.after_only (k := barred_only ..)); case w => rfl)
    | (with_reducible apply NoRise.after (k := sendNext_noRise ..))
    | (split)

end Sys2Proof.Machine
end

