-- ==== Sys2Proof/Laws/DropRise.lean ====
section
/-! SUPPORT. The definitions of Machine/Drop.lean that reach Bridle turn no domain on. -/

namespace Sys2Proof.Machine

theorem giveVerdict_noRise (s : State) (b : List Byte) (d : Decision) :
    NoRise s (giveVerdict s b d).1 := by
  unfold giveVerdict
  try dsimp only
  repeat' first
    | (simp only [NoRise.mk_iff]; with_reducible refine NoRise.mk_same ?_)
    | (with_reducible exact NoRise.refl _)
    | (with_reducible assumption)
    | (with_reducible apply NoRise.after (k := askMemory_noRise ..))
    | ((with_reducible apply NoRise.after_only (k := markAccept_only ..)); case w => rfl)
    | ((with_reducible apply NoRise.after_only (k := markRelease_only ..)); case w => rfl)
    | ((with_reducible apply NoRise.after_only (k := placeAll_only ..)); case w => rfl)
    | (split)

theorem execVerdictReady_noRise (s : State) (t : State) (h : execVerdictReady s = .next t) :
    NoRise s t := by
  unfold execVerdictReady at h
  try dsimp only at h
  cases h
  repeat' first
    | (simp only [NoRise.mk_iff]; with_reducible refine NoRise.mk_same ?_)
    | (with_reducible exact NoRise.refl _)
    | (with_reducible assumption)
    | (with_reducible apply NoRise.after (k := giveVerdict_noRise ..))
    | (split)

theorem startFrameUnit_noRise (s : State) (tag : Nat) (ecc : EccResult) :
    NoRise s (startFrameUnit s tag ecc) := by
  unfold startFrameUnit
  try dsimp only
  repeat' first
    | (simp only [NoRise.mk_iff]; with_reducible refine NoRise.mk_same ?_)
    | (with_reducible exact NoRise.refl _)
    | (with_reducible assumption)
    | ((with_reducible apply NoRise.after_only (k := countEcc_only ..)); case w => rfl)
    | ((with_reducible apply NoRise.after_only (k := turnPipe_only ..)); case w => rfl)
    | (with_reducible apply NoRise.after (k := eccFail_noRise ..))
    | ((with_reducible apply NoRise.after_only (k := startUnit_only ..)); case w => rfl)
    | ((with_reducible apply NoRise.after_only (k := markBusy_only ..)); case w => rfl)
    | (split)

theorem awaitHead_noRise (s : State) (tag : Nat) :
    NoRise s (awaitHead s tag) := by
  unfold awaitHead
  try dsimp only
  repeat' first
    | (with_reducible exact NoRise.refl _)
    | (with_reducible assumption)
    | (with_reducible apply NoRise.after (k := askAccess_noRise ..))
    | ((with_reducible apply NoRise.after_only (k := startUnit_only ..)); case w => rfl)
    | (split)

theorem execEgressFetch_noRise (ecc : EccResult) (s0 : State) (t : State) (h : execEgressFetch ecc s0 = .next t) :
    NoRise s0 t := by
  unfold execEgressFetch at h
  try dsimp only at h
  cases h
  repeat' first
    | (simp only [NoRise.mk_iff]; with_reducible refine NoRise.mk_same ?_)
    | (with_reducible exact NoRise.refl _)
    | (with_reducible assumption)
    | ((with_reducible apply NoRise.after_only (k := barred_only ..)); case w => rfl)
    | ((with_reducible apply NoRise.after_only (k := startUnit_only ..)); case w => rfl)
    | (with_reducible apply NoRise.after (k := awaitHead_noRise ..))
    | ((with_reducible apply NoRise.after_only (k := loseQueue_only ..)); case w => rfl)
    | (with_reducible apply NoRise.after (k := startFrameUnit_noRise ..))
    | (split)

theorem egressWord_noRise (s : State) (g : Egress) (ecc : EccResult) :
    NoRise s (egressWord s g ecc) := by
  unfold egressWord
  try dsimp only
  repeat' first
    | (simp only [NoRise.mk_iff]; with_reducible refine NoRise.mk_same ?_)
    | (with_reducible exact NoRise.refl _)
    | (with_reducible assumption)
    | ((with_reducible apply NoRise.after_only (k := turnPipe_only ..)); case w => rfl)
    | ((with_reducible apply NoRise.after_only (k := countEcc_only ..)); case w => rfl)
    | (with_reducible apply NoRise.after (k := eccFail_noRise ..))
    | ((with_reducible apply NoRise.after_only (k := markBusy_only ..)); case w => rfl)
    | (split)

theorem execDropWordTransfer_noRise (word : Half) (dp : BitVec 2) (dsof deof : Bool) (ecc : EccResult) (s : State) (t : State) (h : execDropWordTransfer word dp dsof deof ecc s = .next t) :
    NoRise s t := by
  unfold execDropWordTransfer at h
  try dsimp only at h
  cases h
  repeat' first
    | (with_reducible exact NoRise.refl _)
    | (with_reducible assumption)
    | ((with_reducible apply NoRise.after_only (k := ingressWord_only ..)); case w => rfl)
    | (with_reducible apply NoRise.after (k := egressWord_noRise ..))
    | (split)

end Sys2Proof.Machine
end

