-- ==== Sys2Proof/Laws/EngineFrame.lean ====
section
/-! SUPPORT. What each definition of Machine/Engine.lean may change: of the parts of the state, those listed and no other. -/

namespace Sys2Proof.Machine

theorem unmatched_only (s : State) (k : StreamKind) (e : Nat) :
    Only [.rules, .act, .bridle, .prot, .tether, .queues, .win, .integ] s (unmatched s k e) := by
  unfold unmatched
  try dsimp only
  repeat' first
    | (with_reducible exact Only.refl _ _)
    | (with_reducible assumption)
    | ((with_reducible apply Only.after (k := idleReturn_only ..)); case w => rfl)
    | ((with_reducible apply Only.after (k := recordW2D_only ..)); case w => rfl)
    | (split)

theorem startFrame_only (s0 : State) (k : StreamKind) (b : List Byte) :
    Only [.free, .rules, .engs, .act, .bridle, .prot, .tether, .queues, .win, .integ] s0 (startFrame s0 k b) := by
  unfold startFrame
  try dsimp only
  repeat' first
    | (with_reducible exact Only.refl _ _)
    | (with_reducible assumption)
    | ((with_reducible apply Only.after (k := barred_only ..)); case w => rfl)
    | ((with_reducible apply Only.after (k := unmatched_only ..)); case w => rfl)
    | ((with_reducible apply Only.after (k := modEng_only ..)); case w => rfl)
    | (split)

theorem startSlow_only (s : State) :
    Only [.free, .rules, .engs, .act, .bridle, .prot, .tether, .queues, .win, .integ] s (startSlow s) := by
  unfold startSlow
  try dsimp only
  repeat' first
    | (simp only [Only.mk_iff]; with_reducible refine Only.set_engs ?_ _ rfl)
    | (with_reducible exact Only.refl _ _)
    | (with_reducible assumption)
    | ((with_reducible apply Only.after (k := demand_only ..)); case w => rfl)
    | ((with_reducible apply Only.after (k := barred_only ..)); case w => rfl)
    | ((with_reducible apply Only.after (k := modEng_only ..)); case w => rfl)
    | (split)

theorem execStreamStart_only (src : StreamSrc) (bytes : List Byte) (s : State) (t : State) (h : execStreamStart src bytes s = .next t) :
    Only [.free, .rules, .engs, .act, .bridle, .prot, .tether, .queues, .win, .integ] s t := by
  unfold execStreamStart at h
  try dsimp only at h
  cases h
  repeat' first
    | (with_reducible exact Only.refl _ _)
    | (with_reducible assumption)
    | ((with_reducible apply Only.after (k := startFrame_only ..)); case w => rfl)
    | ((with_reducible apply Only.after (k := startSlow_only ..)); case w => rfl)
    | (split)

theorem passResult_only (s : State) (e : Fin 4) (t : Tables) (x : Stream) (n : Nat) (isEnd : Bool) :
    Only [.act] s (passResult s e t x n isEnd) := by
  unfold passResult
  try dsimp only
  repeat' first
    | (with_reducible exact Only.refl _ _)
    | (with_reducible assumption)
    | ((with_reducible apply Only.after (k := pushFrom_only ..)); case w => rfl)
    | (split)

theorem stepByte_only (s : State) (e : Fin 4) (x : Stream) :
    Only [.act, .win] s (stepByte s e x).1 := by
  unfold stepByte
  try dsimp only
  repeat' first
    | (with_reducible exact Only.refl _ _)
    | (with_reducible assumption)
    | ((with_reducible apply Only.after (k := stopStream_only ..)); case w => rfl)
    | ((with_reducible apply Only.after (k := passResult_only ..)); case w => rfl)
    | ((with_reducible apply Only.foldl); intro _ _ _)
    | ((with_reducible apply Only.foldl_fst); intro _ _ _)
    | (split)

theorem fifoFills_only (s : State) (e : Fin 4) (x : Stream) :
    Only [.engs, .prot, .win] s (fifoFills s e x) := by
  unfold fifoFills
  try dsimp only
  repeat' first
    | (with_reducible exact Only.refl _ _)
    | (with_reducible assumption)
    | ((with_reducible apply Only.after (k := stopStream_only ..)); case w => rfl)
    | ((with_reducible apply Only.after (k := addAlert_only ..)); case w => rfl)
    | ((with_reducible apply Only.after (k := modEng_only ..)); case w => rfl)
    | (split)

theorem execEngineStep_only (e : Fin 4) (ev : StepEvent) (s : State) (t : State) (h : execEngineStep e ev s = .next t) :
    Only [.rules, .engs, .act, .bridle, .prot, .tether, .queues, .win, .integ] s t := by
  unfold execEngineStep at h
  try dsimp only at h
  cases h
  repeat' first
    | (with_reducible exact Only.refl _ _)
    | (with_reducible assumption)
    | ((with_reducible apply Only.after (k := fifoFills_only ..)); case w => rfl)
    | ((with_reducible apply Only.after (k := modEng_only ..)); case w => rfl)
    | ((with_reducible apply Only.after (k := stepByte_only ..)); case w => rfl)
    | ((with_reducible apply Only.after (k := fillFails_only ..)); case w => rfl)
    | (split)

theorem leaveDecision_only (s : State) (k : StreamKind) (d : Decision) :
    Only [.engs] s (leaveDecision s k d) := by
  unfold leaveDecision
  try dsimp only
  repeat' first
    | (simp only [Only.mk_iff]; with_reducible refine Only.set_engs ?_ _ rfl)
    | (with_reducible exact Only.refl _ _)
    | (with_reducible assumption)
    | (split)

theorem endDecision_only (s : State) (e : Fin 4) (x : Stream) (crcOk : Bool) :
    Only [.engs, .act, .win] s (endDecision s e x crcOk) := by
  unfold endDecision
  try dsimp only
  repeat' first
    | (with_reducible exact Only.refl _ _)
    | (with_reducible assumption)
    | ((with_reducible apply Only.after (k := leaveDecision_only ..)); case w => rfl)
    | ((with_reducible apply Only.after (k := recordW2D_only ..)); case w => rfl)
    | ((with_reducible apply Only.after (k := passResult_only ..)); case w => rfl)
    | (split)

theorem closeStream_only (s : State) (e : Nat) (k : StreamKind) :
    Only [.rules, .engs] s (closeStream s e k) := by
  unfold closeStream
  try dsimp only
  repeat' first
    | (with_reducible exact Only.refl _ _)
    | (with_reducible assumption)
    | ((with_reducible apply Only.after (k := endEpoch_only ..)); case w => rfl)
    | ((with_reducible apply Only.after (k := modEng_only ..)); case w => rfl)
    | (split)

theorem execStreamEnd_only (e : Fin 4) (crcOk : Bool) (s : State) (t : State) (h : execStreamEnd e crcOk s = .next t) :
    Only [.rules, .engs, .act, .win] s t := by
  unfold execStreamEnd at h
  try dsimp only at h
  cases h
  repeat' first
    | (with_reducible exact Only.refl _ _)
    | (with_reducible assumption)
    | ((with_reducible apply Only.after (k := closeStream_only ..)); case w => rfl)
    | ((with_reducible apply Only.after (k := endDecision_only ..)); case w => rfl)
    | (split)

theorem execHostStreamAbandon_only (s : State) (t : State) (h : execHostStreamAbandon s = .next t) :
    Only [.rules, .engs, .win] s t := by
  unfold execHostStreamAbandon at h
  try dsimp only at h
  cases h
  repeat' first
    | (with_reducible exact Only.refl _ _)
    | (with_reducible assumption)
    | ((with_reducible apply Only.after (k := closeStream_only ..)); case w => rfl)
    | ((with_reducible apply Only.after (k := modEng_only ..)); case w => rfl)
    | ((with_reducible apply Only.after (k := endEpoch_only ..)); case w => rfl)
    | ((with_reducible apply Only.after (k := leaveDecision_only ..)); case w => rfl)
    | ((with_reducible apply Only.after (k := recordW2D_only ..)); case w => rfl)
    | (split)

theorem execEngineSelfCheck_only (e : Fin 4) (ok : Bool) (s : State) (t : State) (h : execEngineSelfCheck e ok s = .next t) :
    Only [.engs] s t := by
  unfold execEngineSelfCheck at h
  try dsimp only at h
  cases h
  repeat' first
    | (with_reducible exact Only.refl _ _)
    | (with_reducible assumption)
    | ((with_reducible apply Only.after (k := modEng_only ..)); case w => rfl)
    | (split)

theorem forceOff_only (s : State) (d : Nat) (reason : BitVec 4) :
    Only [.rules, .act, .bridle, .prot, .tether, .queues, .win, .integ] s (forceOff s d reason) := by
  unfold forceOff
  try dsimp only
  repeat' first
    | (with_reducible exact Only.refl _ _)
    | (with_reducible assumption)
    | ((with_reducible apply Only.after (k := modDom_only ..)); case w => rfl)
    | ((with_reducible apply Only.after (k := resolve_only ..)); case w => rfl)
    | ((with_reducible apply Only.after (k := takeOrder_only ..)); case w => rfl)
    | (split)

theorem execEngineFail_only (e : Fin 4) (c : EngineFailCause) (s : State) (t : State) (h : execEngineFail e c s = .next t) :
    Only [.rules, .engs, .act, .bridle, .prot, .tether, .queues, .win, .integ] s t := by
  unfold execEngineFail at h
  try dsimp only at h
  cases h
  repeat' first
    | (with_reducible exact Only.refl _ _)
    | (with_reducible assumption)
    | ((with_reducible apply Only.after (k := countParity_only ..)); case w => rfl)
    | ((with_reducible apply Only.after (k := addEntry_only ..)); case w => rfl)
    | ((with_reducible apply Only.after (k := addAlert_only ..)); case w => rfl)
    | ((with_reducible apply Only.after (k := forceOff_only ..)); case w => rfl)
    | ((with_reducible apply Only.after (k := loseEngine_only ..)); case w => rfl)
    | (split)

theorem execFill_only (e : Fin 4) (line : BitVec 15) (s : State) (t : State) (h : execFill e line s = .next t) :
    Only [.engs] s t := by
  unfold execFill at h
  try dsimp only at h
  cases h
  repeat' first
    | (simp only [Only.mk_iff]; with_reducible refine Only.set_engs ?_ _ rfl)
    | (with_reducible exact Only.refl _ _)
    | (with_reducible assumption)
    | (split)

theorem execDirectoryData_only (e : Fin 4) (line : BitVec 15) (parityOk : Bool) (s : State) (t : State) (h : execDirectoryData e line parityOk s = .next t) :
    Only [.rules, .engs, .act, .bridle, .prot, .tether, .queues, .win, .integ] s t := by
  unfold execDirectoryData at h
  try dsimp only at h
  cases h
  repeat' first
    | (simp only [Only.mk_iff]; with_reducible refine Only.set_engs ?_ _ rfl)
    | (with_reducible exact Only.refl _ _)
    | (with_reducible assumption)
    | ((with_reducible apply Only.after (k := fillFails_only ..)); case w => rfl)
    | ((with_reducible apply Only.after (k := modEng_only ..)); case w => rfl)
    | (split)

theorem execEvict_only (e : Fin 4) (line : BitVec 15) (s : State) (t : State) (h : execEvict e line s = .next t) :
    Only [.rules, .engs] s t := by
  unfold execEvict at h
  try dsimp only at h
  cases h
  repeat' first
    | (simp only [Only.mk_iff]; with_reducible refine Only.set_rules_engs ?_ _ _ rfl)
    | (with_reducible exact Only.refl _ _)
    | (with_reducible assumption)
    | ((with_reducible apply Only.after (k := modEng_only ..)); case w => rfl)
    | (split)

theorem execSnoop_only (e : Fin 4) (line : BitVec 15) (s : State) (t : State) (h : execSnoop e line s = .next t) :
    Only [.engs] s t := by
  unfold execSnoop at h
  try dsimp only at h
  cases h
  repeat' first
    | (with_reducible exact Only.refl _ _)
    | (with_reducible assumption)
    | ((with_reducible apply Only.after (k := modEng_only ..)); case w => rfl)
    | (split)

theorem execSack_only (e : Fin 4) (line : BitVec 15) (s : State) (t : State) (h : execSack e line s = .next t) :
    Only [.rules] s t := by
  unfold execSack at h
  try dsimp only at h
  cases h
  repeat' first
    | (simp only [Only.mk_iff]; with_reducible refine Only.set_rules ?_ _ rfl)
    | (with_reducible exact Only.refl _ _)
    | (with_reducible assumption)
    | (split)

theorem execScanRead_only (parityOk : Bool) (s : State) (t : State) (h : execScanRead parityOk s = .next t) :
    Only [.rules, .engs, .act, .bridle, .prot, .tether, .queues, .win, .integ] s t := by
  unfold execScanRead at h
  try dsimp only at h
  cases h
  repeat' first
    | (simp only [Only.mk_iff]; with_reducible refine Only.set_rules ?_ _ rfl)
    | (with_reducible exact Only.refl _ _)
    | (with_reducible assumption)
    | ((with_reducible apply Only.after (k := repairPlace_only ..)); case w => rfl)
    | ((with_reducible apply Only.after (k := countParity_only ..)); case w => rfl)
    | (split)

theorem execScanRepairDone_only (s : State) (t : State) (h : execScanRepairDone s = .next t) :
    Only [.rules, .engs] s t := by
  unfold execScanRepairDone at h
  try dsimp only at h
  cases h
  repeat' first
    | (simp only [Only.mk_iff]; with_reducible refine Only.set_rules_engs ?_ _ _ rfl)
    | (with_reducible exact Only.refl _ _)
    | (with_reducible assumption)
    | (split)

end Sys2Proof.Machine
end

