-- ==== Sys2Proof/Laws/EngineRise.lean ====
section
/-! SUPPORT. The definitions of Machine/Engine.lean that reach Bridle turn no domain on. -/

namespace Sys2Proof.Machine

theorem unmatched_noRise (s : State) (k : StreamKind) (e : Nat) :
    NoRise s (unmatched s k e) := by
  unfold unmatched
  try dsimp only
  repeat' first
    | (with_reducible exact NoRise.refl _)
    | (with_reducible assumption)
    | (with_reducible apply NoRise.after (k := idleReturn_noRise ..))
    | ((with_reducible apply NoRise.after_only (k := recordW2D_only ..)); case w => rfl)
    | (split)

theorem startFrame_noRise (s0 : State) (k : StreamKind) (b : List Byte) :
    NoRise s0 (startFrame s0 k b) := by
  unfold startFrame
  try dsimp only
  repeat' first
    | (with_reducible exact NoRise.refl _)
    | (with_reducible assumption)
    | ((with_reducible apply NoRise.after_only (k := barred_only ..)); case w => rfl)
    | (with_reducible apply NoRise.after (k := unmatched_noRise ..))
    | ((with_reducible apply NoRise.after_only (k := modEng_only ..)); case w => rfl)
    | (split)

theorem startSlow_noRise (s : State) :
    NoRise s (startSlow s) := by
  unfold startSlow
  try dsimp only
  repeat' first
    | (simp only [NoRise.mk_iff]; with_reducible refine NoRise.mk_same ?_)
    | (with_reducible exact NoRise.refl _)
    | (with_reducible assumption)
    | (with_reducible apply NoRise.after (k := demand_noRise ..))
    | ((with_reducible apply NoRise.after_only (k := barred_only ..)); case w => rfl)
    | ((with_reducible apply NoRise.after_only (k := modEng_only ..)); case w => rfl)
    | (split)

theorem execStreamStart_noRise (src : StreamSrc) (bytes : List Byte) (s : State) (t : State) (h : execStreamStart src bytes s = .next t) :
    NoRise s t := by
  unfold execStreamStart at h
  try dsimp only at h
  cases h
  repeat' first
    | (with_reducible exact NoRise.refl _)
    | (with_reducible assumption)
    | (with_reducible apply NoRise.after (k := startFrame_noRise ..))
    | (with_reducible apply NoRise.after (k := startSlow_noRise ..))
    | (split)

theorem execEngineStep_noRise (e : Fin 4) (ev : StepEvent) (s : State) (t : State) (h : execEngineStep e ev s = .next t) :
    NoRise s t := by
  unfold execEngineStep at h
  try dsimp only at h
  cases h
  repeat' first
    | (with_reducible exact NoRise.refl _)
    | (with_reducible assumption)
    | ((with_reducible apply NoRise.after_only (k := fifoFills_only ..)); case w => rfl)
    | ((with_reducible apply NoRise.after_only (k := modEng_only ..)); case w => rfl)
    | ((with_reducible apply NoRise.after_only (k := stepByte_only ..)); case w => rfl)
    | (with_reducible apply NoRise.after (k := fillFails_noRise ..))
    | (split)

theorem forceOff_noRise (s : State) (d : Nat) (reason : BitVec 4) :
    NoRise s (forceOff s d reason) := by
  unfold forceOff
  try dsimp only
  repeat' first
    | (with_reducible exact NoRise.refl _)
    | (with_reducible assumption)
    | ((with_reducible apply NoRise.modDom); case hf => (intro m h; simp_all))
    | (with_reducible apply NoRise.after (k := resolve_noRise ..))
    | (with_reducible apply NoRise.after (k := takeOrder_noRise ..))
    | (split)

theorem execEngineFail_noRise (e : Fin 4) (c : EngineFailCause) (s : State) (t : State) (h : execEngineFail e c s = .next t) :
    NoRise s t := by
  unfold execEngineFail at h
  try dsimp only at h
  cases h
  repeat' first
    | (with_reducible exact NoRise.refl _)
    | (with_reducible assumption)
    | ((with_reducible apply NoRise.after_only (k := countParity_only ..)); case w => rfl)
    | (with_reducible apply NoRise.after (k := addEntry_noRise ..))
    | ((with_reducible apply NoRise.after_only (k := addAlert_only ..)); case w => rfl)
    | (with_reducible apply NoRise.after (k := forceOff_noRise ..))
    | (with_reducible apply NoRise.after (k := loseEngine_noRise ..))
    | (split)

theorem execDirectoryData_noRise (e : Fin 4) (line : BitVec 15) (parityOk : Bool) (s : State) (t : State) (h : execDirectoryData e line parityOk s = .next t) :
    NoRise s t := by
  unfold execDirectoryData at h
  try dsimp only at h
  cases h
  repeat' first
    | (simp only [NoRise.mk_iff]; with_reducible refine NoRise.mk_same ?_)
    | (with_reducible exact NoRise.refl _)
    | (with_reducible assumption)
    | (with_reducible apply NoRise.after (k := fillFails_noRise ..))
    | ((with_reducible apply NoRise.after_only (k := modEng_only ..)); case w => rfl)
    | (split)

theorem execScanRead_noRise (parityOk : Bool) (s : State) (t : State) (h : execScanRead parityOk s = .next t) :
    NoRise s t := by
  unfold execScanRead at h
  try dsimp only at h
  cases h
  repeat' first
    | (simp only [NoRise.mk_iff]; with_reducible refine NoRise.mk_same ?_)
    | (with_reducible exact NoRise.refl _)
    | (with_reducible assumption)
    | (with_reducible apply NoRise.after (k := repairPlace_noRise ..))
    | ((with_reducible apply NoRise.after_only (k := countParity_only ..)); case w => rfl)
    | (split)

end Sys2Proof.Machine
end

