-- ==== Sys2Proof/Laws/FrontEndsRise.lean ====
section
/-! SUPPORT. The definitions of Machine/FrontEnds.lean that reach Bridle turn no domain on. -/

namespace Sys2Proof.Machine

theorem freshWord_noRise (s : State) (fe : FrontEnd) (body : Word32) (mac : Half) :
    NoRise s (freshWord s fe body mac) := by
  unfold freshWord
  try dsimp only
  repeat' first
    | (with_reducible exact NoRise.refl _)
    | (with_reducible assumption)
    | ((with_reducible apply NoRise.after_only (k := queueRelay_only ..)); case w => rfl)
    | (with_reducible apply NoRise.after (k := presentSlow_noRise ..))
    | (split)

theorem decideWord_noRise (s : State) (fe : FrontEnd) (body : Word32) (mac : Half) (crc : Byte) :
    NoRise s (decideWord s fe body mac crc) := by
  unfold decideWord
  try dsimp only
  repeat' first
    | (simp only [NoRise.mk_iff]; with_reducible refine NoRise.mk_same ?_)
    | (with_reducible exact NoRise.refl _)
    | (with_reducible assumption)
    | ((with_reducible apply NoRise.after_only (k := macFailure_only ..)); case w => rfl)
    | (with_reducible apply NoRise.after (k := freshWord_noRise ..))
    | (split)

theorem execMainsWord_noRise (body : Word32) (mac : Half) (crc : Byte) (s : State) (t : State) (h : execMainsWord body mac crc s = .next t) :
    NoRise s t := by
  unfold execMainsWord at h
  try dsimp only at h
  cases h
  repeat' first
    | (with_reducible exact NoRise.refl _)
    | (with_reducible assumption)
    | ((with_reducible apply NoRise.after_only (k := setLocked_only ..)); case w => rfl)
    | ((with_reducible apply NoRise.after_only (k := decideSafe_only ..)); case w => rfl)
    | (with_reducible apply NoRise.after (k := decideWord_noRise ..))
    | (split)

theorem execTugWord_noRise (p : Port) (body : Word32) (mac : Half) (crc : Byte) (s : State) (t : State) (h : execTugWord p body mac crc s = .next t) :
    NoRise s t := by
  unfold execTugWord at h
  try dsimp only at h
  cases h
  repeat' first
    | (with_reducible exact NoRise.refl _)
    | (with_reducible assumption)
    | (with_reducible apply NoRise.after (k := decideWord_noRise ..))
    | ((with_reducible apply NoRise.after_only (k := setLocked_only ..)); case w => rfl)
    | (split)

end Sys2Proof.Machine
end

