-- ==== Sys2Proof/Laws/Memory.lean ====
section
/-! SUPPORT. The flash: every operation keeps its canonical form, a byte reads as it was written, and no other changes. -/

namespace Sys2Proof.Machine

theorem Memory.wfFrom_mono {lo hi : Nat} {m : List Host.Cell} (h : lo ≤ hi) (w : Memory.wfFrom hi m = true) :
    Memory.wfFrom lo m = true := by
  cases m with
  | nil => rfl
  | cons x t =>
    obtain ⟨a, v⟩ := x
    simp only [Memory.wfFrom, Bool.and_eq_true, decide_eq_true_eq] at w ⊢
    exact ⟨⟨by omega, w.1.2⟩, w.2⟩

theorem Memory.put_wfFrom {lo a : Nat} {m : List Host.Cell} {v : Byte} (h : lo ≤ a) (w : Memory.wfFrom lo m = true) :
    Memory.wfFrom lo (Memory.put m a v) = true := by
  induction m generalizing lo with
  | nil => unfold Memory.put; split <;> simp_all [Memory.wfFrom]
  | cons x t ih =>
    obtain ⟨b, y⟩ := x
    simp only [Memory.wfFrom, Bool.and_eq_true, decide_eq_true_eq, bne_iff_ne] at w
    unfold Memory.put
    split
    · split
      · simp only [Memory.wfFrom, Bool.and_eq_true, decide_eq_true_eq, bne_iff_ne]; exact w
      · rename_i hab hv
        simp only [Memory.wfFrom, Bool.and_eq_true, decide_eq_true_eq, bne_iff_ne]
        exact ⟨⟨h, hv⟩, ⟨by omega, w.1.2⟩, w.2⟩
    · split
      · rename_i hab
        subst hab
        split
        · exact Memory.wfFrom_mono (by omega) w.2
        · rename_i hv
          simp only [Memory.wfFrom, Bool.and_eq_true, decide_eq_true_eq, bne_iff_ne]
          exact ⟨⟨h, hv⟩, w.2⟩
      · simp only [Memory.wfFrom, Bool.and_eq_true, decide_eq_true_eq, bne_iff_ne]
        exact ⟨w.1, ih (by omega) w.2⟩

/-- A written byte keeps the canonical form. -/
theorem Memory.put_wf {m : List Host.Cell} {a : Nat} {v : Byte} (w : Memory.wf m = true) :
    Memory.wf (Memory.put m a v) = true := Memory.put_wfFrom (Nat.zero_le a) w

theorem Memory.filter_wfFrom {lo : Nat} {m : List Host.Cell} (f : Host.Cell → Bool) (w : Memory.wfFrom lo m = true) :
    Memory.wfFrom lo (m.filter f) = true := by
  induction m generalizing lo with
  | nil => rfl
  | cons x t ih =>
    obtain ⟨b, y⟩ := x
    simp only [Memory.wfFrom, Bool.and_eq_true, decide_eq_true_eq] at w
    rw [List.filter_cons]
    split
    · simp only [Memory.wfFrom, Bool.and_eq_true, decide_eq_true_eq]
      exact ⟨w.1, ih w.2⟩
    · exact Memory.wfFrom_mono (by omega) (ih w.2)

/-- An erase keeps the canonical form. -/
theorem Memory.erase_wf {m : List Host.Cell} {a n : Nat} (w : Memory.wf m = true) : Memory.wf (Memory.erase m a n) = true :=
  Memory.filter_wfFrom _ w

/-- A page program keeps the canonical form. -/
theorem Memory.program_wf {m : List Host.Cell} {a : Nat} {bs : List Byte} (w : Memory.wf m = true) :
    Memory.wf (Memory.program m a bs) = true := by
  induction bs generalizing m a with
  | nil => exact w
  | cons b t ih => exact ih (Memory.put_wf w)

/-- A programmed part keeps the canonical form. -/
theorem programPart_wf {f : List Host.Cell} {base off : Nat} {d : List Byte} (w : Memory.wf f = true) :
    Memory.wf (programPart f base off d) = true := by
  unfold programPart
  refine Memory.program_wf (Memory.erase_wf ?_)
  split
  · exact Memory.erase_wf w
  · exact w

theorem Memory.get_below {lo a : Nat} {m : List Host.Cell} (w : Memory.wfFrom lo m = true) (h : a < lo) :
    Memory.get m a = 0xFF := by
  induction m generalizing lo with
  | nil => rfl
  | cons x t ih =>
    obtain ⟨b, y⟩ := x
    simp only [Memory.wfFrom, Bool.and_eq_true, decide_eq_true_eq] at w
    unfold Memory.get
    rw [if_neg (by omega)]
    exact ih w.2 (by omega)

theorem Memory.get_put_from {lo : Nat} {m : List Host.Cell} {a b : Nat} {v : Byte} (w : Memory.wfFrom lo m = true) :
    Memory.get (Memory.put m a v) b = if b = a then v else Memory.get m b := by
  induction m generalizing lo with
  | nil =>
    unfold Memory.put
    split <;> rename_i hv
    · subst hv; split <;> rfl
    · simp only [Memory.get]; split <;> split <;> simp_all
  | cons x t ih =>
    obtain ⟨c, y⟩ := x
    simp only [Memory.wfFrom, Bool.and_eq_true, decide_eq_true_eq] at w
    unfold Memory.put
    split
    · rename_i hac
      split <;> rename_i hv
      · subst hv
        by_cases hb : b = a
        · subst hb
          rw [if_pos rfl]
          refine Memory.get_below (lo := c) ?_ hac
          simp only [Memory.wfFrom, Bool.and_eq_true, decide_eq_true_eq]
          exact ⟨⟨Nat.le_refl c, w.1.2⟩, w.2⟩
        · rw [if_neg hb]
      · by_cases hb : b = a
        · subst hb; simp [Memory.get]
        · simp [Memory.get, hb, Ne.symm hb]
    · split
      · rename_i hca
        subst hca
        split <;> rename_i hv
        · subst hv
          by_cases hb : b = a
          · subst hb; rw [if_pos rfl]; exact Memory.get_below w.2 (by omega)
          · simp [Memory.get, hb, Ne.symm hb]
        · by_cases hb : b = a
          · subst hb; simp [Memory.get]
          · simp [Memory.get, hb, Ne.symm hb]
      · rename_i hlt hne
        by_cases hb : c = b
        · subst hb; simp [Memory.get, Ne.symm hne]
        · simp only [Memory.get, if_neg hb]; exact ih w.2

/-- What a byte reads as after one byte was written. -/
theorem Memory.get_put {m : List Host.Cell} {a b : Nat} {v : Byte} (w : Memory.wf m = true) :
    Memory.get (Memory.put m a v) b = if b = a then v else Memory.get m b := Memory.get_put_from w

/-- What a byte reads as after an erase. -/
theorem Memory.get_erase (m : List Host.Cell) (a n b : Nat) :
    Memory.get (Memory.erase m a n) b = if a ≤ b ∧ b < a + n then 0xFF else Memory.get m b := by
  unfold Memory.erase
  induction m with
  | nil => simp [Memory.get]
  | cons x t ih =>
    obtain ⟨c, y⟩ := x
    rw [List.filter_cons]
    by_cases hc : a ≤ c ∧ c < a + n
    · have : (!(decide (a ≤ c) && decide (c < a + n))) = false := by simp [hc]
      simp only [this, Bool.false_eq_true, if_false, ih]
      by_cases hb : a ≤ b ∧ b < a + n
      · simp [hb]
      · have : c ≠ b := by intro e; subst e; exact hb hc
        simp [hb, Memory.get, this]
    · have : (!(decide (a ≤ c) && decide (c < a + n))) = true := by
        simp only [Bool.not_eq_true', Bool.and_eq_false_iff, decide_eq_false_iff_not]; omega
      simp only [this, if_true, Memory.get]
      by_cases hb : c = b
      · subst hb; rw [if_pos rfl, if_neg hc, if_pos rfl]
      · rw [if_neg hb, if_neg hb]; exact ih

/-- What a byte reads as after a page program. -/
theorem Memory.get_program {m : List Host.Cell} {a b : Nat} {bs : List Byte} (w : Memory.wf m = true)
    (h : b < a ∨ a + bs.length ≤ b) : Memory.get (Memory.program m a bs) b = Memory.get m b := by
  induction bs generalizing m a with
  | nil => rfl
  | cons x t ih =>
    simp only [List.length_cons] at h
    rw [Memory.program, ih (Memory.put_wf w) (by omega), Memory.get_put w, if_neg (by omega)]

end Sys2Proof.Machine
end

