-- ==== Sys2Proof/Laws/RegOpsRise.lean ====
section
/-! SUPPORT. The definitions of Machine/RegOps.lean that reach Bridle turn no domain on. -/

namespace Sys2Proof.Machine

theorem moveToVloc_noRise (s : State) (snap : Snap) :
    NoRise s (moveToVloc s snap) := by
  unfold moveToVloc
  try dsimp only
  repeat' first
    | (with_reducible exact NoRise.refl _)
    | (with_reducible assumption)
    | ((with_reducible apply NoRise.after_only (k := modChan_only ..)); case w => rfl)
    | (with_reducible apply NoRise.after (k := capture_noRise ..))
    | (split)

theorem derateChan_noRise (s : State) (c : Chan) (snap : Snap) :
    NoRise s (derateChan s c snap) := by
  unfold derateChan
  try dsimp only
  repeat' first
    | (with_reducible exact NoRise.refl _)
    | (with_reducible assumption)
    | ((with_reducible apply NoRise.after_only (k := stopChan_only ..)); case w => rfl)
    | (with_reducible apply NoRise.after (k := capture_noRise ..))
    | ((with_reducible apply NoRise.after_only (k := endAlarms_only ..)); case w => rfl)
    | ((with_reducible apply NoRise.after_only (k := modChan_only ..)); case w => rfl)
    | (split)

theorem setLevel_noRise (s : State) (ext : Bool) (n : Nat) (snap : Snap) :
    NoRise s (setLevel s ext n snap) := by
  unfold setLevel
  try dsimp only
  repeat' first
    | (simp only [NoRise.mk_iff]; with_reducible refine NoRise.mk_same ?_)
    | (with_reducible exact NoRise.refl _)
    | (with_reducible assumption)
    | (with_reducible apply NoRise.after (k := derateChan_noRise ..))
    | (with_reducible apply NoRise.after (k := capture_noRise ..))
    | ((with_reducible apply NoRise.after_only (k := endAlarms_only ..)); case w => rfl)
    | (split)

theorem failPhase_noRise (s : State) (k : Fin 6) (code : BitVec 5) (snap : Snap) :
    NoRise s (failPhase s k code snap) := by
  unfold failPhase
  try dsimp only
  repeat' first
    | (simp only [NoRise.mk_iff]; with_reducible refine NoRise.mk_same ?_)
    | (with_reducible exact NoRise.refl _)
    | (with_reducible assumption)
    | (with_reducible apply NoRise.after (k := capture_noRise ..))
    | ((with_reducible apply NoRise.after_only (k := stopChan_only ..)); case w => rfl)
    | ((with_reducible apply NoRise.after_only (k := setSet_only ..)); case w => rfl)
    | (split)

theorem overvoltage_noRise (s : State) (c : Chan) (snap : Snap) :
    NoRise s (overvoltage s c snap) := by
  unfold overvoltage
  try dsimp only
  repeat' first
    | (simp only [NoRise.mk_iff]; with_reducible refine NoRise.mk_same ?_)
    | (with_reducible exact NoRise.refl _)
    | (with_reducible assumption)
    | ((with_reducible apply NoRise.after_only (k := stopChan_only ..)); case w => rfl)
    | (with_reducible apply NoRise.after (k := capture_noRise ..))
    | ((with_reducible apply NoRise.after_only (k := modChan_only ..)); case w => rfl)
    | (split)

end Sys2Proof.Machine
end

