-- ==== Sys2Proof/Laws/ProtectionRise.lean ====
section
/-! SUPPORT. The definitions of Machine/Protection.lean that reach Bridle turn no domain on. -/

namespace Sys2Proof.Machine

theorem hiccup_noRise (s : State) (c : Chan) (snap : Snap) :
    NoRise s (hiccup s c snap) := by
  unfold hiccup
  try dsimp only
  repeat' first
    | (with_reducible exact NoRise.refl _)
    | (with_reducible assumption)
    | ((with_reducible apply NoRise.after_only (k := modChan_only ..)); case w => rfl)
    | (with_reducible apply NoRise.after (k := capture_noRise ..))
    | ((with_reducible apply NoRise.after_only (k := stopChan_only ..)); case w => rfl)
    | (split)

theorem truncate_noRise (s : State) (c : Chan) (k : Nat) (successive : Bool) (snap : Snap) :
    NoRise s (truncate s c k successive snap) := by
  unfold truncate
  try dsimp only
  repeat' first
    | (simp only [NoRise.mk_iff]; with_reducible refine NoRise.mk_same ?_)
    | (with_reducible exact NoRise.refl _)
    | (with_reducible assumption)
    | ((with_reducible apply NoRise.after_only (k := putPwm_only ..)); case w => rfl)
    | (with_reducible apply NoRise.after (k := hiccup_noRise ..))
    | (split)

theorem execFastLimitTrip_noRise (c : Chan) (phase : Fin 6) (inPulse successive : Bool) (snap : Snap) (s : State) (t : State) (h : execFastLimitTrip c phase inPulse successive snap s = .next t) :
    NoRise s t := by
  unfold execFastLimitTrip at h
  try dsimp only at h
  cases h
  repeat' first
    | (simp only [NoRise.mk_iff]; with_reducible refine NoRise.mk_same ?_)
    | (with_reducible exact NoRise.refl _)
    | (with_reducible assumption)
    | (with_reducible apply NoRise.after (k := truncate_noRise ..))
    | (with_reducible apply NoRise.after (k := failPhase_noRise ..))
    | (split)

theorem overloadTrip_noRise (s : State) (c : Chan) (code : BitVec 5) (uv : Bool) (snap : Snap) :
    NoRise s (overloadTrip s c code uv snap) := by
  unfold overloadTrip
  try dsimp only
  repeat' first
    | (with_reducible exact NoRise.refl _)
    | (with_reducible assumption)
    | (with_reducible apply NoRise.after (k := capture_noRise ..))
    | ((with_reducible apply NoRise.after_only (k := stopChan_only ..)); case w => rfl)
    | ((with_reducible apply NoRise.after_only (k := modChan_only ..)); case w => rfl)
    | (split)

theorem execSlowLimitTrip_noRise (c : Chan) (average : Nat) (snap : Snap) (s : State) (t : State) (h : execSlowLimitTrip c average snap s = .next t) :
    NoRise s t := by
  unfold execSlowLimitTrip at h
  try dsimp only at h
  cases h
  repeat' first
    | (with_reducible exact NoRise.refl _)
    | (with_reducible assumption)
    | (with_reducible apply NoRise.after (k := overloadTrip_noRise ..))
    | (split)

theorem execUndervoltage_noRise (c : Chan) (feedback : Nat) (snap : Snap) (s : State) (t : State) (h : execUndervoltage c feedback snap s = .next t) :
    NoRise s t := by
  unfold execUndervoltage at h
  try dsimp only at h
  cases h
  repeat' first
    | (with_reducible exact NoRise.refl _)
    | (with_reducible assumption)
    | (with_reducible apply NoRise.after (k := overloadTrip_noRise ..))
    | (split)

theorem execAuxOvervoltage_noRise (snap : Snap) (s : State) (t : State) (h : execAuxOvervoltage snap s = .next t) :
    NoRise s t := by
  unfold execAuxOvervoltage at h
  try dsimp only at h
  cases h
  repeat' first
    | (with_reducible exact NoRise.refl _)
    | (with_reducible assumption)
    | (with_reducible apply NoRise.after (k := overvoltage_noRise ..))
    | (split)

theorem execSenseLoss_noRise (snap : Snap) (s : State) (t : State) (h : execSenseLoss snap s = .next t) :
    NoRise s t := by
  unfold execSenseLoss at h
  try dsimp only at h
  cases h
  repeat' first
    | (with_reducible exact NoRise.refl _)
    | (with_reducible assumption)
    | (with_reducible apply NoRise.after (k := moveToVloc_noRise ..))
    | (split)

theorem execVlocLost_noRise (vloc dv : Nat) (snap : Snap) (s : State) (t : State) (h : execVlocLost vloc dv snap s = .next t) :
    NoRise s t := by
  unfold execVlocLost at h
  try dsimp only at h
  cases h
  repeat' first
    | (with_reducible exact NoRise.refl _)
    | (with_reducible assumption)
    | ((with_reducible apply NoRise.after_only (k := moveRef_only ..)); case w => rfl)
    | ((with_reducible apply NoRise.after_only (k := stopChan_only ..)); case w => rfl)
    | (with_reducible apply NoRise.after (k := capture_noRise ..))
    | (split)

theorem hotter_noRise (s : State) (ext : Bool) (snap : Snap) :
    NoRise s (hotter s ext snap) := by
  unfold hotter
  try dsimp only
  repeat' first
    | (simp only [NoRise.mk_iff]; with_reducible refine NoRise.mk_same ?_)
    | (with_reducible exact NoRise.refl _)
    | (with_reducible assumption)
    | (with_reducible apply NoRise.after (k := setLevel_noRise ..))
    | (split)

theorem execDerateInterval_noRise (ext : Bool) (low high vana : Nat) (snap : Snap) (s : State) (t : State) (h : execDerateInterval ext low high vana snap s = .next t) :
    NoRise s t := by
  unfold execDerateInterval at h
  try dsimp only at h
  cases h
  repeat' first
    | (simp only [NoRise.mk_iff]; with_reducible refine NoRise.mk_same ?_)
    | (with_reducible exact NoRise.refl _)
    | (with_reducible assumption)
    | (with_reducible apply NoRise.after (k := setLevel_noRise ..))
    | (split)

theorem execRecordCommit_noRise (s : State) (t : State) (h : execRecordCommit s = .next t) :
    NoRise s t := by
  unfold execRecordCommit at h
  try dsimp only at h
  cases h
  repeat' first
    | (simp only [NoRise.mk_iff]; with_reducible refine NoRise.mk_same ?_)
    | (with_reducible exact NoRise.refl _)
    | (with_reducible assumption)
    | ((with_reducible apply NoRise.after_only (k := recordAlarm_only ..)); case w => rfl)
    | ((with_reducible apply NoRise.after_only (k := railCause_only ..)); case w => rfl)
    | (with_reducible apply NoRise.after (k := addEntries_noRise ..))
    | (split)

end Sys2Proof.Machine
end

