-- ==== Sys2Proof/Laws/MonitorsRise.lean ====
section
/-! SUPPORT. The definitions of Machine/Monitors.lean that reach Bridle turn no domain on. -/

namespace Sys2Proof.Machine

theorem recordEvent_noRise (s : State) (k : Fin 24) :
    NoRise s (recordEvent s k) := by
  unfold recordEvent
  try dsimp only
  repeat' first
    | (with_reducible exact NoRise.refl _)
    | (with_reducible assumption)
    | (with_reducible apply NoRise.after (k := presentSlow_noRise ..))
    | ((with_reducible apply NoRise.after_only (k := modMon_only ..)); case w => rfl)
    | (split)

theorem monActs_noRise (s : State) (k : Fin 24) (side : Side) (snap : Snap) :
    NoRise s (monActs s k side snap) := by
  unfold monActs
  try dsimp only
  repeat' first
    | (with_reducible exact NoRise.refl _)
    | (with_reducible assumption)
    | ((with_reducible apply NoRise.after_only (k := modMon_only ..)); case w => rfl)
    | (with_reducible apply NoRise.after (k := overvoltage_noRise ..))
    | (with_reducible apply NoRise.after (k := hotter_noRise ..))
    | (with_reducible apply NoRise.after (k := recordEvent_noRise ..))
    | ((with_reducible apply NoRise.after_only (k := tripsNow_only ..)); case w => rfl)
    | (split)

theorem execMonitorAssert_noRise (k : Fin 24) (side : Side) (m : MonReading) (snap : Snap) (s : State) (t : State) (h : execMonitorAssert k side m snap s = .next t) :
    NoRise s t := by
  unfold execMonitorAssert at h
  try dsimp only at h
  cases h
  repeat' first
    | (with_reducible exact NoRise.refl _)
    | (with_reducible assumption)
    | ((with_reducible apply NoRise.after_only (k := moveRefFor_only ..)); case w => rfl)
    | (with_reducible apply NoRise.after (k := monActs_noRise ..))
    | (split)

theorem execMonitorDeassert_noRise (k : Fin 24) (side : Side) (m : MonReading) (s : State) (t : State) (h : execMonitorDeassert k side m s = .next t) :
    NoRise s t := by
  unfold execMonitorDeassert at h
  try dsimp only at h
  cases h
  repeat' first
    | (with_reducible exact NoRise.refl _)
    | (with_reducible assumption)
    | ((with_reducible apply NoRise.after_only (k := moveRefFor_only ..)); case w => rfl)
    | ((with_reducible apply NoRise.after_only (k := modMon_only ..)); case w => rfl)
    | (with_reducible apply NoRise.after (k := recordEvent_noRise ..))
    | ((with_reducible apply NoRise.after_only (k := tripsNow_only ..)); case w => rfl)
    | (split)

theorem execEventHoldoffEnd_noRise (k : Fin 24) (s : State) (t : State) (h : execEventHoldoffEnd k s = .next t) :
    NoRise s t := by
  unfold execEventHoldoffEnd at h
  try dsimp only at h
  cases h
  repeat' first
    | (with_reducible exact NoRise.refl _)
    | (with_reducible assumption)
    | (with_reducible apply NoRise.after (k := recordEvent_noRise ..))
    | ((with_reducible apply NoRise.after_only (k := modMon_only ..)); case w => rfl)
    | (split)

theorem execMonitorSettled_noRise (k : Fin 24) (m : MonReading) (snap : Snap) (s : State) (t : State) (h : execMonitorSettled k m snap s = .next t) :
    NoRise s t := by
  unfold execMonitorSettled at h
  try dsimp only at h
  cases h
  repeat' first
    | (with_reducible exact NoRise.refl _)
    | (with_reducible assumption)
    | ((with_reducible apply NoRise.after_only (k := moveRefFor_only ..)); case w => rfl)
    | ((with_reducible apply NoRise.after_only (k := modMon_only ..)); case w => rfl)
    | (with_reducible apply NoRise.after (k := monActs_noRise ..))
    | (split)

end Sys2Proof.Machine
end

