-- ==== Sys2Proof/Laws/OutageFrame.lean ====
section
/-! SUPPORT. What each definition of Machine/Outage.lean may change: of the parts of the state, those listed and no other. -/

namespace Sys2Proof.Machine

theorem execPfailAssert_only (s : State) (t : State) (h : execPfailAssert s = .next t) :
    Only [.free, .pins, .nvm, .flash, .xfer, .rules, .act, .bridle, .reg, .prot, .tether, .queues, .win, .gauge, .outage, .integ] s t := by
  unfold execPfailAssert at h
  try dsimp only at h
  cases h
  repeat' first
    | (simp only [Only.mk_iff]; with_reducible refine Only.set_pins ?_ _ rfl)
    | (with_reducible exact Only.refl _ _)
    | (with_reducible assumption)
    | ((with_reducible apply Only.after (k := fireStarter_only ..)); case w => rfl)
    | (split)

theorem execWm04Low_only (s : State) (t : State) (h : execWm04Low s = .next t) :
    Only [.free, .nvm, .flash, .xfer, .rules, .act, .bridle, .reg, .prot, .tether, .queues, .win, .gauge, .outage, .integ] s t := by
  unfold execWm04Low at h
  try dsimp only at h
  cases h
  repeat' first
    | (with_reducible exact Only.refl _ _)
    | (with_reducible assumption)
    | ((with_reducible apply Only.after (k := fireStarter_only ..)); case w => rfl)
    | (split)

theorem execVaonLoss_only (s : State) (t : State) (h : execVaonLoss s = .next t) :
    Only [.free, .sup, .nvm, .flash, .xfer, .rules, .act, .bridle, .reg, .prot, .tether, .queues, .win, .gauge, .outage, .integ] s t := by
  unfold execVaonLoss at h
  try dsimp only at h
  cases h
  repeat' first
    | (simp only [Only.mk_iff]; with_reducible refine Only.set_sup_gauge ?_ _ _ rfl)
    | (with_reducible exact Only.refl _ _)
    | (with_reducible assumption)
    | ((with_reducible apply Only.after (k := fireStarter_only ..)); case w => rfl)
    | (split)

theorem endFlight_only (s : State) :
    Only [.rules, .act, .bridle, .prot, .tether, .queues, .win, .integ] s (endFlight s) := by
  unfold endFlight
  try dsimp only
  repeat' first
    | (with_reducible exact Only.refl _ _)
    | (with_reducible assumption)
    | ((with_reducible apply Only.after (k := closeNotice_only ..)); case w => rfl)
    | ((with_reducible apply Only.after (k := flightEnds_only ..)); case w => rfl)
    | (split)

theorem endFlightEarly_only (s : State) :
    Only [.free, .rules, .act, .bridle, .prot, .tether, .queues, .win, .integ] s (endFlightEarly s) := by
  unfold endFlightEarly
  try dsimp only
  repeat' first
    | (with_reducible exact Only.refl _ _)
    | (with_reducible assumption)
    | ((with_reducible apply Only.after (k := takeFree_only ..)); case w => rfl)
    | ((with_reducible apply Only.after (k := endFlight_only ..)); case w => rfl)
    | ((with_reducible apply Only.after (k := flightEnds_only ..)); case w => rfl)
    | (split)

theorem execOutageFlightDone_only (s : State) (t : State) (h : execOutageFlightDone s = .next t) :
    Only [.rules, .act, .bridle, .reg, .prot, .tether, .queues, .win, .outage, .integ] s t := by
  unfold execOutageFlightDone at h
  try dsimp only at h
  cases h
  repeat' first
    | (with_reducible exact Only.refl _ _)
    | (with_reducible assumption)
    | ((with_reducible apply Only.after (k := enterStep5_only ..)); case w => rfl)
    | ((with_reducible apply Only.after (k := endFlight_only ..)); case w => rfl)
    | (split)

theorem execOutageRetentionReached_only (s : State) (t : State) (h : execOutageRetentionReached s = .next t) :
    Only [.rules, .act, .bridle, .reg, .prot, .tether, .queues, .win, .gauge, .outage, .integ] s t := by
  unfold execOutageRetentionReached at h
  try dsimp only at h
  cases h
  repeat' first
    | (simp only [Only.mk_iff]; with_reducible refine Only.set_gauge_outage ?_ _ _ rfl)
    | (with_reducible exact Only.refl _ _)
    | (with_reducible assumption)
    | ((with_reducible apply Only.after (k := enterU6_only ..)); case w => rfl)
    | (split)

theorem cancelRaises_only (s : State) :
    Only [.act] s (cancelRaises s) := by
  unfold cancelRaises
  try dsimp only
  repeat' first
    | (simp only [Only.mk_iff]; with_reducible refine Only.set_act ?_ _ rfl)
    | (with_reducible exact Only.refl _ _)
    | (with_reducible assumption)
    | ((with_reducible apply Only.after (k := eachPin_only ..)); case w => rfl)
    | (split)

theorem execDwellExpiry_only (s : State) (t : State) (h : execDwellExpiry s = .next t) :
    Only [.boot, .act, .outage] s t := by
  unfold execDwellExpiry at h
  try dsimp only at h
  cases h
  repeat' first
    | (simp only [Only.mk_iff]; with_reducible refine Only.set_boot_act_outage ?_ _ _ _ rfl)
    | (with_reducible exact Only.refl _ _)
    | (with_reducible assumption)
    | ((with_reducible apply Only.after (k := cancelRaises_only ..)); case w => rfl)
    | (split)

theorem inputBack_only (s : State) :
    Only [.sup, .pins] s (inputBack s) := by
  unfold inputBack
  try dsimp only
  repeat' first
    | (simp only [Only.mk_iff]; with_reducible refine Only.set_sup_pins ?_ _ _ rfl)
    | (with_reducible exact Only.refl _ _)
    | (with_reducible assumption)
    | (split)

theorem lateReturn_only (s : State) :
    Only [.rules, .engs, .act, .bridle, .prot, .tether, .queues, .win, .gauge, .outage, .integ] s (lateReturn s) := by
  unfold lateReturn
  try dsimp only
  repeat' first
    | (simp only [Only.mk_iff]; with_reducible refine Only.set_act_gauge_outage ?_ _ _ _ rfl)
    | (with_reducible exact Only.refl _ _)
    | (with_reducible assumption)
    | ((with_reducible apply Only.after (k := resumeAgeing_only ..)); case w => rfl)
    | ((with_reducible apply Only.after (k := backToVaon_only ..)); case w => rfl)
    | ((with_reducible apply Only.after (k := cancelRaises_only ..)); case w => rfl)
    | ((with_reducible apply Only.after (k := askMemory_only ..)); case w => rfl)
    | ((with_reducible apply Only.after (k := presentKept_only ..)); case w => rfl)
    | (split)

theorem execInputReturn_only (s : State) (t : State) (h : execInputReturn s = .next t) :
    Only [.free, .sup, .boot, .pins, .rules, .engs, .act, .bridle, .reg, .prot, .tether, .queues, .win, .gauge, .outage, .integ] s t := by
  unfold execInputReturn at h
  try dsimp only at h
  cases h
  repeat' first
    | (simp only [Only.mk_iff]; with_reducible refine Only.set_outage ?_ _ rfl)
    | (with_reducible exact Only.refl _ _)
    | (with_reducible assumption)
    | ((with_reducible apply Only.after (k := inputBack_only ..)); case w => rfl)
    | ((with_reducible apply Only.after (k := backToVaon_only ..)); case w => rfl)
    | ((with_reducible apply Only.after (k := lateReturn_only ..)); case w => rfl)
    | ((with_reducible apply Only.after (k := endOutage_only ..)); case w => rfl)
    | ((with_reducible apply Only.after (k := endFlightEarly_only ..)); case w => rfl)
    | ((with_reducible apply Only.after (k := enterU6_only ..)); case w => rfl)
    | (split)

theorem execReversalRailsDone_only (s : State) (t : State) (h : execReversalRailsDone s = .next t) :
    Only [.boot, .rules, .engs, .act, .bridle, .reg, .prot, .tether, .queues, .win, .gauge, .outage, .integ] s t := by
  unfold execReversalRailsDone at h
  try dsimp only at h
  cases h
  repeat' first
    | (with_reducible exact Only.refl _ _)
    | (with_reducible assumption)
    | ((with_reducible apply Only.after (k := endOutage_only ..)); case w => rfl)
    | ((with_reducible apply Only.after (k := enterStep5_only ..)); case w => rfl)
    | (split)

theorem stageActs_only (s : State) (k : Nat) :
    Only [.rules, .act, .bridle, .prot, .tether, .queues, .win, .gauge, .integ] s (stageActs s k) := by
  unfold stageActs
  try dsimp only
  repeat' first
    | (simp only [Only.mk_iff]; with_reducible refine Only.set_gauge ?_ _ rfl)
    | (with_reducible exact Only.refl _ _)
    | (with_reducible assumption)
    | ((with_reducible apply Only.after (k := request_only ..)); case w => rfl)
    | ((with_reducible apply Only.after (k := loseBanks_only ..)); case w => rfl)
    | ((with_reducible apply Only.foldl); intro _ _ _)
    | ((with_reducible apply Only.foldl_fst); intro _ _ _)
    | (split)

theorem actStages_only (s : State) (n : Nat) :
    Only [.rules, .act, .bridle, .prot, .tether, .queues, .win, .gauge, .integ] s (actStages s n) := by
  unfold actStages
  try dsimp only
  repeat' first
    | (with_reducible exact Only.refl _ _)
    | (with_reducible assumption)
    | ((with_reducible apply Only.after (k := stageActs_only ..)); case w => rfl)
    | ((with_reducible apply Only.foldl); intro _ _ _)
    | ((with_reducible apply Only.foldl_fst); intro _ _ _)
    | (split)

theorem execVbakReading_only (mv : Nat) (tdie : Half) (s : State) (t : State) (h : execVbakReading mv tdie s = .next t) :
    Only [.rules, .act, .bridle, .prot, .tether, .queues, .win, .gauge, .integ] s t := by
  unfold execVbakReading at h
  try dsimp only at h
  cases h
  repeat' first
    | (simp only [Only.mk_iff]; with_reducible refine Only.set_win_gauge ?_ _ _ rfl)
    | (simp only [Only.mk_iff]; with_reducible refine Only.set_gauge ?_ _ rfl)
    | (with_reducible exact Only.refl _ _)
    | (with_reducible assumption)
    | ((with_reducible apply Only.after (k := rebase_only ..)); case w => rfl)
    | ((with_reducible apply Only.after (k := actStages_only ..)); case w => rfl)
    | (split)

theorem execGaugePacket_only (s : State) (t : State) (h : execGaugePacket s = .next t) :
    Only [.prot, .gauge] s t := by
  unfold execGaugePacket at h
  try dsimp only at h
  cases h
  repeat' first
    | (simp only [Only.mk_iff]; with_reducible refine Only.set_gauge ?_ _ rfl)
    | (with_reducible exact Only.refl _ _)
    | (with_reducible assumption)
    | ((with_reducible apply Only.after (k := setDrift_only ..)); case w => rfl)
    | (split)

end Sys2Proof.Machine
end

