-- ==== Sys2Proof/Laws/OutageRise.lean ====
section
/-! SUPPORT. The definitions of Machine/Outage.lean that reach Bridle turn no domain on. -/

namespace Sys2Proof.Machine

theorem execPfailAssert_noRise (s : State) (t : State) (h : execPfailAssert s = .next t) :
    NoRise s t := by
  unfold execPfailAssert at h
  try dsimp only at h
  cases h
  repeat' first
    | (simp only [NoRise.mk_iff]; with_reducible refine NoRise.mk_same ?_)
    | (with_reducible exact NoRise.refl _)
    | (with_reducible assumption)
    | (with_reducible apply NoRise.after (k := fireStarter_noRise ..))
    | (split)

theorem execWm04Low_noRise (s : State) (t : State) (h : execWm04Low s = .next t) :
    NoRise s t := by
  unfold execWm04Low at h
  try dsimp only at h
  cases h
  repeat' first
    | (with_reducible exact NoRise.refl _)
    | (with_reducible assumption)
    | (with_reducible apply NoRise.after (k := fireStarter_noRise ..))
    | (split)

theorem execVaonLoss_noRise (s : State) (t : State) (h : execVaonLoss s = .next t) :
    NoRise s t := by
  unfold execVaonLoss at h
  try dsimp only at h
  cases h
  repeat' first
    | (simp only [NoRise.mk_iff]; with_reducible refine NoRise.mk_same ?_)
    | (with_reducible exact NoRise.refl _)
    | (with_reducible assumption)
    | (with_reducible apply NoRise.after (k := fireStarter_noRise ..))
    | (split)

theorem endFlight_noRise (s : State) :
    NoRise s (endFlight s) := by
  unfold endFlight
  try dsimp only
  repeat' first
    | (with_reducible exact NoRise.refl _)
    | (with_reducible assumption)
    | (with_reducible apply NoRise.after (k := closeNotice_noRise ..))
    | (with_reducible apply NoRise.after (k := flightEnds_noRise ..))
    | (split)

theorem endFlightEarly_noRise (s : State) :
    NoRise s (endFlightEarly s) := by
  unfold endFlightEarly
  try dsimp only
  repeat' first
    | (with_reducible exact NoRise.refl _)
    | (with_reducible assumption)
    | ((with_reducible apply NoRise.after_only (k := takeFree_only ..)); case w => rfl)
    | (with_reducible apply NoRise.after (k := endFlight_noRise ..))
    | (with_reducible apply NoRise.after (k := flightEnds_noRise ..))
    | (split)

theorem execOutageFlightDone_noRise (s : State) (t : State) (h : execOutageFlightDone s = .next t) :
    NoRise s t := by
  unfold execOutageFlightDone at h
  try dsimp only at h
  cases h
  repeat' first
    | (with_reducible exact NoRise.refl _)
    | (with_reducible assumption)
    | (with_reducible apply NoRise.after (k := enterStep5_noRise ..))
    | (with_reducible apply NoRise.after (k := endFlight_noRise ..))
    | (split)

theorem execOutageRetentionReached_noRise (s : State) (t : State) (h : execOutageRetentionReached s = .next t) :
    NoRise s t := by
  unfold execOutageRetentionReached at h
  try dsimp only at h
  cases h
  repeat' first
    | (simp only [NoRise.mk_iff]; with_reducible refine NoRise.mk_same ?_)
    | (with_reducible exact NoRise.refl _)
    | (with_reducible assumption)
    | (with_reducible apply NoRise.after (k := enterU6_noRise ..))
    | (split)

theorem lateReturn_noRise (s : State) :
    NoRise s (lateReturn s) := by
  unfold lateReturn
  try dsimp only
  repeat' first
    | (simp only [NoRise.mk_iff]; with_reducible refine NoRise.mk_same ?_)
    | (with_reducible exact NoRise.refl _)
    | (with_reducible assumption)
    | ((with_reducible apply NoRise.after_only (k := resumeAgeing_only ..)); case w => rfl)
    | ((with_reducible apply NoRise.after_only (k := backToVaon_only ..)); case w => rfl)
    | ((with_reducible apply NoRise.after_only (k := cancelRaises_only ..)); case w => rfl)
    | (with_reducible apply NoRise.after (k := askMemory_noRise ..))
    | (with_reducible apply NoRise.after (k := presentKept_noRise ..))
    | (split)

theorem execInputReturn_noRise (s : State) (t : State) (h : execInputReturn s = .next t) :
    NoRise s t := by
  unfold execInputReturn at h
  try dsimp only at h
  cases h
  repeat' first
    | (simp only [NoRise.mk_iff]; with_reducible refine NoRise.mk_same ?_)
    | (with_reducible exact NoRise.refl _)
    | (with_reducible assumption)
    | ((with_reducible apply NoRise.after_only (k := inputBack_only ..)); case w => rfl)
    | ((with_reducible apply NoRise.after_only (k := backToVaon_only ..)); case w => rfl)
    | (with_reducible apply NoRise.after (k := lateReturn_noRise ..))
    | (with_reducible apply NoRise.after (k := endOutage_noRise ..))
    | (with_reducible apply NoRise.after (k := endFlightEarly_noRise ..))
    | (with_reducible apply NoRise.after (k := enterU6_noRise ..))
    | (split)

theorem execReversalRailsDone_noRise (s : State) (t : State) (h : execReversalRailsDone s = .next t) :
    NoRise s t := by
  unfold execReversalRailsDone at h
  try dsimp only at h
  cases h
  repeat' first
    | (with_reducible exact NoRise.refl _)
    | (with_reducible assumption)
    | (with_reducible apply NoRise.after (k := endOutage_noRise ..))
    | (with_reducible apply NoRise.after (k := enterStep5_noRise ..))
    | (split)

theorem stageActs_noRise (s : State) (k : Nat) :
    NoRise s (stageActs s k) := by
  unfold stageActs
  try dsimp only
  repeat' first
    | (simp only [NoRise.mk_iff]; with_reducible refine NoRise.mk_same ?_)
    | (with_reducible exact NoRise.refl _)
    | (with_reducible assumption)
    | (with_reducible apply NoRise.after (k := request_noRise ..))
    | (with_reducible apply NoRise.after (k := loseBanks_noRise ..))
    | ((with_reducible apply NoRise.foldl); intro _ _ _)
    | ((with_reducible apply NoRise.foldl_fst); intro _ _ _)
    | (split)

theorem actStages_noRise (s : State) (n : Nat) :
    NoRise s (actStages s n) := by
  unfold actStages
  try dsimp only
  repeat' first
    | (with_reducible exact NoRise.refl _)
    | (with_reducible assumption)
    | (with_reducible apply NoRise.after (k := stageActs_noRise ..))
    | ((with_reducible apply NoRise.foldl); intro _ _ _)
    | ((with_reducible apply NoRise.foldl_fst); intro _ _ _)
    | (split)

theorem execVbakReading_noRise (mv : Nat) (tdie : Half) (s : State) (t : State) (h : execVbakReading mv tdie s = .next t) :
    NoRise s t := by
  unfold execVbakReading at h
  try dsimp only at h
  cases h
  repeat' first
    | (simp only [NoRise.mk_iff]; with_reducible refine NoRise.mk_same ?_)
    | (with_reducible exact NoRise.refl _)
    | (with_reducible assumption)
    | ((with_reducible apply NoRise.after_only (k := rebase_only ..)); case w => rfl)
    | (with_reducible apply NoRise.after (k := actStages_noRise ..))
    | (split)

end Sys2Proof.Machine
end

