-- ==== Sys2Proof/Laws/QueueRowsRise.lean ====
section
/-! SUPPORT. The definitions of Machine/QueueRows.lean that reach Bridle turn no domain on. -/

namespace Sys2Proof.Machine

theorem execNoticeClose_noRise (s : State) (t : State) (h : execNoticeClose s = .next t) :
    NoRise s t := by
  unfold execNoticeClose at h
  try dsimp only at h
  cases h
  repeat' first
    | (with_reducible exact NoRise.refl _)
    | (with_reducible assumption)
    | (with_reducible apply NoRise.after (k := closeNotice_noRise ..))
    | (split)

theorem entryIfRoom_noRise (s : State) (e : List Byte) (t : State) (h : entryIfRoom s e = some t) : NoRise s t := by
  unfold entryIfRoom at h
  split at h
  · cases h
  · dsimp only at h
    split at h
    · cases h; exact addEntry_noRise s e
    · cases h

theorem execLostEntryReport_noRise (s : State) (t : State) (h : execLostEntryReport s = .next t) :
    NoRise s t := by
  unfold execLostEntryReport at h
  cases h
  repeat' first
    | (simp only [NoRise.mk_iff]; with_reducible refine NoRise.mk_same ?_)
    | (with_reducible exact NoRise.refl _)
    | (exact entryIfRoom_noRise _ _ _ (by with_reducible assumption))
    | split

theorem execAgeingExpiry_noRise (tag : Half) (s : State) (t : State) (h : execAgeingExpiry tag s = .next t) :
    NoRise s t := by
  unfold execAgeingExpiry at h
  try dsimp only at h
  cases h
  repeat' first
    | (with_reducible exact NoRise.refl _)
    | (with_reducible assumption)
    | (with_reducible apply NoRise.after (k := reportFrame_noRise ..))
    | ((with_reducible apply NoRise.after_only (k := afterRemoval_only ..)); case w => rfl)
    | ((with_reducible apply NoRise.after_only (k := modLink_only ..)); case w => rfl)
    | (with_reducible apply NoRise.after (k := failFrame_noRise ..))
    | ((with_reducible apply NoRise.foldl); intro _ _ _)
    | ((with_reducible apply NoRise.foldl_fst); intro _ _ _)
    | (split)

theorem execAgeingWake_noRise (s : State) (t : State) (h : execAgeingWake s = .next t) :
    NoRise s t := by
  unfold execAgeingWake at h
  try dsimp only at h
  cases h
  repeat' first
    | (simp only [NoRise.mk_iff]; with_reducible refine NoRise.mk_same ?_)
    | (with_reducible exact NoRise.refl _)
    | (with_reducible assumption)
    | (with_reducible apply NoRise.after (k := demand_noRise ..))
    | ((with_reducible apply NoRise.foldl); intro _ _ _)
    | ((with_reducible apply NoRise.foldl_fst); intro _ _ _)
    | (split)

theorem execWatermarkReportEntry_noRise (s : State) (t : State) (h : execWatermarkReportEntry s = .next t) :
    NoRise s t := by
  unfold execWatermarkReportEntry at h
  cases h
  repeat' first
    | (simp only [NoRise.mk_iff]; with_reducible refine NoRise.mk_same ?_)
    | (with_reducible exact NoRise.refl _)
    | (exact entryIfRoom_noRise _ _ _ (by with_reducible assumption))
    | split

theorem cutQueue_noRise (bad : List Nat) (s : State) (l : List QFrame) :
    NoRise s (cutQueue bad s l).1 := by
  unfold cutQueue
  try dsimp only
  repeat' first
    | (with_reducible exact NoRise.refl _)
    | (with_reducible assumption)
    | ((with_reducible apply NoRise.after_only (k := readFirst_only ..)); case w => rfl)
    | (with_reducible apply NoRise.after (k := reportFrame_noRise ..))
    | (split)

theorem walkQueue_noRise (bad : List Nat) (acc : State × List QFrame × Bool) (q : Nat × List QFrame) :
    NoRise acc.1 (walkQueue bad acc q).1 := by
  unfold walkQueue
  try dsimp only
  repeat' first
    | (simp only [NoRise.mk_iff]; with_reducible refine NoRise.mk_same ?_)
    | (with_reducible exact NoRise.refl _)
    | (with_reducible assumption)
    | (with_reducible apply NoRise.after (k := cutQueue_noRise ..))
    | ((with_reducible apply NoRise.after_only (k := setQueue_only ..)); case w => rfl)
    | ((with_reducible apply NoRise.after_only (k := afterRemoval_only ..)); case w => rfl)
    | (split)

theorem walkOut_noRise (bad : List Nat) (acc : State × List QFrame × Bool) (p : Port) :
    NoRise acc.1 (walkOut bad acc p).1 := by
  unfold walkOut
  try dsimp only
  repeat' first
    | (simp only [NoRise.mk_iff]; with_reducible refine NoRise.mk_same ?_)
    | (with_reducible exact NoRise.refl _)
    | (with_reducible assumption)
    | (with_reducible apply NoRise.after (k := cutQueue_noRise ..))
    | ((with_reducible apply NoRise.after_only (k := modLink_only ..)); case w => rfl)
    | ((with_reducible apply NoRise.after_only (k := afterRemoval_only ..)); case w => rfl)
    | (split)

theorem sweepFrames_noRise (bad : List Nat) (l : List (Byte × QFrame)) (s : State) (unnamed : Bool) :
    NoRise s (sweepFrames bad l s unnamed).1 := by
  induction l generalizing s unnamed with
  | nil => exact NoRise.refl _
  | cons x l ih =>
  unfold sweepFrames
  try dsimp only
  repeat' first
    | (with_reducible apply NoRise.after (k := ih ..))
    | (simp only [NoRise.mk_iff]; with_reducible refine NoRise.mk_same ?_)
    | (with_reducible exact NoRise.refl _)
    | (with_reducible assumption)
    | ((with_reducible apply NoRise.after_only (k := readFirst_only ..)); case w => rfl)
    | (with_reducible apply NoRise.after (k := reportFrame_noRise ..))
    | ((with_reducible apply NoRise.after_only (k := afterRemoval_only ..)); case w => rfl)
    | (split)

theorem resolveLoss_noRise (bad : List Nat) (s : State) :
    NoRise s (resolveLoss bad s) := by
  unfold resolveLoss
  try dsimp only
  repeat' first
    | (simp only [NoRise.mk_iff]; with_reducible refine NoRise.mk_same ?_)
    | (with_reducible exact NoRise.refl _)
    | (with_reducible assumption)
    | ((with_reducible apply NoRise.after_only (k := releaseAll_only ..)); case w => rfl)
    | ((with_reducible apply NoRise.after_only (k := watermarkReport_only ..)); case w => rfl)
    | (with_reducible apply NoRise.after (k := walkQueue_noRise ..))
    | (with_reducible apply NoRise.after (k := walkOut_noRise ..))
    | (with_reducible apply NoRise.after (k := sweepFrames_noRise ..))
    | ((with_reducible apply NoRise.foldl); intro _ _ _)
    | ((with_reducible apply NoRise.foldl_fst); intro _ _ _)
    | (split)

theorem execLossResolution_noRise (unreadable : List Nat) (s : State) (t : State) (h : execLossResolution unreadable s = .next t) :
    NoRise s t := by
  unfold execLossResolution at h
  try dsimp only at h
  cases h
  repeat' first
    | (with_reducible exact NoRise.refl _)
    | (with_reducible assumption)
    | (with_reducible apply NoRise.after (k := resolveLoss_noRise ..))
    | (split)

end Sys2Proof.Machine
end

