-- ==== Sys2Proof/Laws/RegulatorRise.lean ====
section
/-! SUPPORT. The definitions of Machine/Regulator.lean that reach Bridle turn no domain on. -/

namespace Sys2Proof.Machine

theorem execChannelStart_noRise (c : Chan) (m : StartReading) (snap : Snap) (s : State) (t : State) (h : execChannelStart c m snap s = .next t) :
    NoRise s t := by
  unfold execChannelStart at h
  try dsimp only at h
  cases h
  repeat' first
    | (with_reducible exact NoRise.refl _)
    | (with_reducible assumption)
    | (with_reducible apply NoRise.after (k := moveToVloc_noRise ..))
    | ((with_reducible apply NoRise.after_only (k := beginRamp_only ..)); case w => rfl)
    | ((with_reducible apply NoRise.after_only (k := modChan_only ..)); case w => rfl)
    | (with_reducible apply NoRise.after (k := capture_noRise ..))
    | (split)

theorem failChecks_noRise (s : State) (snap : Snap) :
    NoRise s (failChecks s snap) := by
  unfold failChecks
  try dsimp only
  repeat' first
    | (with_reducible exact NoRise.refl _)
    | (with_reducible assumption)
    | (with_reducible apply NoRise.after (k := failPhase_noRise ..))
    | ((with_reducible apply NoRise.foldl); intro _ _ _)
    | ((with_reducible apply NoRise.foldl_fst); intro _ _ _)
    | (split)

theorem execBalanceUpdate_noRise (i : Vector Half 6) (snap : Snap) (s : State) (t : State) (h : execBalanceUpdate i snap s = .next t) :
    NoRise s t := by
  unfold execBalanceUpdate at h
  try dsimp only at h
  cases h
  repeat' first
    | (simp only [NoRise.mk_iff]; with_reducible refine NoRise.mk_same ?_)
    | (with_reducible exact NoRise.refl _)
    | (with_reducible assumption)
    | ((with_reducible apply NoRise.after_only (k := updateTrims_only ..)); case w => rfl)
    | (with_reducible apply NoRise.after (k := failChecks_noRise ..))
    | (split)

end Sys2Proof.Machine
end

