-- ==== Sys2Proof/Laws/State.lean ====
section
/-! SUPPORT. The state's small updates, field by field: what each leaves as it is, and what is read after it. -/

namespace Sys2Proof.Machine

@[simp] theorem modDom_pending (s : State) (d : Nat) (f : Dom → Dom) : (modDom s d f).pending = s.pending := rfl
@[simp] theorem modDom_now (s : State) (d : Nat) (f : Dom → Dom) : (modDom s d f).now = s.now := rfl
@[simp] theorem modDom_free (s : State) (d : Nat) (f : Dom → Dom) : (modDom s d f).free = s.free := rfl
@[simp] theorem modDom_sup (s : State) (d : Nat) (f : Dom → Dom) : (modDom s d f).sup = s.sup := rfl
@[simp] theorem modDom_boot (s : State) (d : Nat) (f : Dom → Dom) : (modDom s d f).boot = s.boot := rfl
@[simp] theorem modDom_ident (s : State) (d : Nat) (f : Dom → Dom) : (modDom s d f).ident = s.ident := rfl
@[simp] theorem modDom_straps (s : State) (d : Nat) (f : Dom → Dom) : (modDom s d f).straps = s.straps := rfl
@[simp] theorem modDom_pins (s : State) (d : Nat) (f : Dom → Dom) : (modDom s d f).pins = s.pins := rfl
@[simp] theorem modDom_tap (s : State) (d : Nat) (f : Dom → Dom) : (modDom s d f).tap = s.tap := rfl
@[simp] theorem modDom_hours (s : State) (d : Nat) (f : Dom → Dom) : (modDom s d f).hours = s.hours := rfl
@[simp] theorem modDom_nvm (s : State) (d : Nat) (f : Dom → Dom) : (modDom s d f).nvm = s.nvm := rfl
@[simp] theorem modDom_flash (s : State) (d : Nat) (f : Dom → Dom) : (modDom s d f).flash = s.flash := rfl
@[simp] theorem modDom_reel (s : State) (d : Nat) (f : Dom → Dom) : (modDom s d f).reel = s.reel := rfl
@[simp] theorem modDom_xfer (s : State) (d : Nat) (f : Dom → Dom) : (modDom s d f).xfer = s.xfer := rfl
@[simp] theorem modDom_front (s : State) (d : Nat) (f : Dom → Dom) : (modDom s d f).front = s.front := rfl
@[simp] theorem modDom_rules (s : State) (d : Nat) (f : Dom → Dom) : (modDom s d f).rules = s.rules := rfl
@[simp] theorem modDom_engs (s : State) (d : Nat) (f : Dom → Dom) : (modDom s d f).engs = s.engs := rfl
@[simp] theorem modDom_act (s : State) (d : Nat) (f : Dom → Dom) : (modDom s d f).act = s.act := rfl
@[simp] theorem modDom_reg (s : State) (d : Nat) (f : Dom → Dom) : (modDom s d f).reg = s.reg := rfl
@[simp] theorem modDom_prot (s : State) (d : Nat) (f : Dom → Dom) : (modDom s d f).prot = s.prot := rfl
@[simp] theorem modDom_mons (s : State) (d : Nat) (f : Dom → Dom) : (modDom s d f).mons = s.mons := rfl
@[simp] theorem modDom_tether (s : State) (d : Nat) (f : Dom → Dom) : (modDom s d f).tether = s.tether := rfl
@[simp] theorem modDom_queues (s : State) (d : Nat) (f : Dom → Dom) : (modDom s d f).queues = s.queues := rfl
@[simp] theorem modDom_drop (s : State) (d : Nat) (f : Dom → Dom) : (modDom s d f).drop = s.drop := rfl
@[simp] theorem modDom_win (s : State) (d : Nat) (f : Dom → Dom) : (modDom s d f).win = s.win := rfl
@[simp] theorem modDom_gauge (s : State) (d : Nat) (f : Dom → Dom) : (modDom s d f).gauge = s.gauge := rfl
@[simp] theorem modDom_outage (s : State) (d : Nat) (f : Dom → Dom) : (modDom s d f).outage = s.outage := rfl
@[simp] theorem modDom_integ (s : State) (d : Nat) (f : Dom → Dom) : (modDom s d f).integ = s.integ := rfl
@[simp] theorem modDom_pace (s : State) (d : Nat) (f : Dom → Dom) : (modDom s d f).pace = s.pace := rfl

@[simp] theorem modLink_pending (s : State) (p : Port) (f : Link → Link) : (modLink s p f).pending = s.pending := by cases p <;> rfl
@[simp] theorem modLink_now (s : State) (p : Port) (f : Link → Link) : (modLink s p f).now = s.now := by cases p <;> rfl
@[simp] theorem modLink_free (s : State) (p : Port) (f : Link → Link) : (modLink s p f).free = s.free := by cases p <;> rfl
@[simp] theorem modLink_sup (s : State) (p : Port) (f : Link → Link) : (modLink s p f).sup = s.sup := by cases p <;> rfl
@[simp] theorem modLink_boot (s : State) (p : Port) (f : Link → Link) : (modLink s p f).boot = s.boot := by cases p <;> rfl
@[simp] theorem modLink_ident (s : State) (p : Port) (f : Link → Link) : (modLink s p f).ident = s.ident := by cases p <;> rfl
@[simp] theorem modLink_straps (s : State) (p : Port) (f : Link → Link) : (modLink s p f).straps = s.straps := by cases p <;> rfl
@[simp] theorem modLink_pins (s : State) (p : Port) (f : Link → Link) : (modLink s p f).pins = s.pins := by cases p <;> rfl
@[simp] theorem modLink_tap (s : State) (p : Port) (f : Link → Link) : (modLink s p f).tap = s.tap := by cases p <;> rfl
@[simp] theorem modLink_hours (s : State) (p : Port) (f : Link → Link) : (modLink s p f).hours = s.hours := by cases p <;> rfl
@[simp] theorem modLink_nvm (s : State) (p : Port) (f : Link → Link) : (modLink s p f).nvm = s.nvm := by cases p <;> rfl
@[simp] theorem modLink_flash (s : State) (p : Port) (f : Link → Link) : (modLink s p f).flash = s.flash := by cases p <;> rfl
@[simp] theorem modLink_reel (s : State) (p : Port) (f : Link → Link) : (modLink s p f).reel = s.reel := by cases p <;> rfl
@[simp] theorem modLink_xfer (s : State) (p : Port) (f : Link → Link) : (modLink s p f).xfer = s.xfer := by cases p <;> rfl
@[simp] theorem modLink_front (s : State) (p : Port) (f : Link → Link) : (modLink s p f).front = s.front := by cases p <;> rfl
@[simp] theorem modLink_rules (s : State) (p : Port) (f : Link → Link) : (modLink s p f).rules = s.rules := by cases p <;> rfl
@[simp] theorem modLink_engs (s : State) (p : Port) (f : Link → Link) : (modLink s p f).engs = s.engs := by cases p <;> rfl
@[simp] theorem modLink_act (s : State) (p : Port) (f : Link → Link) : (modLink s p f).act = s.act := by cases p <;> rfl
@[simp] theorem modLink_bridle (s : State) (p : Port) (f : Link → Link) : (modLink s p f).bridle = s.bridle := by cases p <;> rfl
@[simp] theorem modLink_reg (s : State) (p : Port) (f : Link → Link) : (modLink s p f).reg = s.reg := by cases p <;> rfl
@[simp] theorem modLink_prot (s : State) (p : Port) (f : Link → Link) : (modLink s p f).prot = s.prot := by cases p <;> rfl
@[simp] theorem modLink_mons (s : State) (p : Port) (f : Link → Link) : (modLink s p f).mons = s.mons := by cases p <;> rfl
@[simp] theorem modLink_queues (s : State) (p : Port) (f : Link → Link) : (modLink s p f).queues = s.queues := by cases p <;> rfl
@[simp] theorem modLink_drop (s : State) (p : Port) (f : Link → Link) : (modLink s p f).drop = s.drop := by cases p <;> rfl
@[simp] theorem modLink_win (s : State) (p : Port) (f : Link → Link) : (modLink s p f).win = s.win := by cases p <;> rfl
@[simp] theorem modLink_gauge (s : State) (p : Port) (f : Link → Link) : (modLink s p f).gauge = s.gauge := by cases p <;> rfl
@[simp] theorem modLink_outage (s : State) (p : Port) (f : Link → Link) : (modLink s p f).outage = s.outage := by cases p <;> rfl
@[simp] theorem modLink_integ (s : State) (p : Port) (f : Link → Link) : (modLink s p f).integ = s.integ := by cases p <;> rfl
@[simp] theorem modLink_pace (s : State) (p : Port) (f : Link → Link) : (modLink s p f).pace = s.pace := by cases p <;> rfl

@[simp] theorem modChan_pending (s : State) (c : Chan) (f : ChanSt → ChanSt) : (modChan s c f).pending = s.pending := by cases c <;> rfl
@[simp] theorem modChan_now (s : State) (c : Chan) (f : ChanSt → ChanSt) : (modChan s c f).now = s.now := by cases c <;> rfl
@[simp] theorem modChan_free (s : State) (c : Chan) (f : ChanSt → ChanSt) : (modChan s c f).free = s.free := by cases c <;> rfl
@[simp] theorem modChan_sup (s : State) (c : Chan) (f : ChanSt → ChanSt) : (modChan s c f).sup = s.sup := by cases c <;> rfl
@[simp] theorem modChan_boot (s : State) (c : Chan) (f : ChanSt → ChanSt) : (modChan s c f).boot = s.boot := by cases c <;> rfl
@[simp] theorem modChan_ident (s : State) (c : Chan) (f : ChanSt → ChanSt) : (modChan s c f).ident = s.ident := by cases c <;> rfl
@[simp] theorem modChan_straps (s : State) (c : Chan) (f : ChanSt → ChanSt) : (modChan s c f).straps = s.straps := by cases c <;> rfl
@[simp] theorem modChan_pins (s : State) (c : Chan) (f : ChanSt → ChanSt) : (modChan s c f).pins = s.pins := by cases c <;> rfl
@[simp] theorem modChan_tap (s : State) (c : Chan) (f : ChanSt → ChanSt) : (modChan s c f).tap = s.tap := by cases c <;> rfl
@[simp] theorem modChan_hours (s : State) (c : Chan) (f : ChanSt → ChanSt) : (modChan s c f).hours = s.hours := by cases c <;> rfl
@[simp] theorem modChan_nvm (s : State) (c : Chan) (f : ChanSt → ChanSt) : (modChan s c f).nvm = s.nvm := by cases c <;> rfl
@[simp] theorem modChan_flash (s : State) (c : Chan) (f : ChanSt → ChanSt) : (modChan s c f).flash = s.flash := by cases c <;> rfl
@[simp] theorem modChan_reel (s : State) (c : Chan) (f : ChanSt → ChanSt) : (modChan s c f).reel = s.reel := by cases c <;> rfl
@[simp] theorem modChan_xfer (s : State) (c : Chan) (f : ChanSt → ChanSt) : (modChan s c f).xfer = s.xfer := by cases c <;> rfl
@[simp] theorem modChan_front (s : State) (c : Chan) (f : ChanSt → ChanSt) : (modChan s c f).front = s.front := by cases c <;> rfl
@[simp] theorem modChan_rules (s : State) (c : Chan) (f : ChanSt → ChanSt) : (modChan s c f).rules = s.rules := by cases c <;> rfl
@[simp] theorem modChan_engs (s : State) (c : Chan) (f : ChanSt → ChanSt) : (modChan s c f).engs = s.engs := by cases c <;> rfl
@[simp] theorem modChan_act (s : State) (c : Chan) (f : ChanSt → ChanSt) : (modChan s c f).act = s.act := by cases c <;> rfl
@[simp] theorem modChan_bridle (s : State) (c : Chan) (f : ChanSt → ChanSt) : (modChan s c f).bridle = s.bridle := by cases c <;> rfl
@[simp] theorem modChan_prot (s : State) (c : Chan) (f : ChanSt → ChanSt) : (modChan s c f).prot = s.prot := by cases c <;> rfl
@[simp] theorem modChan_mons (s : State) (c : Chan) (f : ChanSt → ChanSt) : (modChan s c f).mons = s.mons := by cases c <;> rfl
@[simp] theorem modChan_tether (s : State) (c : Chan) (f : ChanSt → ChanSt) : (modChan s c f).tether = s.tether := by cases c <;> rfl
@[simp] theorem modChan_queues (s : State) (c : Chan) (f : ChanSt → ChanSt) : (modChan s c f).queues = s.queues := by cases c <;> rfl
@[simp] theorem modChan_drop (s : State) (c : Chan) (f : ChanSt → ChanSt) : (modChan s c f).drop = s.drop := by cases c <;> rfl
@[simp] theorem modChan_win (s : State) (c : Chan) (f : ChanSt → ChanSt) : (modChan s c f).win = s.win := by cases c <;> rfl
@[simp] theorem modChan_gauge (s : State) (c : Chan) (f : ChanSt → ChanSt) : (modChan s c f).gauge = s.gauge := by cases c <;> rfl
@[simp] theorem modChan_outage (s : State) (c : Chan) (f : ChanSt → ChanSt) : (modChan s c f).outage = s.outage := by cases c <;> rfl
@[simp] theorem modChan_integ (s : State) (c : Chan) (f : ChanSt → ChanSt) : (modChan s c f).integ = s.integ := by cases c <;> rfl
@[simp] theorem modChan_pace (s : State) (c : Chan) (f : ChanSt → ChanSt) : (modChan s c f).pace = s.pace := by cases c <;> rfl

@[simp] theorem addFault_pending (s : State) (a : Alarm) : (addFault s a).pending = s.pending := rfl
@[simp] theorem addFault_now (s : State) (a : Alarm) : (addFault s a).now = s.now := rfl
@[simp] theorem addFault_free (s : State) (a : Alarm) : (addFault s a).free = s.free := rfl
@[simp] theorem addFault_sup (s : State) (a : Alarm) : (addFault s a).sup = s.sup := rfl
@[simp] theorem addFault_boot (s : State) (a : Alarm) : (addFault s a).boot = s.boot := rfl
@[simp] theorem addFault_ident (s : State) (a : Alarm) : (addFault s a).ident = s.ident := rfl
@[simp] theorem addFault_straps (s : State) (a : Alarm) : (addFault s a).straps = s.straps := rfl
@[simp] theorem addFault_pins (s : State) (a : Alarm) : (addFault s a).pins = s.pins := rfl
@[simp] theorem addFault_tap (s : State) (a : Alarm) : (addFault s a).tap = s.tap := rfl
@[simp] theorem addFault_hours (s : State) (a : Alarm) : (addFault s a).hours = s.hours := rfl
@[simp] theorem addFault_nvm (s : State) (a : Alarm) : (addFault s a).nvm = s.nvm := rfl
@[simp] theorem addFault_flash (s : State) (a : Alarm) : (addFault s a).flash = s.flash := rfl
@[simp] theorem addFault_reel (s : State) (a : Alarm) : (addFault s a).reel = s.reel := rfl
@[simp] theorem addFault_xfer (s : State) (a : Alarm) : (addFault s a).xfer = s.xfer := rfl
@[simp] theorem addFault_front (s : State) (a : Alarm) : (addFault s a).front = s.front := rfl
@[simp] theorem addFault_rules (s : State) (a : Alarm) : (addFault s a).rules = s.rules := rfl
@[simp] theorem addFault_engs (s : State) (a : Alarm) : (addFault s a).engs = s.engs := rfl
@[simp] theorem addFault_act (s : State) (a : Alarm) : (addFault s a).act = s.act := rfl
@[simp] theorem addFault_bridle (s : State) (a : Alarm) : (addFault s a).bridle = s.bridle := rfl
@[simp] theorem addFault_reg (s : State) (a : Alarm) : (addFault s a).reg = s.reg := rfl
@[simp] theorem addFault_mons (s : State) (a : Alarm) : (addFault s a).mons = s.mons := rfl
@[simp] theorem addFault_tether (s : State) (a : Alarm) : (addFault s a).tether = s.tether := rfl
@[simp] theorem addFault_queues (s : State) (a : Alarm) : (addFault s a).queues = s.queues := rfl
@[simp] theorem addFault_drop (s : State) (a : Alarm) : (addFault s a).drop = s.drop := rfl
@[simp] theorem addFault_win (s : State) (a : Alarm) : (addFault s a).win = s.win := rfl
@[simp] theorem addFault_gauge (s : State) (a : Alarm) : (addFault s a).gauge = s.gauge := rfl
@[simp] theorem addFault_outage (s : State) (a : Alarm) : (addFault s a).outage = s.outage := rfl
@[simp] theorem addFault_integ (s : State) (a : Alarm) : (addFault s a).integ = s.integ := rfl
@[simp] theorem addFault_pace (s : State) (a : Alarm) : (addFault s a).pace = s.pace := rfl

@[simp] theorem dropFault_pending (s : State) (a : Alarm) : (dropFault s a).pending = s.pending := rfl
@[simp] theorem dropFault_now (s : State) (a : Alarm) : (dropFault s a).now = s.now := rfl
@[simp] theorem dropFault_free (s : State) (a : Alarm) : (dropFault s a).free = s.free := rfl
@[simp] theorem dropFault_sup (s : State) (a : Alarm) : (dropFault s a).sup = s.sup := rfl
@[simp] theorem dropFault_boot (s : State) (a : Alarm) : (dropFault s a).boot = s.boot := rfl
@[simp] theorem dropFault_ident (s : State) (a : Alarm) : (dropFault s a).ident = s.ident := rfl
@[simp] theorem dropFault_straps (s : State) (a : Alarm) : (dropFault s a).straps = s.straps := rfl
@[simp] theorem dropFault_pins (s : State) (a : Alarm) : (dropFault s a).pins = s.pins := rfl
@[simp] theorem dropFault_tap (s : State) (a : Alarm) : (dropFault s a).tap = s.tap := rfl
@[simp] theorem dropFault_hours (s : State) (a : Alarm) : (dropFault s a).hours = s.hours := rfl
@[simp] theorem dropFault_nvm (s : State) (a : Alarm) : (dropFault s a).nvm = s.nvm := rfl
@[simp] theorem dropFault_flash (s : State) (a : Alarm) : (dropFault s a).flash = s.flash := rfl
@[simp] theorem dropFault_reel (s : State) (a : Alarm) : (dropFault s a).reel = s.reel := rfl
@[simp] theorem dropFault_xfer (s : State) (a : Alarm) : (dropFault s a).xfer = s.xfer := rfl
@[simp] theorem dropFault_front (s : State) (a : Alarm) : (dropFault s a).front = s.front := rfl
@[simp] theorem dropFault_rules (s : State) (a : Alarm) : (dropFault s a).rules = s.rules := rfl
@[simp] theorem dropFault_engs (s : State) (a : Alarm) : (dropFault s a).engs = s.engs := rfl
@[simp] theorem dropFault_act (s : State) (a : Alarm) : (dropFault s a).act = s.act := rfl
@[simp] theorem dropFault_bridle (s : State) (a : Alarm) : (dropFault s a).bridle = s.bridle := rfl
@[simp] theorem dropFault_reg (s : State) (a : Alarm) : (dropFault s a).reg = s.reg := rfl
@[simp] theorem dropFault_mons (s : State) (a : Alarm) : (dropFault s a).mons = s.mons := rfl
@[simp] theorem dropFault_tether (s : State) (a : Alarm) : (dropFault s a).tether = s.tether := rfl
@[simp] theorem dropFault_queues (s : State) (a : Alarm) : (dropFault s a).queues = s.queues := rfl
@[simp] theorem dropFault_drop (s : State) (a : Alarm) : (dropFault s a).drop = s.drop := rfl
@[simp] theorem dropFault_win (s : State) (a : Alarm) : (dropFault s a).win = s.win := rfl
@[simp] theorem dropFault_gauge (s : State) (a : Alarm) : (dropFault s a).gauge = s.gauge := rfl
@[simp] theorem dropFault_outage (s : State) (a : Alarm) : (dropFault s a).outage = s.outage := rfl
@[simp] theorem dropFault_integ (s : State) (a : Alarm) : (dropFault s a).integ = s.integ := rfl
@[simp] theorem dropFault_pace (s : State) (a : Alarm) : (dropFault s a).pace = s.pace := rfl

@[simp] theorem addAlert_pending (s : State) (a : Alarm) : (addAlert s a).pending = s.pending := rfl
@[simp] theorem addAlert_now (s : State) (a : Alarm) : (addAlert s a).now = s.now := rfl
@[simp] theorem addAlert_free (s : State) (a : Alarm) : (addAlert s a).free = s.free := rfl
@[simp] theorem addAlert_sup (s : State) (a : Alarm) : (addAlert s a).sup = s.sup := rfl
@[simp] theorem addAlert_boot (s : State) (a : Alarm) : (addAlert s a).boot = s.boot := rfl
@[simp] theorem addAlert_ident (s : State) (a : Alarm) : (addAlert s a).ident = s.ident := rfl
@[simp] theorem addAlert_straps (s : State) (a : Alarm) : (addAlert s a).straps = s.straps := rfl
@[simp] theorem addAlert_pins (s : State) (a : Alarm) : (addAlert s a).pins = s.pins := rfl
@[simp] theorem addAlert_tap (s : State) (a : Alarm) : (addAlert s a).tap = s.tap := rfl
@[simp] theorem addAlert_hours (s : State) (a : Alarm) : (addAlert s a).hours = s.hours := rfl
@[simp] theorem addAlert_nvm (s : State) (a : Alarm) : (addAlert s a).nvm = s.nvm := rfl
@[simp] theorem addAlert_flash (s : State) (a : Alarm) : (addAlert s a).flash = s.flash := rfl
@[simp] theorem addAlert_reel (s : State) (a : Alarm) : (addAlert s a).reel = s.reel := rfl
@[simp] theorem addAlert_xfer (s : State) (a : Alarm) : (addAlert s a).xfer = s.xfer := rfl
@[simp] theorem addAlert_front (s : State) (a : Alarm) : (addAlert s a).front = s.front := rfl
@[simp] theorem addAlert_rules (s : State) (a : Alarm) : (addAlert s a).rules = s.rules := rfl
@[simp] theorem addAlert_engs (s : State) (a : Alarm) : (addAlert s a).engs = s.engs := rfl
@[simp] theorem addAlert_act (s : State) (a : Alarm) : (addAlert s a).act = s.act := rfl
@[simp] theorem addAlert_bridle (s : State) (a : Alarm) : (addAlert s a).bridle = s.bridle := rfl
@[simp] theorem addAlert_reg (s : State) (a : Alarm) : (addAlert s a).reg = s.reg := rfl
@[simp] theorem addAlert_mons (s : State) (a : Alarm) : (addAlert s a).mons = s.mons := rfl
@[simp] theorem addAlert_tether (s : State) (a : Alarm) : (addAlert s a).tether = s.tether := rfl
@[simp] theorem addAlert_queues (s : State) (a : Alarm) : (addAlert s a).queues = s.queues := rfl
@[simp] theorem addAlert_drop (s : State) (a : Alarm) : (addAlert s a).drop = s.drop := rfl
@[simp] theorem addAlert_win (s : State) (a : Alarm) : (addAlert s a).win = s.win := rfl
@[simp] theorem addAlert_gauge (s : State) (a : Alarm) : (addAlert s a).gauge = s.gauge := rfl
@[simp] theorem addAlert_outage (s : State) (a : Alarm) : (addAlert s a).outage = s.outage := rfl
@[simp] theorem addAlert_integ (s : State) (a : Alarm) : (addAlert s a).integ = s.integ := rfl
@[simp] theorem addAlert_pace (s : State) (a : Alarm) : (addAlert s a).pace = s.pace := rfl

@[simp] theorem dropAlert_pending (s : State) (a : Alarm) : (dropAlert s a).pending = s.pending := rfl
@[simp] theorem dropAlert_now (s : State) (a : Alarm) : (dropAlert s a).now = s.now := rfl
@[simp] theorem dropAlert_free (s : State) (a : Alarm) : (dropAlert s a).free = s.free := rfl
@[simp] theorem dropAlert_sup (s : State) (a : Alarm) : (dropAlert s a).sup = s.sup := rfl
@[simp] theorem dropAlert_boot (s : State) (a : Alarm) : (dropAlert s a).boot = s.boot := rfl
@[simp] theorem dropAlert_ident (s : State) (a : Alarm) : (dropAlert s a).ident = s.ident := rfl
@[simp] theorem dropAlert_straps (s : State) (a : Alarm) : (dropAlert s a).straps = s.straps := rfl
@[simp] theorem dropAlert_pins (s : State) (a : Alarm) : (dropAlert s a).pins = s.pins := rfl
@[simp] theorem dropAlert_tap (s : State) (a : Alarm) : (dropAlert s a).tap = s.tap := rfl
@[simp] theorem dropAlert_hours (s : State) (a : Alarm) : (dropAlert s a).hours = s.hours := rfl
@[simp] theorem dropAlert_nvm (s : State) (a : Alarm) : (dropAlert s a).nvm = s.nvm := rfl
@[simp] theorem dropAlert_flash (s : State) (a : Alarm) : (dropAlert s a).flash = s.flash := rfl
@[simp] theorem dropAlert_reel (s : State) (a : Alarm) : (dropAlert s a).reel = s.reel := rfl
@[simp] theorem dropAlert_xfer (s : State) (a : Alarm) : (dropAlert s a).xfer = s.xfer := rfl
@[simp] theorem dropAlert_front (s : State) (a : Alarm) : (dropAlert s a).front = s.front := rfl
@[simp] theorem dropAlert_rules (s : State) (a : Alarm) : (dropAlert s a).rules = s.rules := rfl
@[simp] theorem dropAlert_engs (s : State) (a : Alarm) : (dropAlert s a).engs = s.engs := rfl
@[simp] theorem dropAlert_act (s : State) (a : Alarm) : (dropAlert s a).act = s.act := rfl
@[simp] theorem dropAlert_bridle (s : State) (a : Alarm) : (dropAlert s a).bridle = s.bridle := rfl
@[simp] theorem dropAlert_reg (s : State) (a : Alarm) : (dropAlert s a).reg = s.reg := rfl
@[simp] theorem dropAlert_mons (s : State) (a : Alarm) : (dropAlert s a).mons = s.mons := rfl
@[simp] theorem dropAlert_tether (s : State) (a : Alarm) : (dropAlert s a).tether = s.tether := rfl
@[simp] theorem dropAlert_queues (s : State) (a : Alarm) : (dropAlert s a).queues = s.queues := rfl
@[simp] theorem dropAlert_drop (s : State) (a : Alarm) : (dropAlert s a).drop = s.drop := rfl
@[simp] theorem dropAlert_win (s : State) (a : Alarm) : (dropAlert s a).win = s.win := rfl
@[simp] theorem dropAlert_gauge (s : State) (a : Alarm) : (dropAlert s a).gauge = s.gauge := rfl
@[simp] theorem dropAlert_outage (s : State) (a : Alarm) : (dropAlert s a).outage = s.outage := rfl
@[simp] theorem dropAlert_integ (s : State) (a : Alarm) : (dropAlert s a).integ = s.integ := rfl
@[simp] theorem dropAlert_pace (s : State) (a : Alarm) : (dropAlert s a).pace = s.pace := rfl

@[simp] theorem takeFree_pending (s : State) : ((takeFree s).2).pending = s.pending := rfl
@[simp] theorem takeFree_now (s : State) : ((takeFree s).2).now = s.now := rfl
@[simp] theorem takeFree_sup (s : State) : ((takeFree s).2).sup = s.sup := rfl
@[simp] theorem takeFree_boot (s : State) : ((takeFree s).2).boot = s.boot := rfl
@[simp] theorem takeFree_ident (s : State) : ((takeFree s).2).ident = s.ident := rfl
@[simp] theorem takeFree_straps (s : State) : ((takeFree s).2).straps = s.straps := rfl
@[simp] theorem takeFree_pins (s : State) : ((takeFree s).2).pins = s.pins := rfl
@[simp] theorem takeFree_tap (s : State) : ((takeFree s).2).tap = s.tap := rfl
@[simp] theorem takeFree_hours (s : State) : ((takeFree s).2).hours = s.hours := rfl
@[simp] theorem takeFree_nvm (s : State) : ((takeFree s).2).nvm = s.nvm := rfl
@[simp] theorem takeFree_flash (s : State) : ((takeFree s).2).flash = s.flash := rfl
@[simp] theorem takeFree_reel (s : State) : ((takeFree s).2).reel = s.reel := rfl
@[simp] theorem takeFree_xfer (s : State) : ((takeFree s).2).xfer = s.xfer := rfl
@[simp] theorem takeFree_front (s : State) : ((takeFree s).2).front = s.front := rfl
@[simp] theorem takeFree_rules (s : State) : ((takeFree s).2).rules = s.rules := rfl
@[simp] theorem takeFree_engs (s : State) : ((takeFree s).2).engs = s.engs := rfl
@[simp] theorem takeFree_act (s : State) : ((takeFree s).2).act = s.act := rfl
@[simp] theorem takeFree_bridle (s : State) : ((takeFree s).2).bridle = s.bridle := rfl
@[simp] theorem takeFree_reg (s : State) : ((takeFree s).2).reg = s.reg := rfl
@[simp] theorem takeFree_prot (s : State) : ((takeFree s).2).prot = s.prot := rfl
@[simp] theorem takeFree_mons (s : State) : ((takeFree s).2).mons = s.mons := rfl
@[simp] theorem takeFree_tether (s : State) : ((takeFree s).2).tether = s.tether := rfl
@[simp] theorem takeFree_queues (s : State) : ((takeFree s).2).queues = s.queues := rfl
@[simp] theorem takeFree_drop (s : State) : ((takeFree s).2).drop = s.drop := rfl
@[simp] theorem takeFree_win (s : State) : ((takeFree s).2).win = s.win := rfl
@[simp] theorem takeFree_gauge (s : State) : ((takeFree s).2).gauge = s.gauge := rfl
@[simp] theorem takeFree_outage (s : State) : ((takeFree s).2).outage = s.outage := rfl
@[simp] theorem takeFree_integ (s : State) : ((takeFree s).2).integ = s.integ := rfl
@[simp] theorem takeFree_pace (s : State) : ((takeFree s).2).pace = s.pace := rfl

@[simp] theorem modMon_pending (s : State) (k : Nat) (f : MonSt → MonSt) : (modMon s k f).pending = s.pending := rfl
@[simp] theorem modMon_now (s : State) (k : Nat) (f : MonSt → MonSt) : (modMon s k f).now = s.now := rfl
@[simp] theorem modMon_free (s : State) (k : Nat) (f : MonSt → MonSt) : (modMon s k f).free = s.free := rfl
@[simp] theorem modMon_sup (s : State) (k : Nat) (f : MonSt → MonSt) : (modMon s k f).sup = s.sup := rfl
@[simp] theorem modMon_boot (s : State) (k : Nat) (f : MonSt → MonSt) : (modMon s k f).boot = s.boot := rfl
@[simp] theorem modMon_ident (s : State) (k : Nat) (f : MonSt → MonSt) : (modMon s k f).ident = s.ident := rfl
@[simp] theorem modMon_straps (s : State) (k : Nat) (f : MonSt → MonSt) : (modMon s k f).straps = s.straps := rfl
@[simp] theorem modMon_pins (s : State) (k : Nat) (f : MonSt → MonSt) : (modMon s k f).pins = s.pins := rfl
@[simp] theorem modMon_tap (s : State) (k : Nat) (f : MonSt → MonSt) : (modMon s k f).tap = s.tap := rfl
@[simp] theorem modMon_hours (s : State) (k : Nat) (f : MonSt → MonSt) : (modMon s k f).hours = s.hours := rfl
@[simp] theorem modMon_nvm (s : State) (k : Nat) (f : MonSt → MonSt) : (modMon s k f).nvm = s.nvm := rfl
@[simp] theorem modMon_flash (s : State) (k : Nat) (f : MonSt → MonSt) : (modMon s k f).flash = s.flash := rfl
@[simp] theorem modMon_reel (s : State) (k : Nat) (f : MonSt → MonSt) : (modMon s k f).reel = s.reel := rfl
@[simp] theorem modMon_xfer (s : State) (k : Nat) (f : MonSt → MonSt) : (modMon s k f).xfer = s.xfer := rfl
@[simp] theorem modMon_front (s : State) (k : Nat) (f : MonSt → MonSt) : (modMon s k f).front = s.front := rfl
@[simp] theorem modMon_rules (s : State) (k : Nat) (f : MonSt → MonSt) : (modMon s k f).rules = s.rules := rfl
@[simp] theorem modMon_engs (s : State) (k : Nat) (f : MonSt → MonSt) : (modMon s k f).engs = s.engs := rfl
@[simp] theorem modMon_act (s : State) (k : Nat) (f : MonSt → MonSt) : (modMon s k f).act = s.act := rfl
@[simp] theorem modMon_bridle (s : State) (k : Nat) (f : MonSt → MonSt) : (modMon s k f).bridle = s.bridle := rfl
@[simp] theorem modMon_reg (s : State) (k : Nat) (f : MonSt → MonSt) : (modMon s k f).reg = s.reg := rfl
@[simp] theorem modMon_prot (s : State) (k : Nat) (f : MonSt → MonSt) : (modMon s k f).prot = s.prot := rfl
@[simp] theorem modMon_tether (s : State) (k : Nat) (f : MonSt → MonSt) : (modMon s k f).tether = s.tether := rfl
@[simp] theorem modMon_queues (s : State) (k : Nat) (f : MonSt → MonSt) : (modMon s k f).queues = s.queues := rfl
@[simp] theorem modMon_drop (s : State) (k : Nat) (f : MonSt → MonSt) : (modMon s k f).drop = s.drop := rfl
@[simp] theorem modMon_win (s : State) (k : Nat) (f : MonSt → MonSt) : (modMon s k f).win = s.win := rfl
@[simp] theorem modMon_gauge (s : State) (k : Nat) (f : MonSt → MonSt) : (modMon s k f).gauge = s.gauge := rfl
@[simp] theorem modMon_outage (s : State) (k : Nat) (f : MonSt → MonSt) : (modMon s k f).outage = s.outage := rfl
@[simp] theorem modMon_integ (s : State) (k : Nat) (f : MonSt → MonSt) : (modMon s k f).integ = s.integ := rfl
@[simp] theorem modMon_pace (s : State) (k : Nat) (f : MonSt → MonSt) : (modMon s k f).pace = s.pace := rfl

@[simp] theorem setPwm_pending (s : State) (c : Chan) (v : Pwm) : (setPwm s c v).pending = s.pending := by cases c <;> rfl
@[simp] theorem setPwm_now (s : State) (c : Chan) (v : Pwm) : (setPwm s c v).now = s.now := by cases c <;> rfl
@[simp] theorem setPwm_free (s : State) (c : Chan) (v : Pwm) : (setPwm s c v).free = s.free := by cases c <;> rfl
@[simp] theorem setPwm_sup (s : State) (c : Chan) (v : Pwm) : (setPwm s c v).sup = s.sup := by cases c <;> rfl
@[simp] theorem setPwm_boot (s : State) (c : Chan) (v : Pwm) : (setPwm s c v).boot = s.boot := by cases c <;> rfl
@[simp] theorem setPwm_ident (s : State) (c : Chan) (v : Pwm) : (setPwm s c v).ident = s.ident := by cases c <;> rfl
@[simp] theorem setPwm_straps (s : State) (c : Chan) (v : Pwm) : (setPwm s c v).straps = s.straps := by cases c <;> rfl
@[simp] theorem setPwm_pins (s : State) (c : Chan) (v : Pwm) : (setPwm s c v).pins = s.pins := by cases c <;> rfl
@[simp] theorem setPwm_tap (s : State) (c : Chan) (v : Pwm) : (setPwm s c v).tap = s.tap := by cases c <;> rfl
@[simp] theorem setPwm_hours (s : State) (c : Chan) (v : Pwm) : (setPwm s c v).hours = s.hours := by cases c <;> rfl
@[simp] theorem setPwm_nvm (s : State) (c : Chan) (v : Pwm) : (setPwm s c v).nvm = s.nvm := by cases c <;> rfl
@[simp] theorem setPwm_flash (s : State) (c : Chan) (v : Pwm) : (setPwm s c v).flash = s.flash := by cases c <;> rfl
@[simp] theorem setPwm_reel (s : State) (c : Chan) (v : Pwm) : (setPwm s c v).reel = s.reel := by cases c <;> rfl
@[simp] theorem setPwm_xfer (s : State) (c : Chan) (v : Pwm) : (setPwm s c v).xfer = s.xfer := by cases c <;> rfl
@[simp] theorem setPwm_front (s : State) (c : Chan) (v : Pwm) : (setPwm s c v).front = s.front := by cases c <;> rfl
@[simp] theorem setPwm_rules (s : State) (c : Chan) (v : Pwm) : (setPwm s c v).rules = s.rules := by cases c <;> rfl
@[simp] theorem setPwm_engs (s : State) (c : Chan) (v : Pwm) : (setPwm s c v).engs = s.engs := by cases c <;> rfl
@[simp] theorem setPwm_act (s : State) (c : Chan) (v : Pwm) : (setPwm s c v).act = s.act := by cases c <;> rfl
@[simp] theorem setPwm_bridle (s : State) (c : Chan) (v : Pwm) : (setPwm s c v).bridle = s.bridle := by cases c <;> rfl
@[simp] theorem setPwm_prot (s : State) (c : Chan) (v : Pwm) : (setPwm s c v).prot = s.prot := by cases c <;> rfl
@[simp] theorem setPwm_mons (s : State) (c : Chan) (v : Pwm) : (setPwm s c v).mons = s.mons := by cases c <;> rfl
@[simp] theorem setPwm_tether (s : State) (c : Chan) (v : Pwm) : (setPwm s c v).tether = s.tether := by cases c <;> rfl
@[simp] theorem setPwm_queues (s : State) (c : Chan) (v : Pwm) : (setPwm s c v).queues = s.queues := by cases c <;> rfl
@[simp] theorem setPwm_drop (s : State) (c : Chan) (v : Pwm) : (setPwm s c v).drop = s.drop := by cases c <;> rfl
@[simp] theorem setPwm_win (s : State) (c : Chan) (v : Pwm) : (setPwm s c v).win = s.win := by cases c <;> rfl
@[simp] theorem setPwm_gauge (s : State) (c : Chan) (v : Pwm) : (setPwm s c v).gauge = s.gauge := by cases c <;> rfl
@[simp] theorem setPwm_outage (s : State) (c : Chan) (v : Pwm) : (setPwm s c v).outage = s.outage := by cases c <;> rfl
@[simp] theorem setPwm_integ (s : State) (c : Chan) (v : Pwm) : (setPwm s c v).integ = s.integ := by cases c <;> rfl
@[simp] theorem setPwm_pace (s : State) (c : Chan) (v : Pwm) : (setPwm s c v).pace = s.pace := by cases c <;> rfl

@[simp] theorem modWake_pending (s : State) (k : Nat) (f : WakeWord → WakeWord) : (modWake s k f).pending = s.pending := rfl
@[simp] theorem modWake_now (s : State) (k : Nat) (f : WakeWord → WakeWord) : (modWake s k f).now = s.now := rfl
@[simp] theorem modWake_free (s : State) (k : Nat) (f : WakeWord → WakeWord) : (modWake s k f).free = s.free := rfl
@[simp] theorem modWake_sup (s : State) (k : Nat) (f : WakeWord → WakeWord) : (modWake s k f).sup = s.sup := rfl
@[simp] theorem modWake_boot (s : State) (k : Nat) (f : WakeWord → WakeWord) : (modWake s k f).boot = s.boot := rfl
@[simp] theorem modWake_ident (s : State) (k : Nat) (f : WakeWord → WakeWord) : (modWake s k f).ident = s.ident := rfl
@[simp] theorem modWake_straps (s : State) (k : Nat) (f : WakeWord → WakeWord) : (modWake s k f).straps = s.straps := rfl
@[simp] theorem modWake_pins (s : State) (k : Nat) (f : WakeWord → WakeWord) : (modWake s k f).pins = s.pins := rfl
@[simp] theorem modWake_tap (s : State) (k : Nat) (f : WakeWord → WakeWord) : (modWake s k f).tap = s.tap := rfl
@[simp] theorem modWake_hours (s : State) (k : Nat) (f : WakeWord → WakeWord) : (modWake s k f).hours = s.hours := rfl
@[simp] theorem modWake_nvm (s : State) (k : Nat) (f : WakeWord → WakeWord) : (modWake s k f).nvm = s.nvm := rfl
@[simp] theorem modWake_flash (s : State) (k : Nat) (f : WakeWord → WakeWord) : (modWake s k f).flash = s.flash := rfl
@[simp] theorem modWake_reel (s : State) (k : Nat) (f : WakeWord → WakeWord) : (modWake s k f).reel = s.reel := rfl
@[simp] theorem modWake_xfer (s : State) (k : Nat) (f : WakeWord → WakeWord) : (modWake s k f).xfer = s.xfer := rfl
@[simp] theorem modWake_front (s : State) (k : Nat) (f : WakeWord → WakeWord) : (modWake s k f).front = s.front := rfl
@[simp] theorem modWake_rules (s : State) (k : Nat) (f : WakeWord → WakeWord) : (modWake s k f).rules = s.rules := rfl
@[simp] theorem modWake_engs (s : State) (k : Nat) (f : WakeWord → WakeWord) : (modWake s k f).engs = s.engs := rfl
@[simp] theorem modWake_bridle (s : State) (k : Nat) (f : WakeWord → WakeWord) : (modWake s k f).bridle = s.bridle := rfl
@[simp] theorem modWake_reg (s : State) (k : Nat) (f : WakeWord → WakeWord) : (modWake s k f).reg = s.reg := rfl
@[simp] theorem modWake_prot (s : State) (k : Nat) (f : WakeWord → WakeWord) : (modWake s k f).prot = s.prot := rfl
@[simp] theorem modWake_mons (s : State) (k : Nat) (f : WakeWord → WakeWord) : (modWake s k f).mons = s.mons := rfl
@[simp] theorem modWake_tether (s : State) (k : Nat) (f : WakeWord → WakeWord) : (modWake s k f).tether = s.tether := rfl
@[simp] theorem modWake_queues (s : State) (k : Nat) (f : WakeWord → WakeWord) : (modWake s k f).queues = s.queues := rfl
@[simp] theorem modWake_drop (s : State) (k : Nat) (f : WakeWord → WakeWord) : (modWake s k f).drop = s.drop := rfl
@[simp] theorem modWake_win (s : State) (k : Nat) (f : WakeWord → WakeWord) : (modWake s k f).win = s.win := rfl
@[simp] theorem modWake_gauge (s : State) (k : Nat) (f : WakeWord → WakeWord) : (modWake s k f).gauge = s.gauge := rfl
@[simp] theorem modWake_outage (s : State) (k : Nat) (f : WakeWord → WakeWord) : (modWake s k f).outage = s.outage := rfl
@[simp] theorem modWake_integ (s : State) (k : Nat) (f : WakeWord → WakeWord) : (modWake s k f).integ = s.integ := rfl
@[simp] theorem modWake_pace (s : State) (k : Nat) (f : WakeWord → WakeWord) : (modWake s k f).pace = s.pace := rfl

@[simp] theorem modTry_pending (s : State) (c : Chan) (f : RailTry → RailTry) : (modTry s c f).pending = s.pending := by cases c <;> rfl
@[simp] theorem modTry_now (s : State) (c : Chan) (f : RailTry → RailTry) : (modTry s c f).now = s.now := by cases c <;> rfl
@[simp] theorem modTry_free (s : State) (c : Chan) (f : RailTry → RailTry) : (modTry s c f).free = s.free := by cases c <;> rfl
@[simp] theorem modTry_sup (s : State) (c : Chan) (f : RailTry → RailTry) : (modTry s c f).sup = s.sup := by cases c <;> rfl
@[simp] theorem modTry_boot (s : State) (c : Chan) (f : RailTry → RailTry) : (modTry s c f).boot = s.boot := by cases c <;> rfl
@[simp] theorem modTry_ident (s : State) (c : Chan) (f : RailTry → RailTry) : (modTry s c f).ident = s.ident := by cases c <;> rfl
@[simp] theorem modTry_straps (s : State) (c : Chan) (f : RailTry → RailTry) : (modTry s c f).straps = s.straps := by cases c <;> rfl
@[simp] theorem modTry_pins (s : State) (c : Chan) (f : RailTry → RailTry) : (modTry s c f).pins = s.pins := by cases c <;> rfl
@[simp] theorem modTry_tap (s : State) (c : Chan) (f : RailTry → RailTry) : (modTry s c f).tap = s.tap := by cases c <;> rfl
@[simp] theorem modTry_hours (s : State) (c : Chan) (f : RailTry → RailTry) : (modTry s c f).hours = s.hours := by cases c <;> rfl
@[simp] theorem modTry_nvm (s : State) (c : Chan) (f : RailTry → RailTry) : (modTry s c f).nvm = s.nvm := by cases c <;> rfl
@[simp] theorem modTry_flash (s : State) (c : Chan) (f : RailTry → RailTry) : (modTry s c f).flash = s.flash := by cases c <;> rfl
@[simp] theorem modTry_reel (s : State) (c : Chan) (f : RailTry → RailTry) : (modTry s c f).reel = s.reel := by cases c <;> rfl
@[simp] theorem modTry_xfer (s : State) (c : Chan) (f : RailTry → RailTry) : (modTry s c f).xfer = s.xfer := by cases c <;> rfl
@[simp] theorem modTry_front (s : State) (c : Chan) (f : RailTry → RailTry) : (modTry s c f).front = s.front := by cases c <;> rfl
@[simp] theorem modTry_rules (s : State) (c : Chan) (f : RailTry → RailTry) : (modTry s c f).rules = s.rules := by cases c <;> rfl
@[simp] theorem modTry_engs (s : State) (c : Chan) (f : RailTry → RailTry) : (modTry s c f).engs = s.engs := by cases c <;> rfl
@[simp] theorem modTry_bridle (s : State) (c : Chan) (f : RailTry → RailTry) : (modTry s c f).bridle = s.bridle := by cases c <;> rfl
@[simp] theorem modTry_reg (s : State) (c : Chan) (f : RailTry → RailTry) : (modTry s c f).reg = s.reg := by cases c <;> rfl
@[simp] theorem modTry_prot (s : State) (c : Chan) (f : RailTry → RailTry) : (modTry s c f).prot = s.prot := by cases c <;> rfl
@[simp] theorem modTry_mons (s : State) (c : Chan) (f : RailTry → RailTry) : (modTry s c f).mons = s.mons := by cases c <;> rfl
@[simp] theorem modTry_tether (s : State) (c : Chan) (f : RailTry → RailTry) : (modTry s c f).tether = s.tether := by cases c <;> rfl
@[simp] theorem modTry_queues (s : State) (c : Chan) (f : RailTry → RailTry) : (modTry s c f).queues = s.queues := by cases c <;> rfl
@[simp] theorem modTry_drop (s : State) (c : Chan) (f : RailTry → RailTry) : (modTry s c f).drop = s.drop := by cases c <;> rfl
@[simp] theorem modTry_win (s : State) (c : Chan) (f : RailTry → RailTry) : (modTry s c f).win = s.win := by cases c <;> rfl
@[simp] theorem modTry_gauge (s : State) (c : Chan) (f : RailTry → RailTry) : (modTry s c f).gauge = s.gauge := by cases c <;> rfl
@[simp] theorem modTry_outage (s : State) (c : Chan) (f : RailTry → RailTry) : (modTry s c f).outage = s.outage := by cases c <;> rfl
@[simp] theorem modTry_integ (s : State) (c : Chan) (f : RailTry → RailTry) : (modTry s c f).integ = s.integ := by cases c <;> rfl
@[simp] theorem modTry_pace (s : State) (c : Chan) (f : RailTry → RailTry) : (modTry s c f).pace = s.pace := by cases c <;> rfl

/-! ### What is read after an update -/

@[simp] theorem link_modLink_same (s : State) (p : Port) (f : Link → Link) : link (modLink s p f) p = f (link s p) := by
  cases p <;> rfl

@[simp] theorem link_modLink_other (s : State) (p : Port) (f : Link → Link) :
    link (modLink s p f) (otherPort p) = link s (otherPort p) := by cases p <;> rfl

@[simp] theorem chan_modChan_same (s : State) (c : Chan) (f : ChanSt → ChanSt) : chan (modChan s c f) c = f (chan s c) := by
  cases c <;> rfl

theorem chan_modChan_ne (s : State) (c k : Chan) (f : ChanSt → ChanSt) (h : k ≠ c) : chan (modChan s c f) k = chan s k := by
  cases c <;> cases k <;> first | rfl | exact absurd rfl h

@[simp] theorem chan_setPwm (s : State) (c k : Chan) (v : Pwm) : chan (setPwm s c v) k = chan s k := by
  cases c <;> cases k <;> rfl

@[simp] theorem railTry_modTry_same (s : State) (c : Chan) (f : RailTry → RailTry) :
    railTry (modTry s c f) c = f (railTry s c) := by cases c <;> rfl

@[simp] theorem chan_modDom (s : State) (d : Nat) (f : Dom → Dom) (c : Chan) : chan (modDom s d f) c = chan s c := by
  cases c <;> rfl

@[simp] theorem link_modDom (s : State) (d : Nat) (f : Dom → Dom) (p : Port) : link (modDom s d f) p = link s p := by
  cases p <;> rfl

/-! ### Alarm lists -/

theorem mem_addNew {α : Type} [DecidableEq α] (l : List α) (a b : α) : b ∈ addNew l a ↔ b = a ∨ b ∈ l := by
  unfold addNew
  split <;> simp_all [or_comm]

/-- A cause that is added is there. -/
theorem mem_addAlert (s : State) (a : Alarm) : a ∈ (addAlert s a).prot.alerts := (mem_addNew _ _ _).2 (.inl rfl)

/-- A cause that is added is there. -/
theorem mem_addFault (s : State) (a : Alarm) : a ∈ (addFault s a).prot.faults := (mem_addNew _ _ _).2 (.inl rfl)

/-- A cause that is dropped is gone. -/
theorem not_mem_dropAlert (s : State) (a : Alarm) : a ∉ (dropAlert s a).prot.alerts := by simp [dropAlert]

/-- A cause that is dropped is gone. -/
theorem not_mem_dropFault (s : State) (a : Alarm) : a ∉ (dropFault s a).prot.faults := by simp [dropFault]

/-- ALERT_N is asserted while one of its causes holds. -/
theorem alertAsserted_of_mem (s : State) (a : Alarm) (h : a ∈ s.prot.alerts) : alertAsserted s = true := by
  unfold alertAsserted
  cases hl : s.prot.alerts with
  | nil => rw [hl] at h; cases h
  | cons x r => simp

/-- FAULT_N is asserted while one of its causes holds. -/
theorem faultAsserted_of_mem (s : State) (a : Alarm) (h : a ∈ s.prot.faults) : faultAsserted s = true := by
  unfold faultAsserted
  cases hl : s.prot.faults with
  | nil => rw [hl] at h; cases h
  | cons x r => simp

end Sys2Proof.Machine
end

