-- ==== Sys2Proof/Laws/StatusFrame.lean ====
section
/-! SUPPORT. What each definition of Machine/Status.lean may change: of the parts of the state, those listed and no other. -/

namespace Sys2Proof.Machine

theorem paceAct_only (s : State) (k c n : Nat) :
    Only [.free, .pace] s (paceAct s k c n) := by
  unfold paceAct
  try dsimp only
  repeat' first
    | (simp only [Only.mk_iff]; with_reducible refine Only.set_pace ?_ _ rfl)
    | (with_reducible exact Only.refl _ _)
    | (with_reducible assumption)
    | ((with_reducible apply Only.after (k := takeFree_only ..)); case w => rfl)
    | (split)

theorem execPaceLoop_only (c : Vector Nat 3) (memNeed : Nat) (s : State) (t : State) (h : execPaceLoop c memNeed s = .next t) :
    Only [.free, .pace] s t := by
  unfold execPaceLoop at h
  try dsimp only at h
  cases h
  repeat' first
    | (with_reducible exact Only.refl _ _)
    | (with_reducible assumption)
    | ((with_reducible apply Only.after (k := paceAct_only ..)); case w => rfl)
    | ((with_reducible apply Only.foldl); intro _ _ _)
    | ((with_reducible apply Only.foldl_fst); intro _ _ _)
    | (split)

theorem execCanaryStall_only (k : Fin 3) (s : State) (t : State) (h : execCanaryStall k s = .next t) :
    Only [.pace] s t := by
  unfold execCanaryStall at h
  try dsimp only at h
  cases h
  repeat' first
    | (simp only [Only.mk_iff]; with_reducible refine Only.set_pace ?_ _ rfl)
    | (with_reducible exact Only.refl _ _)
    | (with_reducible assumption)
    | (split)

theorem driveWord_only (s : State) (q : BitVec 6) :
    Only [.win] s (driveWord s q) := by
  unfold driveWord
  try dsimp only
  repeat' first
    | (simp only [Only.mk_iff]; with_reducible refine Only.set_win ?_ _ rfl)
    | (with_reducible exact Only.refl _ _)
    | (with_reducible assumption)
    | (split)

theorem execReadW04_only (s : State) (t : State) (h : execReadW04 s = .next t) :
    Only [.front, .prot, .win] s t := by
  unfold execReadW04 at h
  try dsimp only at h
  cases h
  repeat' first
    | (simp only [Only.mk_iff]; with_reducible refine Only.set_front ?_ _ rfl)
    | (with_reducible exact Only.refl _ _)
    | (with_reducible assumption)
    | ((with_reducible apply Only.after (k := dropAlert_only ..)); case w => rfl)
    | ((with_reducible apply Only.after (k := driveWord_only ..)); case w => rfl)
    | (split)

theorem execReadW0b_only (s : State) (t : State) (h : execReadW0b s = .next t) :
    Only [.bridle, .prot, .win] s t := by
  unfold execReadW0b at h
  try dsimp only at h
  cases h
  repeat' first
    | (simp only [Only.mk_iff]; with_reducible refine Only.set_bridle ?_ _ rfl)
    | (with_reducible exact Only.refl _ _)
    | (with_reducible assumption)
    | ((with_reducible apply Only.after (k := driveWord_only ..)); case w => rfl)
    | ((with_reducible apply Only.after (k := dropAlert_only ..)); case w => rfl)
    | (split)

theorem execReadWakeCause_only (k : Fin 4) (s : State) (t : State) (h : execReadWakeCause k s = .next t) :
    Only [.act, .win] s t := by
  unfold execReadWakeCause at h
  try dsimp only at h
  cases h
  repeat' first
    | (with_reducible exact Only.refl _ _)
    | (with_reducible assumption)
    | ((with_reducible apply Only.after (k := driveWord_only ..)); case w => rfl)
    | ((with_reducible apply Only.after (k := modWake_only ..)); case w => rfl)
    | (split)

theorem latchGroup_only (s : State) (h : GroupHead) :
    Only [.win] s (latchGroup s h) := by
  unfold latchGroup
  try dsimp only
  repeat' first
    | (simp only [Only.mk_iff]; with_reducible refine Only.set_win ?_ _ rfl)
    | (with_reducible exact Only.refl _ _)
    | (with_reducible assumption)
    | (split)

theorem execReadGroupHead_only (h : GroupHead) (s : State) (t : State) (h : execReadGroupHead h s = .next t) :
    Only [.prot, .win] s t := by
  unfold execReadGroupHead at h
  try dsimp only at h
  cases h
  repeat' first
    | (simp only [Only.mk_iff]; with_reducible refine Only.set_prot ?_ _ rfl)
    | (simp only [Only.mk_iff]; with_reducible refine Only.set_win ?_ _ rfl)
    | (simp only [Only.mk_iff]; with_reducible refine Only.set_prot_win ?_ _ _ rfl)
    | (with_reducible exact Only.refl _ _)
    | (with_reducible assumption)
    | ((with_reducible apply Only.after (k := driveWord_only ..)); case w => rfl)
    | ((with_reducible apply Only.after (k := latchGroup_only ..)); case w => rfl)
    | ((with_reducible apply Only.after (k := pruneAlarms_only ..)); case w => rfl)
    | (split)

theorem execReadErrorCounter_only (k : Fin 4) (s : State) (t : State) (h : execReadErrorCounter k s = .next t) :
    Only [.win] s t := by
  unfold execReadErrorCounter at h
  try dsimp only at h
  cases h
  repeat' first
    | (simp only [Only.mk_iff]; with_reducible refine Only.set_win ?_ _ rfl)
    | (with_reducible exact Only.refl _ _)
    | (with_reducible assumption)
    | ((with_reducible apply Only.after (k := driveWord_only ..)); case w => rfl)
    | (split)

theorem execReadPortStatus_only (p : Port) (s : State) (t : State) (h : execReadPortStatus p s = .next t) :
    Only [.prot, .tether, .win] s t := by
  unfold execReadPortStatus at h
  try dsimp only at h
  cases h
  repeat' first
    | (with_reducible exact Only.refl _ _)
    | (with_reducible assumption)
    | ((with_reducible apply Only.after (k := driveWord_only ..)); case w => rfl)
    | ((with_reducible apply Only.after (k := dropAlert_only ..)); case w => rfl)
    | ((with_reducible apply Only.after (k := modLink_only ..)); case w => rfl)
    | (split)

theorem execReadEngineStatus_only (s : State) (t : State) (h : execReadEngineStatus s = .next t) :
    Only [.prot, .win] s t := by
  unfold execReadEngineStatus at h
  try dsimp only at h
  cases h
  repeat' first
    | (with_reducible exact Only.refl _ _)
    | (with_reducible assumption)
    | ((with_reducible apply Only.after (k := driveWord_only ..)); case w => rfl)
    | ((with_reducible apply Only.after (k := dropAlert_only ..)); case w => rfl)
    | ((with_reducible apply Only.foldl); intro _ _ _)
    | ((with_reducible apply Only.foldl_fst); intro _ _ _)
    | (split)

theorem execReadLostMatch_only (s : State) (t : State) (h : execReadLostMatch s = .next t) :
    Only [.prot, .win] s t := by
  unfold execReadLostMatch at h
  try dsimp only at h
  cases h
  repeat' first
    | (with_reducible exact Only.refl _ _)
    | (with_reducible assumption)
    | ((with_reducible apply Only.after (k := driveWord_only ..)); case w => rfl)
    | ((with_reducible apply Only.after (k := dropAlert_only ..)); case w => rfl)
    | (split)

end Sys2Proof.Machine
end

