-- ==== Sys2Proof/Laws/StatusRise.lean ====
section
/-! SUPPORT. The definitions of Machine/Status.lean that reach Bridle turn no domain on. -/

namespace Sys2Proof.Machine

theorem execReadW0b_noRise (s : State) (t : State) (h : execReadW0b s = .next t) :
    NoRise s t := by
  unfold execReadW0b at h
  try dsimp only at h
  cases h
  repeat' first
    | (simp only [NoRise.mk_iff]; with_reducible refine NoRise.mk_bridle ?_)
    | (with_reducible exact NoRise.refl _)
    | (with_reducible assumption)
    | ((with_reducible apply NoRise.after_only (k := driveWord_only ..)); case w => rfl)
    | ((with_reducible apply NoRise.after_only (k := dropAlert_only ..)); case w => rfl)
    | (split)

end Sys2Proof.Machine
end

