-- ==== Sys2Proof/Laws/UpdatesFrame.lean ====
section
/-! SUPPORT. What each definition of Machine/Updates.lean may change: of the parts of the state, those listed and no other. -/

namespace Sys2Proof.Machine

theorem acceptCommit_only (s : State) (o : OpenSet) :
    Only [.front, .rules, .engs] s (acceptCommit s o) := by
  unfold acceptCommit
  try dsimp only
  repeat' first
    | (simp only [Only.mk_iff]; with_reducible refine Only.set_front_rules_engs ?_ _ _ _ rfl)
    | (with_reducible exact Only.refl _ _)
    | (with_reducible assumption)
    | (split)

theorem updateWord_only (s : State) (p : Port) (src dst : Byte) (w : List Byte) :
    Only [.front, .rules, .engs, .act, .bridle, .prot, .tether, .queues, .win, .integ] s (updateWord s p src dst w) := by
  unfold updateWord
  try dsimp only
  repeat' first
    | (simp only [Only.mk_iff]; with_reducible refine Only.set_rules ?_ _ rfl)
    | (with_reducible exact Only.refl _ _)
    | (with_reducible assumption)
    | ((with_reducible apply Only.after (k := refuseSet_only ..)); case w => rfl)
    | ((with_reducible apply Only.after (k := acceptCommit_only ..)); case w => rfl)
    | (split)

theorem plainWord_only (s : State) (p : Port) (src dst : Byte) (w : Vector Byte 80) (ops : Nat → Bool) :
    Only [.front, .rules, .engs, .act, .bridle, .prot, .tether, .queues, .win, .integ] s (plainWord s p src dst w ops) := by
  unfold plainWord
  try dsimp only
  repeat' first
    | (with_reducible exact Only.refl _ _)
    | (with_reducible assumption)
    | ((with_reducible apply Only.after (k := updateWord_only ..)); case w => rfl)
    | (split)

theorem execUpdateLine_only (p : Port) (src dst : Byte) (w : Vector Byte 80) (s : State) (t : State) (h : execUpdateLine p src dst w s = .next t) :
    Only [.front, .rules, .engs, .act, .bridle, .prot, .tether, .queues, .win, .integ] s t := by
  unfold execUpdateLine at h
  try dsimp only at h
  cases h
  repeat' first
    | (with_reducible exact Only.refl _ _)
    | (with_reducible assumption)
    | ((with_reducible apply Only.after (k := plainWord_only ..)); case w => rfl)
    | (split)

theorem execUpdateRule_only (p : Port) (src dst : Byte) (w : Vector Byte 80) (s : State) (t : State) (h : execUpdateRule p src dst w s = .next t) :
    Only [.front, .rules, .engs, .act, .bridle, .prot, .tether, .queues, .win, .integ] s t := by
  unfold execUpdateRule at h
  try dsimp only at h
  cases h
  repeat' first
    | (with_reducible exact Only.refl _ _)
    | (with_reducible assumption)
    | ((with_reducible apply Only.after (k := plainWord_only ..)); case w => rfl)
    | (split)

theorem execUpdateAssoc_only (p : Port) (src dst : Byte) (w : Vector Byte 80) (s : State) (t : State) (h : execUpdateAssoc p src dst w s = .next t) :
    Only [.front, .rules, .engs, .act, .bridle, .prot, .tether, .queues, .win, .integ] s t := by
  unfold execUpdateAssoc at h
  try dsimp only at h
  cases h
  repeat' first
    | (with_reducible exact Only.refl _ _)
    | (with_reducible assumption)
    | ((with_reducible apply Only.after (k := plainWord_only ..)); case w => rfl)
    | (split)

theorem execUpdateFree_only (p : Port) (src dst : Byte) (w : Vector Byte 80) (s : State) (t : State) (h : execUpdateFree p src dst w s = .next t) :
    Only [.front, .rules, .engs, .act, .bridle, .prot, .tether, .queues, .win, .integ] s t := by
  unfold execUpdateFree at h
  try dsimp only at h
  cases h
  repeat' first
    | (with_reducible exact Only.refl _ _)
    | (with_reducible assumption)
    | ((with_reducible apply Only.after (k := plainWord_only ..)); case w => rfl)
    | (split)

theorem execUpdateStart_only (p : Port) (src dst : Byte) (w : Vector Byte 80) (s : State) (t : State) (h : execUpdateStart p src dst w s = .next t) :
    Only [.front, .rules, .engs, .act, .bridle, .prot, .tether, .queues, .win, .integ] s t := by
  unfold execUpdateStart at h
  try dsimp only at h
  cases h
  repeat' first
    | (with_reducible exact Only.refl _ _)
    | (with_reducible assumption)
    | ((with_reducible apply Only.after (k := plainWord_only ..)); case w => rfl)
    | (split)

theorem execUpdateNone_only (p : Port) (src dst : Byte) (w : Vector Byte 80) (s : State) (t : State) (h : execUpdateNone p src dst w s = .next t) :
    Only [.front, .rules, .engs, .act, .bridle, .prot, .tether, .queues, .win, .integ] s t := by
  unfold execUpdateNone at h
  try dsimp only at h
  cases h
  repeat' first
    | (with_reducible exact Only.refl _ _)
    | (with_reducible assumption)
    | ((with_reducible apply Only.after (k := plainWord_only ..)); case w => rfl)
    | (split)

theorem execUpdateCommit_only (p : Port) (src dst : Byte) (w : Vector Byte 80) (s : State) (t : State) (h : execUpdateCommit p src dst w s = .next t) :
    Only [.front, .rules, .engs, .act, .bridle, .prot, .tether, .queues, .win, .integ] s t := by
  unfold execUpdateCommit at h
  try dsimp only at h
  cases h
  repeat' first
    | (with_reducible exact Only.refl _ _)
    | (with_reducible assumption)
    | ((with_reducible apply Only.after (k := updateWord_only ..)); case w => rfl)
    | (split)

theorem execUpdateSetTimeout_only (s : State) (t : State) (h : execUpdateSetTimeout s = .next t) :
    Only [.rules, .act, .bridle, .prot, .tether, .queues, .win, .integ] s t := by
  unfold execUpdateSetTimeout at h
  try dsimp only at h
  cases h
  repeat' first
    | (with_reducible exact Only.refl _ _)
    | (with_reducible assumption)
    | ((with_reducible apply Only.after (k := refuseSet_only ..)); case w => rfl)
    | (split)

theorem execEpochSwitch_only (s : State) (t : State) (h : execEpochSwitch s = .next t) :
    Only [.rules, .engs, .act, .bridle, .prot, .tether, .queues, .win, .integ] s t := by
  unfold execEpochSwitch at h
  try dsimp only at h
  cases h
  repeat' first
    | (simp only [Only.mk_iff]; with_reducible refine Only.set_rules_engs ?_ _ _ rfl)
    | (with_reducible exact Only.refl _ _)
    | (with_reducible assumption)
    | ((with_reducible apply Only.after (k := endEpoch_only ..)); case w => rfl)
    | ((with_reducible apply Only.after (k := addEntry_only ..)); case w => rfl)
    | ((with_reducible apply Only.foldl); intro _ _ _)
    | ((with_reducible apply Only.foldl_fst); intro _ _ _)
    | (split)

theorem execRuleMemoryReloadDone_only (s : State) (t : State) (h : execRuleMemoryReloadDone s = .next t) :
    Only [.rules, .act, .bridle, .prot, .tether, .queues, .win, .integ] s t := by
  unfold execRuleMemoryReloadDone at h
  try dsimp only at h
  cases h
  repeat' first
    | (simp only [Only.mk_iff]; with_reducible refine Only.set_rules ?_ _ rfl)
    | (with_reducible exact Only.refl _ _)
    | (with_reducible assumption)
    | ((with_reducible apply Only.after (k := modDom_only ..)); case w => rfl)
    | ((with_reducible apply Only.after (k := addEntry_only ..)); case w => rfl)
    | ((with_reducible apply Only.after (k := addEntries_only ..)); case w => rfl)
    | ((with_reducible apply Only.after (k := addAlert_only ..)); case w => rfl)
    | ((with_reducible apply Only.foldl); intro _ _ _)
    | ((with_reducible apply Only.foldl_fst); intro _ _ _)
    | (split)

end Sys2Proof.Machine
end

