-- ==== Sys2Proof/Laws/UpdatesRise.lean ====
section
/-! SUPPORT. The definitions of Machine/Updates.lean that reach Bridle turn no domain on. -/

namespace Sys2Proof.Machine

theorem updateWord_noRise (s : State) (p : Port) (src dst : Byte) (w : List Byte) :
    NoRise s (updateWord s p src dst w) := by
  unfold updateWord
  try dsimp only
  repeat' first
    | (simp only [NoRise.mk_iff]; with_reducible refine NoRise.mk_same ?_)
    | (with_reducible exact NoRise.refl _)
    | (with_reducible assumption)
    | (with_reducible apply NoRise.after (k := refuseSet_noRise ..))
    | ((with_reducible apply NoRise.after_only (k := acceptCommit_only ..)); case w => rfl)
    | (split)

theorem plainWord_noRise (s : State) (p : Port) (src dst : Byte) (w : Vector Byte 80) (ops : Nat → Bool) :
    NoRise s (plainWord s p src dst w ops) := by
  unfold plainWord
  try dsimp only
  repeat' first
    | (with_reducible exact NoRise.refl _)
    | (with_reducible assumption)
    | (with_reducible apply NoRise.after (k := updateWord_noRise ..))
    | (split)

theorem execUpdateLine_noRise (p : Port) (src dst : Byte) (w : Vector Byte 80) (s : State) (t : State) (h : execUpdateLine p src dst w s = .next t) :
    NoRise s t := by
  unfold execUpdateLine at h
  try dsimp only at h
  cases h
  repeat' first
    | (with_reducible exact NoRise.refl _)
    | (with_reducible assumption)
    | (with_reducible apply NoRise.after (k := plainWord_noRise ..))
    | (split)

theorem execUpdateRule_noRise (p : Port) (src dst : Byte) (w : Vector Byte 80) (s : State) (t : State) (h : execUpdateRule p src dst w s = .next t) :
    NoRise s t := by
  unfold execUpdateRule at h
  try dsimp only at h
  cases h
  repeat' first
    | (with_reducible exact NoRise.refl _)
    | (with_reducible assumption)
    | (with_reducible apply NoRise.after (k := plainWord_noRise ..))
    | (split)

theorem execUpdateAssoc_noRise (p : Port) (src dst : Byte) (w : Vector Byte 80) (s : State) (t : State) (h : execUpdateAssoc p src dst w s = .next t) :
    NoRise s t := by
  unfold execUpdateAssoc at h
  try dsimp only at h
  cases h
  repeat' first
    | (with_reducible exact NoRise.refl _)
    | (with_reducible assumption)
    | (with_reducible apply NoRise.after (k := plainWord_noRise ..))
    | (split)

theorem execUpdateFree_noRise (p : Port) (src dst : Byte) (w : Vector Byte 80) (s : State) (t : State) (h : execUpdateFree p src dst w s = .next t) :
    NoRise s t := by
  unfold execUpdateFree at h
  try dsimp only at h
  cases h
  repeat' first
    | (with_reducible exact NoRise.refl _)
    | (with_reducible assumption)
    | (with_reducible apply NoRise.after (k := plainWord_noRise ..))
    | (split)

theorem execUpdateStart_noRise (p : Port) (src dst : Byte) (w : Vector Byte 80) (s : State) (t : State) (h : execUpdateStart p src dst w s = .next t) :
    NoRise s t := by
  unfold execUpdateStart at h
  try dsimp only at h
  cases h
  repeat' first
    | (with_reducible exact NoRise.refl _)
    | (with_reducible assumption)
    | (with_reducible apply NoRise.after (k := plainWord_noRise ..))
    | (split)

theorem execUpdateNone_noRise (p : Port) (src dst : Byte) (w : Vector Byte 80) (s : State) (t : State) (h : execUpdateNone p src dst w s = .next t) :
    NoRise s t := by
  unfold execUpdateNone at h
  try dsimp only at h
  cases h
  repeat' first
    | (with_reducible exact NoRise.refl _)
    | (with_reducible assumption)
    | (with_reducible apply NoRise.after (k := plainWord_noRise ..))
    | (split)

theorem execUpdateCommit_noRise (p : Port) (src dst : Byte) (w : Vector Byte 80) (s : State) (t : State) (h : execUpdateCommit p src dst w s = .next t) :
    NoRise s t := by
  unfold execUpdateCommit at h
  try dsimp only at h
  cases h
  repeat' first
    | (with_reducible exact NoRise.refl _)
    | (with_reducible assumption)
    | (with_reducible apply NoRise.after (k := updateWord_noRise ..))
    | (split)

theorem execUpdateSetTimeout_noRise (s : State) (t : State) (h : execUpdateSetTimeout s = .next t) :
    NoRise s t := by
  unfold execUpdateSetTimeout at h
  try dsimp only at h
  cases h
  repeat' first
    | (with_reducible exact NoRise.refl _)
    | (with_reducible assumption)
    | (with_reducible apply NoRise.after (k := refuseSet_noRise ..))
    | (split)

theorem execEpochSwitch_noRise (s : State) (t : State) (h : execEpochSwitch s = .next t) :
    NoRise s t := by
  unfold execEpochSwitch at h
  try dsimp only at h
  cases h
  repeat' first
    | (simp only [NoRise.mk_iff]; with_reducible refine NoRise.mk_same ?_)
    | (with_reducible exact NoRise.refl _)
    | (with_reducible assumption)
    | ((with_reducible apply NoRise.after_only (k := endEpoch_only ..)); case w => rfl)
    | (with_reducible apply NoRise.after (k := addEntry_noRise ..))
    | ((with_reducible apply NoRise.foldl); intro _ _ _)
    | ((with_reducible apply NoRise.foldl_fst); intro _ _ _)
    | (split)

theorem execRuleMemoryReloadDone_noRise (s : State) (t : State) (h : execRuleMemoryReloadDone s = .next t) :
    NoRise s t := by
  unfold execRuleMemoryReloadDone at h
  try dsimp only at h
  cases h
  repeat' first
    | (simp only [NoRise.mk_iff]; with_reducible refine NoRise.mk_same ?_)
    | (with_reducible exact NoRise.refl _)
    | (with_reducible assumption)
    | ((with_reducible apply NoRise.modDom); case hf => (intro m h; simp_all))
    | (with_reducible apply NoRise.after (k := addEntry_noRise ..))
    | (with_reducible apply NoRise.after (k := addEntries_noRise ..))
    | ((with_reducible apply NoRise.after_only (k := addAlert_only ..)); case w => rfl)
    | ((with_reducible apply NoRise.foldl); intro _ _ _)
    | ((with_reducible apply NoRise.foldl_fst); intro _ _ _)
    | (split)

end Sys2Proof.Machine
end

