-- ==== Sys2Proof/WellFormed.lean ====
section
/-! DEFINITION. Well-formed commands: the operands that the outside world can supply for a row, beyond what their types
say. A meaning does not rest on it: it is defined on every operand. -/

namespace Sys2Proof

/-- A frame of one of these TYPEs, no longer than the longest frame (R593, Table TFR-1). -/
def rxTyped (rx : RxFrame) (typs : List Nat) : Bool :=
  rx.bytes.length ≤ 2068 && typs.contains ((rx.bytes.headD 0).toNat / 16)

/-- Byte k of a frame's payload (Table TFR-2). -/
def rxPay (rx : RxFrame) (k : Nat) : Byte := rx.bytes.getD (16 + k) 0

/-- A command is well formed: a supply that powers the island is up (R119); a reset pulse lasts (R159); a load is abandoned
for VCIN or VAON (R124); frames have the row's TYPE and kind (Table TFR-1); update words have the row's OP and COMMIT
(R326); an invalid host command is one that Table DOM-8
does not give; a phase is named on the main channel only; readings lie in their ranges (Table STW-13,
R436). -/
def Instr.wf (i : Instr) : Bool :=
  match i with
  | .powerOn up _ _ => up.vaon || up.vbak
  | .resetAssert n => 0 < n
  | .loadAbandon x => x == .vcin || x == .vaon
  | .streamStart src b => if src == .portU || src == .portD then 16 ≤ b.length && b.length ≤ 2068 else b.isEmpty
  | .updateLine _ _ _ w => w[0] == 1 && !w[1].getLsbD 0
  | .updateRule _ _ _ w => w[0] == 2 && !w[1].getLsbD 0
  | .updateAssoc _ _ _ w => w[0] == 3 && !w[1].getLsbD 0
  | .updateFree _ _ _ w => w[0] == 4 && !w[1].getLsbD 0
  | .updateStart _ _ _ w => w[0] == 5 && !w[1].getLsbD 0
  | .updateNone _ _ _ w => (w[0] == 0 || 5 < w[0].toNat) && !w[1].getLsbD 0
  | .updateCommit _ _ _ w => w[1].getLsbD 0
  | .hostInvalidCommand psel pcmd => (20 ≤ psel.toNat && psel.toNat ≤ 23) || (24 ≤ psel.toNat && pcmd != 3)
  | .fastLimitTrip c k _ _ _ => c == .main || k == 0
  | .hello _ rx => rxTyped rx [3]
  | .credit _ rx => rxTyped rx [4]
  | .ack _ rx => rxTyped rx [5]
  | .data _ rx _ => rxTyped rx [1, 7]
  | .notice _ rx => rxTyped rx [2]
  | .echoRequest _ rx => rxTyped rx [8] && rxPay rx 0 == 1
  | .echoReply _ rx => rxTyped rx [8] && rxPay rx 0 != 1
  | .ringProbe _ rx => rxTyped rx [9] && rxPay rx 0 != 2
  | .ringBreak _ rx => rxTyped rx [9] && rxPay rx 0 == 2
  | .reelPart _ rx => rxTyped rx [6] && !(rxPay rx 8).getLsbD 0
  | .reelPartLast _ rx => rxTyped rx [6] && (rxPay rx 8).getLsbD 0
  | .malformedFrame _ rx => rx.bytes.length ≤ 2068
  | .vbakReading mv _ => mv < 8192
  | .frameDiscarded _ rx => rx.bytes.length ≤ 2068
  | .zeroCrossing c k => c == .main || k == 0
  | .trkChange uv _ => uv ≤ 1650000
  | .devicePor => true
  | .identityResense _ => true
  | .tickStartFail => true
  | .crystalQualify => true
  | .crystalTimeout => true
  | .crystalLoss => true
  | .resetRelease => true
  | .strapDecode _ _ => true
  | .loaderStart => true
  | .flashProbe _ _ => true
  | .reelLoad _ => true
  | .supplyFall _ _ => true
  | .vioRise _ _ _ => true
  | .mainsWord _ _ _ => true
  | .tugWord _ _ _ _ => true
  | .tugRelay _ => true
  | .engineStep _ _ => true
  | .streamEnd _ _ => true
  | .engineSelfCheck _ _ => true
  | .engineFail _ _ => true
  | .fill _ _ => true
  | .directoryData _ _ _ => true
  | .evict _ _ => true
  | .snoop _ _ => true
  | .sack _ _ => true
  | .nheld _ _ => true
  | .scanRead _ => true
  | .scanRepairDone => true
  | .updateSetTimeout => true
  | .epochSwitch => true
  | .resultApply => true
  | .pendingPinRise => true
  | .railAttemptFail _ _ => true
  | .railRetry _ => true
  | .wack _ => true
  | .profileStart _ => true
  | .hostOff _ => true
  | .hostRetention _ => true
  | .hostOn _ => true
  | .hostQuery _ => true
  | .hostApply _ => true
  | .ask _ => true
  | .drain _ => true
  | .grant _ => true
  | .refuse _ => true
  | .hold _ => true
  | .drained _ => true
  | .live _ => true
  | .domainFaulty _ _ => true
  | .idleRequest _ => true
  | .rmapChange _ => true
  | .channelStart _ _ _ => true
  | .rampComplete _ => true
  | .pgoodAssert _ _ => true
  | .pgoodDeassert _ _ => true
  | .vselChange _ => true
  | .slewComplete _ => true
  | .enableLow _ => true
  | .enableHigh _ => true
  | .syncLock _ => true
  | .syncLoss => true
  | .balanceUpdate _ _ => true
  | .shedDecision _ => true
  | .hourPass => true
  | .swapShed _ => true
  | .undershootRestore => true
  | .hiccupRestart _ => true
  | .slowLimitTrip _ _ _ => true
  | .protectionRetry _ => true
  | .undervoltage _ _ _ => true
  | .auxOvervoltage _ => true
  | .overvoltageRelease _ _ => true
  | .senseLoss _ => true
  | .vlocLost _ _ _ => true
  | .derateInterval _ _ _ _ _ => true
  | .recordCommit => true
  | .monitorAssert _ _ _ _ => true
  | .monitorDeassert _ _ _ => true
  | .eventHoldoffEnd _ => true
  | .monitorSettled _ _ _ => true
  | .latchPeriodClear _ => true
  | .clrw _ => true
  | .pllLock _ => true
  | .pllLockTimeout _ => true
  | .symbolLock _ _ _ _ => true
  | .equaliserSettle _ _ _ => true
  | .trainingDone _ => true
  | .helloTimeout _ => true
  | .goBackTimeout _ => true
  | .ackSend _ => true
  | .creditSend _ => true
  | .linkDown _ _ => true
  | .frameSend _ _ => true
  | .flashPartProgrammed _ => true
  | .transferTimeout => true
  | .slotVerified => true
  | .noticeClose => true
  | .ageingExpiry _ => true
  | .ageingWake => true
  | .lostEntryReport => true
  | .ingressUnit _ => true
  | .verdictReady => true
  | .pullWord _ _ => true
  | .egressFetch _ => true
  | .egressComplete => true
  | .ddirChange _ => true
  | .readW04 => true
  | .readW0b => true
  | .readWakeCause _ => true
  | .readLatchWord _ => true
  | .readGroupHead _ => true
  | .readErrorCounter _ => true
  | .readPortStatus _ => true
  | .readEngineStatus => true
  | .readLostMatch => true
  | .pfailAssert => true
  | .wm04Low => true
  | .vaonLoss => true
  | .outageFlightDone => true
  | .outageRetentionReached => true
  | .dwellExpiry => true
  | .inputReturn => true
  | .reversalRailsDone => true
  | .gaugePacket => true
  | .lossResolution unreadable => unreadable.all fun c => decide (c < 65536)
  | .watermarkReportEntry => true
  | .paceLoop _ _ => true
  | .canaryStall _ => true
  | .hourCountStore => true
  | .extest _ => true
  | .samplePreload => true
  | .clamp _ => true
  | .highz => true
  | .bypass => true
  | .ruleMemoryReloadDone => true
  | .hostStreamAbandon => true
  | .preambleLock _ => true
  | .syncByteMismatch _ => true
  | .partnerPereqApplied _ _ => true
  | .pstbFall => true
  | .dropWordTransfer _ _ _ _ _ => true
  | .compensatorSample _ _ _ _ => true

end Sys2Proof
end

