-- ==== Sys2Proof/Tests/Slice0.lean ====
section
/-! SUPPORT. Small tests: an ill-formed command for each check of WellFormed, and for each statement and each of its
clauses a state and operands that meet its hypotheses, with what the spec says of the one step taken there. -/

namespace Sys2Proof.Tests

set_option Elab.async false

open Sys2Proof Sys2Proof.Machine

/-! ### Helpers -/

/-- The command answers a next state of which f holds. -/
def nextHas (o : Host.Outcome State Fault Refusal) (f : State → Bool) : Bool :=
  match o with
  | .next t => f t
  | .fault _ => false
  | .refused _ => false

/-- The command answers exactly this state. -/
def nextIs (o : Host.Outcome State Fault Refusal) (t : State) : Bool := nextHas o fun u => decide (u = t)

/-- Every supply in range. -/
def allUp : Supplies := ⟨true, true, true, true, true, true, true, true⟩

/-- A stepping-B1 GK-480 (Table PKG-4). -/
def id8 : BitVec 64 := 0x21522

/-- Readings of zero for a fault record. -/
def snap0 : Snap := ⟨0, 0, 0, 0⟩

/-- Six currents. -/
def amps (a b c d e f : Nat) : Vector Half 6 :=
  #v[BitVec.ofNat 16 a, BitVec.ofNat 16 b, BitVec.ofNat 16 c, BitVec.ofNat 16 d, BitVec.ofNat 16 e, BitVec.ofNat 16 f]

/-- A domain that is on. -/
def domOn : Dom := { Dom.zero with st := .on }

/-- A Reel with every field at its default. -/
def reel0 : Reel :=
  { version := 5, minVer := 0, bootProf := 0, shash := 0, slot := 0, doms := vgen 20 (parseDom []), maps := vgen 4 (parseMap []),
    profiles := vgen 8 (parseProfile 8 []), spMain := vgen 8 (parseSetpoint []), spAux := vgen 8 (parseSetpoint []),
    compMain := vgen 8 (parseCoef []), compAux := vgen 8 (parseCoef []), pol := parsePol [], mons := vgen 24 (parseMon []),
    gmask := 0xFFFF, mclass := 0xFFFF, tclass := 0xFFFF, kwake := 0, kmgmt := 0, klabel := 0, queue := parseQueue [],
    tally := [], fieldFault := false, tablesOk := true }

/-- A running GK-480 at address 0x11 with every domain on, both ports cabled and no port up. -/
def run0 : State :=
  { State.reset with
    sup := allUp
    ident := id8
    boot := { State.reset.boot with step := .running, flashOk := true }
    straps := ⟨Vector.replicate 12 (some 1), Vector.replicate 7 (some .low), false⟩
    bridle := { Bridle.zero with doms := Vector.replicate 20 domOn }
    engs := { Engines.zero with assign := assignFor 8 }
    prot := { State.reset.prot with faults := [] }
    reel := some reel0 }

/-- A port that is up, with credit both ways. -/
def linkUp : Link :=
  { Link.zero with st := .up, step := 8, ctl := { Credit.zero with limit := 32, plimit := 32 },
                   bulk := { Credit.zero with limit := 128, plimit := 128 } }

/-- run0 with both ports up. -/
def run2 : State := { run0 with tether.u := linkUp, tether.d := linkUp }

/-- Only one domain differs. -/
def withDom (s : State) (d : Nat) (m : Dom) : State := modDom s d fun _ => m

/-- A frame of eight bytes as it arrives. -/
def rxOf (typ : BitVec 4) (hseq dst src : Byte) (pay : List Byte) : RxFrame :=
  ⟨mkFrame typ false hseq dst src 7 0 3 pay, .eof, 0⟩

/-- A stored frame. -/
def qf (n : Nat) : QFrame := ⟨n, mkFrame 1 false 0 9 5 7 0 3 [1, 2, 3, 4], [n], 0, false, none, 7⟩

/-! ### Steps, reset and boot -/

theorem wit_StepRunsFrontCommand :
    nextHas (step { State.reset with pending := [.vioRise 0 true true] }) (fun t => t.sup.vio && t.pending.isEmpty) = true := by
  decide +kernel

/-- A WAKE pin is low after a WACK that left causes. -/
def again0 : State := { State.reset with act.wake := Vector.replicate 4 ⟨5, 0, 1, false, false, .no, true, 0⟩ }

theorem wit_EmptyQueueTicks : State.reset.pending = [] ∧ nextHas (step State.reset) (fun t => t.now == 1) = true ∧
    again0.pending = [] ∧ nextHas (step again0) (fun t => (vget t.act.wake WakeWord.zero 3).pin) = true := by decide +kernel

theorem wit_StepKeepsFlashCanonical :
    Memory.wf run0.flash = true ∧ nextHas (step { run0 with pending := [.hourPass] }) (fun t => Memory.wf t.flash) = true := by
  decide +kernel

theorem wit_FrameOfEveryCommand : nextHas (exec .crystalQualify { State.reset with boot.xtal := .trying })
    (fun t => t.boot.xtal == .qualified) = true := by decide +kernel

/-- The command is refused for an identity that the manual does not describe. -/
def refusedUnbound (o : Host.Outcome State Fault Refusal) : Bool :=
  match o with
  | .refused .notBound => true
  | _ => false

theorem wit_WhichCommandsStop : refusedUnbound (exec (.powerOn allUp true 0) State.reset) = true ∧
    refusedUnbound (exec (.identityResense 0) { State.reset with boot.step := .idRetry }) = true := by decide +kernel

theorem wit_OnlyLiveBringsDomainsOn :
    nextHas (exec (.live 15) (withDom run0 15 { Dom.zero with cur := some (devReq .on, .rising) })) (isOn · 15) = true := by
  decide +kernel

theorem wit_PowerOnSensesIdentity_1 : identOk id8 = true ∧ bound id8 = true ∧ State.reset.boot.step = .por ∧
    nextHas (exec (.powerOn allUp true id8) State.reset) (fun t => t.boot.step == .sampling && t.boot.xtal == .trying) = true := by
  decide +kernel

theorem wit_PowerOnSensesIdentity_2 : identOk (id8 + 1) = false ∧
    nextHas (exec (.powerOn allUp true (id8 + 1)) State.reset) (fun t => t.boot.step == .idRetry) = true := by decide +kernel

theorem wit_PowerOnSensesIdentity_3 :
    nextHas (exec (.powerOn allUp false id8) State.reset) (fun t => t.boot.step == .tickWait) = true ∧
    nextHas (exec (.powerOn ⟨false, false, true, true, false, false, false, false⟩ true id8) State.reset)
      (fun t => t.boot.step == .por && t.sup.vcin) = true ∧
    nextHas (exec (.powerOn allUp true 0) { run0 with sup.vana := false }) (fun t => t.boot.step == .running && t.sup.vana) = true := by
  decide +kernel

/-- The device waits to sense its identity again. -/
def retry (n : Nat) : State := { State.reset with sup := allUp, boot.step := .idRetry, boot.idTries := n }

theorem wit_IdentityIsSensedAgain_1 :
    nextHas (exec (.identityResense id8) (retry 1)) (fun t => t.boot.step == .sampling && t.ident == id8) = true := by
  decide +kernel

theorem wit_IdentityIsSensedAgain_2 : nextHas (exec (.identityResense (id8 + 1)) (retry 1))
    (fun t => t.boot.step == .idRetry && t.boot.idTries == 2) = true := by decide +kernel

theorem wit_IdentityIsSensedAgain_3 : nextHas (exec (.identityResense (id8 + 1)) (retry 2))
    (fun t => t.boot.idFailed && faultAsserted t && t.boot.step == .sampling) = true := by decide +kernel

theorem wit_TickAndCrystal :
    nextHas (exec .tickStartFail { State.reset with boot.step := .tickWait, prot.faults := [] }) faultAsserted = true ∧
    nextHas (exec .crystalTimeout { run0 with boot.xtal := .trying }) (fun t => t.boot.xtalfb && !alertAsserted t) = true ∧
    nextHas (exec .crystalLoss { run0 with boot.xtal := .qualified }) (fun t => t.boot.xtalfb && alertAsserted t) = true := by
  decide +kernel

theorem wit_DevicePorKeepsNvmAndFlash : nextHas (exec .devicePor { run0 with flash := [(3, 4)], nvm.hours := 9 })
    (fun t => t.flash == [(3, 4)] && t.nvm.hours == 9 && t.boot.step == .por && !isOn t 13) = true := by decide +kernel

theorem wit_ResetAssertAndRelease_1 : nextHas (exec (.resetAssert 10000) { run0 with queues.lostEntries := 3 })
    (fun t => t.boot.step == .held && t.boot.rcause == 2 && t.reel.isNone && !isOn t 17 && t.queues.lostEntries == 3) = true := by
  decide +kernel

/-- Both channels regulate under a warm-hold strap. -/
def warm0 : State :=
  { run0 with
    straps.tri := #v[some .low, some .low, some .low, some .high, some .low, some .low, some .low]
    reg.main := { ChanSt.zero with phase := .regulating } }

theorem wit_ResetAssertAndRelease_2 : keepsRunning warm0 .main = true ∧ nextHas (exec (.resetAssert 20000) warm0)
    (fun t => isOn t 17 && t.reg.main.warm && t.boot.rcause == 3 && !isOn t 13) = true := by decide +kernel

theorem wit_ResetAssertAndRelease_3 : nextIs (exec (.resetAssert 999) run0) run0 = true ∧
    nextIs (exec .resetRelease run0) run0 = true ∧
    nextHas (exec (.resetAssert 10000) (retry 1)) (fun t => t.boot.inReset && t.boot.step == .idRetry && !t.pins.rstN) = true ∧
    (1000 ≤ 1000 ∧ 9999 < 10000) := by decide +kernel

theorem wit_ResetAssertAndRelease_4 :
    nextHas (exec .resetRelease { run0 with boot.step := .held, boot.inReset := true, pins.rstN := false })
      (fun t => t.boot.step == .sampling && t.pins.rstN && !t.boot.inReset) = true := by decide +kernel

/-- The straps are being sampled. -/
def sampling0 : State := { run0 with boot.step := .sampling, reel := none, prot.faults := [.boot] }

/-- Three equal readings of every RV ball, in ohms. -/
def ohms (r : Nat) : Vector (Vector Nat 3) 12 := Vector.replicate 12 (Vector.replicate 3 r)

/-- Three equal readings of every tri-level ball. -/
def pulls (a b : Bool) : Vector (Vector PullReading 3) 7 := Vector.replicate 7 (Vector.replicate 3 ⟨a, b⟩)

theorem wit_StrapsAreDecided_1 : nextHas (exec (.strapDecode (ohms 1000) (pulls false false)) sampling0)
    (fun t => t.boot.step == .decided && stallAddr t == some 0x11 && !t.prot.faults.contains .boot) = true := by decide +kernel

theorem wit_StrapsAreDecided_2 : nextHas (exec (.strapDecode (ohms 1000) (pulls true true)) sampling0)
    (fun t => t.boot.safe && faultAsserted t) = true := by decide +kernel

theorem wit_StrapsAreDecided_3 : nextHas (exec (.strapDecode (ohms 0) (pulls false false)) sampling0)
    (fun t => t.boot.safe && stallAddr t == none) = true := by decide +kernel

theorem wit_StrapsAreDecided_4 : { sampling0 with boot.idFailed := true }.boot.step = .sampling ∧
    { sampling0 with boot.idFailed := true }.boot.idFailed = true := by decide

/-- The loader has PD15 on after some probes. -/
def loader0 (n : Nat) : State := { run0 with boot.step := .loader, boot.probes := n, reel := none }

/-- A part that takes both address widths, with its quad bit set. -/
def part34 : FlashPart := ⟨true, true, true⟩

theorem wit_LoaderAndFlashProbe_1 :
    nextHas (exec .loaderStart (withDom { run0 with boot.step := .decided, reel := none } 15 Dom.zero))
      (fun t => t.boot.step == .loader && isOn t 15) = true := by decide +kernel

theorem wit_LoaderAndFlashProbe_2 : flashUsable 0xEF4017 = true ∧ flashUsable 0 = false ∧
    nextHas (exec (.flashProbe 0xEF4017 part34) (loader0 9)) (fun t => t.boot.step == .identified && t.boot.flashOk) = true ∧
    nextHas (exec (.flashProbe 0 part34) (loader0 8)) (fun t => t.boot.probes == 9 && !t.boot.safe) = true ∧
    nextHas (exec (.flashProbe 0 part34) (loader0 9)) (fun t => t.boot.safe && faultAsserted t) = true := by decide +kernel

/-- A device in safe mode that was sent there with the loader off. -/
def safeLoader : State := withDom { run0 with boot.safe := true, boot.flashOk := false, reel := none } 15 Dom.zero

theorem wit_LoaderAndFlashProbe_4 :
    nextHas (exec .loaderStart safeLoader) (fun t => isOn t 15 && t.boot.step == .running) = true ∧
    nextHas (exec (.flashProbe 0xEF4017 part34) (withDom safeLoader 15 domOn)) (fun t => t.boot.flashOk && t.boot.step == .running) = true ∧
    nextHas (exec (.flashProbe 0 part34) (withDom safeLoader 15 domOn)) (fun t => !t.boot.flashOk && t.boot.probes == 1) = true := by
  decide +kernel

theorem wit_LoaderAndFlashProbe_3 :
    nextHas (exec (.loadAbandon .vaon) (loader0 0)) (fun t => t.boot.step == .decided && !isOn t 15 && !t.sup.vaon) = true ∧
    nextHas (exec (.loadAbandon .vcin) (loader0 0)) (fun t => t.boot.step == .decided && !isOn t 15 && !t.sup.vcin) = true ∧
    nextIs (exec .loaderStart { run0 with boot.step := .decided, sup.vcin := false })
      { run0 with boot.step := .decided, sup.vcin := false } = true := by decide +kernel

theorem wit_ReelLoadChoosesVerifiedSlot : nextHas (exec (.reelLoad 0) { run0 with
      boot.step := .identified, reel := none, nvm.copy0 := ⟨0, none, false⟩, nvm.copy1 := ⟨0, none, false⟩ })
    (fun t => t.boot.safe && t.reel.isNone && faultAsserted t) = true := by decide +kernel

theorem wit_SupplyFallForcesDomainsOff_1 :
    nextHas (exec (.supplyFall .vcin snap0) run0) (fun t => !t.sup.vcin && !isOn t 3 && !isOn t 18 && isOn t 2 && isOn t 19 &&
      t.prot.latch.map (·.code) == [0x0D]) = true ∧
    nextHas (exec (.supplyFall .vana snap0) run0) (fun t => !t.sup.vana && !isOn t 19 && isOn t 16) = true ∧
    nextHas (exec (.supplyFall .vbak snap0) run0) (fun t => !t.sup.vbak && isOn t 19 && t.prot.latch.isEmpty) = true ∧
    nextIs (exec (.supplyFall .vaon snap0) run0) run0 = true := by decide +kernel

theorem wit_SupplyFallForcesDomainsOff_3 : pinsLive run0 = true ∧
    nextHas (exec (.vioRise 3 false false) { run0 with sup.vio := false })
      (fun t => t.sup.vio && t.win.qd == 0x1522 && !t.win.qcsN && !t.win.qoeN) = true ∧
    nextHas (exec (.vioRise 3 true false) { run0 with sup.vio := false }) (fun t => t.win.qd == 0 && t.win.qcsN) = true ∧
    pinsLive { State.reset with sup.vio := true } = false := by decide +kernel

theorem wit_SupplyFallForcesDomainsOff_2 :
    nextHas (exec (.supplyFall .vio snap0) { run0 with bridle.pack := true, act.wake := Vector.replicate 4 ⟨5, 0, 1, false, true, .no, false, 0⟩ })
      (fun t => !wakeHigh t 0 && !t.bridle.pack && t.drop.egress.isNone) = true := by decide +kernel

theorem wit_BoundaryScan : nextHas (exec (.extest 7) { run2 with reg.main := { ChanSt.zero with phase := .regulating } })
    (fun t => decide (t.tap = ⟨0, true, 7⟩) && (link t .u).st == .down && !switching t.reg.main) = true ∧
    nextHas (exec (.clamp 7) run2) (fun t => t.tap.forced && t.tap.boundary == 7 && (link t .d).st == .down) = true ∧
    nextHas (exec .highz run2) (fun t => t.tap.forced && (link t .d).st == .down) = true ∧
    nextHas (exec .bypass { run2 with tap.ir := 3 }) (fun t => t.tap.ir == 0xF) = true := by decide +kernel

/-! ### Wake words, engines and updates -/

/-- Every front end holds a candidate. -/
def hear (s : State) : State := { s with front.locked := Vector.replicate 3 true }

/-- A mains body for address 0x11, group 1, sequence number 7. -/
def mbody : Word32 := 0x11100700

/-- A tug body for address 0x11, group 1, hop count 2, sequence number 7. -/
def tbody : Word32 := 0x11102070

theorem wit_MainsWordMovesItsWatermark_1 : listens (hear run0) .mains = true ∧ locked (hear run0) .mains = true ∧
    nextHas (exec (.mainsWord mbody (wordMac 0 false mbody) (wordCrc mbody (wordMac 0 false mbody))) (hear run0))
      (fun t => t.front.wmMains[1] == some 7 && t.front.wmMains[2] == none && t.front.wmTug[1] == none) = true ∧
    nextIs (exec (.mainsWord mbody (wordMac 0 false mbody) (wordCrc mbody (wordMac 0 false mbody))) run0) run0 = true := by
  decide +kernel

theorem wit_MainsWordMovesItsWatermark_2 :
    nextHas (exec (.mainsWord mbody 0 (wordCrc mbody 0)) (hear run0)) (fun t => t.front.wmMains[1] == none) = true ∧
    nextHas (exec (.mainsWord mbody 0 (wordCrc mbody 0 + 1)) (hear run0))
      (fun t => t.front.wmMains[1] == none && !t.front.locked[0] && t.front.locked[1]) = true := by
  decide +kernel

/-- A safe-mode device that listens on the mains. -/
def safe0 : State := hear { run2 with boot.safe := true, reel := none }

theorem wit_SafeModeMainsWord :
    nextHas (exec (.mainsWord 0xFF100700 (wordMac 0 false 0xFF100700) (wordCrc 0xFF100700 (wordMac 0 false 0xFF100700))) safe0)
      (fun t => t.front.wmSafe[1] == some 7 && t.front.wmMains[1] == none && (vget t.act.wake WakeWord.zero 0).cause == 0x85 &&
        (vget t.act.wake WakeWord.zero 0).pin) = true := by decide +kernel

/-- Relay is strapped both ways. -/
def relay0 : State :=
  hear { run0 with straps.tri := #v[some .high, some .high, some .low, some .low, some .low, some .low, some .low] }

theorem wit_TugWordIsDecidedAndRelayed_1 : listens relay0 .tugU = true ∧
    nextHas (exec (.tugWord .u tbody (wordMac 0 true tbody) (wordCrc tbody (wordMac 0 true tbody))) relay0)
      (fun t => t.front.wmTug[1] == some 7 && t.front.relayD == some (tbody, wordMac 0 true tbody) && t.front.relayU == none &&
        t.front.wmMains[1] == none) = true := by decide +kernel

theorem wit_TugWordIsDecidedAndRelayed_2 :
    nextHas (exec (.tugWord .d tbody (wordMac 0 true tbody) (wordCrc tbody (wordMac 0 true tbody)))
      { relay0 with front.wmTug := Vector.replicate 16 (some 7) })
      (fun t => t.front.relayU == none) = true ∧
    nextHas (exec (.mainsWord tbody (wordMac 0 false tbody) (wordCrc tbody (wordMac 0 false tbody))) relay0)
      (fun t => t.front.relayU == none && t.front.relayD == none && t.front.wmTug[1] == none) = true ∧
    nextIs (exec (.tugWord .u tbody (wordMac 0 true tbody) (wordCrc tbody (wordMac 0 true tbody))) run0) run0 = true := by
  decide +kernel

theorem wit_RelayAndCandidates_1 : nextHas (exec (.tugRelay .d) { relay0 with front.relayD := some (tbody, 5) })
    (fun t => t.front.relayD == none && t.front.lastRelay == some (.d, 0x11101070, 5, wordCrc 0x11101070 5)) = true := by
  decide +kernel

theorem wit_RelayAndCandidates_2 : nextHas (exec (.tugRelay .u) { relay0 with front.relayU := some (tbody, 5) })
    (fun t => t.front.relayU == none) = true ∧ nextHas (exec (.preambleLock .tugD) run0) (fun t => t.front.locked[2]) = true ∧
    nextHas (exec (.syncByteMismatch .tugD) { run0 with front.locked := Vector.replicate 3 true }) (fun t => !t.front.locked[2]) = true := by
  decide +kernel

theorem wit_OnlyWordsMoveWatermarks :
    nextHas (exec (.mainsWord mbody (wordMac 0 false mbody) (wordCrc mbody (wordMac 0 false mbody))) (hear run0))
      (fun t => t.front.wmMains[1] == some 7) = true := by decide +kernel

/-- A DATA frame from 5 to 9. -/
def fr : List Byte := mkFrame 1 false 0 9 5 7 0 3 [1, 2, 3, 4]

theorem wit_StreamStartsOnItsEngine_1 : engineReady run2 0 = true ∧ hcrcOk fr = true ∧
    nextHas (exec (.streamStart .portU fr) run2) (fun t => match (eng t 0).run with
      | some x => x.kind == .frame .u && x.fifo ++ x.bytes == fr.take 20 && x.fifo.length == 16 && x.taken == 0
      | none => false) = true := by decide +kernel

theorem wit_StreamStartsOnItsEngine_2 : nextHas (exec (.streamStart .host []) { run2 with drop.waiting := [(fr, 0)] })
    (fun t => match (eng t 2).run with | some x => x.kind == .host && x.fifo ++ x.bytes == fr.take 20 | none => false) = true := by
  decide +kernel

theorem wit_StreamStartsOnItsEngine_3 : nextHas (exec (.streamStart .slow []) { run2 with engs.slowQ := [.event 9 1] })
    (fun t => t.engs.slowQ.isEmpty && match (eng t 3).run with | some x => x.fifo == [4, 9, 1] | none => false) = true := by
  decide +kernel

/-- A stream of port U. -/
def st0 (b : List Byte) : Stream :=
  { kind := .frame .u, key := 0, epoch := 0, fifo := b, bytes := [], taken := 3, st := some 2, collected := [], won := [], stopped := false,
    passed := false, late := false, chk := (0, none, []), name := none, read := [], item := none }

/-- Engine 0 runs a stream. -/
def withStream (x : Stream) : State := modEng run2 0 fun g => { g with run := some x }

theorem wit_EngineStepTakesOneByte_1 : nextHas (exec (.engineStep 0 .byte) (withStream { st0 [7, 8] with bytes := [9] }))
      (fun t => match (eng t 0).run with | some x => x.fifo == [8, 9] && x.taken == 4 && x.st == none | none => false) = true ∧
    nextHas (exec (.engineStep 0 .fillParity) (withStream (st0 [7]))) (fun t => t.win.epar == 1 && alertAsserted t) = true := by
  decide +kernel

/-- A frame stream with 20 bytes in its FIFO and 20 to come. -/
def filling : Stream := { st0 (List.replicate 20 7) with bytes := List.replicate 20 8 }

theorem wit_EngineStepTakesOneByte_2 : mayFill filling = true ∧ mayFill (st0 [7]) = false ∧
    nextHas (exec (.engineStep 0 .fifoFull) (withStream filling)) (fun t => t.win.w2d == 0x2003 && alertAsserted t &&
      match (eng t 0).run with | some x => x.stopped && x.fifo.length == 32 | none => false) = true ∧
    nextIs (exec (.engineStep 0 .fifoFull) (withStream (st0 [7]))) (withStream (st0 [7])) = true := by decide +kernel

/-- Engine 0 waits with a result. -/
def waits0 : State := { withStream (st0 [7]) with act.late := [(0, .tally 1 9)] }

theorem wit_EngineStepTakesOneByte_3 : resultWaits waits0 0 = true ∧
    nextHas (exec (.engineStep 0 .byte) waits0)
      (fun t => match (eng t 0).run with | some x => x.fifo == [7] && x.taken == 3 && x.st == some 2 | none => false) = true := by
  decide +kernel

/-- A rule memory of one rule that collects and delivers. -/
def rules1 : RuleMem := { RuleMem.zero with
  nrule := 1
  places := [(1, memLine ((List.replicate 64 0).set 2 2))] }

theorem wit_StreamEndDecides_1 : bestRule rules1 (tablesAt rules1 0) [0] = some 0 ∧
    nextHas (exec (.streamEnd 0 true) { withStream { st0 [] with collected := [0] } with rules := rules1 })
      (fun t => (eng t 0).run.isNone && t.act.queue.length == 1 &&
        match t.engs.decU with | some d => d.disp == .deliver | none => false) = true := by decide +kernel

/-- The queue of results is full. -/
def full64 : State :=
  { withStream { st0 [] with collected := [0] } with rules := rules1, act.queue := List.replicate 64 (.tally 1 9) }

theorem wit_StreamEndDecides_3 :
    nextHas (exec (.streamEnd 0 true) full64) (fun t => t.act.queue.length == 64 && t.act.late.map (·.1) == [0]) = true ∧
    nextIs (exec (.streamEnd 0 true) (withStream (st0 [1]))) (withStream (st0 [1])) = true := by decide +kernel

theorem wit_StreamEndDecides_2 :
    nextHas (exec (.streamEnd 0 false) { withStream { st0 [] with collected := [0] } with rules := rules1 })
      (fun t => t.act.queue.isEmpty && t.engs.decU.isNone) = true ∧
    nextHas (exec .hostStreamAbandon { withStream { st0 [] with kind := .host } with engs.assign := ⟨some 0, some 1, some 0, some 0⟩ })
      (fun t => t.engs.decHost.isSome && (eng t 0).run.isNone) = true := by decide +kernel

theorem wit_EngineFailureReassigns : working run2 0 = true ∧ nextHas (exec (.engineFail 0 .selfCheck) run2)
      (fun t => (eng t 0).failed && !isOn t 3 && alertAsserted t && t.engs.assign == ⟨some 3, some 1, some 2, some 3⟩) = true ∧
    nextHas (exec (.engineSelfCheck 1 true) (modEng run2 1 fun g => { g with checkDue := true })) (fun t => !(eng t 1).checkDue) = true := by
  decide +kernel

theorem wit_DirectoryAndCaches_1 :
    nextHas (exec (.fill 1 0x7FFE) run2) (fun t => t.engs.trans == [.fill 1 0x7FFE 0] && t.engs.holders == [(1, 0x7FFE)]) = true ∧
    nextHas (exec (.directoryData 1 5 true) { run2 with engs.trans := [.fill 1 5 0] })
      (fun t => ((eng t 1).cache.any fun c => c.line == 5 && c.st == .current) && t.engs.trans.isEmpty) = true ∧
    nextHas (exec (.directoryData 1 5 false) { run2 with engs.trans := [.fill 1 5 0] }) (fun t => t.win.epar == 1) = true ∧
    nextIs (exec (.directoryData 1 5 true) { run2 with engs.trans := [.repair 5, .fill 1 5 0] })
      { run2 with engs.trans := [.repair 5, .fill 1 5 0] } = true := by decide +kernel

/-- A set waits for the snoop of line 5 by engine 1. -/
def waits5 : State :=
  { run2 with
    rules.commits := [⟨2, Tables.zero, [], [5], [(1, 5)]⟩]
    engs.holders := [(1, 5)]
    engs.trans := [.commit 2 [5]] }

theorem wit_DirectoryAndCaches_2 :
    nextHas (exec (.evict 1 5) waits5) (fun t => t.engs.holders.isEmpty && t.rules.commits.all fun c => c.snoops.isEmpty) = true ∧
    nextHas (exec (.snoop 1 5) (modEng waits5 1 fun g => { g with cache := [⟨5, .current, [], memLine []⟩] }))
      (fun t => (eng t 1).cache.all fun c => c.st == .invalid) = true ∧
    nextHas (exec (.sack 1 5) waits5) (fun t => t.rules.commits.all fun c => c.snoops.isEmpty) = true := by decide +kernel

theorem wit_ScanReadsEveryPlace : nextHas (exec (.scanRead true) { run2 with rules.scan := 32767 }) (fun t => t.rules.scan == 0) = true ∧
    nextHas (exec (.scanRead false) run2) (fun t => t.rules.scan == 1 && t.win.epar == 1) = true ∧
    nextHas (exec .scanRepairDone { run2 with rules.repair := some 3, rules.badPlaces := [3, 4] })
      (fun t => t.rules.badPlaces == [4] && t.rules.repair == some 4) = true := by decide +kernel

/-- An update word: OP, COMMIT, SETNO 1, TARGET, DATA of one byte repeated, and its MAC under the all-zero key. -/
def word (op commit : Byte) (target : Nat) (data : Byte) (mac : List Byte) : Vector Byte 80 :=
  let b := [op, commit, 0, 1] ++ toBe 2 target ++ [0, 0] ++ List.replicate 64 data ++ mac
  vgen 80 fun k => b.getD k 0

theorem wit_UpdateWordsAreStaged_1 :
    nextHas (exec (.updateLine .u 0 0x11 (word 1 0 20 9 [229, 70, 199, 143, 97, 146, 174, 105])) run2)
      (fun t => match t.rules.openSet with
      | some o => o.setno == 1 && assoc o.lines 20 == some 0 && assoc t.rules.places 0 == some (memLine (List.replicate 64 9))
      | none => false) = true ∧ (freePlaces (wordRules run2) [] 32768 0 1).head? = some 0 := by decide +kernel

theorem wit_UpdateWordsAreStaged_2 :
    nextHas (exec (.updateRule .u 0 0x11 (word 2 0 1 9 [236, 133, 73, 157, 228, 194, 239, 217])) { run2 with rules.nrule := 4 })
      (fun t => match t.rules.openSet with | some o => o.lines.length == 1 | none => false) = true := by decide +kernel

theorem wit_UpdateWordsAreStaged_3 :
    nextHas (exec (.updateAssoc .u 0 0x11 (word 3 0 1 9 [80, 47, 93, 208, 66, 96, 11, 211])) { run2 with rules.nrule := 4 })
      (fun t => match t.rules.openSet with | some o => o.lines.length == 1 | none => false) = true := by decide +kernel

theorem wit_UpdateWordsAreStaged_4 :
    nextHas (exec (.updateFree .u 0 0x11 (word 4 0 20 0 [122, 84, 139, 226, 205, 226, 149, 26])) run2)
      (fun t => match t.rules.openSet with | some o => o.frees == [20] | none => false) = true := by decide +kernel

theorem wit_UpdateWordsAreStaged_5 :
    nextHas (exec (.updateStart .u 0 0x11 (word 5 0 2 9 [210, 26, 128, 243, 184, 90, 53, 210])) run2)
      (fun t => match t.rules.openSet with | some o => assoc o.starts 2 == some 0x0909 | none => false) = true := by
  decide +kernel

theorem wit_UpdateWordsAreStaged_6 :
    wordTaken run2 .u 0 0x11 (word 0 0 0 0 [229, 176, 96, 177, 191, 91, 72, 74]).toList = true := by decide +kernel

theorem wit_CommitWaitsForSnoops :
    nextHas (exec (.updateCommit .u 0 0x11 (word 1 1 20 9 [80, 210, 123, 73, 142, 97, 16, 38]))
      { run2 with engs.holders := [(2, 20), (1, 21)] })
      (fun t => t.rules.openSet.isNone && t.front.lastSetno == some 1 && t.engs.trans == [.commit 1 [20]] &&
        (t.rules.commits.map fun c => (c.changed, c.snoops, c.places)) == [([20], [(2, 20)], [0])] &&
        (t.rules.commits.all fun c => lineAt t.rules c.tables 20 == List.replicate 64 9)) = true ∧
    placeHeld run2.rules 0 = false := by decide +kernel

theorem wit_RefusedSetLeavesTables :
    nextHas (exec (.updateCommit .u 0 0x11 (word 1 1 20 9 [80, 210, 123, 73, 142, 97, 16, 39])) run2)
      (fun t => t.rules.refused == some 1 && t.rules.commits.isEmpty && t.front.lastSetno == none) = true ∧
    nextHas (exec .updateSetTimeout { run2 with rules.openSet := some ⟨4, .u, [], [], []⟩ })
      (fun t => t.rules.refused == some 4 && t.rules.openSet.isNone) = true ∧
    takesWords run2 .u 0 0x11 = true ∧ takesWords run2 .u 5 0x11 = false ∧ takesWords run0 .u 0 0x11 = false := by decide +kernel

/-- A set without snoops left waits for the switch. -/
def switch5 : State :=
  { run2 with
    rules.commits := [⟨2, { Tables.zero with epoch := 1 }, [], [5], []⟩]
    engs.trans := [.commit 2 [5]] }

theorem wit_EpochSwitchAndReload :
    nextHas (exec .epochSwitch switch5)
      (fun t => t.rules.cur.epoch == 1 && t.rules.commits.isEmpty && t.rules.changed == [5] && t.rules.prev == none &&
        t.engs.trans.isEmpty) = true ∧
    nextIs (exec .epochSwitch waits5) waits5 = true ∧
    nextHas (exec .ruleMemoryReloadDone { run2 with reel := none, rules.reloading := true, rules.reloadAll := true })
      (fun t => !t.rules.reloading) = true := by decide +kernel

/-! ### Wake actions and Bridle -/

/-- One word per WAKE ball. -/
def wakes (w : WakeWord) : Vector WakeWord 4 := Vector.replicate 4 w

/-- The word of WAKE2. -/
def wake2 (t : State) : WakeWord := vget t.act.wake WakeWord.zero 2

/-- An association of a rule: profile 0 with PEN as given, WAKE2, cause 9. -/
def assoc2 (pen : Bool) : Assoc := ⟨0, pen, 4, 9, .dflt, false, false, false, 0, 0, 0, 0⟩

theorem wit_ResultRaisesPins_1 :
    nextHas (exec .resultApply { run0 with act.queue := [.tally 4 9], act.wake := wakes ⟨1, 7, 15, true, false, .no, false, 2⟩ })
      (fun t => t.act.queue.isEmpty && decide (wake2 t = ⟨9, 6, 15, false, true, .no, false, 2⟩) && !wakeHigh t 1) = true := by
  decide +kernel

theorem wit_ResultRaisesPins_6 :
    nextHas (exec .resultApply { run0 with act.queue := [.tally 4 9], act.late := [(2, .tally 1 9), (0, .tally 8 9)] })
      (fun t => t.act.queue == [.tally 1 9] && t.act.late == [(0, .tally 8 9)]) = true ∧
    nextHas (exec .resultApply { run0 with act.queue := .tally 4 9 :: List.replicate 64 (.tally 1 9), act.late := [(2, .tally 1 9)] })
      (fun t => t.act.queue.length == 64 && t.act.late.length == 1) = true := by decide +kernel

theorem wit_ResultRaisesPins_2 :
    nextHas (exec .resultApply { run0 with act.queue := [.rule 0 (assoc2 false) (.frame .d) true none] })
      (fun t => t.act.queue.isEmpty && (wake2 t).cause == 9 && (wake2 t).count == 1 && (wake2 t).pin && !wakeHigh t 0) = true := by
  decide +kernel

/-- A profile that takes PD17 to on. -/
def prof17 (early : Bool) : Profile := ⟨(0xFFFFFFFFFF : BitVec 40) - 0x400000000, 0, false, 0, false, early⟩

theorem wit_ResultRaisesPins_3 :
    nextHas (exec .resultApply { run0 with
        act.queue := [.rule 0 (assoc2 true) (.frame .d) true none]
        reel := some { reel0 with profiles := Vector.replicate 8 (prof17 false) } })
      (fun t => t.bridle.waiting.length == 1 && (wake2 t).pend && !(wake2 t).pin) = true ∧
    nextHas (exec .resultApply { run0 with
        act.queue := [.rule 0 (assoc2 true) (.frame .d) true none]
        reel := some { reel0 with profiles := Vector.replicate 8 (prof17 true) } })
      (fun t => t.bridle.waiting.length == 1 && (wake2 t).pin) = true := by decide +kernel

/-- A profile result of rule 0 waits. -/
def ruleWaits : State := { run0 with act.queue := [.rule 0 (assoc2 true) (.frame .d) true none] }

theorem wit_ResultRaisesPins_4 :
    nextHas (exec .resultApply { ruleWaits with outage.step := 6, act.outProfile := some (3, 1) })
      (fun t => t.act.queue.isEmpty && t.bridle.waiting.isEmpty && decide (t.act.outProfile = some (0, 5)) &&
        (wake2 t).cause == 9 && (wake2 t).pend && !(wake2 t).pin) = true := by decide +kernel

/-- The kept selections of a reversal have all been matched, and a profile was recorded meanwhile. -/
def settling : State := { run0 with outage.settle := true, act.outProfile := some (3, 1) }

theorem wit_ResultRaisesPins_5 : inOutage settling = false ∧ slowIdle settling = true ∧
    nextIs (exec .resultApply run0) run0 = true ∧
    nextIs (exec .resultApply { settling with outage.step := 6 }) { settling with outage.step := 6 } = true ∧
    nextHas (exec .resultApply settling) (fun t => !t.outage.settle && t.act.outProfile.isNone && (match t.bridle.waiting with
      | [j] => j.prof == 3 && j.mask == 1
      | _ => false)) = true := by decide +kernel

/-- PGOOD of the main channel is high and a pin is pending. -/
def railUp : State :=
  { run0 with reg.main := { ChanSt.zero with phase := .regulating, pgood := true }, act.wake := wakes ⟨5, 0, 1, true, false, .no, false, 0⟩ }

theorem wit_PendingPinsRise : railGood railUp = true ∧ inOutage railUp = false ∧
    nextHas (exec .pendingPinRise railUp) (fun t => (wake2 t).pin && !(wake2 t).pend) = true ∧
    nextIs (exec .pendingPinRise { railUp with outage.step := 6 }) { railUp with outage.step := 6 } = true := by decide +kernel

theorem wit_WackRemovesWhatWasRead_1 :
    nextHas (exec (.readWakeCause 2) { run0 with act.wake := wakes ⟨5, 0, 3, false, true, .no, false, 0⟩ })
      (fun t => (wake2 t).snap == 3 && (vget t.act.wake WakeWord.zero 1).snap == 0) = true := by decide +kernel

theorem wit_WackRemovesWhatWasRead_2 : pinsLive run0 = true ∧
    nextHas (exec (.wack 14) { run0 with act.wake := wakes ⟨5, 0, 3, false, true, .no, false, 3⟩ })
      (fun t => decide (wake2 t = WakeWord.zero) && wakeHigh t 1) = true ∧
    nextHas (exec (.wack 14) { run0 with act.wake := wakes ⟨5, 0, 3, false, true, .no, false, 2⟩ })
      (fun t => decide (wake2 t = ⟨5, 0, 1, false, false, .no, true, 0⟩)) = true ∧
    nextHas (exec (.wack 14) { run0 with act.wake := wakes ⟨5, 0, 3, false, true, .no, false, 0⟩ })
      (fun t => decide (wake2 t = ⟨5, 0, 3, false, true, .no, false, 0⟩)) = true := by decide +kernel

/-- A captured record. -/
def rec2 : FaultRec := ⟨2, 0, false, 7, 0, 0, 0, Vector.replicate 6 0, 0, snap0, 0, 0, 0, true, [], false⟩

/-- A rail attempt runs with so many retries behind it. -/
def attempt (n : Nat) : State :=
  { run0 with reg.main := { ChanSt.zero with phase := .ramp }, act.main := ⟨true, false, n, 4⟩,
              reel := some { reel0 with pol := { reel0.pol with retry := 2 } } }

theorem wit_RailAttempts_1 :
    nextHas (exec (.railAttemptFail .main snap0) (attempt 1)) (fun t => !isOn t 17 && t.act.main.gap && t.act.main.retries == 1 &&
      t.reg.main.phase == .waiting .gap) = true ∧
    nextHas (exec (.railAttemptFail .main snap0) (attempt 2)) (fun t => !isOn t 17 && t.reg.main.phase == .off &&
      t.act.main == RailTry.idle && (t.prot.latch.map (·.code)) == [0x0C] && !(wake2 t).pend) = true := by decide +kernel

theorem wit_RailAttempts_2 :
    nextHas (exec (.railAttemptFail .main snap0) { attempt 2 with prot.latch := List.replicate 4 rec2 })
      (fun t => (wake2 t).cause == 0x81 && (wake2 t).src == 7 && !(wake2 t).pend && t.prot.latch.length == 4) = true ∧
    railFailing { attempt 2 with prot.latch := List.replicate 4 rec2 } .main = false := by decide +kernel

/-- The gap of a rail's attempts is over and PD17 is off. -/
def gapOver : State := withDom { run0 with act.main := ⟨true, true, 1, 4⟩ } 17 { Dom.zero with st := .off }

theorem wit_RailAttempts_3 : refusal gapOver 17 (devReq .on) = none ∧ inOutage gapOver = false ∧
    nextHas (exec (.railRetry .main) gapOver) (fun t => t.act.main.retries == 2 && !t.act.main.gap &&
      (dom t 17).cur == some (devReq .on, .rising)) = true ∧
    nextIs (exec (.railRetry .main) run0) run0 = true ∧
    nextIs (exec (.railRetry .main) { gapOver with outage.step := 5 }) { gapOver with outage.step := 5 } = true := by decide +kernel

/-- The answer of PRES0 and PRES1, PACK high. -/
def answers (o : Host.Outcome State Fault Refusal) (p : BitVec 2) (f : State → Bool) : Bool :=
  nextHas o fun t => t.bridle.pack && t.bridle.pres == p && f t

theorem wit_HostStateCommands_1 : hostTaken run0 = true ∧ isReady run0 = true ∧
    answers (exec (.hostRetention 8) run0) 1 (fun t => t.bridle.w0b.result == 1 && t.bridle.w0b.unread && isOn t 8 &&
      !t.prot.alerts.contains .w0b) = true := by decide +kernel

/-- A waiting profile, number 9, that takes PD16 off. -/
def job16 : Job :=
  ⟨9, .host, 0, 0xFCFFFFFFFF, ⟨0xFCFFFFFFFF, 2, true, 3, false, false⟩, 0, 0, false, false, 0, true⟩

theorem wit_HostStateCommands_2 : answers (exec (.hostOn 8) run0) 0 (fun t => t.bridle.w0b.result == 0) = true ∧
    answers (exec (.hostOff 16) run0) 2 (fun t => (dom t 16).cur == some (⟨.host, .off, 0, true, false⟩, .wait)) = true ∧
    lastNaming { run0 with bridle.waiting := [job16] } 16 = some 9 ∧
    answers (exec (.hostOff 16) { run0 with bridle.waiting := [job16] }) 2
      (fun t => (t.bridle.behind == [(9, 16, .off)]) && (dom t 16).cur.isNone && isOn t 16) = true := by
  decide +kernel

theorem wit_HostStateCommands_3 : nextIs (exec (.hostOff 8) { run0 with bridle.pack := true }) { run0 with bridle.pack := true } = true ∧
    answers (exec (.hostOff 8) { run0 with boot.step := .loader }) 1 (fun t => t.bridle.w0b.reason == 1) = true := by decide +kernel

theorem wit_OtherHostCommands_1 : answers (exec (.hostQuery 8) run0) 0 (fun t => decide (t.bridle.doms = run0.bridle.doms)) = true ∧
    answers (exec (.hostQuery 8) (withDom run0 8 { domOn with faulty := true })) 3 (fun t => isOn t 8) = true ∧
    answers (exec (.hostQuery 14) { run0 with ident := 0x18000 }) 1 (fun t => t.bridle.w0b == ⟨14, 0, 1, 2, 1, true⟩) = true := by
  decide +kernel

/-- Every profile of the Reel has these TARGETs and main setpoint. -/
def profs (x : BitVec 40) (m : Fin 8) : State :=
  { run0 with reel := some { reel0 with
      spMain := vset reel0.spMain 2 ⟨false, 961⟩
      profiles := Vector.replicate 8 ⟨x, m, true, 0, false, false⟩ } }

theorem wit_OtherHostCommands_2 :
    answers (exec (.hostApply 3) (profs 0xFFFFFFFFFF 0)) 0 (fun t => (t.bridle.waiting.map (·.prof)) == [3]) = true ∧
    (profileTargets (profs 0xFFFFFFFFFF 0) (profileOf (profs 0xFFFFFFFFFF 0) 3).targets).isEmpty = true ∧
    answers (exec (.hostApply 3) run0) 2 (fun t => (t.bridle.waiting.map (·.prof)) == [3]) = true ∧
    badSetpoint (profs 0xFFFFFFFFFF 2) (profileOf (profs 0xFFFFFFFFFF 2) 3) .main = true ∧
    answers (exec (.hostApply 3) (profs 0xFFFFFFFFFF 2)) 1
      (fun t => (t.bridle.waiting.map (·.prof)) == [3] && t.bridle.w0b.reason == 7) = true := by decide +kernel

theorem wit_OtherHostCommands_4 :
    answers (exec (.hostApply 3) { run0 with boot.step := .loader }) 1 (fun t => t.bridle.w0b == ⟨27, 0, 1, 1, 1, true⟩) = true ∧
    answers (exec (.hostApply 3) { run0 with boot.safe := true }) 1 (fun t => t.bridle.w0b == ⟨27, 0, 1, 0xE, 1, true⟩) = true ∧
    answers (exec (.hostApply 3) { run0 with outage.step := 5 }) 1 (fun t => t.bridle.w0b == ⟨27, 0, 1, 0xA, 1, true⟩) = true ∧
    nextIs (exec (.hostApply 3) { run0 with bridle.pack := true }) { run0 with bridle.pack := true } = true ∧
    hostCommand 16 2 = .hostOn 16 ∧ hostCommand 27 3 = .hostApply 3 ∧ hostCommand 27 0 = .hostInvalidCommand 27 0 := by
  decide +kernel

theorem wit_OtherHostCommands_3 :
    answers (exec (.hostInvalidCommand 21 0) run0) 1 (fun t => t.bridle.w0b == ⟨21, 0, 1, 8, 1, true⟩) = true ∧
    answers (exec (.hostInvalidCommand 24 2) run0) 1 (fun t => t.bridle.w0b.sel == 24) = true ∧
    nextHas (exec .pstbFall { run0 with bridle.pack := true, bridle.pres := 3 }) (fun t => !t.bridle.pack && t.bridle.pres == 0) = true := by
  decide +kernel

/-- A host command's request for off on one domain, at some stage. -/
def offReq : Req := ⟨.host, .off, 0, true, false⟩

/-- A domain leaves on, while those that require it are off. -/
def leave (d : Nat) (g : Stage) : State :=
  withDom ([13, 14, 16].foldl (fun s e => withDom s e Dom.zero)
    { run0 with reel := some { reel0 with doms := vmod reel0.doms 15 fun c => { c with own := true, delay := 4 } } })
    d { domOn with cur := some (offReq, g) }

theorem wit_LeaveSequenceBegins_1 : freeToLeave (leave 15 .wait) 15 = true ∧ negotiated (leave 15 .wait) 15 = true ∧
    nextHas (exec (.ask 15) (leave 15 .wait)) (fun t => (dom t 15).cur == some (offReq, .asked) && isOn t 15) = true ∧
    nextHas (exec (.hold 15) (leave 15 .asked)) (fun t => (dom t 15).cur == some (offReq, .held) && isOn t 15) = true := by
  decide +kernel

theorem wit_LeaveSequenceBegins_2 :
    nextHas (exec (.drain 16) (leave 16 .wait)) (fun t => (dom t 16).cur == some (offReq, .draining) && isOn t 16) = true ∧
    nextHas (exec (.drain 17) { leave 17 .wait with reg.main := { ChanSt.zero with phase := .regulating, pgood := true } })
      (fun t => (dom t 17).cur == some (offReq, .draining) && t.reg.main.phase == .stopping && !t.reg.main.pgood) = true ∧
    descentHolds { leave 17 .wait with reg.descent := true } 17 = true ∧
    nextIs (exec (.drain 17) { leave 17 .wait with reg.descent := true }) { leave 17 .wait with reg.descent := true } = true := by
  decide +kernel

/-- leave, with PD15's DELAY at 0. -/
def atOnce : State := { leave 15 .asked with reel := some reel0 }

theorem wit_LeaveSequenceBegins_3 : freeToLeave (leave 7 .wait) 7 = false ∧ nextIs (exec (.ask 7) (leave 7 .wait)) (leave 7 .wait) = true ∧
    delayOf atOnce 15 = 0 ∧ nextIs (exec (.hold 15) atOnce) atOnce = true := by decide +kernel

theorem wit_LeaveSequenceEnds_1 :
    nextHas (exec (.grant 15) (leave 15 .asked)) (fun t => domSt t 15 == .off && isOn t 9) = true ∧
    nextHas (exec (.drained 16) (leave 16 .draining)) (fun t => domSt t 16 == .off && isOn t 15) = true := by decide +kernel

/-- The loader is busy with a transfer. -/
def busy15 : State := { leave 15 .asked with rules.reloading := true }

theorem wit_LeaveSequenceEnds_2 : askedFor busy15 15 = some offReq ∧ blockRefuses busy15 15 .off = some 5 ∧
    nextIs (exec (.grant 15) busy15) busy15 = true ∧
    nextHas (exec (.refuse 15) busy15) (fun t => (dom t 15).cur == none && isOn t 15 && t.bridle.w0b == ⟨15, 0, 1, 5, 1, true⟩ &&
      alertAsserted t) = true ∧
    blockRefuses (leave 15 .asked) 15 .off = none ∧ mayGrant (leave 15 .asked) 15 = true ∧
    nextIs (exec (.refuse 15) (leave 15 .asked)) (leave 15 .asked) = true := by
  decide +kernel

theorem wit_LiveAndFaulty_1 : nextHas (exec (.live 16) (withDom run0 16 { Dom.zero with cur := some (devReq .on, .rising) }))
    (isOn · 16) = true := by decide +kernel

theorem wit_LiveAndFaulty_2 : nextHas (exec (.domainFaulty 16 snap0) (withDom run0 16 { Dom.zero with cur := some (devReq .on, .rising) }))
    (fun t => (dom t 16).faulty && !isOn t 16 && t.prot.latch.length == 1) = true ∧
    nextHas (exec (.domainFaulty 3 snap0) (withDom run0 3 { Dom.zero with cur := some (devReq .on, .rising) }))
      (fun t => (dom t 3).faulty && (eng t 0).failed && !(eng t 1).failed) = true ∧
    nextIs (exec (.live 16) run0) run0 = true ∧ nextIs (exec (.domainFaulty 16 snap0) run0) run0 = true := by decide +kernel

/-- The idle action of PD8 is off, and no domain that requires it is on. -/
def idle0 : State :=
  [13, 14, 16].foldl (fun s e => withDom s e Dom.zero)
    { run0 with reel := some { reel0 with doms := vmod reel0.doms 8 fun c => { c with idleAct := 2 } } }

theorem wit_IdleProfileAndMap_1 : nextHas (exec (.idleRequest 8) idle0)
    (fun t => match (dom t 8).cur with | some (q, .wait) => q.origin == .idle && isOn t 8 | _ => false) = true ∧
    nextIs (exec (.idleRequest 8) { idle0 with boot.safe := true }) { idle0 with boot.safe := true } = true ∧
    nextIs (exec (.idleRequest 8) { idle0 with outage.step := 5 }) { idle0 with outage.step := 5 } = true := by decide +kernel

/-- A waiting profile that does not change a domain. -/
def job0 : Job := ⟨1, .host, 0, 0xFFFFFFFFFF, ⟨0xFFFFFFFFFF, 2, true, 3, false, false⟩, 0, 0, false, false, 0, true⟩

theorem wit_IdleProfileAndMap_2 : nextHas (exec (.profileStart 5) { run0 with bridle.waiting := [job0] })
    (fun t => t.bridle.waiting.isEmpty && t.bridle.latched == some (2, true, 3, false) && t.pins.vsel == 5) = true ∧
    nextIs (exec (.profileStart 5) { run0 with bridle.waiting := [job0], outage.step := 5 })
      { run0 with bridle.waiting := [job0], outage.step := 5 } = true ∧
    nextIs (exec (.profileStart 5) { run0 with bridle.waiting := [job0], boot.step := .ready })
      { run0 with bridle.waiting := [job0], boot.step := .ready } = true := by decide +kernel

theorem wit_IdleProfileAndMap_3 :
    nextHas (exec (.rmapChange 3) (withDom run0 8 { Dom.zero with st := .ret, banks := 15 })) (fun t => t.pins.rmap == 3 &&
      domSt t 8 == .ret && (dom t 8).banks == 15 &&& keptBanks { run0 with pins.rmap := 3 } 8 && (dom t 9).banks == (dom run0 9).banks) = true := by
  decide +kernel

/-! ### Regulator -/

/-- Setpoint codes 80 at index 0 (0.5 V), 160 at index 1 (0.6 V), 961 (invalid) at index 2, 80 elsewhere. -/
def sps : Vector Setpoint 8 := #v[⟨false, 80⟩, ⟨false, 160⟩, ⟨false, 961⟩, ⟨false, 80⟩, ⟨false, 80⟩, ⟨false, 80⟩, ⟨false, 80⟩, ⟨false, 80⟩]

/-- Six strapped phases at 500 kHz, both channels allowed to switch; the auxiliary channel tracks coincidentally. -/
def regul : State :=
  { run0 with
    straps.rv := #v[some 1, some 1, some 1, some 1, some 6, some 7, some 0, some 0, some 6, some 2, some 1, some 1]
    reel := some { reel0 with
      spMain := sps
      spAux := sps
      pol := { reel0.pol with ovlp := 1, shedOn := true, rotate := true, prate := 100 }
      mons := Vector.replicate 24 ⟨true, 0, 0, false, false, 100, 900, 4⟩ }
    reg := { Reg.zero with
      straps := ⟨some 6, some 7, some 0, some 0, some 6, some 2⟩
      strapsA := ⟨some 6, some 7, some 0, some 0, some 6, some 2⟩
      main := { ChanSt.zero with phase := .notSwitching }
      aux := { ChanSt.zero with phase := .notSwitching } } }

def at_ (p : ChPhase) (r : Nat) : State :=
  { regul with
    reg.main := { ChanSt.zero with phase := p, ref := r, own := r, target := 500000, pgood := true }
    reg.aux := { ChanSt.zero with phase := p, ref := r, own := r, target := 500000, pgood := true }
    reg.trk := 500000
    reg.vtrk := 500000
    reg.dwell := 200000
    reg.active := [0, 1, 2] }

/-- A monitor is settled with one comparator asserted. -/
def onMon (s : State) (k : Nat) : State := modMon s k fun m => { m with settled := true, above := true, below := true }

theorem wit_ChannelStartsAndRegulates_1 : startOk regul .main = true ∧ startOk regul .aux = true ∧
    nextHas (exec (.channelStart .main ⟨100000, 0, 12000000, true, true⟩ snap0) regul) (fun t => t.reg.main.phase == .ramp &&
      t.reg.main.ref == 101250 && t.reg.main.target == 500000 && t.reg.main.diode && !t.reg.main.vloc &&
      t.reg.active == [0, 1, 2, 3, 4, 5]) = true ∧
    nextHas (exec (.channelStart .main ⟨100000, 200000, 12000000, false, true⟩ snap0) regul)
      (fun t => t.reg.main.vloc && t.reg.main.ref == 201250) = true ∧
    nextHas (exec (.channelStart .main ⟨100000, 0, 12000000, false, false⟩ snap0) regul) (fun t => t.reg.main.phase == .latched) = true := by
  decide +kernel

theorem wit_ChannelStartsAndRegulates_2 :
    nextHas (exec (.channelStart .aux ⟨500000, 0, 12000000, false, false⟩ snap0) { regul with reg.trk := 1200000 })
      (fun t => t.reg.aux.phase == .regulating && t.reg.aux.own == 500000 && !t.reg.aux.diode) = true ∧
    nextIs (exec (.channelStart .main ⟨0, 0, 0, true, true⟩ snap0) run0) run0 = true ∧
    nextHas (exec (.rampComplete .main) (at_ .ramp 300000)) (fun t => t.reg.main.phase == .regulating && t.reg.main.ref == 500000) = true ∧
    nextHas (exec (.slewComplete .main) (at_ .slewing 300000)) (fun t => t.reg.main.phase == .regulating && t.reg.main.pgood) = true := by
  decide +kernel

theorem wit_ChannelStartsAndRegulates_3 :
    nextHas (exec (.pgoodAssert .aux 500000) { at_ .regulating 500000 with reg.aux.pgood := false }) (fun t => t.reg.aux.pgood) = true ∧
    nextHas (exec (.pgoodAssert .aux 440000) { at_ .regulating 500000 with reg.aux.pgood := false }) (fun t => !t.reg.aux.pgood) = true ∧
    nextHas (exec (.pgoodDeassert .main 90000) (at_ .regulating 500000)) (fun t => !t.reg.main.pgood && t.reg.main.phase == .regulating) = true ∧
    nextHas (exec (.pgoodDeassert .main 500000) (at_ .regulating 500000)) (fun t => t.reg.main.pgood) = true ∧
    nextHas (exec (.pgoodAssert .main 400000) (at_ .latched 400000)) (fun t => t.reg.main.pgood && t.reg.main.phase == .latched) = true := by
  decide +kernel

theorem wit_SelectionEnablesClockTracking_1 :
    nextHas (exec (.vselChange 1) (at_ .regulating 500000)) (fun t => t.reg.main.sel == 1 && t.reg.main.phase == .slewing &&
      t.reg.main.target == 600000 && t.pins.vsel == 1) = true ∧
    nextHas (exec (.vselChange 2) (at_ .regulating 500000)) (fun t => t.reg.main.sel == 0 && t.reg.main.phase == .regulating) = true := by
  decide +kernel

theorem wit_SelectionEnablesClockTracking_2 :
    nextHas (exec (.enableLow .main) (at_ .regulating 500000)) (fun t => t.reg.main.phase == .notSwitching && !t.reg.main.pgood &&
      t.reg.active.isEmpty) = true ∧
    nextHas (exec (.enableLow .aux) (at_ .latched 500000)) (fun t => t.reg.aux.phase == .notSwitching && !t.pins.enA) = true ∧
    nextHas (exec (.enableHigh .main) { regul with pins.enM := false }) (fun t => t.pins.enM) = true := by decide +kernel

/-- The clock counts edges of SYNC_IN; one has just been accepted. -/
def edged : State := { regul with reg.clk := { regul.reg.clk with edges := 3, gap := some 0 } }

theorem wit_SelectionEnablesClockTracking_3 : syncExternal (clockStraps regul) = true ∧ clockRuns regul = true ∧
    edgeAccepted regul 2000000 = true ∧ edgeAccepted regul 5000000 = false ∧
    nextHas (exec (.syncLock (0 :: List.replicate 7 2000000)) { regul with reg.clk.gap := none })
      (fun t => t.reg.clock == .acquiring && t.reg.clk.edges == 8 && t.reg.clk.freq == 500000) = true ∧
    nextHas (exec (.syncLock [5000000]) edged) (fun t => t.reg.clk.edges == 0 && t.reg.clk.gap == some 5000000 && t.reg.clock == .internal) = true ∧
    nextHas (exec .syncLoss { regul with reg.clock := .locked }) (fun t => t.reg.clock == .gliding) = true ∧
    nextIs (exec (.syncLock [2000000]) { regul with reg.straps.sync := some 0 }) { regul with reg.straps.sync := some 0 } = true := by
  decide +kernel

theorem wit_SelectionEnablesClockTracking_4 : tracks regul = true ∧
    nextHas (exec (.trkChange 400000 20) (at_ .regulating 500000)) (fun t => t.reg.trk == 400000 && t.reg.aux.ref == 475000) = true ∧
    nextHas (exec (.trkChange 2000000 20) (at_ .regulating 490000)) (fun t => t.reg.trk == 1650000 && t.reg.aux.ref == 490000) = true ∧
    nextHas (exec (.trkChange 400000 200) (at_ .regulating 500000)) (fun t => t.reg.aux.ref == 400000 && !t.reg.aux.pgood) = true ∧
    nextIs (exec (.trkChange 400000 20) { regul with reg.strapsA.track := some 0 }) { regul with reg.strapsA.track := some 0 } = true := by
  decide +kernel

theorem wit_CompensatorAndRestore_1 :
    nextHas (exec (.compensatorSample .main 480000 0 12000000) (at_ .regulating 500000)) (fun t => t.reg.main.e == #v[32, 0, 0] &&
      t.reg.underCount == 1) = true ∧
    nextHas (exec (.compensatorSample .main 400000 0 12000000) { at_ .regulating 500000 with reg.underCount := 1 })
      (fun t => t.reg.main.e == #v[127, 0, 0] && t.reg.underCount == 2) = true ∧
    nextHas (exec (.compensatorSample .aux 600000 0 12000000) (at_ .regulating 500000)) (fun t => t.reg.aux.e == #v[-128, 0, 0]) = true ∧
    nextHas (exec (.compensatorSample .main 0 480000 12000000) { at_ .regulating 500000 with reg.main.vloc := true })
      (fun t => t.reg.main.e == #v[32, 0, 0]) = true ∧
    nextIs (exec (.compensatorSample .main 0 0 0) regul) regul = true := by
  decide +kernel

/-- Two samples at the undershoot limit. -/
def under2 : State := { at_ .regulating 500000 with reg.underCount := 2 }

theorem wit_CompensatorAndRestore_2 : mayRestore under2 = true ∧
    nextHas (exec .undershootRestore under2) (fun t => t.reg.restoreDue && t.reg.active == [0, 1, 2] && t.reg.underCount == 0) = true ∧
    nextIs (exec .undershootRestore { under2 with reg.main.warm := true }) { under2 with reg.main.warm := true } = true ∧
    nextIs (exec .undershootRestore (at_ .regulating 500000)) (at_ .regulating 500000) = true := by decide +kernel

/-- Both channels in their ramp, in diode emulation with their balls Low. -/
def emul0 : State :=
  { at_ .ramp 300000 with
    reg.main := { ChanSt.zero with phase := .ramp, diode := true }
    reg.aux := { ChanSt.zero with phase := .ramp, diode := true }
    reg.pwm := Vector.replicate 6 .low
    reg.pwmA := .low }

theorem wit_CompensatorAndRestore_3 :
    nextHas (exec (.zeroCrossing .main 1) emul0) (fun t => t.reg.pwm[1] == .mid && t.reg.pwm[0] == .low) = true ∧
    nextHas (exec (.zeroCrossing .aux 0) emul0) (fun t => t.reg.pwmA == .mid) = true ∧
    nextIs (exec (.zeroCrossing .main 1) { emul0 with reg.main.diode := false }) { emul0 with reg.main.diode := false } = true ∧
    nextIs (exec (.zeroCrossing .aux 0) { emul0 with reg.aux.diode := false }) { emul0 with reg.aux.diode := false } = true := by
  decide +kernel

theorem wit_PhasesAreBalancedAndShed_1 :
    nextHas (exec (.balanceUpdate (amps 900 0 0 0 0 0) snap0) (at_ .regulating 500000))
      (fun t => t.reg.trim == #v[-1, 1, 1, 0, 0, 0] && t.reg.active == [0, 1, 2]) = true ∧
    nextHas (exec (.balanceUpdate (amps 900 0 0 0 0 0) snap0) { at_ .regulating 500000 with reg.skip := true })
      (fun t => !t.reg.skip && t.reg.trim == Vector.replicate 6 0) = true := by decide +kernel

theorem wit_PhasesAreBalancedAndShed_2 :
    nextHas (exec (.shedDecision (amps 256 256 256 0 0 0)) (at_ .regulating 500000)) (fun t => t.reg.active == [0, 1, 2, 3]) = true ∧
    nextHas (exec (.shedDecision (amps 0 0 0 0 0 0)) (at_ .regulating 500000)) (fun t => t.reg.active == [0, 1]) = true ∧
    nextIs (exec (.shedDecision (amps 200 200 200 0 0 0)) (at_ .regulating 500000)) (at_ .regulating 500000) = true ∧
    nextIs (exec (.shedDecision (amps 0 0 0 0 0 0)) { at_ .regulating 500000 with reg.dwell := 199999 })
      { at_ .regulating 500000 with reg.dwell := 199999 } = true ∧
    nextHas (exec (.shedDecision (amps 0 0 0 0 0 0)) { at_ .regulating 500000 with reg.swapsDue := 1 })
      (fun t => t.reg.swapsDue == 0 && t.reg.swapShed && t.reg.active == [0, 1, 2, 3]) = true ∧
    nextIs (exec (.shedDecision (amps 0 0 0 0 0 0)) (at_ .ramp 300000)) (at_ .ramp 300000) = true := by decide +kernel

theorem wit_PhasesAreBalancedAndShed_3 :
    nextHas (exec (.swapShed (amps 0 0 0 0 0 0)) { at_ .regulating 500000 with reg.swapShed := true })
      (fun t => t.reg.active == [1, 2] && !t.reg.swapShed) = true ∧
    nextHas (exec (.swapShed (amps 256 256 256 0 0 0)) { at_ .regulating 500000 with reg.swapShed := true })
      (fun t => t.reg.active == [0, 1, 2] && !t.reg.swapShed) = true ∧
    nextIs (exec (.swapShed (amps 0 0 0 0 0 0)) (at_ .regulating 500000)) (at_ .regulating 500000) = true ∧
    nextHas (exec .hourPass { regul with hours := 17, reg.r := 5 }) (fun t => t.hours == 32 && t.now == 110592000 && t.reg.r == 0) = true := by
  decide +kernel

/-- Every available phase is due at the next period start. -/
def due0 : State := { at_ .regulating 500000 with reg.restoreDue := true }

theorem wit_PhasesAreBalancedAndShed_4 : clockRuns due0 = true ∧
    nextHas (exec (.latchPeriodClear (Vector.replicate 7 0)) due0) (fun t => t.reg.active == [0, 1, 2, 3, 4, 5] &&
      !t.reg.restoreDue && t.reg.pulse.slots == [0, 1, 2, 3, 4, 5]) = true ∧
    nextHas (exec (.latchPeriodClear (Vector.replicate 7 2000)) (onMon due0 0)) (fun t => t.reg.active == [0, 1, 2] &&
      t.reg.restoreDue && t.reg.pulse.slots == [0, 1, 2] && t.reg.sense[0] == 1920) = true := by decide +kernel

/-! ### Protections, records and monitors -/

theorem wit_LimitsStopTheChannel_1 :
    nextHas (exec (.fastLimitTrip .main 1 true true snap0) (at_ .regulating 500000)) (fun t => t.reg.trunc[1] == 1 && t.mons.pcl[1] &&
      t.reg.main.phase == .regulating && t.prot.latch.isEmpty) = true ∧
    nextHas (exec (.fastLimitTrip .main 1 true true snap0) { at_ .regulating 500000 with reg.trunc := Vector.replicate 7 7 })
      (fun t => t.reg.main.phase == .waiting .hiccup && t.prot.latch.length == 1) = true ∧
    nextHas (exec (.fastLimitTrip .aux 0 true true snap0) { at_ .regulating 500000 with reg.trunc := Vector.replicate 7 7 })
      (fun t => t.reg.aux.phase == .waiting .hiccup && t.reg.main.phase == .regulating) = true := by decide +kernel

theorem wit_LimitsStopTheChannel_2 :
    nextHas (exec (.fastLimitTrip .main 1 false true snap0) (at_ .regulating 500000)) (fun t => t.reg.offTrip[1] && !t.reg.failed[1]) = true ∧
    nextHas (exec (.fastLimitTrip .main 1 false true snap0) { at_ .regulating 500000 with reg.offTrip := Vector.replicate 6 true })
      (fun t => t.reg.failed[1] && t.reg.active == [0, 2, 3]) = true ∧
    nextHas (exec (.fastLimitTrip .aux 0 false true snap0) (at_ .regulating 500000)) (fun t => t.mons.pcl[6] && t.reg.failed == regul.reg.failed) = true ∧
    nextIs (exec (.fastLimitTrip .main 1 true true snap0) regul) regul = true := by decide +kernel

theorem wit_LimitsStopTheChannel_3 :
    nextIs (exec (.slowLimitTrip .main 768 snap0) (at_ .regulating 500000)) (at_ .regulating 500000) = true ∧
    nextHas (exec (.slowLimitTrip .main 769 snap0) (at_ .regulating 500000)) (fun t => t.reg.main.phase == .waiting .retry &&
      t.reg.main.run == 1) = true ∧
    nextHas (exec (.slowLimitTrip .main 769 snap0) { at_ .regulating 500000 with reg.main := { ChanSt.zero with phase := .ramp, run := 7 } })
      (fun t => t.reg.main.phase == .latched && t.reg.main.run == 0) = true ∧
    nextIs (exec (.undervoltage .aux 450000 snap0) (at_ .regulating 500000)) (at_ .regulating 500000) = true ∧
    nextHas (exec (.undervoltage .aux 449999 snap0) (at_ .regulating 500000)) (fun t => t.reg.aux.phase == .waiting .retry &&
      t.reg.aux.runUv == 1) = true ∧
    nextHas (exec (.undervoltage .main 0 snap0) (onMon { at_ .regulating 500000 with reg.main.runUv := 7 } 1))
      (fun t => t.reg.main.phase == .latched && t.reg.main.runUv == 0) = true := by decide +kernel

theorem wit_LimitsStopTheChannel_4 :
    nextHas (exec (.hiccupRestart .main) (at_ (.waiting .hiccup) 0)) (fun t => t.reg.main.phase == .notSwitching) = true ∧
    nextHas (exec (.protectionRetry .aux) (at_ (.waiting .retry) 0)) (fun t => t.reg.aux.phase == .notSwitching) = true := by decide +kernel

theorem wit_OvervoltageSenseDerateRecord_1 : live (onMon (at_ .regulating 500000) 7) 7 = true ∧
    nextHas (exec (.auxOvervoltage snap0) (onMon (at_ .regulating 500000) 7)) (fun t => t.reg.aux.phase == .latched && t.reg.pwmA == .low) = true ∧
    nextHas (exec (.overvoltageRelease .aux 249999) { at_ .latched 500000 with reg.aux := { ChanSt.zero with phase := .latched, ref := 500000, heldLow := true }, reg.pwmA := .low })
      (fun t => !t.reg.aux.heldLow && t.reg.pwmA == .mid) = true ∧
    nextHas (exec (.overvoltageRelease .aux 250000) { at_ .latched 500000 with reg.aux := { ChanSt.zero with phase := .latched, ref := 500000, heldLow := true }, reg.pwmA := .low })
      (fun t => t.reg.aux.heldLow && t.reg.pwmA == .low) = true := by decide +kernel

theorem wit_OvervoltageSenseDerateRecord_2 :
    nextHas (exec (.senseLoss snap0) (onMon (at_ .regulating 500000) 3)) (fun t => t.reg.main.vloc && t.reg.main.phase == .regulating) = true ∧
    vlocLost (at_ .regulating 500000) 100000 0 = true ∧ vlocLost (at_ .regulating 500000) 125000 0 = false ∧
    nextHas (exec (.vlocLost 100000 0 snap0) { at_ .regulating 500000 with reg.main.vloc := true })
      (fun t => t.reg.main.phase == .latched && !t.reg.main.pgood && t.reg.active.isEmpty) = true ∧
    nextIs (exec (.vlocLost 125000 0 snap0) { at_ .regulating 500000 with reg.main.vloc := true })
      { at_ .regulating 500000 with reg.main.vloc := true } = true := by decide +kernel

theorem wit_OvervoltageSenseDerateRecord_3 : monEnabled (at_ .regulating 500000) 5 = true ∧
    nextHas (exec (.derateInterval false 0 0 0 snap0) { at_ .regulating 500000 with reg.der5 := ⟨3, true⟩ })
      (fun t => t.reg.der5.level == 4 && !switching t.reg.main && !t.reg.der5.above) = true ∧
    nextHas (exec (.derateInterval true 0 50000 0 snap0) { at_ .regulating 500000 with reg.der6 := ⟨2, false⟩ })
      (fun t => t.reg.der6.level == 1 && t.reg.der5.level == 0) = true ∧
    nextHas (exec (.derateInterval true 0 3000000 3300000 snap0) { at_ .regulating 500000 with reg.der6 := ⟨2, false⟩ })
      (fun t => t.reg.der6.level == 3) = true := by decide +kernel

/-- The record of the main rail's last failed attempt, for WAKE2. -/
def recRail : FaultRec := { rec2 with code := 0x0C, companion := entryPlain 0x41 [0, 1, 0x81, 4] }

theorem wit_OvervoltageSenseDerateRecord_4 : mayCommit { run0 with prot.latch := [rec2] } = true ∧
    nextHas (exec .recordCommit { run0 with prot.latch := [rec2], prot.nextSeq := 0xFFFF })
      (fun t => t.prot.latch.isEmpty && t.prot.nextSeq == 1 && t.nvm.ring[6] == recordBytes rec2 0xFFFF && t.prot.latest.length == 32 &&
        faultAsserted t) = true ∧
    nextHas (exec .recordCommit { run0 with prot.latch := [recRail] })
      (fun t => (wake2 t).cause == 0x81 && (wake2 t).src == 7 && !(wake2 t).pend && (vget t.act.wake WakeWord.zero 1).cause == 0) = true ∧
    nextHas (exec .hourCountStore { run0 with hours := 77 }) (fun t => t.nvm.hours == 77) = true := by decide +kernel

/-- A monitor is settled. -/
def settledMon (s : State) (k : Nat) : State := modMon s k fun m => { m with settled := true }

theorem wit_MonitorsActAndSetLatches_1 :
    nextHas (exec (.monitorAssert 8 .lower ⟨50000, 0, 3300000⟩ snap0) (settledMon regul 8)) (fun t => (mon t 8).below && (mon t 8).latch && !(mon t 9).latch) = true ∧
    nextIs (exec (.monitorAssert 8 .lower ⟨500000, 0, 3300000⟩ snap0) (settledMon regul 8)) (settledMon regul 8) = true ∧
    nextHas (exec (.monitorAssert 2 .upper ⟨900000, 0, 0⟩ snap0) (settledMon (at_ .regulating 500000) 2))
      (fun t => t.reg.main.phase == .latched && t.reg.main.heldLow && t.reg.pwm[5] == .low) = true ∧
    nextHas (exec (.monitorDeassert 8 .upper ⟨500000, 0, 3300000⟩) (onMon regul 8)) (fun t => !(mon t 8).above && (mon t 8).below) = true ∧
    nextIs (exec (.monitorDeassert 8 .upper ⟨2000000, 0, 3300000⟩) (onMon regul 8)) (onMon regul 8) = true := by decide +kernel

theorem wit_MonitorsActAndSetLatches_2 :
    nextHas (exec (.monitorSettled 8 ⟨500000, 0, 3300000⟩ snap0) regul) (fun t => (mon t 8).settled && !(mon t 8).latch) = true ∧
    nextHas (exec (.monitorSettled 8 ⟨1100000, 0, 3300000⟩ snap0) regul) (fun t => (mon t 8).settled && (mon t 8).above && (mon t 8).latch) = true ∧
    nextHas (exec (.eventHoldoffEnd 8) (modMon (onMon regul 8) 8 fun m => { m with holdoff := true }))
      (fun t => (mon t 8).recorded == .above && (mon t 8).holdoff && t.engs.slowQ.length == 1) = true ∧
    nextHas (exec (.eventHoldoffEnd 8) (modMon regul 8 fun m => { m with holdoff := true })) (fun t => !(mon t 8).holdoff) = true := by
  decide +kernel

/-- Every latch is set; the snapshots hold one bit each. -/
def latched0 : State :=
  { regul with mons := ⟨Vector.replicate 24 { MonSt.zero with latch := true }, Vector.replicate 7 true, 0x8000, 0x0101⟩ }

theorem wit_LatchesAreClearedAsRead_1 :
    nextHas (exec (.readLatchWord false) latched0) (fun t => t.mons.snap10 == 0xFFFF && t.win.qd == 0xFFFF) = true ∧
    nextHas (exec (.readLatchWord true) latched0) (fun t => t.mons.snap11 == 0x7FFF && t.win.qd == 0x7FFF) = true := by decide +kernel

theorem wit_LatchesAreClearedAsRead_2 :
    nextHas (exec (.clrw 0x10) latched0) (fun t => !(mon t 15).latch && (mon t 14).latch && t.mons.snap10 == 0) = true ∧
    nextHas (exec (.clrw 0x11) latched0) (fun t => !(mon t 16).latch && (mon t 17).latch && !t.mons.pcl[0] && t.mons.pcl[1]) = true ∧
    nextIs (exec (.clrw 0x12) latched0) latched0 = true ∧
    nextHas (exec (.latchPeriodClear (Vector.replicate 7 0)) { latched0 with reel := some { reel0 with mons := Vector.replicate 24 ⟨true, 0, 0, false, true, 0, 900, 0⟩ } })
      (fun t => !(mon t 3).latch) = true := by decide +kernel

/-! ### Tether link -/

/-- Port U at a step of Sequence TLK-1, the other port down. -/
def trainAt (k : Nat) : State := { run0 with tether.u := { Link.zero with st := .training, step := k } }

theorem wit_LinkBringUp_1 :
    nextHas (exec (.pllLock .u) (trainAt 1)) (fun t => t.tether.u.step == 2) = true ∧
    nextHas (exec (.pllLockTimeout .u) (trainAt 1)) (fun t => t.tether.u.st == .lockFailed && alertAsserted t) = true ∧
    nextHas (exec (.symbolLock .u true 0x11 0x10) (trainAt 2))
      (fun t => t.tether.u.step == 3 && t.tether.u.pol && t.tether.u.psafe && alertAsserted t) = true ∧
    nextHas (exec (.equaliserSettle .u 13 1) (trainAt 3)) (fun t => t.tether.u.step == 4 && t.tether.u.pereq == 2) = true ∧
    nextHas (exec (.equaliserSettle .u 3 1) (trainAt 4)) (fun t => t.tether.u.settlings == 1 && t.tether.u.pereq == 0) = true := by
  decide +kernel

/-- A HELLO from address 5 with E and FLAGS. -/
def hello (e flags : Byte) : RxFrame := rxOf 3 0 0xFF 5 ([e, flags] ++ List.replicate 22 0)

theorem wit_LinkBringUp_2 :
    nextHas (exec (.partnerPereqApplied .u 2) (trainAt 4)) (fun t => t.tether.u.step == 5 && t.tether.u.pe == 2) = true ∧
    nextHas (exec (.trainingDone .u) (trainAt 5)) (fun t => t.tether.u.step == 6 && t.tether.u.tx.length == 44) = true ∧
    nextHas (exec (.helloTimeout .u) (trainAt 6)) (fun t => t.tether.u.step == 2) = true ∧
    nextHas (exec (.hello .u (hello 9 1)) { trainAt 6 with tether.u := { Link.zero with st := .training, step := 6, e := 7 } })
      (fun t => t.tether.u.step == 7 && t.tether.u.e == 0 && t.tether.u.creditSent) = true ∧
    nextHas (exec (.hello .u (hello 9 0)) { trainAt 6 with tether.u := { Link.zero with st := .training, step := 6, e := 7 } })
      (fun t => t.tether.u.step == 7 && t.tether.u.e == 7 && t.tether.u.next == 9) = true ∧
    nextHas (exec (.credit .u (rxOf 4 0 0xFF 5 [0, 0, 0, 32, 0, 0, 0, 128])) (trainAt 7))
      (fun t => portUp t .u && t.tether.u.ctl.plimit == 32 && t.tether.u.bulk.plimit == 128) = true := by decide +kernel

theorem wit_LinkBringUp_3 : linkControlOk (hello 9 1) 3 = true ∧ linkControlOk (hello 9 1) 4 = false ∧
    nextIs (exec (.hello .u (hello 9 1)) run2) (countCode run2 .u (hello 9 1)) = true ∧
    nextIs (exec (.credit .u (rxOf 4 0 0xFF 5 [0, 0, 0, 32, 0, 0, 0, 128])) (trainAt 3)) (trainAt 3) = true ∧
    nextHas (exec (.hello .u (rxOf 3 0 0xFF 5 [1])) (trainAt 6)) (fun t => t.tether.u.step == 6 && t.tether.u.err == 1) = true := by
  decide +kernel

/-- Port U has two frames outstanding, HSEQ 4 and 5. -/
def out2 : State := { run2 with tether.u := { linkUp with out := [(4, qf 1), (5, qf 2)], next := 6, e := 3 }, queues.alloc := [1, 2, 3] }

/-- An ACK from address 5. -/
def ackOf (e nak : Byte) : RxFrame := rxOf 5 0 0xFF 5 [e, nak, 0, 0]

/-- No domain of these states has a request that waits behind another. -/
theorem quiet_of (s : State) (h : s.bridle.doms = Vector.replicate 20 domOn) : quiet s := by
  intro d
  have hd : ∀ k, vget (Vector.replicate 20 domOn) Dom.zero k = domOn ∨ vget (Vector.replicate 20 domOn) Dom.zero k = Dom.zero := by
    intro k
    unfold vget
    split
    · exact .inl (by simp)
    · exact .inr rfl
  have : dom s d = vget s.bridle.doms Dom.zero d := rfl
  rw [this, h]
  rcases hd d with e | e <;> rw [e] <;> rfl

theorem wit_LinkSendsAndAcknowledges_1 : quiet out2 ∧
    nextHas (exec (.linkDown .u .lossOfSignal) out2) (fun t => !portUp t .u && t.tether.u.out.length == 2 && alertAsserted t) = true ∧
    nextHas (exec (.linkDown .u .goingDown) out2) (fun t => !portUp t .u && !t.prot.alerts.contains (.linkDown .u)) = true :=
  ⟨quiet_of _ rfl, by decide +kernel⟩

theorem wit_LinkSendsAndAcknowledges_2 :
    nextHas (exec (.ack .u (ackOf 5 0)) out2) (fun t => t.tether.u.out == [(5, qf 2)] && t.queues.alloc == [2, 3]) = true ∧
    nextHas (exec (.ack .u (ackOf 6 0)) out2) (fun t => t.tether.u.out.isEmpty && t.queues.alloc == [3]) = true ∧
    nextIs (exec (.ack .u (ackOf 7 0)) out2) out2 = true ∧
    nextHas (exec (.ack .u (ackOf 5 1)) out2) (fun t => t.tether.u.resend == [5] && t.tether.u.goBackDue) = true ∧
    nextHas (exec (.ack .u (ackOf 5 0)) { out2 with tether.u.goBacks := 9 }) (fun t => t.tether.u.goBacks == 0) = true ∧
    nextHas (exec (.ack .u (ackOf 4 1)) { out2 with tether.u.goBacks := 15 }) (fun t => !portUp t .u && alertAsserted t) = true := by
  decide +kernel

theorem wit_LinkSendsAndAcknowledges_3 :
    nextHas (exec (.frameSend .u .clean) { out2 with tether.u.ackDue := true }) (fun t => !t.tether.u.ackDue &&
      t.tether.u.tx == ackFrame out2 3 false) = true ∧
    nextHas (exec (.ackSend .u) { out2 with tether.u.ackDue := true }) (fun t => !t.tether.u.ackDue) = true ∧
    nextHas (exec (.goBackTimeout .u) out2) (fun t => t.tether.u.resend == [4, 5] && t.tether.u.goBacks == 1) = true ∧
    nextHas (exec (.goBackTimeout .u) { out2 with tether.u.goBacks := 15 }) (fun t => !portUp t .u && alertAsserted t) = true := by
  decide +kernel

theorem wit_LinkSendsAndAcknowledges_4 :
    nextHas (exec (.creditSend .u) { out2 with tether.u.bulk := ⟨2, 130, 0, 0, 128, 4, 0⟩ })
      (fun t => t.tether.u.bulk.freedSent == 2 && t.tether.u.ctl.limit == 32) = true ∧
    nextHas (exec (.frameSend .u .clean) { out2 with tether.u.resend := [5] })
      (fun t => t.tether.u.tx == txBytes (qf 2).bytes 5 false && t.tether.u.resend.isEmpty && t.tether.u.out.length == 2) = true ∧
    nextHas (exec (.frameSend .u .clean) { run2 with queues.qs := [(0xFFF1, [qf 9])] })
      (fun t => t.tether.u.out == [(0, qf 9)] && t.tether.u.next == 1 && t.queues.qs.isEmpty) = true ∧
    nextHas (exec (.frameSend .d .clean) { run2 with queues.qs := [(0xFFF4, [qf 9])], tether.loop := true, tether.u.st := .down })
      (fun t => match t.tether.d.out with | [(0, g)] => fWrap g.bytes | _ => false) = true := by decide +kernel

/-- PD09 is in retention by the idle policy, and a frame to be sent lies in cell 1 of it. -/
def unread1 : State :=
  withDom { run2 with queues.qs := [(0xFFF1, [qf 1])] } 9 { Dom.zero with st := .ret, banks := 15, idleTook := true }

theorem wit_LinkSendsAndAcknowledges_5 : canRead unread1 (qf 1) = false ∧ holding unread1 13 = false ∧
    nextIs (exec (.frameSend .u .clean) unread1) (askAccess unread1 (qf 1)) = true ∧
    nextHas (exec (.frameSend .u .clean) unread1) (fun t => outstanding t 9 && t.tether == unread1.tether) = true ∧
    nextHas (exec (.ack .u (rxOf 5 0 0xFF 5 [5])) out2) (fun t => t.tether.u.out.length == 2 && t.tether.u.err == 1) = true := by
  decide +kernel

/-! ### Tether frames -/

/-- Frames from 5 to this device at U: each with E = 0. -/
def rxu (typ : BitVec 4) (pay : List Byte) : RxFrame := rxOf typ 0 0x11 5 pay

/-- The hop accepts the row's frame and answers it. -/
def takesHop (i : Instr) (f : State → Bool) : Bool :=
  nextHas (exec i run2) fun t => t.tether.u.e == 1 && t.tether.u.ackDue && f t

theorem wit_FramesAreAccepted_1 :
    takesHop (.data .u (rxu 1 [1, 2, 3, 4]) none) (fun t => (t.queues.qs.map (·.1)) == [7] && t.tether.d.tx.isEmpty) = true ∧
    takesHop (.notice .u (rxu 2 (List.replicate 12 0))) (fun _ => true) = true ∧
    takesHop (.echoReply .u (rxu 8 [2, 0, 0, 0])) (fun _ => true) = true ∧
    takesHop (.malformedFrame .u (rxu 8 [2, 0, 0])) (fun t => t.queues.qs.isEmpty) = true := by decide +kernel

theorem wit_FramesAreAccepted_2 :
    takesHop (.echoRequest .u (rxOf 8 0 0x11 0 [1, 7, 8, 9])) (fun t => match queueOf t 0xFFF0 with
      | [f] => fTyp f.bytes == 8 && fDst f.bytes == 0 && payload f.bytes == [2, 7, 8, 9]
      | _ => false) = true ∧
    takesHop (.ringProbe .u (rxOf 9 0 0xFF 0 [1, 1, 0, 0, 0, 0, 0, 0])) (fun t => t.tether.loop && !t.tether.hIsD) = true ∧
    nextHas (exec (.ringBreak .u (rxOf 9 0 0 5 [2, 0, 0, 0, 0, 0, 0, 0])) { run2 with tether.loop := true })
      (fun t => t.tether.hIsD && t.tether.u.e == 1) = true := by decide +kernel

theorem wit_FramesAreAccepted_3 :
    nextHas (exec (.data .u (rxu 1 [1, 2, 3, 4]) none) safe0) (fun t => t.tether.d.tx == (rxu 1 [1, 2, 3, 4]).bytes && t.queues.qs.isEmpty) = true ∧
    nextHas (exec (.ack .u (ackOf 5 0)) safe0) (fun t => t.tether.d.tx == (ackOf 5 0).bytes && t.tether.u.out == safe0.tether.u.out) = true ∧
    nextHas (exec (.credit .u (rxOf 4 0 0xFF 5 [0, 0, 0, 32])) safe0) (fun t => t.tether.d.tx == (rxOf 4 0 0xFF 5 [0, 0, 0, 32]).bytes) = true ∧
    nextHas (exec (.frameDiscarded .u ⟨(rxu 1 [1, 2, 3, 4]).bytes.set 17 9, .eof, 0⟩) run2)
      (fun t => t.win.ecrc == 1 && t.tether.u.nak && t.tether.u.ackDue && t.tether.u.e == 0) = true := by decide +kernel

theorem wit_FramesAreAccepted_4 : quiet run2 ∧ inOutage run2 = false ∧ (frameDecision run2 .u).1 = ⟨.dflt, none⟩ ∧
    (frameDecision run2 .u).2.1 = false ∧ forUsAlone run2 (rxu 1 [1]).bytes = true ∧ copyRoom run2 1 (.drop 7) .bulk = true :=
  ⟨quiet_of _ rfl, by decide +kernel⟩

/-- 256 bytes of a Reel with VERSION 6: a header of twelve sections under its CRC. -/
def head : List Byte :=
  let h := toBe 4 0x474B524C ++ [0, 1, 0, 0x40] ++ toBe 4 6 ++ toBe 4 0 ++ toBe 4 0x1080 ++ toBe 4 0x1000 ++ [0, 12, 0] ++
    List.replicate 33 0
  h ++ toBe 4 (crc32 h).toNat ++ List.replicate 192 0

/-- A REEL_PART from the head end: XFER 3, OFFSET 0, DLEN 256, with its MAC under the all-zero key. -/
def part (flags : Byte) (mac : List Byte) : RxFrame :=
  rxOf 6 0 0x11 0 ([0, 3, 0, 0, 0, 0, 1, 0, flags, 0, 0, 0] ++ mac ++ head)

/-- A transfer to slot 1 with one part in flash memory's hands. -/
def xfer0 (last : Bool) (l : List (List Byte)) : Transfer := ⟨3, 1, .u, 4, 0, 0, l, [(0, 4)], 0, last, false⟩

set_option maxRecDepth 50000 in
theorem wit_ReelIsDelivered_1 : nextHas (exec (.reelPart .u (part 0 [153, 143, 153, 32, 49, 82, 132, 112])) run2)
    (fun t => match t.xfer with
    | some x => x.xfer == 3 && x.slot == 1 && x.inFlash == [head] && x.next == 256 && !x.last
    | none => false) = true := by decide +kernel

set_option maxRecDepth 50000 in
theorem wit_ReelIsDelivered_4 : nextHas (exec (.reelPartLast .u (part 3 [41, 15, 11, 201, 128, 62, 3, 15])) run2)
    (fun t => t.xfer.isNone && t.tether.u.e == 1) = true := by decide +kernel

theorem wit_ReelIsDelivered_2 :
    nextHas (exec (.flashPartProgrammed true) { run2 with xfer := some (xfer0 false [[1, 2, 3, 4]]) })
      (fun t => Memory.get t.flash 0x400002 == 3 && (match t.xfer with | some x => x.programmed == 4 && x.inFlash.isEmpty | none => false)) = true ∧
    nextHas (exec (.flashPartProgrammed false) { run2 with xfer := some (xfer0 false [[1, 2, 3, 4]]) }) (fun t => t.xfer.isNone) = true ∧
    nextHas (exec .transferTimeout { run2 with xfer := some (xfer0 false []) }) (fun t => t.xfer.isNone) = true := by decide +kernel

theorem wit_ReelIsDelivered_3 : (xfer0 true []).last = true ∧ (xfer0 true []).inFlash = [] ∧ keepsRunning run2 .main = false := by
  decide +kernel

/-- The part that follows at OFFSET 256, with its MAC under the all-zero key. -/
def part256 : RxFrame :=
  rxOf 6 0 0x11 0 ([0, 3, 0, 0, 1, 0, 1, 0, 0, 0, 0, 0] ++ [218, 53, 199, 239, 0, 125, 157, 120] ++ head)

/-- Transfer 3 with its first part programmed. -/
def mid : Transfer := { xfer0 false [] with next := 256, programmed := 256 }

set_option maxRecDepth 50000 in
theorem wit_ReelIsDelivered_5 : nextHas (exec (.reelPart .u part256) { run2 with xfer := some mid })
    (fun t => match t.xfer with
    | some x => x.inFlash == [head] && x.next == 512 && x.programmed == 256 && x.slot == 1 && !x.last
    | none => false) = true ∧ partMacOk run2 part256.bytes = true ∧ partAligned part256.bytes = true := by decide +kernel

/-- A transfer with 32 parts out. -/
def full32 : Transfer := { xfer0 false [] with next := 256, programmed := 256, parts := (List.range 32).map fun k => (8 * k, 8) }

set_option maxRecDepth 50000 in
theorem wit_ReelIsDelivered_6 : partsOut full32 = 32 ∧
    nextHas (exec (.reelPart .u part256) { run2 with xfer := some full32 }) (fun t => t.xfer == some full32) = true ∧
    nextHas (exec (.reelPart .u (part 0 (List.replicate 8 0))) { run2 with xfer := some mid })
      (fun t => t.xfer.map (·.next) == some 256 && t.flash == run2.flash) = true := by decide +kernel

/-! ### Queues, notices and loss -/

/-- An entry of eight bytes. -/
def ent : List Byte := [0x0A, 8, 0, 0, 0, 0, 0, 0]

theorem wit_QueuesNoticesAndLoss_1 :
    nextHas (exec .noticeClose { run2 with queues.gather := [ent, ent], tether.sseq := 5, tether.nseq := 2 })
      (fun t => t.queues.gather.isEmpty && t.tether.nseq == 3 && t.tether.sseq == 6 && (match queueOf t noticeTag with
        | [f] => fTyp f.bytes == 2 && payload f.bytes == [0, 2, 2, 0] ++ ent ++ ent
        | _ => false)) = true ∧
    nextIs (exec .noticeClose run2) run2 = true := by decide +kernel

theorem wit_QueuesNoticesAndLoss_2 : (entryIfRoom run2 (entryPlain 0x0F (toBe 4 3))).isSome = true ∧
    nextHas (exec .lostEntryReport { run2 with queues.lostEntries := 3 })
      (fun t => t.queues.lostEntries == 0 && t.queues.gather == [entryPlain 0x0F (toBe 4 3)]) = true ∧
    nextHas (exec .watermarkReportEntry { run2 with integ.cursor := [(5, 7, 8)] })
      (fun t => t.integ.cursor.isEmpty && t.queues.gather.length == 1) = true := by decide +kernel

theorem wit_QueuesNoticesAndLoss_3 : entryIfRoom safe0 (entryPlain 0x0F (toBe 4 3)) = none ∧
    nextHas (exec .lostEntryReport { safe0 with queues.lostEntries := 3 }) (fun t => t.queues.lostEntries == 3) = true ∧
    nextHas (exec .watermarkReportEntry { safe0 with integ.cursor := [(5, 7, 8)] }) (fun t => t.integ.cursor.length == 1) = true := by
  decide +kernel

theorem wit_QueuesNoticesAndLoss_6 :
    nextHas (exec .watermarkReportEntry { run2 with queues.kept := [ent], integ.cursor := [(5, 7, 8)] })
      (fun t => t.queues.kept.isEmpty && t.integ.cursor.length == 1 && t.queues.gather == [ent]) = true ∧
    entryIfRoom safe0 ent = none ∧
    nextIs (exec .watermarkReportEntry { safe0 with queues.kept := [ent] }) { safe0 with queues.kept := [ent] } = true ∧
    nextIs (exec .watermarkReportEntry run2) run2 = true := by decide +kernel

/-- A frame in drop queue 7 whose time is over. -/
def aged : State := { run2 with queues.qs := [(7, [qf 1])], queues.alloc := [1], now := 40000000 }

theorem wit_QueuesNoticesAndLoss_4 : quiet aged ∧ inOutage aged = false ∧
    nextHas (exec (.ageingExpiry 7) aged) (fun t => t.queues.qs.isEmpty && !t.queues.alloc.contains 1 && t.queues.gather.length == 1) = true ∧
    nextHas (exec (.ageingExpiry 0xFFF7) { out2 with now := 1000000000, tether.d := { Link.zero with out := [(0, qf 3)] } })
      (fun t => t.tether.d.out.isEmpty && t.tether.u.out.length == 2) = true :=
  ⟨quiet_of _ rfl, by decide +kernel⟩

/-- One entry is gathered while the idle policy has PD08 in retention. -/
def closing8 : State := withDom { run2 with queues.gather := [ent] } 8 { Dom.zero with st := .ret, banks := 15, idleTook := true }

theorem wit_QueuesNoticesAndLoss_5 :
    nextHas (exec .ageingWake { run2 with queues.earliest := some 0 }) (fun t => t.queues.earliest.isNone && t.bridle.doms == run2.bridle.doms) = true ∧
    nextHas (exec (.lossResolution []) { run2 with integ.banks := [(8, 0), (8, 1), (8, 2), (8, 3)], queues.alloc := [4] })
      (fun t => t.integ.banks.isEmpty && t.queues.alloc.isEmpty) = true ∧
    nextHas (exec (.lossResolution []) { run2 with integ.orphans := [qf 1] }) (fun t => t.integ.banks.isEmpty) = true ∧
    canClose { run2 with queues.gather := [ent] } 1 = true ∧ canClose (closing8) 1 = false ∧
    nextIs (exec .noticeClose closing8) ([8, 9, 10, 11, 12].foldl idleReturn closing8) = true ∧
    nextHas (exec .noticeClose closing8) (fun t => t.queues.gather == [ent] && outstanding t 8) = true := by decide +kernel

/-! ### Drop port -/

/-- Ingress: DDIR is high and no unit runs. -/
def ingress : State := { run2 with drop := { DropPort.zero with ingressDir := true }, pins.ddir := true }

theorem wit_DropPortUnits_1 :
    nextHas (exec (.ddirChange true) run2) (fun t => t.pins.ddir && t.drop.ingressDir) = true ∧
    nextHas (exec (.ddirChange false) { ingress with drop.inUnit := true }) (fun t => !t.pins.ddir && t.drop.ingressDir) = true ∧
    nextHas (exec (.dropWordTransfer 0x1234 0 true false .clean) ingress)
      (fun t => t.drop.words == [⟨0x1234, 0, true, false⟩] && t.drop.inUnit && !t.drop.overFour) = true ∧
    nextHas (exec (.dropWordTransfer 0x1234 0 false true .clean) { ingress with drop.inUnit := true })
      (fun t => t.drop.words == [⟨0x1234, 0, false, true⟩] && !t.drop.inUnit) = true := by decide +kernel

/-- Egress: two words of a status unit remain. -/
def egress2 : State := { run2 with drop := { DropPort.zero with egress := some ⟨[⟨1, 0, false, false⟩, ⟨2, 0, false, true⟩], none⟩ } }

theorem wit_DropPortUnits_2 :
    nextHas (exec (.dropWordTransfer 0 0 false false .clean) egress2)
      (fun t => t.drop.dq.dq == 1 && t.drop.egress == some ⟨[⟨2, 0, false, true⟩], none⟩) = true := by decide +kernel

/-- The words of a host frame to 9: DATA, SRC, GROUP and SSEQ zero. -/
def hostUnit : List DropWord := unitWords (pairBytes (mkFrame 1 false 0 9 0 7 0 0 [1, 2, 3, 4]))

theorem wit_DropPortUnits_3 : ingressReason hostUnit false false = 0 ∧
    nextHas (exec (.ingressUnit false) { ingress with drop.words := hostUnit })
      (fun t => t.drop.waiting == [(mkFrame 1 false 0 9 0 7 0 0 [1, 2, 3, 4], 0)] && t.drop.verdicts.isEmpty) = true ∧
    nextHas (exec (.ingressUnit true) { ingress with drop.words := hostUnit })
      (fun t => t.drop.waiting.isEmpty && t.drop.verdicts == [⟨false, 8, 0⟩]) = true ∧
    nextHas (exec (.ingressUnit false) { ingress with drop.words := hostUnit, drop.overFour := true })
      (fun t => t.drop.waiting.isEmpty && t.drop.verdicts.isEmpty) = true := by decide +kernel

/-- The host frame waits for its verdict. -/
def waiting1 : State := { run2 with drop.waiting := [(mkFrame 1 false 0 9 0 7 0 0 [1, 2, 3, 4], 0)], tether.sseq := 5 }

theorem wit_DropPortUnits_4 : quiet waiting1 ∧ streamRuns waiting1 .host = false ∧
    nextHas (exec .verdictReady waiting1) (fun t => t.drop.verdicts == [⟨true, 0, 5⟩] && t.tether.sseq == 6 &&
      (match queueOf t 0xFFF1 ++ queueOf t 0xFFF3 with | [f] => fSrc f.bytes == 0x11 && fSseq f.bytes == 5 | _ => false)) = true :=
  ⟨quiet_of _ rfl, by decide +kernel⟩

/-- T_DROPMODE is high: pull mode. -/
def pulling : State := { ingress with straps.tri := #v[some .low, some .low, some .low, some .low, some .high, some .low, some .low] }

theorem wit_DropPortUnits_5 :
    nextHas (exec (.pullWord 0x0007 (parityOf 7)) pulling) (fun t => t.drop.pull == some 7) = true ∧
    nextHas (exec (.pullWord 0x0007 (~~~(parityOf 7))) pulling) (fun t => t.drop.pull == none && t.drop.pullReason == 1) = true ∧
    nextHas (exec (.pullWord 0xFFF0 (parityOf 0xFFF0)) pulling) (fun t => t.drop.pull == none && t.drop.pullReason == 0x0B) = true ∧
    nextIs (exec (.pullWord 0x0007 (parityOf 7)) ingress) ingress = true := by decide +kernel

theorem wit_DropPortUnits_6 :
    nextHas (exec (.egressFetch .clean) { run2 with drop.verdicts := [⟨true, 0, 5⟩], queues.qs := [(7, [qf 1])] })
      (fun t => t.drop.verdicts.isEmpty && t.drop.dq.dq == 0xF000 && (t.drop.egress.map fun g => g.words.map (·.dq)) == some [5]) = true ∧
    nextIs (exec (.egressFetch .clean) waiting1) waiting1 = true ∧
    nextHas (exec (.egressFetch .clean) run2) (fun t => t.drop.dq.dq == 0xF200) = true ∧
    nextHas (exec (.egressFetch .clean) { run2 with queues.qs := [(7, [qf 1])] })
      (fun t => t.drop.lastTag == 7 && (queueOf t 7).all (·.busy) && t.drop.dq.sof && t.drop.dq.dq == 0x1000) = true ∧
    nextHas (exec .egressComplete { run2 with
        queues.qs := [(7, [{ qf 1 with busy := true }])], queues.alloc := [1], drop.egress := some ⟨[], some 7⟩ })
      (fun t => t.drop.egress.isNone && t.queues.qs.isEmpty && t.queues.alloc.isEmpty) = true := by decide +kernel

/-! ### Status window -/

/-- Every port status word counts errors, MACF is set, and the counters hold 4, 3, 2 and 1. -/
def window0 : State :=
  { run2 with
    front.macf := true
    prot.alerts := [.macFail, .lostMatch, .lineLost, .linkDown .u]
    bridle.w0b := ⟨3, 0, 1, 2, 7, true⟩
    tether.u.err := 4
    win := { Window.zero with ecrc := 4, ecor := 3, eunc := 2, epar := 1, w2d := 0x2003, icnt := 5, gcnt := 1023 } }

theorem wit_StatusReadsActOnce_1 :
    nextHas (exec .readW04 window0) (fun t => !t.front.macf && !t.prot.alerts.contains .macFail && t.win.qd == word04 window0) = true ∧
    nextHas (exec .readW0b window0) (fun t => t.bridle.w0b.cnt == 0 && !t.bridle.w0b.unread && t.bridle.w0b.sel == 3) = true ∧
    nextHas (exec (.readGroupHead .w2e) window0) (fun t => t.win.icnt == 0 && t.win.gcnt == 0 && t.win.head == 0x2E) = true ∧
    nextHas (exec (.readGroupHead .w16) { window0 with prot.recAlarms := [⟨2, false, true, false, true⟩, ⟨3, false, true, false, false⟩] })
      (fun t => t.prot.recAlarms == [⟨3, false, true, true, false⟩]) = true := by decide +kernel

theorem wit_StatusReadsActOnce_2 :
    nextHas (exec (.readErrorCounter 1) window0) (fun t => t.win.qd == 3 && t.win.ecor == 0 && t.win.ecrc == 4) = true ∧
    nextHas (exec (.readPortStatus .u) window0) (fun t => t.tether.u.err == 0 && !t.prot.alerts.contains (.linkDown .u)) = true ∧
    nextHas (exec .readEngineStatus window0) (fun t => !t.prot.alerts.contains .lineLost) = true ∧
    nextHas (exec .readLostMatch window0) (fun t => t.win.qd == 0x2003 && !t.prot.alerts.contains .lostMatch) = true := by decide +kernel

theorem wit_StatusReadsActOnce_3 : nextHas (exec .readW0b { window0 with boot.step := .loader })
    (fun t => t.win.qd == 0 && t.bridle.w0b.cnt == 7 && t.bridle.w0b.unread) = true := by decide +kernel

/-! ### Outages, the backup store and the pace rails -/

theorem wit_OutageSequence_1 :
    nextHas (exec .pfailAssert { run2 with bridle.waiting := [job0], hours := 3 })
      (fun t => t.outage.step == 3 && t.outage.fired == [.pfail] && t.bridle.waiting.isEmpty && t.nvm.hours == 3 && isOn t 16) = true ∧
    nextHas (exec .wm04Low (onMon regul 4)) (fun t => t.outage.step == 3 && t.outage.fired == [.wm04]) = true ∧
    nextHas (exec .vaonLoss run2) (fun t => t.outage.step == 3 && t.outage.fired == [.vaon] && t.gauge.onVbak && !t.sup.vaon) = true ∧
    nextHas (exec .pfailAssert { run2 with outage.step := 6, outage.fired := [.wm04], outage.returned := true })
      (fun t => t.outage.step == 6 && t.outage.fired == [.wm04, .pfail] && !t.outage.returned) = true := by decide +kernel

/-- An outage at a step, started by PFAIL_N, every domain off. -/
def outAt (k : Nat) : State :=
  { run2 with outage := { Outage.zero with step := k, fired := [.pfail] }, bridle := Bridle.zero, tether.u := Link.zero, tether.d := Link.zero,
              pins.pfailN := false, gauge.onVbak := true }

theorem wit_OutageSequence_2 :
    nextHas (exec .outageFlightDone (outAt 3)) (fun t => t.outage.step == 5 || t.outage.step == 6) = true ∧
    nextHas (exec .outageRetentionReached (outAt 6)) (fun t => t.outage.step == 7 && t.gauge.onVbak) = true ∧
    nextHas (exec .outageRetentionReached { outAt 6 with outage.returned := true })
      (fun t => t.outage.undo == some 6 || t.outage.undo == some 5) = true ∧
    nextHas (exec .dwellExpiry { outAt 7 with act.wake := wakes ⟨5, 0, 1, true, false, .no, false, 0⟩, act.outProfile := some (1, 4) })
      (fun t => t.outage.last && t.act.outProfile.isNone && !(wake2 t).pend && !(wake2 t).pin) = true ∧
    nextHas (exec .dwellExpiry { outAt 7 with boot.step := .ready }) (fun t => t.boot.step == .running) = true := by decide +kernel

theorem wit_OutageSequence_3 :
    nextHas (exec .inputReturn { run2 with gauge.onVbak := true }) (fun t => t.outage.step == 0 && !t.gauge.onVbak) = true ∧
    (outAt 3).outage.step = 3 ∧ (outAt 3).outage.undo = none ∧ (outAt 3).outage.kept = [] ∧
    nextHas (exec .inputReturn { outAt 7 with outage.last := true }) (fun t => t.outage.step == 0 && !t.gauge.onVbak) = true ∧
    nextHas (exec .inputReturn (outAt 7)) (fun t => (t.outage.undo == some 6 || t.outage.undo == some 5) && !t.gauge.onVbak) = true ∧
    nextHas (exec .inputReturn (outAt 6)) (fun t => t.outage.returned && t.outage.step == 6) = true := by decide +kernel

theorem wit_OutageSequence_4 :
    nextHas (exec .reversalRailsDone { outAt 7 with outage.undo := some 5, outage.fired := [] }) (fun t => t.outage.step == 0) = true ∧
    nextHas (exec .reversalRailsDone { outAt 7 with outage.undo := some 5 })
      (fun t => t.outage.undo == none && (t.outage.step == 5 || t.outage.step == 6)) = true := by decide +kernel

/-- The island runs from VBAK, whose capacitor holds some charge. -/
def store0 (n : Nat) : State := { run2 with gauge := { Gauge.zero with onVbak := true, vbak := 2900, q := n } }

theorem wit_StoreGaugeAndPace_1 :
    nextHas (exec (.vbakReading 2500 77) run2) (fun t => t.win.tdie == 77 && t.gauge.vbak == 2500 && t.gauge.acted == 0) = true ∧
    nextHas (exec (.vbakReading 2650 77) { store0 9 with gauge.below := 3 }) (fun t => t.gauge.below == 2 && t.gauge.acted == 2) = true ∧
    nextHas (exec .gaugePacket (store0 2)) (fun t => t.gauge.q == 1) = true ∧
    nextHas (exec .gaugePacket (store0 1)) (fun t => t.gauge.q == 0 && t.gauge.rebaseDue && t.gauge.gdrift && alertAsserted t) = true := by
  decide +kernel

/-- The drop port alone is on, rail 1 at level 20: its need is 120,000,000. -/
def pace0 : State := { withDom { run2 with bridle := Bridle.zero, tether.u := Link.zero, tether.d := Link.zero } 16 domOn with
  pace := Vector.replicate 3 ⟨20, false⟩ }

theorem wit_StoreGaugeAndPace_2 : paceNeed pace0 1 0 = 120000000 ∧
    nextHas (exec (.paceLoop #v[0, 137000000, 0] 0) pace0) (fun t => t.pace[1].level == 21 && t.pace[0].level == 20) = true ∧
    nextHas (exec (.paceLoop #v[0, 144000000, 0] 0) pace0) (fun t => t.pace[1].level == 20) = true ∧
    nextHas (exec (.paceLoop #v[0, 145000000, 0] 0) pace0) (fun t => t.pace[1].level == 19) = true ∧
    nextHas (exec (.canaryStall 1) pace0) (fun t => t.pace[1].level == 48 && t.pace[1].stalled) = true := by decide +kernel

/-! ### Worked examples of the spec -/

/-- File 06, the morning word: CRC-8 0xC2, and sequence number 0x5A is fresh after 0x59. -/
theorem test_morning_word : wordCrc 0xFF125A00 0x3C91 = 0xC2 ∧ freshSeq (some 0x59) (bSeq false 0xFF125A00) = true ∧
    bGroup 0xFF125A00 = 1 ∧ bClass 0xFF125A00 = 2 ∧ freshSeq (some 0x5A) 0x5A = false ∧ freshSeq (some 0x5A) 0x9B = false := by
  decide +kernel

/-- File 25: the identity of stall 23. -/
theorem test_identity : identOk 0x000C3539752A1742 = true ∧ varCode 0x000C3539752A1742 = 8 ∧ stepCode 0x000C3539752A1742 = 5 ∧
    crc10 0x000C3539752A1742 = 0x342 := by decide +kernel

/-- File 05: setpoints, profile P0 and the regulator's fields. -/
theorem test_reel_bytes : spMicro (parseSetpoint [0, 2, 0x80, 0] 0) = 1200000 ∧ spMicro (parseSetpoint [0, 2, 0x30, 0] 0) = 1100000 ∧
    (parseProfile 8 [0x88, 0x41, 0x55, 0x50, 0x2A, 8, 0, 0] 0).movr = true ∧
    targetOf (parseProfile 8 [0x88, 0x41, 0x55, 0x50, 0x2A, 8, 0, 0] 0).targets 19 = some .on ∧
    targetOf (parseProfile 8 [0x88, 0x41, 0x55, 0x50, 0x2A, 8, 0, 0] 0).targets 15 = some .ret ∧
    targetOf (parseProfile 8 [0x88, 0x41, 0x55, 0x50, 0x2A, 8, 0, 0] 0).targets 14 = some .off ∧
    spMicro ⟨true, 640⟩ = 2400000 := by decide +kernel

/-- File 14: the entry of WM00. -/
theorem test_monitor_entry : parseMon [0x49, 0, 0, 2, 0x1A, 1, 0, 0] 0 = ⟨true, 0, 1, false, true, 0, 538, 1⟩ := by decide +kernel

/-- File 12: the duty of the feed-forward is 0.25 at 48 V. -/
theorem test_feed_forward : (dutyFf { run0 with reg.main := { ChanSt.zero with coef := ⟨Vector.replicate 7 0, 0x4100⟩ } } .main 1200000 1200000).1
    = 16384 := by decide +kernel

/-- File 16: the context key of the meter record at stall 22, its cells, and an entry of file 17. -/
theorem test_frame_fields :
    frameKey run0 (.frame .d) [0x10, 0x3C, 0, 0x17, 1, 0, 0x20, 0, 4, 0, 2, 0xA7, 0, 0] = 0x40B800080090 ∧
    (mkFrame 1 false 0x3C 0 0x17 0x0100 2 0x02A7 []).take 8 = [0x10, 0x3C, 0, 0x17, 1, 0, 0x20, 0] ∧
    entryFrame 1 ⟨0, 0x17, 5, 0x40, 1⟩ [] = [1, 0, 0, 0x17, 0, 5, 0, 0x40] := by decide +kernel

/-- File 18: parity of the words 0x1000 and 0x0040, and the Accepted unit. -/
theorem test_drop_words : parityOf 0x1000 = 1 ∧ parityOf 0x0040 = 2 ∧ (statusUnit 0 0 0x02A7).map (·.dq) = [0xF000, 0x02A7] := by
  decide +kernel

/-- File 19: W04 at ready, W08 to W0A of P0, W0B and W0C. -/
theorem test_status_words : word04 run0 = 0x023F ∧
    wordDoms { run0 with bridle := { Bridle.zero with doms := vgen 20 fun d =>
      { Dom.zero with st := (targetOf (parseProfile 8 [0x88, 0x41, 0x55, 0x50, 0x2A, 8, 0, 0] 0).targets d).getD .off } } } 0 = 0x502A ∧
    word0b { run0 with bridle.w0b := ⟨16, 0, 0, 0, 1, true⟩ } = 0x8001 ∧
    wordWake { run0 with act.wake := wakes ⟨0x10, 0, 1, false, true, .no, false, 0⟩ } 0 = 0x1002 := by decide +kernel

/-- File 19: W13 with four phases on the spread internal clock. -/
theorem test_regulator_word : wordReg { run0 with reg := { Reg.zero with
      straps := ⟨some 4, some 3, some 10, some 9, some 2, some 1⟩
      active := [0, 1, 2, 3]
      main := { ChanSt.zero with phase := .regulating, pgood := true } } } 0 = 0x4248 := by decide +kernel

/-- File 03: the resistor codes of stall 23, in ohms. -/
theorem test_strap_codes : [1000, 10000, 1470, 6810, 3160, 2150, 31600, 21500, 4640].map rvCode =
    [some 1, some 7, some 2, some 6, some 4, some 3, some 10, some 9, some 5] := by decide +kernel

/-- File 20: at 2.80 V the gauge of a 1.0 F store reads 267. -/
theorem test_gauge : remain { run0 with
    straps.rv := Vector.replicate 12 (some 5)
    gauge := { Gauge.zero with q := qOf { run0 with straps.rv := Vector.replicate 12 (some 5) } 2800 } } = 267 := by decide +kernel

/-- File 17: the eighth frame of 200 bytes crosses FT. -/
theorem test_tally : (tallyAdd { run0 with reel := some { reel0 with tally := [⟨0x40, 8, 8, 2, 0x30⟩] }, queues.tally := [⟨7, 1512⟩] } 0x40 1 216).act.queue
    = [.tally 2 0x30] := by decide +kernel

/-- File 13: phase 3 fails with cause byte 0x6A, byte 3 of its record. -/
theorem test_record_cause : (recordBytes { rec2 with code := 0x0A, phase := 3 } 1).contains 0x6A = true := by
  decide +kernel

/-- The check values that the catalogue of CRCs gives for "123456789", and RFC 4493's first two examples. -/
theorem test_check_values : crc32 [0x31, 0x32, 0x33, 0x34, 0x35, 0x36, 0x37, 0x38, 0x39] = 0xCBF43926 ∧
    crc16 [0x31, 0x32, 0x33, 0x34, 0x35, 0x36, 0x37, 0x38, 0x39] = 0x29B1 ∧
    crc8 [0x31, 0x32, 0x33, 0x34, 0x35, 0x36, 0x37, 0x38, 0x39] = 0xF4 := by decide +kernel

theorem test_cmac : cmac 0x2B7E151628AED2A6ABF7158809CF4F3C [] =
      [0xBB, 0x1D, 0x69, 0x29, 0xE9, 0x59, 0x37, 0x28, 0x7F, 0xA3, 0x7D, 0x12, 0x9B, 0x75, 0x67, 0x46] ∧
    cmac 0x2B7E151628AED2A6ABF7158809CF4F3C (toBe 16 0x6BC1BEE22E409F96E93D7E117393172A) =
      toBe 16 0x070A16B46B4D4144F79BDD9DD04A287C := by decide +kernel

/-- SHA-256 of "abc" (FIPS 180-4). -/
theorem test_sha : sha256 [0x61, 0x62, 0x63] = 0xBA7816BF8F01CFEA414140DE5DAE2223B00361A396177A9CB410FF61F20015AD := by decide +kernel

/-! ### Commands that are not well formed -/

theorem wf_power : Instr.wf (.powerOn ⟨false, false, true, true, true, true, true, true⟩ true 0) = false ∧
    Instr.wf (.powerOn allUp true 0) = true ∧ Instr.wf (.resetAssert 0) = false ∧ Instr.wf (.loadAbandon .vbak) = false := by decide

/-- An update word of OP and COMMIT. -/
def opWord (op commit : Byte) : Vector Byte 80 := vgen 80 fun k => if k = 0 then op else if k = 1 then commit else 0

theorem wf_updates : Instr.wf (.updateLine .u 0 0 (opWord 2 0)) = false ∧ Instr.wf (.updateRule .u 0 0 (opWord 1 0)) = false ∧
    Instr.wf (.updateAssoc .u 0 0 (opWord 3 1)) = false ∧ Instr.wf (.updateFree .u 0 0 (opWord 5 0)) = false ∧
    Instr.wf (.updateStart .u 0 0 (opWord 4 0)) = false ∧ Instr.wf (.updateNone .u 0 0 (opWord 1 0)) = false ∧
    Instr.wf (.updateCommit .u 0 0 (opWord 1 0)) = false ∧ Instr.wf (.updateCommit .u 0 0 (opWord 1 1)) = true := by decide +kernel

/-- A frame of a TYPE with a first payload byte. -/
def short (typ kind : Byte) : RxFrame := ⟨(typ <<< 4) :: List.replicate 15 0 ++ [kind, 0, 0, 0, 0, 0, 0, 0, kind], .eof, 0⟩

theorem wf_frames : Instr.wf (.hello .u (short 4 0)) = false ∧ Instr.wf (.credit .u (short 3 0)) = false ∧
    Instr.wf (.ack .u (short 3 0)) = false ∧ Instr.wf (.data .u (short 2 0) none) = false ∧ Instr.wf (.notice .u (short 1 0)) = false ∧
    Instr.wf (.echoRequest .u (short 8 2)) = false ∧ Instr.wf (.echoReply .u (short 8 1)) = false ∧
    Instr.wf (.ringProbe .u (short 9 2)) = false ∧ Instr.wf (.ringBreak .u (short 9 1)) = false ∧
    Instr.wf (.reelPart .u (short 6 1)) = false ∧ Instr.wf (.reelPartLast .u (short 6 0)) = false ∧
    Instr.wf (.reelPartLast .u (short 6 1)) = true := by decide +kernel

theorem wf_lengths : Instr.wf (.streamStart .portU []) = false ∧ Instr.wf (.streamStart .host [0]) = false ∧
    Instr.wf (.malformedFrame .u ⟨List.replicate 2069 0, .eof, 0⟩) = false ∧
    Instr.wf (.frameDiscarded .u ⟨List.replicate 2069 0, .eof, 0⟩) = false := by decide +kernel

theorem wf_ranges : Instr.wf (.hostInvalidCommand 24 3) = false ∧ Instr.wf (.fastLimitTrip .aux 1 true true snap0) = false ∧
    Instr.wf (.zeroCrossing .aux 2) = false ∧ Instr.wf (.lossResolution [65536]) = false ∧ Instr.wf (.vbakReading 8192 0) = false ∧ Instr.wf (.trkChange 1650001 0) = false := by decide

/-! ### The table's words -/

/-- No row of the table has bits, so no word spells a command, and the queue stays as it is (log entry 1). -/
theorem test_no_table_words : decodeTableWord 16 0x1234 = none ∧ nextIs (.next (State.reset.withFetchWord 16 0x1234)) State.reset = true := by
  decide +kernel

end Sys2Proof.Tests
end

/-! ## Listening front ends (file 06): what the decision on a word does to the watermarks and to the waiting relays -/

namespace Sys2Proof.Proofs

open Sys2Proof Sys2Proof.Machine

/-! ### What the effects of a word leave of the front ends -/

theorem presentSlow_front (s : State) (i : SlowItem) : (presentSlow s i).front = s.front :=
  (presentSlow_only s i).same .front rfl

/-- A device cause that is recorded or not leaves the front ends as they are. -/
theorem recordDevice_if_front (s : State) (mask : BitVec 4) (cause : Byte) (c : Prop) [Decidable c] :
    (if c then recordDevice s mask cause else s).front = s.front := by
  split
  · exact (recordDevice_only s mask cause).same .front rfl
  · rfl

/-- A MAC failure touches the failure times and MACF of the front ends, and neither a watermark nor a waiting relay. -/
theorem macFailure_front (s : State) (fe : FrontEnd) :
    ∃ fails flag, (macFailure s fe).front = { s.front with macFails := fails, macf := flag } := by
  unfold macFailure
  dsimp only
  split
  · split
    · exact ⟨_, true, rfl⟩
    · exact ⟨_, s.front.macf, rfl⟩
  · exact ⟨_, s.front.macf, rfl⟩

@[simp] theorem fePort_feOf (p : Port) : fePort (feOf p) = some p := by cases p <;> rfl

/-! ### The waiting places of the relay (R238 to R241) -/

/-- A word offered to the relay changes a waiting place at most. -/
theorem queueRelay_front (s : State) (out : Port) (body : Word32) (mac : Half) :
    ∃ u d, (queueRelay s out body mac).front = { s.front with relayU := u, relayD := d } := by
  cases out <;>
    · unfold queueRelay
      dsimp only
      split
      · exact ⟨_, _, rfl⟩
      · split <;> exact ⟨_, _, rfl⟩

theorem queueRelay_u_waits {s : State} (body : Word32) (mac : Half) (free : s.front.relayU = none) (strap : tri s 0 = .high)
    (on : isOn s 1 = true) (down : portUp s .u = false) : (queueRelay s .u body mac).front.relayU = some (body, mac) := by
  simp only [queueRelay, tugDom, free, strap, on, down] <;> rfl

theorem queueRelay_d_waits {s : State} (body : Word32) (mac : Half) (free : s.front.relayD = none) (strap : tri s 1 = .high)
    (on : isOn s 2 = true) (down : portUp s .d = false) : (queueRelay s .d body mac).front.relayD = some (body, mac) := by
  simp only [queueRelay, tugDom, free, strap, on, down] <;> rfl

/-! ### A fresh word -/

/-- The state after a fresh word was offered to the relay, before its selection: the first step of `freshWord`. -/
def offerRelay (s : State) (fe : FrontEnd) (body : Word32) (mac : Half) : State :=
  match fePort fe with
  | some p => if bHop body = 0 then s else queueRelay s (otherPort p) body mac
  | none => s

/-- Selection of a fresh word changes nothing of the front ends: only the relay does. -/
theorem freshWord_front (s : State) (fe : FrontEnd) (body : Word32) (mac : Half) :
    (freshWord s fe body mac).front = (offerRelay s fe body mac).front := by
  have selection : freshWord s fe body mac =
      if memberOf (offerRelay s fe body mac) (bGroup body) &&
          classOk (offerRelay s fe body mac) (fePort fe).isSome (bClass body) &&
          addrOk (offerRelay s fe body mac) fe (bAddr body)
        then presentSlow (offerRelay s fe body mac) (.word fe body)
        else offerRelay s fe body mac := rfl
  rw [selection]
  split
  · exact presentSlow_front ..
  · rfl

theorem freshWord_mains_front (s : State) (body : Word32) (mac : Half) : (freshWord s .mains body mac).front = s.front :=
  freshWord_front s .mains body mac

theorem freshWord_tug_front_of_hop_zero (s : State) (p : Port) {body : Word32} (mac : Half) (hop : bHop body = 0) :
    (freshWord s (feOf p) body mac).front = s.front := by
  simp only [freshWord_front, offerRelay, fePort_feOf, if_pos hop]

theorem freshWord_tug_front_of_hop_ne_zero (s : State) (p : Port) {body : Word32} (mac : Half) (hop : bHop body ≠ 0) :
    (freshWord s (feOf p) body mac).front = (queueRelay s (otherPort p) body mac).front := by
  simp only [freshWord_front, offerRelay, fePort_feOf, if_neg hop]

theorem freshWord_tug_marks (s : State) (p : Port) (body : Word32) (mac : Half) :
    (freshWord s (feOf p) body mac).front.wmMains = s.front.wmMains ∧
      (freshWord s (feOf p) body mac).front.wmTug = s.front.wmTug := by
  by_cases hop : bHop body = 0
  · rw [freshWord_tug_front_of_hop_zero s p mac hop]
    exact ⟨rfl, rfl⟩
  · rw [freshWord_tug_front_of_hop_ne_zero s p mac hop]
    obtain ⟨u, d, hfront⟩ := queueRelay_front s (otherPort p) body mac
    rw [hfront]
    exact ⟨rfl, rfl⟩

/-! ### The decision on a word outside safe mode (R230, R231) -/

/-- The set of watermarks that a front end's words are held to. -/
def marksOf (s : State) (fe : FrontEnd) : Vector (Option Byte) 16 :=
  if (fePort fe).isSome then s.front.wmTug else s.front.wmMains

/-- A word passes CRC, MAC under the wake key, and window. -/
def Accepted (s : State) (fe : FrontEnd) (body : Word32) (mac : Half) (crc : Byte) : Prop :=
  wordCrc body mac = crc ∧ wordMac (kwakeOf s) (fePort fe).isSome body = mac ∧
    freshSeq (vget (marksOf s fe) none (bGroup body).toNat) (bSeq (fePort fe).isSome body) = true

/-- The watermark of a word's group moved to the word's sequence number, in the front end's set. -/
def markWord (s : State) (fe : FrontEnd) (body : Word32) : State :=
  let marks := vset (marksOf s fe) (bGroup body).toNat (some (bSeq (fePort fe).isSome body))
  if (fePort fe).isSome then { s with front.wmTug := marks } else { s with front.wmMains := marks }

theorem accepted_tug_iff (s : State) (p : Port) (body : Word32) (mac : Half) (crc : Byte) :
    Accepted s (feOf p) body mac crc ↔ wordCrc body mac = crc ∧ wordMac (kwakeOf s) true body = mac ∧
      freshSeq (vget s.front.wmTug none (bGroup body).toNat) (bSeq true body) = true := by
  simp only [Accepted, marksOf, fePort_feOf, Option.isSome_some, if_true]

theorem markWord_tug (s : State) (p : Port) (body : Word32) :
    markWord s (feOf p) body =
      { s with front.wmTug := vset s.front.wmTug (bGroup body).toNat (some (bSeq true body)) } := by
  simp only [markWord, marksOf, fePort_feOf, Option.isSome_some, if_true]

theorem markWord_mains_relay (s : State) (body : Word32) :
    (markWord s .mains body).front.relayU = s.front.relayU ∧ (markWord s .mains body).front.relayD = s.front.relayD :=
  ⟨rfl, rfl⟩

/-- The order of the tests: CRC, MAC, window, watermark, effects. -/
theorem decideWord_eq (s : State) (fe : FrontEnd) (body : Word32) (mac : Half) (crc : Byte) :
    decideWord s fe body mac crc =
      if wordCrc body mac ≠ crc then s
      else if wordMac (kwakeOf s) (fePort fe).isSome body ≠ mac then macFailure s fe
      else if !freshSeq (vget (marksOf s fe) none (bGroup body).toNat) (bSeq (fePort fe).isSome body) then s
      else freshWord (markWord s fe body) fe body mac := rfl

theorem decideWord_accepted {s : State} {fe : FrontEnd} {body : Word32} {mac : Half} {crc : Byte}
    (h : Accepted s fe body mac crc) : decideWord s fe body mac crc = freshWord (markWord s fe body) fe body mac := by
  obtain ⟨hcrc, hmac, hfresh⟩ := h
  rw [decideWord_eq, if_neg (fun ne => ne hcrc), if_neg (fun ne => ne hmac), hfresh]
  rfl

/-- A word that fails CRC or MAC or is stale moves no watermark and does not wait for a relay (R239). -/
theorem decideWord_rejected {s : State} {fe : FrontEnd} {body : Word32} {mac : Half} {crc : Byte}
    (h : ¬ Accepted s fe body mac crc) :
    ∃ fails flag, (decideWord s fe body mac crc).front = { s.front with macFails := fails, macf := flag } := by
  rw [decideWord_eq]
  split
  · exact ⟨_, _, rfl⟩
  next hcrc =>
    split
    · exact macFailure_front ..
    next hmac =>
      split
      · exact ⟨_, _, rfl⟩
      next hstale =>
        have fresh : freshSeq (vget (marksOf s fe) none (bGroup body).toNat) (bSeq (fePort fe).isSome body) = true := by
          simpa only [Bool.not_eq_true', Bool.not_eq_false] using hstale
        exact absurd ⟨Decidable.not_not.mp hcrc, Decidable.not_not.mp hmac, fresh⟩ h

/-! ### What a word does to the waiting relays -/

/-- An accepted tug word moves its watermark; only HOP of 1 or more may fill the other port's waiting place. -/
theorem decideWord_tug_effects {s : State} {p : Port} {body : Word32} {mac : Half} {crc : Byte}
    (h : Accepted s (feOf p) body mac crc) {t : State} (ht : decideWord s (feOf p) body mac crc = t) :
    t.front.wmMains = s.front.wmMains ∧
      t.front.wmTug = vset s.front.wmTug (bGroup body).toNat (some (bSeq true body)) ∧
      (bHop body = 0 → t.front.relayU = s.front.relayU ∧ t.front.relayD = s.front.relayD) ∧
      (bHop body ≠ 0 → p = .u → s.front.relayD = none → tri s 1 = .high → isOn s 2 = true → portUp s .d = false →
        t.front.relayD = some (body, mac)) ∧
      (bHop body ≠ 0 → p = .d → s.front.relayU = none → tri s 0 = .high → isOn s 1 = true → portUp s .u = false →
        t.front.relayU = some (body, mac)) := by
  rw [decideWord_accepted h, markWord_tug] at ht
  subst ht
  obtain ⟨hmains, htug⟩ := freshWord_tug_marks _ p body mac
  refine ⟨hmains, htug, fun hop => ?_, fun hop out free strap on down => ?_, fun hop out free strap on down => ?_⟩
  · rw [freshWord_tug_front_of_hop_zero _ p mac hop]
    exact ⟨rfl, rfl⟩
  · rw [freshWord_tug_front_of_hop_ne_zero _ p mac hop, out]
    exact queueRelay_d_waits body mac free strap on down
  · rw [freshWord_tug_front_of_hop_ne_zero _ p mac hop, out]
    exact queueRelay_u_waits body mac free strap on down

/-- The waiting places of the relay are the same in two states. -/
def RelayKept (s t : State) : Prop := t.front.relayU = s.front.relayU ∧ t.front.relayD = s.front.relayD

theorem macFailure_relay (s : State) (fe : FrontEnd) : RelayKept s (macFailure s fe) := by
  obtain ⟨fails, flag, hfront⟩ := macFailure_front s fe
  rw [RelayKept, hfront]
  exact ⟨rfl, rfl⟩

/-- A mains word outside safe mode does not wait for a relay. -/
theorem decideWord_mains_relay (s : State) (body : Word32) (mac : Half) (crc : Byte) :
    RelayKept s (decideWord s .mains body mac crc) := by
  by_cases acc : Accepted s .mains body mac crc
  · rw [decideWord_accepted acc, RelayKept, freshWord_mains_front]
    exact markWord_mains_relay s body
  · obtain ⟨fails, flag, hfront⟩ := decideWord_rejected acc
    rw [RelayKept, hfront]
    exact ⟨rfl, rfl⟩

/-- A mains word in safe mode does not wait for a relay. -/
theorem decideSafe_relay (s : State) (body : Word32) (mac : Half) (crc : Byte) :
    RelayKept s (decideSafe s body mac crc) := by
  unfold decideSafe
  dsimp only
  by_cases hcrc : wordCrc body mac ≠ crc
  · rw [if_pos hcrc]
    exact ⟨rfl, rfl⟩
  rw [if_neg hcrc]
  by_cases hmac : wordMac 0 false body ≠ mac
  · rw [if_pos hmac]
    exact macFailure_relay s .mains
  rw [if_neg hmac]
  by_cases hstale : (!freshSeq (vget s.front.wmSafe none (bGroup body).toNat) (bSeq false body)) = true
  · rw [if_pos hstale]
    exact ⟨rfl, rfl⟩
  · rw [if_neg hstale, RelayKept, recordDevice_if_front]
    exact ⟨rfl, rfl⟩

/-! ### The rows TUG_WORD and MAINS_WORD -/

theorem exec_tugWord (p : Port) (body : Word32) (mac : Half) (crc : Byte) (s : State) :
    exec (.tugWord p body mac crc) s = execTugWord p body mac crc s := rfl

theorem exec_tugWord_of_candidate {s : State} {p : Port} (body : Word32) (mac : Half) (crc : Byte)
    (hears : listens s (feOf p) = true) (cand : locked s (feOf p) = true) :
    exec (.tugWord p body mac crc) s = .next (decideWord (setLocked s (feOf p) false) (feOf p) body mac crc) := by
  rw [exec_tugWord, execTugWord, hears, cand]
  rfl

theorem exec_tugWord_lost {s : State} {p : Port} (body : Word32) (mac : Half) (crc : Byte)
    (h : listens s (feOf p) = false ∨ locked s (feOf p) = false) : exec (.tugWord p body mac crc) s = .next s := by
  have unheard : (listens s (feOf p) && locked s (feOf p)) ≠ true := by
    intro both
    obtain ⟨hears, cand⟩ := Bool.and_eq_true_iff.mp both
    exact h.elim (fun deaf => Bool.false_ne_true (deaf.symm.trans hears)) fun none => Bool.false_ne_true (none.symm.trans cand)
  rw [exec_tugWord, execTugWord, if_neg unheard]

/-- MAINS_WORD leaves the waiting places of the relay as they are, in safe mode or out of it (R239). -/
theorem exec_mainsWord_relay (body : Word32) (mac : Half) (crc : Byte) (s : State) :
    ∃ t, exec (.mainsWord body mac crc) s = .next t ∧ RelayKept s t := by
  refine ⟨_, rfl, ?_⟩
  split
  · exact ⟨rfl, rfl⟩
  · split
    · exact decideSafe_relay (setLocked s .mains false) body mac crc
    · exact decideWord_mains_relay (setLocked s .mains false) body mac crc

/-- Settles O22: by cases on whether the word is accepted. Giving up the candidate comes before the decision and changes
nothing that the decision reads, so the lemmas about `decideWord` speak of the first state as well. -/
theorem tugWordIsDecidedAndRelayed : Obligations.TugWordIsDecidedAndRelayed := by
  unfold Obligations.TugWordIsDecidedAndRelayed
  refine ⟨fun p body mac crc s => ⟨fun hears cand => ?_, exec_tugWord_lost body mac crc⟩, exec_mainsWord_relay⟩
  refine ⟨_, exec_tugWord_of_candidate body mac crc hears cand, ?_⟩
  have checks := accepted_tug_iff (setLocked s (feOf p) false) p body mac crc
  by_cases acc : Accepted (setLocked s (feOf p) false) (feOf p) body mac crc
  · obtain ⟨hmains, heffects⟩ := decideWord_tug_effects acc rfl
    exact ⟨hmains, (if_pos (checks.mp acc)).symm ▸ heffects⟩
  · obtain ⟨fails, flag, hfront⟩ := decideWord_rejected acc
    rw [hfront]
    exact ⟨rfl, (if_neg (mt checks.mpr acc)).symm ▸ ⟨rfl, rfl, rfl⟩⟩

end Sys2Proof.Proofs

/-! ## Wake causes (file 09): what a read and a WACK do to the wake-cause words -/

namespace Sys2Proof.Proofs

open Sys2Proof Sys2Proof.Machine

/-! ### One wake-cause word changed -/

theorem modWake_word_same (s : State) (k : Fin 4) (f : WakeWord → WakeWord) :
    vget (modWake s k f).act.wake WakeWord.zero k = f (vget s.act.wake WakeWord.zero k) :=
  (vget_vmod ..).trans (if_pos ⟨rfl, k.isLt⟩)

theorem modWake_word_other (s : State) {j k : Fin 4} (f : WakeWord → WakeWord) (other : j ≠ k) :
    vget (modWake s k f).act.wake WakeWord.zero j = vget s.act.wake WakeWord.zero j :=
  (vget_vmod ..).trans (if_neg fun same => other (Fin.ext same.1.symm))

/-! ### What WACK does to its word (R344, R345) -/

theorem wackWord_unread {w : WakeWord} (unread : w.snap = 0) : wackWord w = w := if_pos unread

theorem wackWord_all_read {w : WakeWord} (read : 0 < w.snap) (all : w.count = w.snap) : wackWord w = WakeWord.zero := by
  rw [wackWord, if_neg (Nat.ne_of_gt read), if_pos (by omega)]

theorem wackWord_later_causes {w : WakeWord} (read : 0 < w.snap) (later : w.snap < w.count) :
    wackWord w = { w with count := w.count - w.snap, snap := 0, pin := false, again := !w.pend && w.held == .no } := by
  rw [wackWord, if_neg (Nat.ne_of_gt read), if_neg (by omega)]

/-! ### The rows READ_WAKE_CAUSE and WACK -/

theorem exec_readWakeCause (k : Fin 4) (s : State) : exec (.readWakeCause k) s = execReadWakeCause k s := rfl

theorem exec_wack (q : BitVec 6) (s : State) : exec (.wack q) s = execWack q s := rfl

/-- After step 11 a read drives the word, which leaves the wake causes as they are, and takes the word's snapshot. -/
theorem exec_readWakeCause_ready (k : Fin 4) {s : State} (live : pinsLive s = true) (ready : isReady s = true) :
    exec (.readWakeCause k) s =
      .next (modWake (driveWord s (BitVec.ofNat 6 (12 + k.val))) k fun w => { w with snap := w.count }) := by
  rw [exec_readWakeCause, execReadWakeCause, live, ready]
  rfl

/-- WACK on an address of W0C to W0F acts on that word: the mark of a cause 0x83 still to come (R359), which it may clear
as well, is no part of the words. -/
theorem exec_wack_words {q : BitVec 6} {k : Fin 4} {s : State} (live : pinsLive s = true) (addr : q.toNat = 12 + k) :
    ∃ t, exec (.wack q) s = .next t ∧ t.act.wake = (modWake s k wackWord).act.wake := by
  have index : q.toNat - 12 = k := by omega
  have acts : (pinsLive s && 12 ≤ q.toNat && q.toNat ≤ 15) = true := by
    have := k.isLt
    simp only [live, Bool.true_and, Bool.and_eq_true, decide_eq_true_eq]
    omega
  refine ⟨_, (exec_wack q s).trans (congrArg Host.Outcome.next (if_pos acts)), ?_⟩
  rw [index]
  dsimp only
  split <;> rfl

/-- Settles O36: a read and a WACK each change one word, the read by taking its snapshot, WACK by `wackWord`. -/
theorem wackRemovesWhatWasRead : Obligations.WackRemovesWhatWasRead := by
  unfold Obligations.WackRemovesWhatWasRead
  refine ⟨fun k s live ready => ?_, fun q k s live addr => ?_⟩
  · have run := exec_readWakeCause_ready k live ready
    exact ⟨_, run, execReadWakeCause_only k s _ run, modWake_word_same ..,
      fun _ other => modWake_word_other _ _ other⟩
  · obtain ⟨t, run, words⟩ := exec_wack_words live addr
    refine ⟨t, run, execWack_only q s t run, fun j other => ?_, fun w isWord => ?_⟩
    · rw [words, modWake_word_other s wackWord other]
    · rw [words, modWake_word_same, ← isWord]
      exact ⟨wackWord_unread, wackWord_all_read, wackWord_later_causes⟩

end Sys2Proof.Proofs

/-! ## Bridle's other movers (file 10): the idle policy, the start of a profile and the retention map -/

namespace Sys2Proof.Proofs

open Sys2Proof Sys2Proof.Machine

/-! ### One domain changed -/

theorem vmod_congr {α : Type} {n : Nat} {v : Vector α n} {z : α} {k : Nat} {f g : α → α}
    (same : f (vget v z k) = g (vget v z k)) : vmod v k f = vmod v k g := by
  unfold vmod
  split
  next inside => rw [vget, dif_pos inside] at same; rw [same]
  · rfl

theorem modDom_congr {s : State} {d : Nat} {f g : Dom → Dom} (same : f (dom s d) = g (dom s d)) :
    modDom s d f = modDom s d g := by
  rw [modDom, modDom, vmod_congr same]

theorem modDom_modDom (s : State) (d : Nat) (f g : Dom → Dom) :
    modDom (modDom s d f) d g = modDom s d fun m => g (f m) := by
  simp only [modDom, vmod]
  split <;> simp

theorem modDom_self {s : State} {d : Nat} {f : Dom → Dom} (same : f (dom s d) = dom s d) : modDom s d f = s := by
  rw [modDom_congr (g := id) same, modDom, vmod]
  split <;> simp

theorem dom_modDom_same (s : State) (d : Fin 20) (f : Dom → Dom) : dom (modDom s d f) d = f (dom s d) :=
  (dom_modDom ..).trans (if_pos ⟨rfl, d.isLt⟩)

/-! ### A request that takes a domain out of on (R39, R370) -/

/-- A domain without a request: nothing in progress and nothing waiting. -/
theorem outstanding_eq_false {s : State} {d : Nat} :
    outstanding s d = false ↔ (dom s d).cur = none ∧ (dom s d).reqs = [] := by
  simp [outstanding]

/-- In an empty order there is no idle request to cancel (R405). -/
theorem enqueue_of_not_outstanding {s : State} {d : Nat} (q : Req) (free : outstanding s d = false) :
    enqueue s d q = modDom s d fun m => { m with reqs := [q] } := by
  obtain ⟨idle, empty⟩ := outstanding_eq_false.mp free
  refine modDom_congr ?_
  dsimp only
  split <;> simp [dropIdle, idle, empty]

theorem advance_leave {s : State} {d : Nat} {q : Req} {rest : List Req} (fuel : Nat) (idle : (dom s d).cur = none)
    (head : (dom s d).reqs = q :: rest) (allowed : refusal (modDom s d fun m => { m with reqs := rest }) d q = none)
    (on : (dom s d).st = .on) (leaves : q.target ≠ .on) :
    advance s d (fuel + 1) = modDom s d fun m => { m with reqs := rest, cur := some (q, .wait) } := by
  rw [advance]
  simp only [idle, head, allowed, on, leaves.symm, if_false, if_true, modDom_modDom]

theorem askRequired_of_wait {s : State} {d : Nat} {q : Req} (waits : (dom s d).cur = some (q, .wait)) :
    askRequired s d = s := by
  rw [askRequired, waits]

/-- A request that Bridle does not refuse, for a domain that is on and has no other, waits for step 1 of
Sequence DOM-1. -/
theorem request_leave {s : State} {d : Fin 20} {q : Req} (free : outstanding s d = false)
    (allowed : refusal s d q = none) (on : isOn s d = true) (leaves : q.target ≠ .on) :
    request s d q = modDom s d fun m => { m with cur := some (q, .wait) } := by
  obtain ⟨idle, empty⟩ := outstanding_eq_false.mp free
  have joined := dom_modDom_same s d fun m => { m with reqs := [q] }
  have emptied : modDom (modDom s d fun m => { m with reqs := [q] }) d (fun m => { m with reqs := [] }) = s := by
    rw [modDom_modDom]
    exact modDom_self (by rw [← empty])
  have taken : takeOrder (enqueue s d q) d = modDom s d fun m => { m with cur := some (q, .wait) } := by
    rw [takeOrder, enqueue_of_not_outstanding q free, congrArg Dom.reqs joined]
    refine (advance_leave 0 ?_ (congrArg Dom.reqs joined) ?_ ?_ leaves).trans ?_
    · rw [joined]; exact idle
    · rw [emptied]; exact allowed
    · rw [joined]; exact beq_iff_eq.mp on
    · rw [modDom_modDom]
      exact modDom_congr (by rw [← empty])
  rw [request, settle, taken]
  exact askRequired_of_wait (congrArg Dom.cur (dom_modDom_same ..))

/-! ### The row IDLE_REQUEST (R403, R404, R407) -/

theorem exec_idleRequest (d : Fin 20) (s : State) : exec (.idleRequest d) s = execIdleRequest d s := rfl

theorem idleTarget_ne_on {s : State} {d : Nat} {x : DS} (target : idleTarget s d = some x) : x ≠ .on := by
  rintro rfl
  unfold idleTarget at target
  split at target
  · cases target
  · dsimp only at target
    split at target
    · cases target
    · split at target <;> cases target

/-- The idle policy asks a domain on which all its conditions hold to leave on. -/
theorem exec_idleRequest_asks {d : Fin 20} {x : DS} {s : State} (runs : isRunning s = true) (calm : inOutage s = false)
    (there : present s d = true) (on : isOn s d = true) (low : 2 < d.val) (notMain : d.val ≠ 17) (notAux : d.val ≠ 18)
    (idle : idleNow s d = true) (target : idleTarget s d = some x)
    (keeps : 8 ≤ d.val → d.val ≤ 12 → wouldLose s d x = false) :
    exec (.idleRequest d) s = .next (request s d ⟨.idle, x, 0, false, false⟩) := by
  have safe : (8 ≤ d.val && d.val ≤ 12 && wouldLose s d x) = false := by
    cases lost : wouldLose s d x with
    | false => exact Bool.and_false _
    | true =>
      have outside : ¬ (8 ≤ d.val ∧ d.val ≤ 12) := fun within =>
        Bool.false_ne_true ((keeps within.1 within.2).symm.trans lost)
      simpa using outside
  simp [exec_idleRequest, execIdleRequest, runs, calm, there, on, Nat.not_le.mpr low, notMain, notAux, idle, target, safe]

/-- The guard that IDLE_REQUEST and PROFILE_START share (R407). -/
theorem idle_guard_of_held {s : State} (held : isRunning s = false ∨ inOutage s = true) :
    (!isRunning s || inOutage s) = true := by
  rcases held with stopped | outage
  · rw [stopped]; rfl
  · rw [outage]; exact Bool.or_true _

theorem exec_idleRequest_held (d : Fin 20) {s : State} (held : isRunning s = false ∨ inOutage s = true) :
    exec (.idleRequest d) s = .next s := by
  simp [exec_idleRequest, execIdleRequest, idle_guard_of_held held]

/-! ### Banks that are lost (R173, R368) -/

theorem recordLosses_only (s : State) (d : Nat) (banks : List Nat) :
    Only [.tether, .queues, .integ] s (banks.foldl (fun t b => recordLoss t d b) s) :=
  Only.foldl (fun t b kept => kept.post (recordLoss_only t d b) rfl) banks (Only.refl _ s)

/-- What is recorded of a loss is outside Bridle, where the banks alone change. -/
theorem loseBanks_bridle (s : State) (d : Nat) (keep : BitVec 16) :
    (loseBanks s d keep).bridle = (modDom s d fun m => { m with banks := m.banks &&& keep }).bridle := by
  have recorded : ∀ l : List Nat,
      (if d = 7 then s else l.foldl (fun t b => recordLoss t d b) s).bridle = s.bridle := by
    intro l
    split
    · rfl
    · exact (recordLosses_only s d l).same .bridle rfl
  simp only [loseBanks, modDom, recorded]

/-! ### The row RMAP_CHANGE (R399, R400) -/

/-- A memory in retention loses the banks that the map in force does not keep. -/
def loseUnkept (s : State) (d : Nat) : State := if domSt s d = .ret then loseBanks s d (keptBanks s d) else s

/-- A domain under a map in force that keeps the banks `keep` of it. -/
def dropUnkept (keep : BitVec 16) (m : Dom) : Dom := if m.st = .ret then { m with banks := m.banks &&& keep } else m

@[simp] theorem dropUnkept_st (keep : BitVec 16) (m : Dom) : (dropUnkept keep m).st = m.st := by
  unfold dropUnkept
  split <;> rfl

theorem dropUnkept_of_ne_ret (keep : BitVec 16) {m : Dom} (awake : m.st ≠ .ret) : dropUnkept keep m = m := if_neg awake

theorem dropUnkept_banks_of_ret (keep : BitVec 16) {m : Dom} (ret : m.st = .ret) :
    (dropUnkept keep m).banks = m.banks &&& keep := by
  rw [dropUnkept, if_pos ret]

theorem dropUnkept_twice (keep : BitVec 16) (m : Dom) : dropUnkept keep (dropUnkept keep m) = dropUnkept keep m := by
  by_cases ret : m.st = .ret
  · simp [dropUnkept, ret, BitVec.and_assoc]
  · rw [dropUnkept_of_ne_ret keep ret, dropUnkept_of_ne_ret keep ret]

theorem loseUnkept_only (s : State) (d : Nat) : Only [.bridle, .tether, .queues, .integ] s (loseUnkept s d) := by
  unfold loseUnkept
  split
  · exact loseBanks_only ..
  · exact Only.refl ..

/-- The banks that a domain keeps follow from the Reel, RMAP1:0, the outage and the gauge. -/
theorem keptBanks_of_only {s t : State} (h : Only [.bridle, .tether, .queues, .integ] s t) (d : Nat) :
    keptBanks t d = keptBanks s d := by
  have reel : t.reel = s.reel := h.same .reel rfl
  have pins : t.pins = s.pins := h.same .pins rfl
  have outage : t.outage = s.outage := h.same .outage rfl
  have gauge : t.gauge = s.gauge := h.same .gauge rfl
  have map : mapInForce t = mapInForce s := by rw [mapInForce, mapInForce, reel, pins]
  unfold keptBanks inOutage
  rw [map, outage, gauge]

theorem dom_of_twenty_le (s : State) {d : Nat} (beyond : 20 ≤ d) : dom s d = Dom.zero := dif_neg (Nat.not_lt.mpr beyond)

theorem dom_loseUnkept (s : State) (d e : Nat) :
    dom (loseUnkept s d) e = if d = e then dropUnkept (keptBanks s e) (dom s e) else dom s e := by
  by_cases other : d = e
  case neg =>
    rw [if_neg other, loseUnkept]
    split
    · rw [dom, loseBanks_bridle]
      exact (dom_modDom ..).trans (if_neg fun both => other both.1)
    · rfl
  subst other
  rw [if_pos rfl, loseUnkept]
  by_cases ret : (dom s d).st = .ret
  case neg => rw [domSt, if_neg ret, dropUnkept_of_ne_ret _ ret]
  have inside : d < 20 := by
    rcases Nat.lt_or_ge d 20 with inside | beyond
    · exact inside
    · rw [dom_of_twenty_le s beyond] at ret
      cases ret
  rw [domSt, if_pos ret, dropUnkept, if_pos ret, dom, loseBanks_bridle]
  exact dom_modDom_same s ⟨d, inside⟩ _

theorem loseUnkept_foldl_only (s : State) (l : List Nat) :
    Only [.bridle, .tether, .queues, .integ] s (l.foldl loseUnkept s) :=
  Only.foldl (fun t d kept => kept.post (loseUnkept_only t d) rfl) l (Only.refl _ s)

/-- The memories do not disturb each other: each loses what the map does not keep of it, whatever the order. -/
theorem dom_foldl_loseUnkept (l : List Nat) (s : State) (e : Nat) :
    dom (l.foldl loseUnkept s) e = if e ∈ l then dropUnkept (keptBanks s e) (dom s e) else dom s e := by
  induction l generalizing s with
  | nil => rfl
  | cons d l ih =>
    rw [List.foldl_cons, ih, keptBanks_of_only (loseUnkept_only s d), dom_loseUnkept]
    by_cases here : d = e
    · simp [here, dropUnkept_twice]
    · simp [here, Ne.symm here]

theorem exec_rmapChange (v : Fin 4) (s : State) :
    exec (.rmapChange v) s = .next ([7, 8, 9, 10, 11, 12].foldl loseUnkept { s with pins.rmap := v }) := rfl

/-- RMAP_CHANGE moves its balls, and every domain is as `dropUnkept` says or as it was. -/
theorem exec_rmapChange_effects (v : Fin 4) (s : State) :
    ∃ t, exec (.rmapChange v) s = .next t ∧ t.pins = { s.pins with rmap := v } ∧
      ∀ d, dom t d = if d ∈ [7, 8, 9, 10, 11, 12] then dropUnkept (keptBanks { s with pins.rmap := v } d) (dom s d)
        else dom s d :=
  ⟨_, exec_rmapChange v s, (loseUnkept_foldl_only { s with pins.rmap := v } _).same .pins rfl, dom_foldl_loseUnkept _ _⟩

/-! ### What a profile's start writes and the moves of domains leave as it is (R385, R418) -/

/-- The balls, the profiles that wait and the latched setpoint fields. -/
def orderView (s : State) : Pins × List Job × Option (Fin 8 × Bool × Fin 8 × Bool) :=
  (s.pins, s.bridle.waiting, s.bridle.latched)

theorem orderView_of_only {ps : List Part} {s t : State} (h : Only ps s t) (noPins : ps.contains .pins = false)
    (noBridle : ps.contains .bridle = false) : orderView t = orderView s := by
  have pins : t.pins = s.pins := h.same .pins noPins
  have bridle : t.bridle = s.bridle := h.same .bridle noBridle
  rw [orderView, orderView, pins, bridle]

theorem orderView_foldl {α : Type} {g : State → α → State} (step : ∀ t x, orderView (g t x) = orderView t) (l : List α)
    (s : State) : orderView (l.foldl g s) = orderView s := by
  induction l generalizing s with
  | nil => rfl
  | cons x l ih => rw [List.foldl_cons, ih, step]

@[simp] theorem orderView_modDom (s : State) (d : Nat) (f : Dom → Dom) : orderView (modDom s d f) = orderView s := rfl

@[simp] theorem orderView_endJobs (s : State) (jobs : List Job) :
    orderView { s with bridle.jobs := jobs } = orderView s := rfl

@[simp] theorem orderView_recordW2E (s : State) (item : BitVec 4) (reason : Byte) (id : Half) :
    orderView (recordW2E s item reason id) = orderView s := rfl

@[simp] theorem orderView_releasePins (s : State) (mask : BitVec 4) : orderView (releasePins s mask) = orderView s :=
  orderView_of_only (releasePins_only s mask) rfl rfl

@[simp] theorem orderView_record83 (s : State) (mask : BitVec 4) : orderView (record83 s mask) = orderView s :=
  orderView_of_only (record83_only s mask) rfl rfl

@[simp] theorem orderView_railAsked (s : State) (d : Nat) (t : DS) : orderView (railAsked s d t) = orderView s :=
  orderView_of_only (railAsked_only s d t) rfl rfl

@[simp] theorem orderView_selectIndex (s : State) (c : Chan) (k : Fin 8) : orderView (selectIndex s c k) = orderView s :=
  orderView_of_only (selectIndex_only s c k) rfl rfl

@[simp] theorem orderView_forgetRules (s : State) (d : Nat) (t : DS) : orderView (forgetRules s d t) = orderView s :=
  orderView_of_only (forgetRules_only s d t) rfl rfl

@[simp] theorem orderView_w0bEntry (s : State) (sel : BitVec 5) (o : Origin) (r : ReqResult) (reason : BitVec 4)
    (alert : Bool) : orderView (w0bEntry s sel o r reason alert) = orderView s := by
  unfold w0bEntry
  dsimp only
  split <;> rfl

/-- The causes 0x83 that a job leaves behind are no part of the order. -/
theorem orderView_record83_after (s : State) (mask late : BitVec 4) :
    orderView (record83 { s with act.after83 := late } mask) = orderView s :=
  orderView_record83 ..

@[simp] theorem orderView_jobComplete (s : State) (j : Job) : orderView (jobComplete s j) = orderView s := by
  simp only [jobComplete, apply_ite orderView, orderView_record83_after, orderView_releasePins, orderView_w0bEntry,
    orderView_recordW2E, ite_self]

@[simp] theorem orderView_jobTarget (s : State) (id : Nat) (r : ReqResult) (reason : BitVec 4) :
    orderView (jobTarget s id r reason) = orderView s := by
  unfold jobTarget
  split
  · rfl
  · simp [apply_ite orderView]

@[simp] theorem orderView_resolve (s : State) (d : Nat) (q : Req) (r : ReqResult) (reason : BitVec 4) :
    orderView (resolve s d q r reason) = orderView s := by
  simp only [resolve, apply_ite orderView, orderView_jobTarget, orderView_modDom, orderView_w0bEntry,
    orderView_recordW2E, ite_self]

@[simp] theorem orderView_loseBanks (s : State) (d : Nat) (keep : BitVec 16) :
    orderView (loseBanks s d keep) = orderView s := by
  have pins : (loseBanks s d keep).pins = s.pins := (loseBanks_only s d keep).same .pins rfl
  rw [orderView, pins, loseBanks_bridle]
  rfl

@[simp] theorem orderView_advance (s : State) (d fuel : Nat) : orderView (advance s d fuel) = orderView s := by
  induction fuel generalizing s with
  | zero => rfl
  | succ fuel ih =>
    rw [advance]
    split
    · rfl
    · rfl
    · dsimp only
      split <;> simp [apply_ite orderView, ih]

@[simp] theorem orderView_takeOrder (s : State) (d : Nat) : orderView (takeOrder s d) = orderView s :=
  orderView_advance ..

@[simp] theorem orderView_enqueue (s : State) (d : Nat) (q : Req) : orderView (enqueue s d q) = orderView s := rfl

@[simp] theorem orderView_askRequired (s : State) (d : Nat) : orderView (askRequired s d) = orderView s := by
  have asked : ∀ (l : List Nat) (t : State), orderView (l.foldl (fun t r =>
      if isOn t r || risesLater t r || leaving t r then t else takeOrder (enqueue t r (devReq .on)) r) t) = orderView t :=
    orderView_foldl fun t r => by simp [apply_ite orderView]
  unfold askRequired
  split
  · exact asked ..
  · exact asked ..
  · rfl

@[simp] theorem orderView_settle (s : State) (d : Nat) : orderView (settle s d) = orderView s := by simp [settle]

@[simp] theorem orderView_request (s : State) (d : Nat) (q : Req) : orderView (request s d q) = orderView s := by
  simp [request]

@[simp] theorem orderView_takeBehind (s : State) (k : Nat) : orderView (takeBehind s k) = orderView s :=
  orderView_foldl (fun t x => by simp) ..

@[simp] theorem orderView_refuseSetpoint (s : State) (j : Job) (c : Chan) :
    orderView (refuseSetpoint s j c).1 = orderView s := by
  unfold refuseSetpoint
  split
  · exact orderView_w0bEntry ..
  · rfl

/-! ### The row PROFILE_START (R385, R418) -/

/-- The start of a profile latches its setpoint fields and takes VSEL2:0 where it selects (R418); what it then selects,
asks for and completes leaves these and the order as they are. -/
theorem orderView_startJob (s : State) (j : Job) (v : Fin 8) :
    orderView (startJob s j v) =
      ({ s.pins with vsel := if j.fields.movr && j.fields.aovr then s.pins.vsel else v }, s.bridle.waiting,
        some (j.fields.mset, j.fields.movr, j.fields.aset, j.fields.aovr)) := by
  unfold startJob
  extract_lets p pinsBefore bridleBefore s1 asked req
  split
  next s2 j2 main =>
  split
  next s3 j3 aux =>
  extract_lets s4 s5 l both regBefore s6 bridleThen s7 rails others s8 s9
  have view3 : orderView s3 = orderView s1 := by
    have step2 := orderView_refuseSetpoint s1 j .main
    have step3 := orderView_refuseSetpoint s2 j2 .aux
    rw [main] at step2
    rw [aux] at step3
    exact step3.trans step2
  have askedView : ∀ t d, orderView (asked t d) = orderView t := by
    intro t d
    dsimp only [asked]
    split
    · exact orderView_railAsked ..
    · rfl
  have view6 : orderView s6 = orderView s1 := by
    calc orderView s6 = orderView s5 := by dsimp only [s6]; split <;> rfl
      _ = orderView s4 := by rw [askedView, askedView]
      _ = orderView s3 := by rw [orderView_selectIndex, orderView_selectIndex]
      _ = orderView s1 := view3
  clear_value s6
  split
  · rw [orderView_takeBehind, orderView_jobComplete]
    exact view6
  · calc orderView (takeBehind (others.foldl (fun t x => settle t x.1) s9) j.id)
      _ = orderView s9 := by
        rw [orderView_takeBehind, orderView_foldl fun t (x : Nat × DS) => orderView_settle t x.1]
      _ = orderView s8 := by
        rw [orderView_foldl fun t (x : Nat × DS) => orderView_enqueue t x.1 (req x.2)]
      _ = orderView s7 := by
        rw [orderView_foldl fun t (x : Nat × DS) => orderView_request t x.1 (req x.2)]
      _ = orderView s6 := rfl
      _ = orderView s1 := view6

theorem exec_profileStart (v : Fin 8) (s : State) : exec (.profileStart v) s = execProfileStart v s := rfl

theorem exec_profileStart_starts (v : Fin 8) {j : Job} {rest : List Job} {s : State} (head : s.bridle.waiting = j :: rest)
    (runs : isRunning s = true) (calm : inOutage s = false) :
    exec (.profileStart v) s = .next (startJob { s with bridle.waiting := rest } j v) := by
  simp [exec_profileStart, execProfileStart, head, runs, calm]

theorem exec_profileStart_held (v : Fin 8) {j : Job} {rest : List Job} {s : State} (head : s.bridle.waiting = j :: rest)
    (held : isRunning s = false ∨ inOutage s = true) : exec (.profileStart v) s = .next s := by
  simp [exec_profileStart, execProfileStart, head, idle_guard_of_held held]

/-! ### The three rows together -/

/-- Settles O43: an idle request waits at step 1 of Sequence DOM-1, a profile's start writes what `orderView` shows, and
a new map does to each memory what `dropUnkept` says. -/
theorem idleProfileAndMap : Obligations.IdleProfileAndMap := by
  unfold Obligations.IdleProfileAndMap
  refine ⟨?_, fun d s => exec_idleRequest_held d, fun v j rest s head => ⟨fun runs calm => ?_, exec_profileStart_held v head⟩,
    fun v s => ?_⟩
  · intro d x s runs calm there on low notMain notAux free idle target keeps allowed
    refine ⟨_, (exec_idleRequest_asks runs calm there on low notMain notAux idle target keeps).trans
      (congrArg Host.Outcome.next (request_leave free allowed on (idleTarget_ne_on target))), ?_, ?_, rfl⟩
    · rw [dom_modDom_same]
    · rw [isOn, domSt, dom_modDom_same]
      exact on
  · have view := orderView_startJob { s with bridle.waiting := rest } j v
    refine ⟨_, exec_profileStart_starts v head runs calm, ?_, ?_, ?_⟩
    · exact congrArg (·.2.1) view
    · exact congrArg (·.2.2) view
    · exact congrArg (·.1) view
  · obtain ⟨t, run, pins, doms⟩ := exec_rmapChange_effects v s
    refine ⟨t, run, pins, fun d => ?_, fun d awake => ?_, fun d low high ret => ?_⟩
    · rw [domSt, doms]
      split
      · exact dropUnkept_st ..
      · rfl
    · rw [doms, dropUnkept_of_ne_ret _ awake, ite_self]
    · have memory : d ∈ [7, 8, 9, 10, 11, 12] := by
        simp only [List.mem_cons, List.not_mem_nil, or_false]
        omega
      rw [doms, if_pos memory, dropUnkept_banks_of_ret _ ret]

end Sys2Proof.Proofs

/-! ## Latches (file 14): what a read of W10 or W11, a CLRW and a period start do to the latches and their snapshots -/

namespace Sys2Proof.Proofs

open Sys2Proof Sys2Proof.Machine

/-! ### Monitors cleared by number -/

theorem vget_vgen {α : Type} {n : Nat} (f : Nat → α) (z : α) (k : Fin n) : vget (vgen n f) z k = f k := by
  rw [vget, dif_pos k.isLt, vgen, Vector.getElem_ofFn]

theorem getElem_vgen {α : Type} {n : Nat} (f : Nat → α) (k : Fin n) : (vgen n f)[k] = f k := Vector.getElem_ofFn ..

theorem vget_eq_getElem {α : Type} {n : Nat} (v : Vector α n) (z : α) (k : Fin n) : vget v z k = v[k] := dif_pos k.isLt

/-- The monitors once those that f chooses are cleared. -/
def clearedMons (s : State) (f : Nat → Bool) : Vector MonSt 24 := (clearLatches s f).mons.mon

/-- A clear changes the monitors alone: no snapshot, and no latch of a phase comparator. -/
theorem clearLatches_mons (s : State) (f : Nat → Bool) :
    (clearLatches s f).mons = { s.mons with mon := clearedMons s f } := rfl

/-- A clear takes the latch of a chosen monitor to its live output (R537), and nothing else of any monitor. -/
theorem mon_of_cleared {s t : State} {f : Nat → Bool} (cleared : t.mons.mon = clearedMons s f) (k : Fin 24) :
    mon t k = if f k then { mon s k with latch := live s k } else mon s k := by
  rw [mon, cleared, clearedMons, clearLatches, vget_vgen]

/-- Whether a switching clock runs follows from Bridle and the regulator. -/
@[simp] theorem clockRuns_clearLatches (s : State) (f : Nat → Bool) : clockRuns (clearLatches s f) = clockRuns s := by
  have reg : (clearLatches s f).reg = s.reg := (clearLatches_only s f).same .reg rfl
  have bridle : (clearLatches s f).bridle = s.bridle := (clearLatches_only s f).same .bridle rfl
  simp only [clockRuns, isOn, domSt, dom, reg, bridle]

/-! ### The row READ_LATCH_WORD (R540, R691) -/

theorem exec_readLatchWord (second : Bool) (s : State) : exec (.readLatchWord second) s = execReadLatchWord second s := rfl

/-- After step 11 a read drives the word and takes it as the word's snapshot (that the read is whole,
the word on QD and the strobes high at its end, is log entry 134). -/
theorem exec_readLatchWord_ready (second : Bool) {s : State} (pins : pinsLive s = true) (ready : isReady s = true) :
    exec (.readLatchWord second) s = .next (if second then
      { s with mons.snap11 := word11 s, win.qd := word11 s, win.qcsN := true, win.qoeN := true }
    else { s with mons.snap10 := word10 s, win.qd := word10 s, win.qcsN := true, win.qoeN := true }) := by
  rw [exec_readLatchWord, execReadLatchWord, pins, ready]
  rfl

/-! ### The row CLRW (R540, R541) -/

/-- CLRW on W10 clears monitor k: its bit stands in the snapshot, and its CLR is 0. -/
def clearedBy10 (s : State) (k : Nat) : Bool := k < 16 && s.mons.snap10.getLsbD k && !clrOf s k

/-- CLRW on W11 clears monitor k: its bit stands in the snapshot, and its CLR is 0. -/
def clearedBy11 (s : State) (k : Nat) : Bool := 16 ≤ k && s.mons.snap11.getLsbD (k - 16) && !clrOf s k

/-- The latches of PCL1 to PCL6 and PCLA once CLRW on W11 has cleared those that the snapshot holds (R540). -/
def pclLeft (s : State) : Vector Bool 7 := vgen 7 fun k => vget s.mons.pcl false k && !s.mons.snap11.getLsbD (8 + k)

theorem pclLeft_getElem (s : State) (k : Fin 7) :
    (pclLeft s)[k] = (s.mons.pcl[k] && !s.mons.snap11.getLsbD (8 + k)) := by
  rw [pclLeft, getElem_vgen, vget_eq_getElem]

theorem exec_clrw (q : BitVec 6) (s : State) : exec (.clrw q) s = execClrw q s := rfl

theorem exec_clrw_w10 {s : State} (pins : pinsLive s = true) :
    exec (.clrw 0x10) s = .next { clearLatches s (clearedBy10 s) with mons.snap10 := 0 } := by
  rw [exec_clrw, execClrw, pins]
  rfl

theorem exec_clrw_w11 {s : State} (pins : pinsLive s = true) :
    exec (.clrw 0x11) s = .next { clearLatches s (clearedBy11 s) with mons.pcl := pclLeft s, mons.snap11 := 0 } := by
  rw [exec_clrw, execClrw, pins]
  rfl

theorem exec_clrw_w10_mons {s : State} (pins : pinsLive s = true) :
    ∃ t, exec (.clrw 0x10) s = .next t ∧ t.mons = { s.mons with mon := clearedMons s (clearedBy10 s), snap10 := 0 } := by
  refine ⟨_, exec_clrw_w10 pins, ?_⟩
  simp only [clearLatches_mons]

theorem exec_clrw_w11_mons {s : State} (pins : pinsLive s = true) :
    ∃ t, exec (.clrw 0x11) s = .next t ∧
      t.mons = { s.mons with mon := clearedMons s (clearedBy11 s), pcl := pclLeft s, snap11 := 0 } := by
  refine ⟨_, exec_clrw_w11 pins, ?_⟩
  simp only [clearLatches_mons]

theorem exec_clrw_other {q : BitVec 6} (s : State) (not10 : q ≠ 0x10) (not11 : q ≠ 0x11) : exec (.clrw q) s = .next s := by
  rw [exec_clrw, execClrw, if_neg not10, if_neg not11, ite_self]

/-! ### The row LATCH_PERIOD_CLEAR (R539) -/

theorem exec_latchPeriodClear (sense : Vector Half 7) (s : State) :
    exec (.latchPeriodClear sense) s = execLatchPeriodClear sense s := rfl

/-- Without a running clock, the tick period clears latches and does nothing else. -/
theorem exec_latchPeriodClear_stopped (sense : Vector Half 7) {s : State} (stopped : clockRuns s = false) :
    exec (.latchPeriodClear sense) s = .next (clearLatches s (clrOf s)) := by
  rw [exec_latchPeriodClear, execLatchPeriodClear, clockRuns_clearLatches, if_neg (Bool.eq_false_iff.mp stopped)]

/-- With or without a running clock, what becomes of the latches is the clear alone: a period that starts leaves them
as they are. -/
theorem exec_latchPeriodClear_mons (sense : Vector Half 7) (s : State) :
    ∃ t, exec (.latchPeriodClear sense) s = .next t ∧ t.mons = { s.mons with mon := clearedMons s (clrOf s) } := by
  refine ⟨_, exec_latchPeriodClear sense s, ?_⟩
  split
  · exact ((periodStart_only (clearLatches s (clrOf s)) sense).same .mons rfl).trans (clearLatches_mons ..)
  · exact clearLatches_mons ..

/-! ### The three rows together -/

/-- Settles O51: CLRW and the period start each clear by `clearLatches` the monitors that they choose, so `mon_of_cleared`
says what becomes of every one; a read changes its snapshot and the balls of the word alone (in the form of log entry 134). -/
theorem latchesAreClearedAsRead : Obligations.LatchesAreClearedAsRead := by
  unfold Obligations.LatchesAreClearedAsRead
  refine ⟨fun s pins ready => ⟨exec_readLatchWord_ready false pins ready, exec_readLatchWord_ready true pins ready⟩,
    fun s pins => ?_, rfl, rfl, fun s pins => ?_, fun q s _ not10 not11 => exec_clrw_other s not10 not11,
    fun sense s => ?_⟩
  · obtain ⟨t, run, mons⟩ := exec_clrw_w10_mons pins
    exact ⟨t, run, by rw [mons], by rw [mons], execClrw_only 0x10 s t run, mon_of_cleared (by rw [mons])⟩
  · obtain ⟨t, run, mons⟩ := exec_clrw_w11_mons pins
    exact ⟨t, run, by rw [mons], execClrw_only 0x11 s t run, mon_of_cleared (by rw [mons]),
      by rw [mons]; exact pclLeft_getElem s⟩
  · obtain ⟨t, run, mons⟩ := exec_latchPeriodClear_mons sense s
    refine ⟨t, run, execLatchPeriodClear_only sense s t run, by rw [mons], by rw [mons], by rw [mons], fun stopped => ?_,
      mon_of_cleared (by rw [mons])⟩
    cases run.symm.trans (exec_latchPeriodClear_stopped sense stopped)
    exact (clearLatches_only s (clrOf s)).same .reg rfl

end Sys2Proof.Proofs

/-! ## Rules over every command (files 00, 04, 06 and 10): the frame matrix, what stops, what turns a domain on, what moves
a watermark, and what a step does to the queue and to the flash -/

namespace Sys2Proof.Proofs

open Sys2Proof Sys2Proof.Machine

/-! ### The frame of every command -/

/-- Settles O8: each row of the matrix is the frame of the one meaning that `exec` calls for the command. -/
theorem frameOfEveryCommand : Obligations.FrameOfEveryCommand := by
  intro i s t run
  cases i with
  | powerOn up tickStarts sensed => exact execPowerOn_only up tickStarts sensed s t run
  | devicePor => exact execDevicePor_only s t run
  | identityResense sensed => exact execIdentityResense_only sensed s t run
  | tickStartFail => exact execTickStartFail_only s t run
  | crystalQualify => exact execCrystalQualify_only s t run
  | crystalTimeout => exact execCrystalTimeout_only s t run
  | crystalLoss => exact execCrystalLoss_only s t run
  | resetAssert lowNs => exact execResetAssert_only lowNs s t run
  | resetRelease => exact execResetRelease_only s t run
  | strapDecode rv tri => exact execStrapDecode_only rv tri s t run
  | loaderStart => exact execLoaderStart_only s t run
  | flashProbe jedec mode => exact execFlashProbe_only jedec mode s t run
  | reelLoad vsel => exact execReelLoad_only vsel s t run
  | loadAbandon which => exact execLoadAbandon_only which s t run
  | supplyFall which snap => exact execSupplyFall_only which snap s t run
  | vioRise qsel qcsN qoeN => exact execVioRise_only qsel qcsN qoeN s t run
  | mainsWord body mac crc => exact execMainsWord_only body mac crc s t run
  | tugWord port body mac crc => exact execTugWord_only port body mac crc s t run
  | tugRelay out => exact execTugRelay_only out s t run
  | streamStart src bytes => exact execStreamStart_only src bytes s t run
  | engineStep eng ev => exact execEngineStep_only eng ev s t run
  | streamEnd eng crcOk => exact execStreamEnd_only eng crcOk s t run
  | engineSelfCheck eng ok => exact execEngineSelfCheck_only eng ok s t run
  | engineFail eng cause => exact execEngineFail_only eng cause s t run
  | fill eng line => exact execFill_only eng line s t run
  | directoryData eng line parityOk => exact execDirectoryData_only eng line parityOk s t run
  | evict eng line => exact execEvict_only eng line s t run
  | snoop eng line => exact execSnoop_only eng line s t run
  | sack eng line => exact execSack_only eng line s t run
  | nheld eng line => exact Host.Outcome.next.inj run ▸ Only.refl _ s
  | scanRead parityOk => exact execScanRead_only parityOk s t run
  | scanRepairDone => exact execScanRepairDone_only s t run
  | updateLine port src dst word => exact execUpdateLine_only port src dst word s t run
  | updateRule port src dst word => exact execUpdateRule_only port src dst word s t run
  | updateAssoc port src dst word => exact execUpdateAssoc_only port src dst word s t run
  | updateFree port src dst word => exact execUpdateFree_only port src dst word s t run
  | updateStart port src dst word => exact execUpdateStart_only port src dst word s t run
  | updateNone port src dst word => exact execUpdateNone_only port src dst word s t run
  | updateCommit port src dst word => exact execUpdateCommit_only port src dst word s t run
  | updateSetTimeout => exact execUpdateSetTimeout_only s t run
  | epochSwitch => exact execEpochSwitch_only s t run
  | resultApply => exact execResultApply_only s t run
  | pendingPinRise => exact execPendingPinRise_only s t run
  | railAttemptFail ch snap => exact execRailAttemptFail_only ch snap s t run
  | railRetry ch => exact execRailRetry_only ch s t run
  | wack qsel => exact execWack_only qsel s t run
  | profileStart vsel => exact execProfileStart_only vsel s t run
  | hostOff dom => exact execHostOff_only dom s t run
  | hostRetention dom => exact execHostRetention_only dom s t run
  | hostOn dom => exact execHostOn_only dom s t run
  | hostQuery dom => exact execHostQuery_only dom s t run
  | hostApply profile => exact execHostApply_only profile s t run
  | hostInvalidCommand psel pcmd => exact execHostInvalidCommand_only psel pcmd s t run
  | ask dom => exact execAsk_only dom s t run
  | drain dom => exact execDrain_only dom s t run
  | grant dom => exact execGrant_only dom s t run
  | refuse dom => exact execRefuse_only dom s t run
  | hold dom => exact execHold_only dom s t run
  | drained dom => exact execDrained_only dom s t run
  | live dom => exact execLive_only dom s t run
  | domainFaulty dom snap => exact execDomainFaulty_only dom snap s t run
  | idleRequest dom => exact execIdleRequest_only dom s t run
  | rmapChange value => exact execRmapChange_only value s t run
  | channelStart ch reading snap => exact execChannelStart_only ch reading snap s t run
  | rampComplete ch => exact execRampComplete_only ch s t run
  | pgoodAssert ch feedback => exact execPgoodAssert_only ch feedback s t run
  | pgoodDeassert ch feedback => exact execPgoodDeassert_only ch feedback s t run
  | vselChange value => exact execVselChange_only value s t run
  | slewComplete ch => exact execSlewComplete_only ch s t run
  | enableLow ch => exact execEnableLow_only ch s t run
  | enableHigh ch => exact execEnableHigh_only ch s t run
  | syncLock spacings => exact execSyncLock_only spacings s t run
  | syncLoss => exact execSyncLoss_only s t run
  | balanceUpdate currents snap => exact execBalanceUpdate_only currents snap s t run
  | shedDecision currents => exact execShedDecision_only currents s t run
  | hourPass => exact execHourPass_only s t run
  | swapShed currents => exact execSwapShed_only currents s t run
  | undershootRestore => exact execUndershootRestore_only s t run
  | fastLimitTrip ch phase inPulse successive snap => exact execFastLimitTrip_only ch phase inPulse successive snap s t run
  | hiccupRestart ch => exact execHiccupRestart_only ch s t run
  | slowLimitTrip ch average snap => exact execSlowLimitTrip_only ch average snap s t run
  | protectionRetry ch => exact execProtectionRetry_only ch s t run
  | undervoltage ch feedback snap => exact execUndervoltage_only ch feedback snap s t run
  | auxOvervoltage snap => exact execAuxOvervoltage_only snap s t run
  | overvoltageRelease ch feedback => exact execOvervoltageRelease_only ch feedback s t run
  | senseLoss snap => exact execSenseLoss_only snap s t run
  | vlocLost vloc dv snap => exact execVlocLost_only vloc dv snap s t run
  | derateInterval ext low high vana snap => exact execDerateInterval_only ext low high vana snap s t run
  | recordCommit => exact execRecordCommit_only s t run
  | monitorAssert mon side reading snap => exact execMonitorAssert_only mon side reading snap s t run
  | monitorDeassert mon side reading => exact execMonitorDeassert_only mon side reading s t run
  | eventHoldoffEnd mon => exact execEventHoldoffEnd_only mon s t run
  | monitorSettled mon reading snap => exact execMonitorSettled_only mon reading snap s t run
  | latchPeriodClear sense => exact execLatchPeriodClear_only sense s t run
  | clrw qsel => exact execClrw_only qsel s t run
  | pllLock port => exact execPllLock_only port s t run
  | pllLockTimeout port => exact execPllLockTimeout_only port s t run
  | symbolLock port inverted addr flags => exact execSymbolLock_only port inverted addr flags s t run
  | equaliserSettle port boost partnerPe => exact execEqualiserSettle_only port boost partnerPe s t run
  | trainingDone port => exact execTrainingDone_only port s t run
  | helloTimeout port => exact execHelloTimeout_only port s t run
  | hello port rx => exact execHello_only port rx s t run
  | credit port rx => exact execCredit_only port rx s t run
  | ack port rx => exact execAck_only port rx s t run
  | goBackTimeout port => exact execGoBackTimeout_only port s t run
  | ackSend port => exact execAckSend_only port s t run
  | creditSend port => exact execCreditSend_only port s t run
  | linkDown port cause => exact execLinkDown_only port cause s t run
  | frameSend port ecc => exact execFrameSend_only port ecc s t run
  | data port rx lost => exact execData_only port rx lost s t run
  | notice port rx => exact execNotice_only port rx s t run
  | echoRequest port rx => exact execEchoRequest_only port rx s t run
  | echoReply port rx => exact execEchoReply_only port rx s t run
  | ringProbe port rx => exact execRingProbe_only port rx s t run
  | ringBreak port rx => exact execRingBreak_only port rx s t run
  | reelPart port rx => exact execReelPart_only port rx s t run
  | reelPartLast port rx => exact execReelPartLast_only port rx s t run
  | malformedFrame port rx => exact execMalformedFrame_only port rx s t run
  | flashPartProgrammed ok => exact execFlashPartProgrammed_only ok s t run
  | transferTimeout => exact execTransferTimeout_only s t run
  | slotVerified => exact execSlotVerified_only s t run
  | noticeClose => exact execNoticeClose_only s t run
  | ageingExpiry tag => exact execAgeingExpiry_only tag s t run
  | ageingWake => exact execAgeingWake_only s t run
  | lostEntryReport => exact execLostEntryReport_only s t run
  | ingressUnit gapOver => exact execIngressUnit_only gapOver s t run
  | verdictReady => exact execVerdictReady_only s t run
  | pullWord word dp => exact execPullWord_only word dp s t run
  | egressFetch ecc => exact execEgressFetch_only ecc s t run
  | egressComplete => exact execEgressComplete_only s t run
  | ddirChange level => exact execDdirChange_only level s t run
  | readW04 => exact execReadW04_only s t run
  | readW0b => exact execReadW0b_only s t run
  | readWakeCause pin => exact execReadWakeCause_only pin s t run
  | readLatchWord second => exact execReadLatchWord_only second s t run
  | readGroupHead head => exact execReadGroupHead_only head s t run
  | readErrorCounter which => exact execReadErrorCounter_only which s t run
  | readPortStatus port => exact execReadPortStatus_only port s t run
  | readEngineStatus => exact execReadEngineStatus_only s t run
  | readLostMatch => exact execReadLostMatch_only s t run
  | pfailAssert => exact execPfailAssert_only s t run
  | wm04Low => exact execWm04Low_only s t run
  | vaonLoss => exact execVaonLoss_only s t run
  | outageFlightDone => exact execOutageFlightDone_only s t run
  | outageRetentionReached => exact execOutageRetentionReached_only s t run
  | dwellExpiry => exact execDwellExpiry_only s t run
  | inputReturn => exact execInputReturn_only s t run
  | reversalRailsDone => exact execReversalRailsDone_only s t run
  | vbakReading millivolts tdie => exact execVbakReading_only millivolts tdie s t run
  | gaugePacket => exact execGaugePacket_only s t run
  | lossResolution unreadable => exact execLossResolution_only unreadable s t run
  | watermarkReportEntry => exact execWatermarkReportEntry_only s t run
  | paceLoop canary memNeed => exact execPaceLoop_only canary memNeed s t run
  | canaryStall rail => exact execCanaryStall_only rail s t run
  | hourCountStore => exact execHourCountStore_only s t run
  | extest boundary => exact execExtest_only boundary s t run
  | samplePreload => exact execSamplePreload_only s t run
  | clamp boundary => exact execClamp_only boundary s t run
  | highz => exact execHighz_only s t run
  | bypass => exact execBypass_only s t run
  | ruleMemoryReloadDone => exact execRuleMemoryReloadDone_only s t run
  | hostStreamAbandon => exact execHostStreamAbandon_only s t run
  | preambleLock fe => exact execPreambleLock_only fe s t run
  | syncByteMismatch fe => exact execSyncByteMismatch_only fe s t run
  | partnerPereqApplied port pereq => exact execPartnerPereqApplied_only port pereq s t run
  | frameDiscarded port rx => exact execFrameDiscarded_only port rx s t run
  | pstbFall => exact execPstbFall_only s t run
  | dropWordTransfer word dp dsof deof ecc => exact execDropWordTransfer_only word dp dsof deof ecc s t run
  | compensatorSample ch feedback vloc vin => exact execCompensatorSample_only ch feedback vloc vin s t run
  | zeroCrossing ch phase => exact execZeroCrossing_only ch phase s t run
  | trkChange microvolts steps => exact execTrkChange_only microvolts steps s t run

/-- A part that the matrix does not list for a command stays. -/
theorem exec_same {i : Instr} {s t : State} (p : Part) (run : exec i s = .next t) (apart : (partsOf i).contains p = false) :
    p.same s t :=
  (frameOfEveryCommand i s t run).same p apart

end Sys2Proof.Proofs

namespace Sys2Proof.Proofs

open Sys2Proof Sys2Proof.Machine

/-! ### What stops (log entry 42) -/

theorem acceptIdentity_cases (s : State) (id : BitVec 64) :
    (∃ t, acceptIdentity s id = .next t) ∨ (acceptIdentity s id = .refused .notBound ∧ bound id = false) := by
  unfold acceptIdentity
  cases bound id with
  | true => exact .inl ⟨_, rfl⟩
  | false => exact .inr ⟨rfl, rfl⟩

theorem exec_powerOn_cases (up : Supplies) (k : Bool) (id : BitVec 64) (s : State) :
    (∃ t, exec (.powerOn up k id) s = .next t) ∨
      (exec (.powerOn up k id) s = .refused .notBound ∧ identOk id = true ∧ bound id = false) := by
  change (∃ t, execPowerOn up k id s = .next t) ∨ (execPowerOn up k id s = .refused .notBound ∧ _)
  unfold execPowerOn
  dsimp only
  split
  · exact .inl ⟨_, rfl⟩
  · split
    case h_3 => exact .inl ⟨_, rfl⟩
    all_goals
      split
      · exact .inl ⟨_, rfl⟩
      · split
        · next ok => exact (acceptIdentity_cases _ id).imp_right fun h => ⟨h.1, ok, h.2⟩
        · exact .inl ⟨_, rfl⟩

theorem exec_identityResense_cases (id : BitVec 64) (s : State) :
    (∃ t, exec (.identityResense id) s = .next t) ∨
      (exec (.identityResense id) s = .refused .notBound ∧ identOk id = true ∧ bound id = false) := by
  change (∃ t, execIdentityResense id s = .next t) ∨ (execIdentityResense id s = .refused .notBound ∧ _)
  unfold execIdentityResense
  split
  · exact .inl ⟨_, rfl⟩
  · split
    · next ok => exact (acceptIdentity_cases s id).imp_right fun h => ⟨h.1, ok, h.2⟩
    · split <;> exact .inl ⟨_, rfl⟩

/-- Settles O9: every meaning but the two that sense an identity is written as a next state. -/
theorem whichCommandsStop : Obligations.WhichCommandsStop := by
  intro i s
  cases i with
  | powerOn up k id =>
    exact (exec_powerOn_cases up k id s).imp_right fun ⟨run, ok, unbound⟩ => ⟨run, id, ok, unbound, .inl ⟨up, k, rfl⟩⟩
  | identityResense id =>
    exact (exec_identityResense_cases id s).imp_right fun ⟨run, ok, unbound⟩ => ⟨run, id, ok, unbound, .inr rfl⟩
  | _ => exact .inl ⟨_, rfl⟩

/-! ### What a reset and a restart run -/

/-- The device as RST_N low finds it: the pin is low, and that has taken effect. -/
def rstLow (s : State) : State := { s with pins.rstN := false, boot.inReset := true }

/-- A low pulse of RST_N that takes effect: before step 5 only RST_N is low, else the device is reset (R151). -/
def resetPulse (s : State) : State :=
  match s.boot.step with
  | .por | .tickWait | .idRetry => rstLow s
  | _ => resetState (rstLow s) 2

theorem exec_resetAssert_short {ns : Nat} (s : State) (short : ns < 1000) : exec (.resetAssert ns) s = .next s :=
  congrArg Host.Outcome.next (if_pos short)

theorem exec_resetAssert_long {ns : Nat} (s : State) (long : 10000 ≤ ns) :
    exec (.resetAssert ns) s = .next (resetPulse s) := by
  change execResetAssert ns s = _
  rw [execResetAssert, if_neg (by omega), if_neg (by omega : ¬ns < 10000)]
  rfl

/-- Between 1 us and 10 us a free value says whether the pulse takes effect (log entry 5). -/
theorem exec_resetAssert_between {ns : Nat} (s : State) (atLeast : 1000 ≤ ns) (below : ns < 10000) :
    exec (.resetAssert ns) s = .next (if !(takeFree s).1.getLsbD 0 then (takeFree s).2 else resetPulse (takeFree s).2) := by
  change execResetAssert ns s = _
  rw [execResetAssert, if_neg (by omega), if_pos below]
  rfl

theorem rstLow_only (s : State) : Only [.boot, .pins] s (rstLow s) := Only.set_boot_pins (Only.refl _ s) _ _ rfl

/-- A pulse of RST_N moves the pin and its flag at most, or resets such a state. -/
theorem resetPulse_cases (s : State) : resetPulse s = rstLow s ∨ resetPulse s = resetState (rstLow s) 2 := by
  unfold resetPulse
  split
  case h_4 => exact .inr rfl
  all_goals exact .inl rfl

/-- RESET_ASSERT ends with a free value, a pin and a flag changed, or resets such a state. -/
theorem exec_resetAssert_cases {ns : Nat} {s t : State} (run : exec (.resetAssert ns) s = .next t) :
    ∃ u, Only [.free, .boot, .pins] s u ∧ (t = u ∨ t = resetState u 2) := by
  have pulse : ∀ u, Only [.free, .boot, .pins] s u → ∃ v, Only [.free, .boot, .pins] s v ∧
      (resetPulse u = v ∨ resetPulse u = resetState v 2) := fun u small =>
    ⟨rstLow u, small.post (rstLow_only u) rfl, resetPulse_cases u⟩
  have freed : Only [.free, .boot, .pins] s (takeFree s).2 := (takeFree_only s).mono rfl
  rcases Nat.lt_or_ge ns 1000 with short | atLeast
  · cases run.symm.trans (exec_resetAssert_short s short)
    exact ⟨s, Only.refl _ s, .inl rfl⟩
  · rcases Nat.lt_or_ge ns 10000 with below | long
    · cases run.symm.trans (exec_resetAssert_between s atLeast below)
      split
      · exact ⟨_, freed, .inl rfl⟩
      · exact pulse _ freed
    · cases run.symm.trans (exec_resetAssert_long s long)
      exact pulse s (Only.refl _ s)

/-- The state from which SLOT_VERIFIED restarts the device: no delivery, and the entry of the activation kept. -/
def restartFrom (s : State) (e : List Byte) : State :=
  { s with xfer := none, queues.kept := s.queues.kept ++ [e] }

/-- SLOT_VERIFIED ends with an entry at most, or restarts the device. -/
theorem exec_slotVerified_cases {s t : State} (run : exec .slotVerified s = .next t) :
    t = s ∨ ∃ e, t = addEntry { s with xfer := none } e ∨ t = enterStep5Boot (resetState (restartFrom s e) 4) := by
  obtain rfl := (Host.Outcome.next.inj run).symm
  split
  · exact .inl rfl
  · split
    · exact .inl rfl
    · refine .inr ?_
      dsimp only
      split
      · split
        · exact ⟨_, .inr rfl⟩
        · exact ⟨_, .inl rfl⟩
      · exact ⟨_, .inl rfl⟩

theorem resetState_noRise (s : State) (rcause : Byte) : NoRise s (resetState s rcause) := ⟨resetState_fall s rcause⟩

/-! ### What turns a domain on (file 10) -/

/-- Every command but three turns no domain on: it leaves Bridle as it is, moves its domains in a way that turns none on, or
resets them. -/
theorem exec_noRise {i : Instr} {s t : State} (run : exec i s = .next t) :
    NoRise s t ∨ i = .loaderStart ∨ (∃ v, i = .reelLoad v) ∨ ∃ d, i = .live d := by
  cases i with
  | strapDecode rv tri => exact .inl (execStrapDecode_noRise rv tri s t run)
  | flashProbe jedec mode => exact .inl (execFlashProbe_noRise jedec mode s t run)
  | loadAbandon which => exact .inl (execLoadAbandon_noRise which s t run)
  | supplyFall which snap => exact .inl (execSupplyFall_noRise which snap s t run)
  | mainsWord body mac crc => exact .inl (execMainsWord_noRise body mac crc s t run)
  | tugWord port body mac crc => exact .inl (execTugWord_noRise port body mac crc s t run)
  | streamStart src bytes => exact .inl (execStreamStart_noRise src bytes s t run)
  | engineStep eng ev => exact .inl (execEngineStep_noRise eng ev s t run)
  | engineFail eng cause => exact .inl (execEngineFail_noRise eng cause s t run)
  | directoryData eng line parityOk => exact .inl (execDirectoryData_noRise eng line parityOk s t run)
  | scanRead parityOk => exact .inl (execScanRead_noRise parityOk s t run)
  | updateLine port src dst word => exact .inl (execUpdateLine_noRise port src dst word s t run)
  | updateRule port src dst word => exact .inl (execUpdateRule_noRise port src dst word s t run)
  | updateAssoc port src dst word => exact .inl (execUpdateAssoc_noRise port src dst word s t run)
  | updateFree port src dst word => exact .inl (execUpdateFree_noRise port src dst word s t run)
  | updateStart port src dst word => exact .inl (execUpdateStart_noRise port src dst word s t run)
  | updateNone port src dst word => exact .inl (execUpdateNone_noRise port src dst word s t run)
  | updateCommit port src dst word => exact .inl (execUpdateCommit_noRise port src dst word s t run)
  | updateSetTimeout => exact .inl (execUpdateSetTimeout_noRise s t run)
  | epochSwitch => exact .inl (execEpochSwitch_noRise s t run)
  | resultApply => exact .inl (execResultApply_noRise s t run)
  | railAttemptFail ch snap => exact .inl (execRailAttemptFail_noRise ch snap s t run)
  | railRetry ch => exact .inl (execRailRetry_noRise ch s t run)
  | profileStart vsel => exact .inl (execProfileStart_noRise vsel s t run)
  | hostOff dom => exact .inl (execHostOff_noRise dom s t run)
  | hostRetention dom => exact .inl (execHostRetention_noRise dom s t run)
  | hostOn dom => exact .inl (execHostOn_noRise dom s t run)
  | hostQuery dom => exact .inl (execHostQuery_noRise dom s t run)
  | hostApply profile => exact .inl (execHostApply_noRise profile s t run)
  | hostInvalidCommand psel pcmd => exact .inl (execHostInvalidCommand_noRise psel pcmd s t run)
  | ask dom => exact .inl (execAsk_noRise dom s t run)
  | drain dom => exact .inl (execDrain_noRise dom s t run)
  | grant dom => exact .inl (execGrant_noRise dom s t run)
  | refuse dom => exact .inl (execRefuse_noRise dom s t run)
  | hold dom => exact .inl (execHold_noRise dom s t run)
  | drained dom => exact .inl (execDrained_noRise dom s t run)
  | domainFaulty dom snap => exact .inl (execDomainFaulty_noRise dom snap s t run)
  | idleRequest dom => exact .inl (execIdleRequest_noRise dom s t run)
  | rmapChange value => exact .inl (execRmapChange_noRise value s t run)
  | channelStart ch reading snap => exact .inl (execChannelStart_noRise ch reading snap s t run)
  | balanceUpdate currents snap => exact .inl (execBalanceUpdate_noRise currents snap s t run)
  | fastLimitTrip ch phase inPulse successive snap => exact .inl (execFastLimitTrip_noRise ch phase inPulse successive snap s t run)
  | slowLimitTrip ch average snap => exact .inl (execSlowLimitTrip_noRise ch average snap s t run)
  | undervoltage ch feedback snap => exact .inl (execUndervoltage_noRise ch feedback snap s t run)
  | auxOvervoltage snap => exact .inl (execAuxOvervoltage_noRise snap s t run)
  | senseLoss snap => exact .inl (execSenseLoss_noRise snap s t run)
  | vlocLost vloc dv snap => exact .inl (execVlocLost_noRise vloc dv snap s t run)
  | derateInterval ext low high vana snap => exact .inl (execDerateInterval_noRise ext low high vana snap s t run)
  | recordCommit => exact .inl (execRecordCommit_noRise s t run)
  | monitorAssert mon side reading snap => exact .inl (execMonitorAssert_noRise mon side reading snap s t run)
  | monitorDeassert mon side reading => exact .inl (execMonitorDeassert_noRise mon side reading s t run)
  | eventHoldoffEnd mon => exact .inl (execEventHoldoffEnd_noRise mon s t run)
  | monitorSettled mon reading snap => exact .inl (execMonitorSettled_noRise mon reading snap s t run)
  | pllLockTimeout port => exact .inl (execPllLockTimeout_noRise port s t run)
  | credit port rx => exact .inl (execCredit_noRise port rx s t run)
  | ack port rx => exact .inl (execAck_noRise port rx s t run)
  | goBackTimeout port => exact .inl (execGoBackTimeout_noRise port s t run)
  | linkDown port cause => exact .inl (execLinkDown_noRise port cause s t run)
  | frameSend port ecc => exact .inl (execFrameSend_noRise port ecc s t run)
  | data port rx lost => exact .inl (execData_noRise port rx lost s t run)
  | notice port rx => exact .inl (execNotice_noRise port rx s t run)
  | echoRequest port rx => exact .inl (execEchoRequest_noRise port rx s t run)
  | echoReply port rx => exact .inl (execEchoReply_noRise port rx s t run)
  | ringProbe port rx => exact .inl (execRingProbe_noRise port rx s t run)
  | ringBreak port rx => exact .inl (execRingBreak_noRise port rx s t run)
  | reelPart port rx => exact .inl (execReelPart_noRise port rx s t run)
  | reelPartLast port rx => exact .inl (execReelPartLast_noRise port rx s t run)
  | malformedFrame port rx => exact .inl (execMalformedFrame_noRise port rx s t run)
  | flashPartProgrammed ok => exact .inl (execFlashPartProgrammed_noRise ok s t run)
  | transferTimeout => exact .inl (execTransferTimeout_noRise s t run)
  | noticeClose => exact .inl (execNoticeClose_noRise s t run)
  | ageingExpiry tag => exact .inl (execAgeingExpiry_noRise tag s t run)
  | ageingWake => exact .inl (execAgeingWake_noRise s t run)
  | lostEntryReport => exact .inl (execLostEntryReport_noRise s t run)
  | verdictReady => exact .inl (execVerdictReady_noRise s t run)
  | egressFetch ecc => exact .inl (execEgressFetch_noRise ecc s t run)
  | readW0b => exact .inl (execReadW0b_noRise s t run)
  | pfailAssert => exact .inl (execPfailAssert_noRise s t run)
  | wm04Low => exact .inl (execWm04Low_noRise s t run)
  | vaonLoss => exact .inl (execVaonLoss_noRise s t run)
  | outageFlightDone => exact .inl (execOutageFlightDone_noRise s t run)
  | outageRetentionReached => exact .inl (execOutageRetentionReached_noRise s t run)
  | inputReturn => exact .inl (execInputReturn_noRise s t run)
  | reversalRailsDone => exact .inl (execReversalRailsDone_noRise s t run)
  | vbakReading millivolts tdie => exact .inl (execVbakReading_noRise millivolts tdie s t run)
  | lossResolution unreadable => exact .inl (execLossResolution_noRise unreadable s t run)
  | watermarkReportEntry => exact .inl (execWatermarkReportEntry_noRise s t run)
  | extest boundary => exact .inl (execExtest_noRise boundary s t run)
  | clamp boundary => exact .inl (execClamp_noRise boundary s t run)
  | highz => exact .inl (execHighz_noRise s t run)
  | ruleMemoryReloadDone => exact .inl (execRuleMemoryReloadDone_noRise s t run)
  | pstbFall => exact .inl (execPstbFall_noRise s t run)
  | dropWordTransfer word dp dsof deof ecc => exact .inl (execDropWordTransfer_noRise word dp dsof deof ecc s t run)
  | devicePor => exact .inl ⟨fun d on => absurd on (Bool.eq_false_iff.mp (execDevicePor_fall s t run d))⟩
  | resetAssert ns =>
    obtain ⟨u, small, rfl | rfl⟩ := exec_resetAssert_cases run
    · exact .inl (NoRise.of_only small rfl)
    · exact .inl ((NoRise.of_only small rfl).after (resetState_noRise u 2))
  | slotVerified =>
    obtain rfl | ⟨e, rfl | rfl⟩ := exec_slotVerified_cases run
    · exact .inl (NoRise.refl _)
    · exact .inl (NoRise.after (t := { s with xfer := none }) (NoRise.of_doms rfl) (addEntry_noRise ..))
    · have restart : NoRise s (resetState (restartFrom s e) 4) :=
        NoRise.after (t := restartFrom s e) (NoRise.of_doms rfl) (resetState_noRise ..)
      exact .inl (NoRise.after_only rfl restart (enterStep5Boot_only _))
  | loaderStart => exact .inr (.inl rfl)
  | reelLoad v => exact .inr (.inr (.inl ⟨v, rfl⟩))
  | live d => exact .inr (.inr (.inr ⟨d, rfl⟩))
  | _ => exact .inl (NoRise.of_only (frameOfEveryCommand _ s t run) rfl)

/-- Settles O1: `exec_noRise` says of each command whether it can turn a domain on. -/
theorem onlyLiveBringsDomainsOn : Obligations.OnlyLiveBringsDomainsOn := fun _ _ _ d run on =>
  (exec_noRise run).imp_left fun still => still.fall d on

end Sys2Proof.Proofs

namespace Sys2Proof.Proofs

open Sys2Proof Sys2Proof.Machine

/-! ### What moves a watermark (R231, R232) -/

/-- Neither set of watermarks of wake words differs in two states. -/
structure MarksKept (s t : State) : Prop where
  mains : t.front.wmMains = s.front.wmMains
  tug : t.front.wmTug = s.front.wmTug

theorem MarksKept.refl (s : State) : MarksKept s s := ⟨rfl, rfl⟩

theorem MarksKept.trans {s t u : State} (h : MarksKept s t) (k : MarksKept t u) : MarksKept s u :=
  ⟨k.mains.trans h.mains, k.tug.trans h.tug⟩

theorem MarksKept.of_only {ps : List Part} {s t : State} (h : Only ps s t) (apart : ps.contains .front = false) :
    MarksKept s t :=
  have front : t.front = s.front := h.same .front apart
  ⟨congrArg Front.wmMains front, congrArg Front.wmTug front⟩

/-- A further change that leaves the front ends. -/
theorem MarksKept.after_only {ps : List Part} {s t u : State} (k : Only ps t u) (apart : ps.contains .front = false)
    (h : MarksKept s t) : MarksKept s u := h.trans (.of_only k apart)

theorem MarksKept.foldl {α : Type} {g : State → α → State} (step : ∀ t x, MarksKept t (g t x)) (l : List α) (s : State) :
    MarksKept s (l.foldl g s) := by
  induction l generalizing s with
  | nil => exact .refl s
  | cons x rest ih => exact (step s x).trans (ih _)

theorem MarksKept.ite {c : Prop} [Decidable c] {s t u : State} (h : MarksKept s t) (k : MarksKept s u) :
    MarksKept s (if c then t else u) := by
  split
  · exact h
  · exact k

theorem macFailure_marks (s : State) (fe : FrontEnd) : MarksKept s (macFailure s fe) := by
  obtain ⟨fails, flag, front⟩ := macFailure_front s fe
  constructor <;> rw [front]

theorem frontLeaves_marks (s : State) (d : Nat) : MarksKept s (frontLeaves s d) := by
  unfold frontLeaves
  split <;> exact ⟨rfl, rfl⟩

/-- A block that leaves on touches of the front ends the candidates and the waiting relays alone. -/
theorem blockLeaves_marks (s : State) (d : Nat) (forced : Bool) : MarksKept s (blockLeaves s d forced) := by
  have earliest := storeEarliest_only s d
  have early : MarksKept s (storeEarliest s d) := .of_only earliest rfl
  unfold blockLeaves
  dsimp only
  split
  case h_1 | h_2 | h_3 => exact early.trans (frontLeaves_marks ..)
  case h_4 | h_5 | h_6 | h_7 => exact early.after_only (engineLeaves_only ..) rfl
  case h_8 => exact early.after_only (Only.set_rules (ruleMemoryLeaves_only _) _ rfl) rfl
  case h_9 =>
    exact (early.after_only (Only.set_rules (ps := [.rules]) (Only.refl _ _) _ rfl) rfl).after_only (Only.set_win (abandonXfer_only ..) _ rfl) rfl
  case h_10 => exact early.after_only (dropLeaves_only _) rfl
  case h_11 | h_12 => exact (early.after_only (channelLeaves_only ..) rfl).after_only (monitorsLeave_only ..) rfl
  case h_13 => exact early.after_only (monitorsLeave_only ..) rfl
  case h_14 => exact early

theorem domLeaves_marks (s : State) (d : Nat) (x : DS) (forced : Bool) : MarksKept s (domLeaves s d x forced) := by
  unfold domLeaves
  extract_lets s1 s2 s3 s4
  have block : MarksKept s s1 := blockLeaves_marks s d forced
  have banks : MarksKept s s2 := block.after_only (loseBanks_only ..) rfl
  have off : MarksKept s s4 := (banks.after_only (modDom_only ..) rfl).after_only (forgetRules_only ..) rfl
  split
  · exact off.after_only (portLeaves_only ..) rfl
  · split
    · exact off.after_only (portLeaves_only ..) rfl
    · exact off

theorem leaveNow_marks (s : State) (d : Nat) (q : Req) : MarksKept s (leaveNow s d q) :=
  (((domLeaves_marks s d q.target false).after_only (finish_only ..) rfl).after_only (pinsAtRailDown_only ..) rfl).after_only (askAgain_only ..) rfl

theorem forceDown_marks (s : State) (d : Nat) (r : ReqResult) (reason : BitVec 4) :
    MarksKept s (forceDown s d r reason) := by
  unfold forceDown
  extract_lets m s0 s1 s2
  have tried : MarksKept s s0 := by
    unfold s0
    split
    · exact .of_only (modTry_only ..) rfl
    · exact .refl s
  have left : MarksKept s s1 := .ite (tried.trans (domLeaves_marks ..))
    (((tried.after_only (loseBanks_only ..) rfl).after_only (modDom_only ..) rfl).after_only (forgetRules_only ..) rfl)
  have answered : MarksKept s s2 := by
    unfold s2
    split
    · exact (left.after_only (endCur_only ..) rfl).after_only (resolve_only ..) rfl
    · exact left
  exact answered.after_only (pinsAtRailDown_only ..) rfl

theorem supplyFalls_marks (s : State) (x : Supply) (snap : Snap) : MarksKept s (supplyFalls s x snap) := by
  unfold supplyFalls
  extract_lets l reg c s1 s2 s3 s4
  have captured : MarksKept s s1 := .ite (.refl s) (.of_only (capture_only ..) rfl)
  have forced : MarksKept s s2 :=
    (captured.trans (.mk (t := { s1 with sup := dropSupply s1.sup x }) rfl rfl)).trans
      (.foldl (fun t d => forceDown_marks t d .failed 0xC) l _)
  have abandoned : MarksKept s s3 := .ite (forced.after_only (abandonLoad_only _) rfl) forced
  have own : MarksKept s s4 := by
    unfold s4
    split
    · exact abandoned.after_only (vioLost_only _) rfl
    · exact (abandoned.after_only (pwmLost_only ..) rfl).after_only (pwmLost_only ..) rfl
    · exact .ite (abandoned.after_only (backToVaon_only _) rfl) abandoned
    · exact abandoned
  exact (own.trans (.foldl (fun t d => .of_only (settle_only t d) rfl) l _)).after_only (outageGoesOn_only _) rfl

theorem enterSafe_marks (s : State) : MarksKept s (enterSafe s) := by
  unfold enterSafe
  extract_lets u late sb sf sq s1
  have safe : MarksKept s s1 := (MarksKept.of_only (checkNvm_only s) rfl).trans ⟨rfl, rfl⟩
  exact (((safe.after_only (addFault_only ..) rfl).after_only (safeRailsOff_only _) rfl).after_only (bringUp_only ..) rfl).after_only (pfailNow_only _) rfl

theorem refuseSet_marks (s : State) (setno : Half) (sub : Nat) : MarksKept s (refuseSet s setno sub) :=
  .of_only (refuseSet_only ..) rfl

theorem updateWord_marks (s : State) (p : Port) (src dst : Byte) (w : List Byte) :
    MarksKept s (updateWord s p src dst w) := by
  unfold updateWord
  extract_lets n s1 sr s2 o
  refine .ite (.refl s) (.ite (.refl s) ?_)
  have ended : MarksKept s s2 := by
    refine MarksKept.trans (t := s1) ?_ ⟨rfl, rfl⟩
    unfold s1
    split
    · exact .ite (.refl s) (refuseSet_marks ..)
    · exact .refl s
  have refused : ∀ sub, MarksKept s (refuseSet s2 n sub) := fun sub => ended.trans (refuseSet_marks ..)
  split
  · exact refused _
  · refine .ite (refused 3) (.ite (refused 6) (.ite (refused 5) ?_))
    split
    split
    · exact refused _
    · exact .ite (ended.trans ⟨rfl, rfl⟩) (ended.trans ⟨rfl, rfl⟩)

theorem plainWord_marks (s : State) (p : Port) (src dst : Byte) (w : Vector Byte 80) (ops : Nat → Bool) :
    MarksKept s (plainWord s p src dst w ops) := .ite (updateWord_marks ..) (.refl s)

/-- RST_N and a restart leave the watermarks (R232). -/
theorem resetState_marks (s : State) (rcause : Byte) : MarksKept s (resetState s rcause) := by
  unfold resetState
  extract_lets m a warm s0 dz dom sb st sn sf se sa sbr sp sm sq s1
  exact .ite (.after_only (backToVaon_only _) rfl ⟨rfl, rfl⟩) ⟨rfl, rfl⟩

theorem decideSafe_marks (s : State) (body : Word32) (mac : Half) (crc : Byte) :
    MarksKept s (decideSafe s body mac crc) := by
  unfold decideSafe
  extract_lets g sf s1
  have marked : MarksKept s s1 := ⟨rfl, rfl⟩
  exact .ite (.refl s) (.ite (macFailure_marks ..) (.ite (.refl s)
    (.ite (marked.after_only (recordDevice_only ..) rfl) marked)))

/-- A mains word leaves the set of tug words. -/
theorem decideWord_mains_tug (s : State) (body : Word32) (mac : Half) (crc : Byte) :
    (decideWord s .mains body mac crc).front.wmTug = s.front.wmTug := by
  by_cases acc : Accepted s .mains body mac crc
  · rw [decideWord_accepted acc, freshWord_mains_front]
    rfl
  · obtain ⟨fails, flag, front⟩ := decideWord_rejected acc
    rw [front]

/-- A tug word leaves the set of mains words. -/
theorem decideWord_tug_mains (s : State) (p : Port) (body : Word32) (mac : Half) (crc : Byte) :
    (decideWord s (feOf p) body mac crc).front.wmMains = s.front.wmMains := by
  by_cases acc : Accepted s (feOf p) body mac crc
  · exact (decideWord_tug_effects acc rfl).1
  · obtain ⟨fails, flag, front⟩ := decideWord_rejected acc
    rw [front]

theorem execMainsWord_tug (body : Word32) (mac : Half) (crc : Byte) {s t : State}
    (run : exec (.mainsWord body mac crc) s = .next t) : t.front.wmTug = s.front.wmTug := by
  obtain rfl := (Host.Outcome.next.inj run).symm
  split
  · rfl
  · split
    · exact (decideSafe_marks ..).tug
    · exact decideWord_mains_tug ..

theorem execTugWord_mains (p : Port) (body : Word32) (mac : Half) (crc : Byte) {s t : State}
    (run : exec (.tugWord p body mac crc) s = .next t) : t.front.wmMains = s.front.wmMains := by
  obtain rfl := (Host.Outcome.next.inj run).symm
  split
  · exact decideWord_tug_mains ..
  · rfl

theorem loadAbandon_marks (x : Supply) {s t : State} (run : exec (.loadAbandon x) s = .next t) : MarksKept s t := by
  obtain rfl := (Host.Outcome.next.inj run).symm
  refine .ite (.refl s) ?_
  split
  · exact (MarksKept.of_only (freeSnap_only s) rfl).trans (supplyFalls_marks ..)
  · exact .ite (.after_only (abandonLoad_only _) rfl ⟨rfl, rfl⟩)
      (.refl s)
  · exact .refl s

theorem domainFaulty_marks (d : Fin 20) (snap : Snap) {s t : State} (run : exec (.domainFaulty d snap) s = .next t) :
    MarksKept s t := by
  obtain rfl := (Host.Outcome.next.inj run).symm
  split
  · exact .refl s
  · exact .refl s
  · exact .refl s
  · extract_lets c note s0 s1 s2 s3
    have slow : MarksKept s s0 := .ite (.of_only (slowLost_only s) rfl) (.refl s)
    have lost : MarksKept s s1 := by
      unfold s1
      split
      · exact .ite (slow.after_only (loseEngine_only ..) rfl) slow
      · exact slow
    have recorded : MarksKept s s2 := lost.after_only (capture_only ..) rfl
    have down : MarksKept s s3 := (recorded.after_only (modDom_only ..) rfl).trans (forceDown_marks ..)
    exact ((down.after_only (failWaiting_only ..) rfl).after_only (askAgain_only ..) rfl).after_only (outageGoesOn_only _) rfl

theorem grant_marks (d : Fin 20) {s t : State} (run : exec (.grant d) s = .next t) : MarksKept s t := by
  obtain rfl := (Host.Outcome.next.inj run).symm
  split
  · exact .ite ((leaveNow_marks ..).after_only (outageGoesOn_only _) rfl) (.refl s)
  · exact .refl s

theorem drained_marks (d : Fin 20) {s t : State} (run : exec (.drained d) s = .next t) : MarksKept s t := by
  obtain rfl := (Host.Outcome.next.inj run).symm
  split
  · exact .ite (.refl s) ((leaveNow_marks ..).after_only (outageGoesOn_only _) rfl)
  · exact .refl s

theorem flashProbe_marks (j : BitVec 24) (f : FlashPart) {s t : State} (run : exec (.flashProbe j f) s = .next t) :
    MarksKept s t := by
  obtain rfl := (Host.Outcome.next.inj run).symm
  extract_lets sb s1
  have counted : MarksKept s s1 := ⟨rfl, rfl⟩
  exact .ite (.refl s) (.ite (.ite ⟨rfl, rfl⟩ (.ite (counted.trans (enterSafe_marks _)) counted))
    (.ite (.ite ⟨rfl, rfl⟩ ⟨rfl, rfl⟩) (.refl s)))

theorem strapDecode_marks (r : Vector (Vector Nat 3) 12) (tr : Vector (Vector PullReading 3) 7) {s t : State}
    (run : exec (.strapDecode r tr) s = .next t) : MarksKept s t := by
  obtain rfl := (Host.Outcome.next.inj run).symm
  extract_lets sb s1 s2
  have decided : MarksKept s s1 := ⟨rfl, rfl⟩
  have alarmed : MarksKept s s2 := ((decided.after_only (refreshStraps_only _) rfl).after_only (strapAlarms_only _) rfl).after_only (raiseKept_only _) rfl
  exact .ite (.refl s) (.ite alarmed (.ite (alarmed.trans (enterSafe_marks _)) alarmed))

/-- A relay out of a port touches the places of the relay alone. -/
theorem tugRelay_marks (p : Port) {s t : State} (run : exec (.tugRelay p) s = .next t) : MarksKept s t := by
  cases p <;>
    · obtain rfl := (Host.Outcome.next.inj run).symm
      split
      · exact .refl s
      · exact .ite ⟨rfl, rfl⟩ ⟨rfl, rfl⟩

theorem readW04_marks {s t : State} (run : exec .readW04 s = .next t) : MarksKept s t := by
  obtain rfl := (Host.Outcome.next.inj run).symm
  extract_lets s1
  have driven : MarksKept s s1 :=
    ((MarksKept.of_only (driveWord_only s 4) rfl).after_only (dropAlert_only ..) rfl).after_only (dropAlert_only ..) rfl
  exact .ite (.refl s) (.ite (driven.trans ⟨rfl, rfl⟩) driven)

/-- A CREDIT that brings a port up drops the candidate of its front end. -/
theorem credit_marks (p : Port) (rx : RxFrame) {s t : State} (run : exec (.credit p rx) s = .next t) : MarksKept s t := by
  have counted : MarksKept s (countCode s p rx) := .of_only (countCode_only ..) rfl
  change execCredit p rx s = .next t at run
  unfold execCredit at run
  extract_lets b half put sf s1 at run
  obtain rfl := Host.Outcome.next.inj run
  have limits : ∀ u, MarksKept u (put u) := fun u => .of_only (modLink_only ..) rfl
  have up : MarksKept s s1 := .after_only (modLink_only ..) rfl
    (.trans (t := { s with front.locked := vset s.front.locked (tugDom p) false }) ⟨rfl, rfl⟩ (limits _))
  have raised : MarksKept s ([0, 1, 2].foldl raiseRail s1) :=
    up.trans (.foldl (fun t k => .of_only (raiseRail_only t k) rfl) _ _)
  exact .ite (counted.after_only (repeatFrame_only ..) rfl) (.ite (counted.after_only (badLinkControl_only ..) rfl)
    (.ite (counted.trans (limits _)) (.ite (raised.after_only (flushDeferred_only _) rfl) (.refl s))))

theorem railAttemptFail_marks (c : Chan) (snap : Snap) {s t : State} (run : exec (.railAttemptFail c snap) s = .next t) :
    MarksKept s t := by
  obtain rfl := (Host.Outcome.next.inj run).symm
  exact .ite ((domLeaves_marks ..).after_only (attemptFails_only ..) rfl) (.refl s)

theorem resetAssert_marks (ns : Nat) {s t : State} (run : exec (.resetAssert ns) s = .next t) : MarksKept s t := by
  obtain ⟨u, small, rfl | rfl⟩ := exec_resetAssert_cases run
  · exact .of_only small rfl
  · exact (MarksKept.of_only small rfl).trans (resetState_marks ..)

theorem slotVerified_marks {s t : State} (run : exec .slotVerified s = .next t) : MarksKept s t := by
  obtain rfl | ⟨e, rfl | rfl⟩ := exec_slotVerified_cases run
  · exact .refl _
  · exact .after_only (addEntry_only ..) rfl ⟨rfl, rfl⟩
  · have reset : MarksKept s (resetState (restartFrom s e) 4) :=
      MarksKept.trans (t := restartFrom s e) ⟨rfl, rfl⟩ (resetState_marks ..)
    exact reset.after_only (enterStep5Boot_only _) rfl

/-- Every command but four kinds leaves both sets of watermarks. -/
theorem exec_marks {i : Instr} {s t : State} (run : exec i s = .next t) :
    MarksKept s t ∨ (∃ v, i = .reelLoad v) ∨ i = .devicePor ∨ (∃ b m c, i = .mainsWord b m c) ∨
      ∃ p b m c, i = .tugWord p b m c := by
  cases i with
  | reelLoad v => exact .inr (.inl ⟨v, rfl⟩)
  | devicePor => exact .inr (.inr (.inl rfl))
  | mainsWord b m c => exact .inr (.inr (.inr (.inl ⟨b, m, c, rfl⟩)))
  | tugWord p b m c => exact .inr (.inr (.inr (.inr ⟨p, b, m, c, rfl⟩)))
  | resetAssert ns => exact .inl (resetAssert_marks ns run)
  | strapDecode r tr => exact .inl (strapDecode_marks r tr run)
  | flashProbe j f => exact .inl (flashProbe_marks j f run)
  | loadAbandon x => exact .inl (loadAbandon_marks x run)
  | supplyFall x snap =>
    exact .inl (Host.Outcome.next.inj run ▸ .ite (.refl s) (supplyFalls_marks s x snap))
  | tugRelay p => exact .inl (tugRelay_marks p run)
  | updateLine p src dst w => exact .inl (Host.Outcome.next.inj run ▸ plainWord_marks s p src dst w _)
  | updateRule p src dst w => exact .inl (Host.Outcome.next.inj run ▸ plainWord_marks s p src dst w _)
  | updateAssoc p src dst w => exact .inl (Host.Outcome.next.inj run ▸ plainWord_marks s p src dst w _)
  | updateFree p src dst w => exact .inl (Host.Outcome.next.inj run ▸ plainWord_marks s p src dst w _)
  | updateStart p src dst w => exact .inl (Host.Outcome.next.inj run ▸ plainWord_marks s p src dst w _)
  | updateNone p src dst w => exact .inl (Host.Outcome.next.inj run ▸ plainWord_marks s p src dst w _)
  | updateCommit p src dst w =>
    exact .inl (Host.Outcome.next.inj run ▸ .ite (updateWord_marks s p src dst w.toList) (.refl s))
  | railAttemptFail c snap => exact .inl (railAttemptFail_marks c snap run)
  | grant d => exact .inl (grant_marks d run)
  | drained d => exact .inl (drained_marks d run)
  | domainFaulty d snap => exact .inl (domainFaulty_marks d snap run)
  | credit p rx => exact .inl (credit_marks p rx run)
  | slotVerified => exact .inl (slotVerified_marks run)
  | readW04 => exact .inl (readW04_marks run)
  | preambleLock fe => exact .inl (Host.Outcome.next.inj run ▸ .ite (.mk rfl rfl) (.refl s))
  | syncByteMismatch fe => exact .inl (Host.Outcome.next.inj run ▸ .mk rfl rfl)
  | _ => exact .inl (.of_only (frameOfEveryCommand _ s t run) rfl)

/-- Settles O2: `exec_marks`, and of the words, that each front end moves the set of its own words only. -/
theorem onlyWordsMoveWatermarks : Obligations.OnlyWordsMoveWatermarks := by
  intro i s t run
  obtain kept | load | por | ⟨b, m, c, rfl⟩ | ⟨p, b, m, c, rfl⟩ := exec_marks run
  · exact .inl ⟨kept.mains, kept.tug⟩
  · exact .inr (.inl load)
  · exact .inr (.inr (.inl por))
  · exact .inr (.inr (.inr (.inl ⟨b, m, c, rfl, execMainsWord_tug b m c run⟩)))
  · exact .inr (.inr (.inr (.inr ⟨p, b, m, c, rfl, execTugWord_mains p b m c run⟩)))

/-! ### The flash (file 05) -/

/-- The flash of the second state is canonical if that of the first is. -/
structure KeepsFlash (s t : State) : Prop where
  wf : Memory.wf s.flash = true → Memory.wf t.flash = true

theorem KeepsFlash.refl (s : State) : KeepsFlash s s := ⟨id⟩

theorem KeepsFlash.trans {s t u : State} (h : KeepsFlash s t) (k : KeepsFlash t u) : KeepsFlash s u := ⟨k.wf ∘ h.wf⟩

theorem KeepsFlash.of_eq {s t : State} (same : t.flash = s.flash) : KeepsFlash s t := ⟨fun wf => same ▸ wf⟩

theorem KeepsFlash.of_only {ps : List Part} {s t : State} (h : Only ps s t) (apart : ps.contains .flash = false) :
    KeepsFlash s t := .of_eq (h.same .flash apart)

/-- A further change that leaves the flash. -/
theorem KeepsFlash.after_only {ps : List Part} {s t u : State} (k : Only ps t u) (apart : ps.contains .flash = false)
    (h : KeepsFlash s t) : KeepsFlash s u := h.trans (.of_only k apart)

theorem KeepsFlash.ite {c : Prop} [Decidable c] {s t u : State} (h : KeepsFlash s t) (k : KeepsFlash s u) :
    KeepsFlash s (if c then t else u) := by
  split
  · exact h
  · exact k

theorem KeepsFlash.foldl {α : Type} {g : State → α → State} (step : ∀ t x, KeepsFlash t (g t x)) (l : List α)
    {s t : State} (h : KeepsFlash s t) : KeepsFlash s (l.foldl g t) := by
  induction l generalizing t with
  | nil => exact h
  | cons x rest ih => exact ih (h.trans (step t x))

theorem spoilSlot_wf {f : List Host.Cell} {base off : Nat} {d : List Byte} (wf : Memory.wf f = true) :
    Memory.wf (spoilSlot f base off d) = true := Memory.erase_wf (programPart_wf wf)

theorem finishPage_flash (s : State) : KeepsFlash s (finishPage s) := by
  unfold finishPage
  split
  · exact .refl s
  · split
    · exact .refl s
    · exact ⟨fun wf => programPart_wf wf⟩

theorem beginOutage_flash (s : State) (x : Starter) : KeepsFlash s (beginOutage s x) := by
  unfold beginOutage
  extract_lets sn sg s1 s2 sb s3 s4 s5
  have begun : KeepsFlash s s1 := .of_eq rfl
  have asked : KeepsFlash s s2 := .foldl (fun t d => .of_only (cancelRequests_only t d) rfl) _ begun
  clear_value s2
  have emptied : KeepsFlash s { s2 with bridle.waiting := [] } := asked.trans (.of_eq rfl)
  have jobs : KeepsFlash s s3 :=
    (KeepsFlash.foldl (fun t j => .of_only (cancelJob_only t j) rfl) _ emptied).after_only (cancelBehind_only _) rfl
  have tries : KeepsFlash s s4 := (jobs.after_only (endTries_only ..) rfl).after_only (endTries_only ..) rfl
  have page : KeepsFlash s s5 := (tries.trans (finishPage_flash _)).after_only (abandonXfer_only ..) rfl
  split
  · exact .after_only (deferEntry_only ..) rfl (page.trans (.of_eq rfl))
  · exact page

theorem fireStarter_flash (s : State) (x : Starter) : KeepsFlash s (fireStarter s x) :=
  .ite (.refl s) (.ite (beginOutage_flash ..) (.of_eq rfl))

theorem enterSafe_flash (s : State) : KeepsFlash s (enterSafe s) := by
  unfold enterSafe
  extract_lets u late sb sf sq s1
  have safe : KeepsFlash s s1 := (KeepsFlash.of_only (checkNvm_only s) rfl).trans (.of_eq rfl)
  exact (((safe.after_only (addFault_only ..) rfl).after_only (safeRailsOff_only _) rfl).after_only (bringUp_only ..) rfl).trans (.ite (.refl _) (fireStarter_flash ..))

theorem sealSlot_flash (s : State) (slot : Fin 2) (h : Header) (key : List Byte × KeyForm) :
    KeepsFlash s (sealSlot s slot h key) := by
  unfold sealSlot
  split
  · exact .refl s
  · extract_lets base f s1
    split
    · exact .refl s
    · exact ⟨fun wf => Memory.erase_wf wf⟩
    · have written : Memory.wf s.flash = true → Memory.wf f = true := fun wf => Memory.program_wf (Memory.erase_wf wf)
      clear_value f
      exact .ite ⟨fun wf => Memory.erase_wf (written wf)⟩ ⟨written⟩

theorem adoptReel_flash (s : State) (n : NvmCopy) (slot : Fin 2) (h : Header) (key : List Byte × KeyForm) :
    KeepsFlash s (adoptReel s n slot h key) := by
  unfold adoptReel
  extract_lets r hash s1 s2 sb sq sr s3 s4 s5
  have stored : KeepsFlash s s2 := (sealSlot_flash ..).after_only (writeNvm_only ..) rfl
  have labelled : KeepsFlash s s3 := .after_only (adoptLabel_only ..) rfl (stored.trans (.of_eq rfl))
  have memory : KeepsFlash s s4 := labelled.after_only (modDom_only ..) rfl
  have flagged : KeepsFlash s s5 := .ite (memory.after_only (addAlert_only ..) rfl) memory
  exact (flagged.after_only (readopt_only ..) rfl).after_only (readopt_only ..) rfl

theorem bootProfile_flash (s : State) (k vsel : Fin 8) : KeepsFlash s (bootProfile s k vsel) := by
  unfold bootProfile
  extract_lets sb s1 sr
  refine .ite (fireStarter_flash ..) ?_
  have passed : KeepsFlash s s1 := .after_only (passProfile_only ..) rfl (.of_eq rfl)
  split
  · exact passed
  · exact .after_only (startJob_only ..) rfl (passed.trans (.of_eq rfl))

theorem execReelLoad_flash (v : Fin 8) {s t : State} (run : exec (.reelLoad v) s = .next t) : KeepsFlash s t := by
  have checked : KeepsFlash s (checkNvm s) := .of_only (checkNvm_only s) rfl
  obtain rfl := (Host.Outcome.next.inj run).symm
  refine .ite (.refl s) ?_
  split
  · exact enterSafe_flash s
  · extract_lets s0
    split
    · exact checked.trans (enterSafe_flash _)
    · split
      · exact checked.trans (enterSafe_flash _)
      · extract_lets s1 s2
        have adopted : KeepsFlash s s1 := (checked.trans (adoptReel_flash ..)).after_only (reportReset_only _) rfl
        have profiled : KeepsFlash s s2 := adopted.trans (bootProfile_flash ..)
        exact .after_only (slewToReel_only ..) rfl (.after_only (slewToReel_only ..) rfl (profiled.trans (.of_eq rfl)))

theorem execFlashProbe_flash (j : BitVec 24) (f : FlashPart) {s t : State} (run : exec (.flashProbe j f) s = .next t) :
    KeepsFlash s t := by
  obtain rfl := (Host.Outcome.next.inj run).symm
  extract_lets sb s1
  have counted : KeepsFlash s s1 := .of_eq rfl
  exact .ite (.refl s) (.ite (.ite (.of_eq rfl) (.ite (counted.trans (enterSafe_flash _)) counted))
    (.ite (.ite (.of_eq rfl) (.of_eq rfl)) (.refl s)))

theorem execStrapDecode_flash (r : Vector (Vector Nat 3) 12) (tr : Vector (Vector PullReading 3) 7) {s t : State}
    (run : exec (.strapDecode r tr) s = .next t) : KeepsFlash s t := by
  obtain rfl := (Host.Outcome.next.inj run).symm
  extract_lets sb s1 s2
  have decided : KeepsFlash s s1 := .of_eq rfl
  have alarmed : KeepsFlash s s2 := ((decided.after_only (refreshStraps_only _) rfl).after_only (strapAlarms_only _) rfl).after_only (raiseKept_only _) rfl
  exact .ite (.refl s) (.ite alarmed (.ite (alarmed.trans (enterSafe_flash _)) alarmed))

theorem execFlashPartProgrammed_flash (ok : Bool) {s t : State} (run : exec (.flashPartProgrammed ok) s = .next t) :
    KeepsFlash s t := by
  obtain rfl := (Host.Outcome.next.inj run).symm
  split
  · exact .refl s
  · split
    · exact .refl s
    · extract_lets p due t1 s1
      have written : KeepsFlash s s1 := ⟨fun wf => programPart_wf wf⟩
      exact .ite (.after_only (abandonXfer_only ..) rfl ⟨fun wf => spoilSlot_wf wf⟩)
        (.ite (written.after_only (addEntry_only ..) rfl) written)

/-- Every command keeps the canonical form: it leaves the flash, or erases and programs it. -/
theorem exec_flash {i : Instr} {s t : State} (run : exec i s = .next t) : KeepsFlash s t := by
  cases i with
  | strapDecode r tr => exact execStrapDecode_flash r tr run
  | flashProbe j f => exact execFlashProbe_flash j f run
  | reelLoad v => exact execReelLoad_flash v run
  | flashPartProgrammed ok => exact execFlashPartProgrammed_flash ok run
  | pfailAssert =>
    exact Host.Outcome.next.inj run ▸ .trans (t := { s with pins.pfailN := false }) (.of_eq rfl) (fireStarter_flash _ .pfail)
  | wm04Low => exact Host.Outcome.next.inj run ▸ .ite (fireStarter_flash s .wm04) (.refl s)
  | vaonLoss =>
    exact Host.Outcome.next.inj run ▸ .ite
      (.trans (t := { s with sup.vaon := false, gauge.onVbak := true }) (.of_eq rfl) (fireStarter_flash _ .vaon)) (.refl s)
  | _ => exact .of_only (frameOfEveryCommand _ s t run) rfl

theorem tickOnce_flash (s : State) : (tickOnce s).flash = s.flash := (tickOnce_only s).same .flash rfl

/-- Settles O7: a tick leaves the flash, and so does or writes by erases and programs every command (`exec_flash`). -/
theorem stepKeepsFlashCanonical : Obligations.StepKeepsFlashCanonical := by
  intro s t run
  unfold step at run
  split at run
  · obtain rfl := Host.Outcome.next.inj run
    exact (KeepsFlash.of_eq (tickOnce_flash s)).wf
  · exact (exec_flash run).wf

end Sys2Proof.Proofs

namespace Sys2Proof.Proofs

open Sys2Proof Sys2Proof.Machine

/-! ### The words of the WAKE pins, changed by mask (file 09) -/

/-- A change by mask changes the words that the mask names. -/
theorem eachPin_word (s : State) (mask : BitVec 4) (f : WakeWord → WakeWord) {k : Nat} (four : k < 4) :
    vget (eachPin s mask f).act.wake WakeWord.zero k =
      if mask.getLsbD k then f (vget s.act.wake WakeWord.zero k) else vget s.act.wake WakeWord.zero k :=
  vget_vgen _ _ ⟨k, four⟩

/-! ### A step (log entry 3) -/

/-- Settles O3. -/
theorem stepRunsFrontCommand : Obligations.StepRunsFrontCommand := fun _ _ _ => rfl

theorem tickOnce_now (s : State) : (tickOnce s).now = s.now + 1 := by
  unfold tickOnce
  extract_lets n t h t1
  split
  · split
    · exact (wholeHour_only t1).same .now rfl
    · rfl
  · rfl

/-- What a tick does to the WAKE words is that the pins rise again: the clock and the hour leave them. -/
theorem tickOnce_act (s : State) : (tickOnce s).act = (pinsRiseAgain (clockTick s)).act := by
  unfold tickOnce
  extract_lets n t h t1
  split
  · split
    · exact (wholeHour_only t1).same .act rfl
    · rfl
  · rfl

theorem pinsRiseAgain_word (s : State) {k : Nat} (four : k < 4) (low : (vget s.act.wake WakeWord.zero k).again = true) :
    vget (pinsRiseAgain s).act.wake WakeWord.zero k =
      let w := vget s.act.wake WakeWord.zero k
      { w with again := false, pin := !w.pend && w.held == .no } := by
  have named : (0xF : BitVec 4).getLsbD k = true :=
    (by decide : ∀ i : Fin 4, (0xF : BitVec 4).getLsbD i.val = true) ⟨k, four⟩
  rw [pinsRiseAgain, eachPin_word s 0xF _ four, if_pos named, if_pos low]

/-- Settles O4: the queue is empty, so the step is a tick. -/
theorem emptyQueueTicks : Obligations.EmptyQueueTicks := by
  intro s idle
  refine ⟨tickOnce s, by rw [step, idle], tickOnce_now s, ((tickOnce_only s).same .pending rfl).trans idle,
    tickOnce_only s, fun k four low => ?_⟩
  have clock : (clockTick s).act = s.act := (clockTick_only s).same .act rfl
  have word := pinsRiseAgain_word (clockTick s) four (by rw [clock]; exact low)
  rw [tickOnce_act, word, clock]
  exact ⟨rfl, rfl⟩

/-! ### The state after reset -/

theorem dom_reset (d : Nat) : dom State.reset d = Dom.zero := by
  unfold dom vget
  split
  · exact Vector.getElem_replicate ..
  · rfl

theorem mon_reset (k : Nat) : mon State.reset k = MonSt.zero := by
  unfold mon vget
  split
  · exact Vector.getElem_replicate ..
  · rfl

theorem wakeWord_reset (k : Nat) : vget State.reset.act.wake WakeWord.zero k = WakeWord.zero := by
  unfold vget
  split
  · exact Vector.getElem_replicate ..
  · rfl

theorem routedLatch_reset (routeBit : Nat) : routedLatch State.reset routeBit = false := by
  simp [routedLatch, mon_reset, MonSt.zero]

/-- Settles O5. -/
theorem resetState_holds : Obligations.ResetState := by
  refine ⟨fun d => by rw [domSt, dom_reset]; rfl, rfl, ?_, rfl, fun k => ?_, rfl, rfl, rfl, rfl, rfl, fun c => ?_,
    fun p => ?_, rfl⟩
  · rw [alertAsserted, routedLatch_reset]
    rfl
  · rw [wakeHigh, wakeWord_reset]
    rfl
  · cases c <;> rfl
  · cases p <;> rfl

/-- Settles O6. -/
theorem flashCanonicalAtReset : Obligations.FlashCanonicalAtReset := ⟨rfl, fun _ => rfl⟩

/-! ## Boot: the tick, the crystal and the device POR (file 04) -/

theorem exec_tickStartFail {s : State} (waits : s.boot.step = .tickWait) :
    exec .tickStartFail s = .next (addFault s .tickFail) := congrArg Host.Outcome.next (if_pos waits)

theorem exec_crystalLoss {s : State} (qualified : s.boot.xtal = .qualified) :
    exec .crystalLoss s = .next (addAlert { s with boot.xtal := .lost, boot.xtalfb := true } .crystal) :=
  congrArg Host.Outcome.next (if_pos qualified)

/-- Settles O12. -/
theorem tickAndCrystal : Obligations.TickAndCrystal := by
  refine ⟨fun s waits => ⟨_, exec_tickStartFail waits, faultAsserted_of_mem _ _ (mem_addFault s .tickFail),
      addFault_only ..⟩, fun s trying => congrArg Host.Outcome.next (if_pos trying),
    fun s trying => congrArg Host.Outcome.next (if_pos trying), fun s qualified => ?_⟩
  have run := exec_crystalLoss qualified
  exact ⟨_, run, rfl, rfl, alertAsserted_of_mem _ _ (mem_addAlert _ .crystal), execCrystalLoss_only s _ run⟩

/-- Settles O13: `execDevicePor` is the reset state with what lies outside the device and the NVM put back. -/
theorem devicePorKeepsNvmAndFlash : Obligations.DevicePorKeepsNvmAndFlash := by
  intro s
  refine ⟨_, rfl, rfl, fun d => ?_, rfl, rfl, rfl, rfl, rfl, rfl, rfl, rfl, fun k => ?_⟩
  · exact congrArg Dom.st (dom_reset d)
  · exact congrArg (fun w : WakeWord => w.pin && s.sup.vio) (wakeWord_reset k)

end Sys2Proof.Proofs

/-! ## The WAKE pins: what recording and raising do to each word (file 09) -/

namespace Sys2Proof.Proofs

open Sys2Proof Sys2Proof.Machine

/-- A mask summed bit by bit has the bits that were summed. -/
theorem maskOf_getLsbD (f : Nat → Bool) {k : Nat} (four : k < 4) :
    (BitVec.ofNat 4 ((List.range 4).foldl (fun a k => a + if f k then 2 ^ k else 0) 0)).getLsbD k = f k := by
  have bits : ∀ (i : Fin 4) (a b c d : Bool), (BitVec.ofNat 4 ((((0 + if a then 2 ^ 0 else 0) + if b then 2 ^ 1 else 0) +
      if c then 2 ^ 2 else 0) + if d then 2 ^ 3 else 0)).getLsbD i.val = if i.val = 0 then a else if i.val = 1 then b else
      if i.val = 2 then c else d := by decide
  have picked : ∀ i : Fin 4, (if i.val = 0 then f 0 else if i.val = 1 then f 1 else if i.val = 2 then f 2 else f 3) = f i.val
    | 0 => rfl
    | 1 => rfl
    | 2 => rfl
    | 3 => rfl
  exact (bits ⟨k, four⟩ (f 0) (f 1) (f 2) (f 3)).trans (picked ⟨k, four⟩)

theorem pendingMask_getLsbD (s : State) {k : Nat} (four : k < 4) :
    (pendingMask s).getLsbD k = (vget s.act.wake WakeWord.zero k).pend := maskOf_getLsbD _ four

/-- A word in which one more cause is recorded (R337). -/
def causedWord (cause : Byte) (src : BitVec 3) (w : WakeWord) : WakeWord :=
  { w with cause := cause, src := src, count := satur 15 (w.count + 1) }

/-- A word whose pin rises (R341). -/
def raisedWord (w : WakeWord) : WakeWord := { w with pend := false, pin := true, held := .no, again := false }

theorem recordCause_wake (s : State) (mask : BitVec 4) (cause : Byte) (src : BitVec 3) :
    (recordCause s mask cause src).act.wake = (eachPin s mask (causedWord cause src)).act.wake := by
  unfold recordCause
  extract_lets s1 sa s2
  have noted : s2.act.wake = s1.act.wake := by
    unfold s2
    split <;> rfl
  split <;> exact noted

theorem recordCause_word (s : State) (mask : BitVec 4) (cause : Byte) (src : BitVec 3) {k : Nat} (four : k < 4) :
    vget (recordCause s mask cause src).act.wake WakeWord.zero k =
      if mask.getLsbD k then causedWord cause src (vget s.act.wake WakeWord.zero k) else vget s.act.wake WakeWord.zero k := by
  rw [recordCause_wake, eachPin_word s mask _ four]

/-- A word with a cause of the device's own: its pin is high unless the word waits. -/
def deviceWord (cause : Byte) (w : WakeWord) : WakeWord :=
  let w1 := causedWord cause srcDevice w
  if w1.pend then w1 else { w1 with pin := true, held := .no, again := false }

theorem recordDevice_word (s : State) (mask : BitVec 4) (cause : Byte) {k : Nat} (four : k < 4) :
    vget (recordDevice s mask cause).act.wake WakeWord.zero k =
      if mask.getLsbD k then deviceWord cause (vget s.act.wake WakeWord.zero k)
      else vget s.act.wake WakeWord.zero k := by
  rw [recordDevice, eachPin_word _ mask _ four, recordCause_word s mask cause srcDevice four]
  split <;> rfl

theorem deviceWord_of_pend {cause : Byte} {w : WakeWord} (pend : w.pend = true) :
    deviceWord cause w = causedWord cause srcDevice w := if_pos pend

theorem deviceWord_of_not_pend {cause : Byte} {w : WakeWord} (pend : w.pend = false) :
    deviceWord cause w = { causedWord cause srcDevice w with pin := true, held := .no, again := false } :=
  if_neg (Bool.eq_false_iff.mp pend)

/-- Cause 0x83 goes to the words of the mask that do not show 0x81 (R349). -/
theorem record83_word (s : State) (mask : BitVec 4) {k : Nat} (four : k < 4) :
    vget (record83 s mask).act.wake WakeWord.zero k =
      let w := vget s.act.wake WakeWord.zero k
      if mask.getLsbD k && w.cause != 0x81 then deviceWord 0x83 w else w := by
  rw [record83, recordDevice_word _ _ _ four, maskOf_getLsbD _ four]

/-- A word raised by mask; one that waited for a cause 0x83 gets it then. -/
def raisedBy (mask after83 : BitVec 4) (k : Nat) (w : WakeWord) : WakeWord :=
  let r := if mask.getLsbD k then raisedWord w else w
  if (after83 &&& mask).getLsbD k && r.cause != 0x81 then deviceWord 0x83 r else r

theorem raisedBy_of_not_after83 {mask after83 : BitVec 4} (none83 : after83 &&& mask = 0) (k : Nat) (w : WakeWord) :
    raisedBy mask after83 k w = if mask.getLsbD k then raisedWord w else w := by
  simp [raisedBy, none83]

theorem raisePins_word (s : State) (mask : BitVec 4) {k : Nat} (four : k < 4) :
    vget (raisePins s mask).act.wake WakeWord.zero k = raisedBy mask s.act.after83 k (vget s.act.wake WakeWord.zero k) := by
  have raised := eachPin_word s mask raisedWord four
  by_cases none83 : s.act.after83 &&& mask = 0
  · have plain : raisePins s mask = eachPin s mask raisedWord := if_pos none83
    rw [plain, raised, raisedBy_of_not_after83 none83]
  · have late : raisePins s mask = record83 { eachPin s mask raisedWord with
        act.after83 := s.act.after83 &&& ~~~mask } (s.act.after83 &&& mask) := if_neg none83
    rw [late, record83_word _ _ four]
    change (if _ && (vget (eachPin s mask raisedWord).act.wake WakeWord.zero k).cause != 0x81 then
      deviceWord 0x83 (vget (eachPin s mask raisedWord).act.wake WakeWord.zero k) else
      vget (eachPin s mask raisedWord).act.wake WakeWord.zero k) = _
    rw [raised]
    rfl

theorem raisedBy_of_not_named {mask after83 : BitVec 4} {k : Nat} (apart : mask.getLsbD k = false) (w : WakeWord) :
    raisedBy mask after83 k w = w := by
  simp [raisedBy, apart]

/-- A raised pin is high and its word waits no longer. -/
theorem raisedBy_of_named {mask after83 : BitVec 4} {k : Nat} (named : mask.getLsbD k = true) (w : WakeWord) :
    (raisedBy mask after83 k w).pend = false ∧ (raisedBy mask after83 k w).pin = true := by
  simp only [raisedBy, named, if_true]
  split
  · rw [deviceWord_of_not_pend rfl]
    exact ⟨rfl, rfl⟩
  · exact ⟨rfl, rfl⟩

theorem exec_pendingPinRise {s : State} (good : railGood s = true) (calm : inOutage s = false)
    (settled : s.outage.settle = false) : exec .pendingPinRise s = .next (raisePins s (pendingMask s)) := by
  change execPendingPinRise s = _
  rw [execPendingPinRise, good, calm, settled, releasePins, BitVec.and_self]
  rfl

theorem exec_pendingPinRise_held {s : State}
    (held : railGood s = false ∨ inOutage s = true ∨ s.outage.settle = true) : exec .pendingPinRise s = .next s := by
  change execPendingPinRise s = _
  rw [execPendingPinRise, if_neg]
  rcases held with h | h | h <;> simp [h]

/-- Settles O35: the mask of the raise is that of the words that wait (`pendingMask_getLsbD`). -/
theorem pendingPinsRise : Obligations.PendingPinsRise := by
  refine fun s => ⟨fun good calm settled => ?_, exec_pendingPinRise_held⟩
  have run := exec_pendingPinRise good calm settled
  refine ⟨_, run, execPendingPinRise_only s _ run, fun k => ?_⟩
  rw [raisePins_word s _ k.isLt]
  by_cases pend : (vget s.act.wake WakeWord.zero k).pend = true
  · have high := raisedBy_of_named (after83 := s.act.after83) ((pendingMask_getLsbD s k.isLt).trans pend)
      (vget s.act.wake WakeWord.zero k)
    exact ⟨high.1, fun _ => high.2⟩
  · rw [Bool.not_eq_true] at pend
    rw [raisedBy_of_not_named ((pendingMask_getLsbD s k.isLt).trans pend)]
    exact ⟨pend, fun waits => absurd (pend.symm.trans waits) Bool.false_ne_true⟩

end Sys2Proof.Proofs

/-! ## Boot: the sensing of the identity (file 04, steps 1 to 5 of Sequence BOO-1) -/

namespace Sys2Proof.Proofs

open Sys2Proof Sys2Proof.Machine

/-- The boot state once an identity is kept: step 5, or RST_N holds it (R121, R151). -/
def keptBoot (b : Boot) : Boot :=
  { b with step := if b.inReset then .held else .sampling, idFailed := b.idFailed && b.inReset }

theorem sensed_boot {s : State} (ok : identOk s.ident = true) : (sensed s).boot = keptBoot s.boot := by
  unfold sensed enterStep5Boot
  cases reset : s.boot.inReset <;> simp [keptBoot, reset, ok]

theorem acceptIdentity_bound (s : State) {id : BitVec 64} (known : bound id = true) :
    acceptIdentity s id = .next (sensed { s with ident := id }) := if_pos known

/-- The sensing changes of an accepted state the boot state as `keptBoot` says. -/
theorem sensed_ident_boot (s : State) {id : BitVec 64} (ok : identOk id = true) :
    (sensed { s with ident := id }).boot = keptBoot s.boot := sensed_boot ok

theorem sensed_ident (s : State) (id : BitVec 64) : (sensed { s with ident := id }).ident = id :=
  (sensed_only { s with ident := id }).same .ident rfl

/-! ### POWER_ON (log entry 40) -/

/-- The state with the supplies that have risen, its island on VAON or VBAK. -/
def powered (s : State) (up : Supplies) : State :=
  { s with sup := supplyOr s.sup up, gauge.onVbak := !(s.sup.vaon || up.vaon) }

/-- The state at the sensing of step 4: the tick runs, the crystal is tried, the records are recovered. -/
def atSensing (s : State) (up : Supplies) : State :=
  recoverRecords (dropFault { powered s up with boot.xtal := .trying } .tickFail)

theorem atSensing_boot (s : State) (up : Supplies) : (atSensing s up).boot = { s.boot with xtal := .trying } :=
  (recoverRecords_only _).same .boot rfl

theorem atSensing_sup (s : State) (up : Supplies) : (atSensing s up).sup = supplyOr s.sup up :=
  (recoverRecords_only _).same .sup rfl

theorem atSensing_gauge (s : State) (up : Supplies) :
    (atSensing s up).gauge = { s.gauge with onVbak := !(s.sup.vaon || up.vaon) } :=
  (recoverRecords_only _).same .gauge rfl

/-- With a supply of the AON island, and the device before step 4. -/
theorem exec_powerOn_early {up : Supplies} (k : Bool) (id : BitVec 64) {s : State}
    (fed : ((supplyOr s.sup up).vaon || (supplyOr s.sup up).vbak) = true)
    (early : s.boot.step = .por ∨ s.boot.step = .tickWait) :
    exec (.powerOn up k id) s =
      if !k then .next { powered s up with boot.step := .tickWait }
      else if identOk id then acceptIdentity (atSensing s up) id
      else .next { atSensing s up with ident := id, boot.step := .idRetry, boot.idTries := 0 } := by
  have some : ¬((!(supplyOr s.sup up).vaon && !(supplyOr s.sup up).vbak) = true) := by
    rw [← Bool.not_or, fed]
    decide
  change execPowerOn up k id s = _
  unfold execPowerOn
  rw [if_neg some]
  rcases early with h | h <;> rw [h] <;> rfl

theorem supplyOr_fed {up : Supplies} (s : State) (some : (up.vaon || up.vbak) = true) :
    ((supplyOr s.sup up).vaon || (supplyOr s.sup up).vbak) = true := by
  simp only [supplyOr, Bool.or_eq_true] at some ⊢
  rcases some with h | h <;> simp [h]

theorem exec_powerOn_unfed {up : Supplies} (k : Bool) (id : BitVec 64) {s : State}
    (none : ((supplyOr s.sup up).vaon || (supplyOr s.sup up).vbak) = false) :
    exec (.powerOn up k id) s = .next { s with sup := supplyOr s.sup up } :=
  if_pos (by rw [← Bool.not_or, none]; rfl)

/-- In a device that has left POR the supplies change, and the island may move back to VAON. -/
theorem exec_powerOn_late {up : Supplies} (k : Bool) (id : BitVec 64) {s : State}
    (fed : ((supplyOr s.sup up).vaon || (supplyOr s.sup up).vbak) = true)
    (notPor : s.boot.step ≠ .por) (notTick : s.boot.step ≠ .tickWait) :
    exec (.powerOn up k id) s = .next (if s.outage.step = 0 && (supplyOr s.sup up).vaon
      then backToVaon { s with sup := supplyOr s.sup up } else { s with sup := supplyOr s.sup up }) := by
  have some : ¬((!(supplyOr s.sup up).vaon && !(supplyOr s.sup up).vbak) = true) := by
    rw [← Bool.not_or, fed]
    decide
  change execPowerOn up k id s = _
  unfold execPowerOn
  rw [if_neg some]
  cases step : s.boot.step with
  | por => exact absurd step notPor
  | tickWait => exact absurd step notTick
  | _ => rfl

theorem powered_only (s : State) (up : Supplies) : Only [.sup, .gauge] s (powered s up) :=
  Only.set_sup_gauge (Only.refl _ s) _ _ rfl

/-- Settles O10: the three outcomes of `exec_powerOn_early`, and the two of a device without supply or past POR. -/
theorem powerOnSensesIdentity : Obligations.PowerOnSensesIdentity := by
  refine ⟨fun up id s some early ok known => ?_, fun up id s some early bad => ?_, fun up id s some early => ?_,
    fun up k id s none => exec_powerOn_unfed k id none, fun up k id s fed notPor notTick => ?_⟩
  · have run := exec_powerOn_early true id (supplyOr_fed s some) early
    rw [Bool.not_true, if_neg Bool.false_ne_true, if_pos ok, acceptIdentity_bound _ known] at run
    have boot : (sensed { atSensing s up with ident := id }).boot = _ := sensed_ident_boot (atSensing s up) ok
    have rest := sensed_only { atSensing s up with ident := id }
    rw [atSensing_boot] at boot
    exact ⟨_, run, sensed_ident _ id, (rest.same .sup rfl).trans (atSensing_sup s up), by rw [boot]; rfl, by rw [boot]; rfl,
      (congrArg Gauge.onVbak (rest.same .gauge rfl)).trans (congrArg Gauge.onVbak (atSensing_gauge s up)),
      execPowerOn_only up true id s _ run⟩
  · have run := exec_powerOn_early true id (supplyOr_fed s some) early
    rw [Bool.not_true, if_neg Bool.false_ne_true, if_neg (Bool.eq_false_iff.mp bad)] at run
    exact ⟨_, run, rfl, rfl⟩
  · refine ⟨_, exec_powerOn_early false id (supplyOr_fed s some) early, rfl, ?_⟩
    exact Only.post ((powered_only s up).mono rfl) (Only.set_boot (ps := [.boot]) (Only.refl _ _) _ rfl) rfl
  · have supplied : Only [.sup, .prot, .gauge] s { s with sup := supplyOr s.sup up } :=
      Only.set_sup (Only.refl _ s) _ rfl
    refine ⟨_, exec_powerOn_late k id fed notPor notTick, ?_⟩
    split
    · exact ⟨(backToVaon_only _).same .sup rfl, supplied.post (backToVaon_only _) rfl⟩
    · exact ⟨rfl, supplied⟩

/-! ### IDENTITY_RESENSE (log entry 53) -/

/-- Settles O11. -/
theorem identityIsSensedAgain : Obligations.IdentityIsSensedAgain := by
  refine ⟨fun id s retry ok known => ?_, fun id s retry bad few => ?_, fun id s retry bad many => ?_⟩ <;>
    have sensing : ¬s.boot.step ≠ .idRetry := fun ne => ne retry
  · have run : exec (.identityResense id) s = .next (sensed { s with ident := id }) := by
      change execIdentityResense id s = _
      rw [execIdentityResense, if_neg sensing, if_pos ok, acceptIdentity_bound s known]
    have boot := sensed_ident_boot s ok
    exact ⟨_, run, sensed_ident s id, by rw [boot]; rfl, by rw [boot]; rfl⟩
  · change execIdentityResense id s = _
    rw [execIdentityResense, if_neg sensing, if_neg (Bool.eq_false_iff.mp bad), if_pos (by omega)]
  · refine ⟨_, (if_neg sensing).trans ((if_neg (Bool.eq_false_iff.mp bad)).trans (if_neg (by omega))), rfl,
      faultAsserted_of_mem _ .identity (mem_addFault s .identity), rfl, ?_⟩
    exact Only.post (qs := [.boot, .ident]) (Only.mono (addFault_only s .identity) rfl)
      (Only.set_boot_ident (Only.refl _ _) _ _ rfl) rfl

end Sys2Proof.Proofs

/-! ## Boot: RST_N (file 04, R151; file 02, R64) -/

namespace Sys2Proof.Proofs

open Sys2Proof Sys2Proof.Machine

theorem rebase_faults (s : State) : (rebase s).prot.faults = s.prot.faults := by
  unfold rebase
  split
  · rfl
  · extract_lets old sg s1 new
    split <;> rfl

theorem backToVaon_faults (s : State) : (backToVaon s).prot.faults = s.prot.faults := by
  unfold backToVaon
  split
  · exact rebase_faults _
  · rfl

/-- A channel that warm hold keeps is held in its regulation, whatever was done to the other before. -/
theorem holdChan_warm (s : State) {c : Chan} (keeps : keepsRunning s c = true) : (chan (holdChan s c) c).warm = true := by
  rw [holdChan, if_pos keeps, chan_modChan_same]

theorem settleRef_other (s : State) {c k : Chan} (other : k ≠ c) : chan (settleRef s c) k = chan s k :=
  chan_modChan_ne _ _ _ _ other

/-- The reference of one channel moves, and the other channel stays. -/
theorem moveRef_other (s : State) {c k : Chan} (other : k ≠ c) : chan (moveRef s c) k = chan s k := by
  have stepped : ∀ u f, chan u k = chan s k → chan (settleRef (modChan u c f) c) k = chan s k := fun u f same => by
    rw [settleRef_other _ other, chan_modChan_ne _ _ _ _ other, same]
  have freed : chan (takeFree s).2 k = chan s k := by cases k <;> rfl
  unfold moveRef
  split
  · exact stepped _ _ freed
  · exact stepped _ _ freed
  · exact stepped _ _ freed
  · rfl

theorem holdChan_other (s : State) {c k : Chan} (other : k ≠ c) : chan (holdChan s c) k = chan s k := by
  unfold holdChan freezeRef
  split
  · rw [chan_modChan_ne _ _ _ _ other, chan_modChan_ne _ _ _ _ other, moveRef_other s other]
  · rfl

/-- What a reset leaves of a state (R151 to R156): the parts that the statements about resets speak of. -/
structure ResetFrom (s : State) (rcause : Byte) (t : State) : Prop where
  step : t.boot.step = .held
  safe : t.boot.safe = false
  inReset : t.boot.inReset = s.boot.inReset
  rcause : t.boot.rcause = if rcause = 2 && (keepsRunning s .main || keepsRunning s .aux) then 3 else rcause
  pins : t.pins = s.pins
  ident : t.ident = s.ident
  flash : t.flash = s.flash
  xfer : t.xfer = none
  reel : t.reel = none
  faults : t.prot.faults = [.boot]
  lostEntries : t.queues.lostEntries = s.queues.lostEntries
  kept : t.queues.kept = s.queues.kept
  link : ∀ p, link t p = Link.zero
  dom : ∀ d, dom t d = if (d = 17 && keepsRunning s .main) || (d = 18 && keepsRunning s .aux)
    then { Dom.zero with st := .on } else Dom.zero
  warm : keepsRunning s .main = true → (chan t .main).warm = true

/-- The move back to VAON reaches the gauge and its alert alone. -/
theorem ResetFrom.backToVaon {s t : State} {rcause : Byte} (h : ResetFrom s rcause t) : ResetFrom s rcause (backToVaon t) := by
  have frame := backToVaon_only t
  have boot : (Machine.backToVaon t).boot = t.boot := frame.same .boot rfl
  have queues : (Machine.backToVaon t).queues = t.queues := frame.same .queues rfl
  have tether : (Machine.backToVaon t).tether = t.tether := frame.same .tether rfl
  have bridle : (Machine.backToVaon t).bridle = t.bridle := frame.same .bridle rfl
  have reg : (Machine.backToVaon t).reg = t.reg := frame.same .reg rfl
  exact {
    step := boot ▸ h.step, safe := boot ▸ h.safe, inReset := boot ▸ h.inReset, rcause := boot ▸ h.rcause
    pins := (frame.same .pins rfl).trans h.pins
    ident := (frame.same .ident rfl).trans h.ident
    flash := (frame.same .flash rfl).trans h.flash
    xfer := (frame.same .xfer rfl).trans h.xfer
    reel := (frame.same .reel rfl).trans h.reel
    faults := (backToVaon_faults t).trans h.faults
    lostEntries := queues ▸ h.lostEntries, kept := queues ▸ h.kept
    link := fun p => by simpa only [Machine.link, tether] using h.link p
    dom := fun d => by simpa only [Machine.dom, bridle] using h.dom d
    warm := fun keeps => by simpa only [chan, reg] using h.warm keeps }

theorem resetState_from (s : State) (rcause : Byte) : ResetFrom s rcause (resetState s rcause) := by
  unfold resetState
  extract_lets m a warm s0 dz dom sb st sn sf se sa sbr sp sm sq s1
  have held : Only [.free, .reg] s s0 := Only.post (holdChan_only s .main) (holdChan_only _ .aux) rfl
  have base : ResetFrom s rcause s1 := {
    step := rfl, safe := rfl, inReset := rfl, rcause := rfl
    pins := held.same .pins rfl
    ident := held.same .ident rfl
    flash := held.same .flash rfl
    xfer := rfl, reel := rfl, faults := rfl, lostEntries := rfl, kept := rfl
    link := fun p => by cases p <;> rfl
    dom := fun d => by
      rw [Machine.dom, vget]
      split
      · exact Vector.getElem_ofFn ..
      · next beyond => rw [if_neg]; simp; omega
    warm := fun keeps => by
      have hot : (chan s0 .main).warm = true := by
        rw [show chan s0 .main = _ from holdChan_other (holdChan s .main) (by decide)]
        exact holdChan_warm s keeps
      change (resetReg s0 m a).main.warm = true
      rw [resetReg, show m = true from keeps]
      exact hot }
  split
  · exact base.backToVaon
  · exact base

theorem resetPulse_early {s : State} (early : s.boot.step = .por ∨ s.boot.step = .tickWait ∨ s.boot.step = .idRetry) :
    resetPulse s = rstLow s := by
  unfold resetPulse
  rcases early with h | h | h <;> rw [h]

theorem resetPulse_late {s : State} (notPor : s.boot.step ≠ .por) (notTick : s.boot.step ≠ .tickWait)
    (notRetry : s.boot.step ≠ .idRetry) : resetPulse s = resetState (rstLow s) 2 := by
  unfold resetPulse
  cases step : s.boot.step with
  | por => exact absurd step notPor
  | tickWait => exact absurd step notTick
  | idRetry => exact absurd step notRetry
  | _ => rfl

/-- A pulse that takes effect holds the device in reset, at whatever step it comes. -/
theorem resetPulse_inReset (s : State) : (resetPulse s).boot.inReset = true := by
  obtain h | h := resetPulse_cases s <;> rw [h]
  · rfl
  · exact (resetState_from (rstLow s) 2).inReset

theorem exec_resetRelease_held {s : State} (reset : s.boot.inReset = true) (held : s.boot.step = .held)
    (ok : identOk s.ident = true) : exec .resetRelease s = .next { s with
      pins.rstN := true, boot.inReset := false, boot.step := .sampling, boot.idFailed := false } := by
  change execResetRelease s = _
  rw [execResetRelease, if_pos reset, enterStep5Boot, if_pos (by rw [held]; rfl), if_pos ok]

/-- Settles O14: a pulse that takes effect past step 4 is a reset, of which `resetState_from` says what it leaves. -/
theorem resetAssertAndRelease : Obligations.ResetAssertAndRelease := by
  refine ⟨fun ns s long notPor notTick notRetry => ?_, fun ns s long early => ?_, fun ns s atLeast below => ?_,
    fun ns s short => exec_resetAssert_short s short, fun s reset held ok => ?_,
    fun s high => congrArg Host.Outcome.next (if_neg (Bool.eq_false_iff.mp high))⟩
  · have run := exec_resetAssert_long s long
    rw [resetPulse_late notPor notTick notRetry] at run
    have reset := resetState_from (rstLow s) 2
    have marks : MarksKept s (resetState (rstLow s) 2) := MarksKept.trans (t := rstLow s) ⟨rfl, rfl⟩ (resetState_marks ..)
    refine ⟨_, run, reset.step, reset.inReset, by rw [reset.pins]; rfl,
      faultAsserted_of_mem _ .boot (by rw [reset.faults]; exact List.mem_singleton_self _), marks.mains, marks.tug,
      reset.lostEntries, reset.kept, fun p => by rw [reset.link]; rfl, fun d not17 not18 => ?_, reset.safe, reset.reel,
      fun main aux => ?_, fun main => ⟨?_, reset.warm main, ?_⟩⟩
    · rw [domSt, reset.dom, if_neg (by simp [not17, not18])]
      rfl
    · have main : keepsRunning (rstLow s) .main = false := main
      have aux : keepsRunning (rstLow s) .aux = false := aux
      exact ⟨by rw [domSt, reset.dom, main, aux]; rfl, by rw [domSt, reset.dom, main, aux]; rfl,
        by rw [reset.rcause, main, aux]; rfl⟩
    · have main : keepsRunning (rstLow s) .main = true := main
      rw [domSt, reset.dom, main]
      rfl
    · have main : keepsRunning (rstLow s) .main = true := main
      rw [reset.rcause, main]
      rfl
  · rw [exec_resetAssert_long s long, resetPulse_early early]
    rfl
  · refine ⟨_, exec_resetAssert_between s atLeast below, ?_⟩
    split
    · exact .inl (takeFree_only s)
    · exact .inr (resetPulse_inReset _)
  · have run := exec_resetRelease_held reset held ok
    exact ⟨_, run, rfl, rfl, rfl, execResetRelease_only s _ run⟩

end Sys2Proof.Proofs

/-! ## The incidental effects of requests and notice entries (files 09, 10, 16 and 17) -/

namespace Sys2Proof.Proofs

open Sys2Proof Sys2Proof.Machine

/-- The parts that a request to Bridle or an entry of a notice may change. -/
def incidentalParts : List Part := [.rules, .act, .bridle, .prot, .tether, .queues, .win, .integ]

/-- What the handling of a request or of a notice entry may change beside its own work: it adds alerts, may mark the rule
memory for a whole reload, records failures in W2E, loses frames of banks not kept, and moves WAKE words; it takes no domain
into or out of on. -/
structure Incidental (s t : State) : Prop where
  only : Only incidentalParts s t
  prot : t.prot = { s.prot with alerts := t.prot.alerts }
  alerts : ∀ a, a ∈ s.prot.alerts → a ∈ t.prot.alerts
  rules : t.rules = { s.rules with reloadAll := t.rules.reloadAll }
  on : ∀ d, isOn t d = isOn s d
  bridle : t.bridle = { s.bridle with doms := t.bridle.doms, jobs := t.bridle.jobs, w0b := t.bridle.w0b }
  act : t.act = { s.act with wake := t.act.wake, after83 := t.act.after83, lastCause := t.act.lastCause }
  link : ∀ p, link t p =
    { link s p with out := (link t p).out, resend := (link t p).resend, goBackDue := (link t p).goBackDue }
  loop : t.tether.loop = s.tether.loop
  hIsD : t.tether.hIsD = s.tether.hIsD
  win : t.win = { s.win with item := t.win.item, icnt := t.win.icnt, ireason := t.win.ireason, iid := t.win.iid }
  marks : t.queues.marks = s.queues.marks
  tally : t.queues.tally = s.queues.tally
  earliest : t.queues.earliest = s.queues.earliest
  faulty : ∀ d, (dom t d).faulty = (dom s d).faulty
  deferred : (portUp s .u || portUp s .d) = true → t.queues.deferred = s.queues.deferred ∨ t.queues.deferred = []

/-- Incidental changes take no port up or down. -/
theorem Incidental.portUp {s t : State} (h : Incidental s t) (p : Port) : portUp t p = portUp s p := by
  unfold Machine.portUp
  rw [h.link p]

theorem Incidental.trans {s t u : State} (h : Incidental s t) (k : Incidental t u) : Incidental s u where
  only := h.only.post k.only rfl
  prot := k.prot.trans (by rw [h.prot])
  alerts := fun a mem => k.alerts a (h.alerts a mem)
  rules := k.rules.trans (by rw [h.rules])
  on := fun d => (k.on d).trans (h.on d)
  bridle := k.bridle.trans (by rw [h.bridle])
  act := k.act.trans (by rw [h.act])
  link := fun p => (k.link p).trans (by rw [h.link p])
  loop := k.loop.trans h.loop
  hIsD := k.hIsD.trans h.hIsD
  win := k.win.trans (by rw [h.win])
  marks := k.marks.trans h.marks
  tally := k.tally.trans h.tally
  earliest := k.earliest.trans h.earliest
  faulty := fun d => (k.faulty d).trans (h.faulty d)
  deferred := fun up => (k.deferred (by rwa [h.portUp, h.portUp])).elim
    (fun same => (h.deferred up).imp same.trans same.trans) .inr

theorem Incidental.refl (s : State) : Incidental s s where
  only := Only.refl _ s
  prot := rfl
  alerts := fun _ mem => mem
  rules := rfl
  on := fun _ => rfl
  bridle := rfl
  act := rfl
  link := fun _ => rfl
  loop := rfl
  hIsD := rfl
  win := rfl
  marks := rfl
  tally := rfl
  earliest := rfl
  faulty := fun _ => rfl
  deferred := fun _ => .inl rfl

theorem Incidental.ite {c : Prop} [Decidable c] {s t u : State} (h : Incidental s t) (k : Incidental s u) :
    Incidental s (if c then t else u) := by
  split
  · exact h
  · exact k

theorem Incidental.foldl {α : Type} {g : State → α → State} (step : ∀ t x, Incidental t (g t x)) (l : List α)
    {s t : State} (h : Incidental s t) : Incidental s (l.foldl g t) := by
  induction l generalizing t with
  | nil => exact h
  | cons x rest ih => exact ih (h.trans (step t x))

/-! ### A change of one part -/

/-- A change of Bridle's domains, running profiles and W0B that takes no domain into or out of on. -/
theorem Incidental.of_bridle {s : State} {b : Bridle}
    (bridle : b = { s.bridle with doms := b.doms, jobs := b.jobs, w0b := b.w0b })
    (doms : ∀ d, vget b.doms Dom.zero d = dom s d ∨
      (((vget b.doms Dom.zero d).st == .on) = isOn s d ∧ (vget b.doms Dom.zero d).faulty = (dom s d).faulty)) :
    Incidental s { s with bridle := b } :=
  { Incidental.refl s with
    only := Only.set_bridle (ps := incidentalParts) (Only.refl _ _) b rfl
    bridle := bridle
    on := fun d => (doms d).elim (fun h => congrArg (fun m : Dom => m.st == .on) h) (·.1)
    faulty := fun d => (doms d).elim (fun h => congrArg Dom.faulty h) (·.2) }

/-- One domain changed in no way that takes it into or out of on. -/
theorem modDom_incidental {s : State} {d : Nat} {f : Dom → Dom} (on : ((f (dom s d)).st == .on) = isOn s d)
    (faulty : (f (dom s d)).faulty = (dom s d).faulty) : Incidental s (modDom s d f) := by
  refine Incidental.of_bridle rfl fun e => ?_
  change dom (modDom s d f) e = _ ∨ _
  by_cases here : d = e ∧ e < 20
  · obtain ⟨same, _⟩ := id here
    subst same
    exact .inr ⟨by rw [← on]; exact congrArg (fun m : Dom => m.st == .on) ((dom_modDom ..).trans (if_pos here)),
      (congrArg Dom.faulty ((dom_modDom ..).trans (if_pos here))).trans faulty⟩
  · exact .inl ((dom_modDom ..).trans (if_neg here))

theorem Incidental.of_act {s : State} {a : Act}
    (act : a = { s.act with wake := a.wake, after83 := a.after83, lastCause := a.lastCause }) :
    Incidental s { s with act := a } :=
  { Incidental.refl s with only := Only.set_act (ps := incidentalParts) (Only.refl _ _) a rfl, act := act }

theorem Incidental.of_queues {s : State} {q : Queues} (marks : q.marks = s.queues.marks)
    (tally : q.tally = s.queues.tally) (earliest : q.earliest = s.queues.earliest)
    (deferred : (Machine.portUp s .u || Machine.portUp s .d) = true → q.deferred = s.queues.deferred ∨ q.deferred = []) :
    Incidental s { s with queues := q } :=
  { Incidental.refl s with
    only := Only.set_queues (ps := incidentalParts) (Only.refl _ _) q rfl
    marks := marks, tally := tally, earliest := earliest, deferred := deferred }

theorem addAlert_incidental (s : State) (a : Alarm) : Incidental s (addAlert s a) :=
  { Incidental.refl s with
    only := (addAlert_only s a).mono rfl
    prot := rfl
    alerts := fun b mem => by
      exact (mem_addNew ..).mpr (.inr mem) }

/-! ### W2E, W0B and the WAKE words -/

theorem recordW2E_incidental (s : State) (item : BitVec 4) (reason : Byte) (id : Half) :
    Incidental s (recordW2E s item reason id) :=
  { Incidental.refl s with only := (recordW2E_only ..).mono rfl, win := rfl }

theorem w0bEntry_incidental (s : State) (sel : BitVec 5) (o : Origin) (r : ReqResult) (reason : BitVec 4) (alert : Bool) :
    Incidental s (w0bEntry s sel o r reason alert) := by
  have entry : ∀ w : W0B, Incidental s { s with bridle.w0b := w } := fun w => .of_bridle rfl fun _ => .inl rfl
  exact .ite ((entry _).trans (addAlert_incidental ..)) (entry _)

theorem eachPin_incidental (s : State) (mask : BitVec 4) (f : WakeWord → WakeWord) :
    Incidental s (eachPin s mask f) := .of_act rfl

theorem recordCause_incidental (s : State) (mask : BitVec 4) (cause : Byte) (src : BitVec 3) :
    Incidental s (recordCause s mask cause src) := by
  unfold recordCause
  extract_lets s1 a s2
  have h1 : Incidental s s1 := eachPin_incidental ..
  have h2 : Incidental s s2 := .ite h1 (h1.trans (.of_act rfl))
  exact .ite (h2.trans (recordW2E_incidental ..)) h2

theorem recordDevice_incidental (s : State) (mask : BitVec 4) (cause : Byte) :
    Incidental s (recordDevice s mask cause) :=
  (recordCause_incidental ..).trans (eachPin_incidental ..)

theorem record83_incidental (s : State) (mask : BitVec 4) : Incidental s (record83 s mask) := recordDevice_incidental ..

theorem raisePins_incidental (s : State) (mask : BitVec 4) : Incidental s (raisePins s mask) := by
  unfold raisePins
  extract_lets s1
  have h1 : Incidental s s1 := eachPin_incidental ..
  exact .ite h1 ((h1.trans (.of_act rfl)).trans (record83_incidental ..))

theorem releasePins_incidental (s : State) (mask : BitVec 4) : Incidental s (releasePins s mask) :=
  raisePins_incidental ..

/-! ### Results of requests -/

theorem jobComplete_incidental (s : State) (j : Job) : Incidental s (jobComplete s j) := by
  unfold jobComplete
  extract_lets r sel id reason s1 s2 s3
  have h1 : Incidental s s1 := .ite (recordW2E_incidental ..) (.ite (recordW2E_incidental ..) (.refl _))
  have h2 : Incidental s s2 := .ite (h1.trans (w0bEntry_incidental ..)) h1
  have h3 : Incidental s s3 := .ite h2 (h2.trans (releasePins_incidental ..))
  exact .ite h3 ((h3.trans (.of_act rfl)).trans (record83_incidental ..))

theorem jobTarget_incidental (s : State) (id : Nat) (r : ReqResult) (reason : BitVec 4) :
    Incidental s (jobTarget s id r reason) := by
  have jobs : ∀ l : List Job, Incidental s { s with bridle.jobs := l } := fun _ => .of_bridle rfl fun _ => .inl rfl
  unfold jobTarget
  split
  · exact .refl _
  · exact .ite ((jobs _).trans (jobComplete_incidental ..)) (jobs _)

theorem resolve_incidental (s : State) (d : Nat) (q : Req) (r : ReqResult) (reason : BitVec 4) :
    Incidental s (resolve s d q r reason) := by
  have mark : ∀ (t : State) (f : Dom → Dom), (∀ m, (f m).st = m.st) → (∀ m, (f m).faulty = m.faulty) →
      Incidental t (modDom t d f) := fun t f st faulty =>
    modDom_incidental (congrArg (· == DS.on) (st _)) (faulty _)
  unfold resolve
  extract_lets sel s0 s1 s2
  have h0 : Incidental s s0 := .ite (recordW2E_incidental ..) (.refl _)
  have h1 : Incidental s s1 := .ite (h0.trans (w0bEntry_incidental ..)) <| .ite (.refl _) <|
    .ite (.ite (.refl _) ((w0bEntry_incidental ..).trans (mark _ _ (fun _ => rfl) fun _ => rfl))) (w0bEntry_incidental ..)
  have h2 : Incidental s s2 := .ite (h1.trans (mark _ _ (fun _ => rfl) fun _ => rfl)) h1
  exact .ite h2 (h2.trans (jobTarget_incidental ..))

/-! ### Banks that are lost -/

theorem loseDescriptors_incidental (s : State) (f : Nat → Bool) : Incidental s (loseDescriptors s f) :=
  { Incidental.refl s with
    only := (loseDescriptors_only s f).mono rfl
    link := fun p => by
      cases p
      · change (if f 0xFFF6 then _ else _) = ({ s.tether.u with
          out := (if f 0xFFF6 then _ else _ : Link).out, resend := (if f 0xFFF6 then _ else _ : Link).resend,
          goBackDue := (if f 0xFFF6 then _ else _ : Link).goBackDue } : Link)
        split <;> rfl
      · change (if f 0xFFF7 then _ else _) = ({ s.tether.d with
          out := (if f 0xFFF7 then _ else _ : Link).out, resend := (if f 0xFFF7 then _ else _ : Link).resend,
          goBackDue := (if f 0xFFF7 then _ else _ : Link).goBackDue } : Link)
        split <;> rfl
    marks := rfl
    loop := rfl
    hIsD := rfl }

theorem recordLoss_incidental (s : State) (d bank : Nat) : Incidental s (recordLoss s d bank) := by
  have banks : ∀ (t : State) l, Incidental t { t with integ.banks := l } := fun t l =>
    { Incidental.refl t with only := Only.set_integ (ps := incidentalParts) (Only.refl _ _) _ rfl }
  unfold recordLoss
  extract_lets s1
  have h1 : Incidental s s1 := loseDescriptors_incidental ..
  exact .ite (.ite h1 (h1.trans (banks ..))) (.ite (banks ..) (.refl _))

theorem loseBanks_incidental (s : State) (d : Nat) (keep : BitVec 16) : Incidental s (loseBanks s d keep) := by
  unfold loseBanks
  extract_lets held lost
  have lose : Incidental s (if d = 7 then s else lost.foldl (fun t b => recordLoss t d b) s) :=
    .ite (.refl _) (.foldl (fun t b => recordLoss_incidental ..) _ (.refl _))
  exact lose.trans (modDom_incidental rfl rfl)

theorem forgetRules_incidental (s : State) (d : Nat) (t : DS) : Incidental s (forgetRules s d t) :=
  .ite { Incidental.refl s with only := Only.set_rules (ps := incidentalParts) (Only.refl _ _) _ rfl, rules := rfl }
    (.refl _)

/-! ### The order of requests -/

theorem enqueue_incidental (s : State) (d : Nat) (q : Req) : Incidental s (enqueue s d q) := by
  refine modDom_incidental ?_ ?_ <;> (dsimp only; split <;> rfl)

theorem dom_st_modDom {s : State} {d : Nat} {f : Dom → Dom} (same : ∀ m, (f m).st = m.st) :
    (dom (modDom s d f) d).st = (dom s d).st := by
  rw [dom_modDom]
  split
  · exact same _
  · rfl

theorem advance_incidental (s : State) (d fuel : Nat) : Incidental s (advance s d fuel) := by
  induction fuel generalizing s with
  | zero => exact .refl _
  | succ fuel ih =>
    unfold advance
    extract_lets m
    split
    · exact .refl _
    · exact .refl _
    next q rest _ _ =>
    extract_lets s1 s2
    have h1 : Incidental s s1 := modDom_incidental rfl rfl
    split
    · exact h1.trans ((resolve_incidental ..).trans (ih _))
    split
    · exact h1.trans ((resolve_incidental ..).trans (ih _))
    split
    · exact h1.trans (modDom_incidental rfl rfl)
    next notOn =>
    split
    · exact h1.trans (modDom_incidental rfl rfl)
    next notUp =>
    have h2 : Incidental s s2 :=
      h1.trans (.ite ((loseBanks_incidental ..).trans (forgetRules_incidental ..)) (.refl _))
    have off : isOn s2 d = false := (h2.on d).trans (beq_eq_false_iff_ne.mpr notOn)
    have moved : Incidental s2 (modDom s2 d fun x => { x with st := q.target }) :=
      modDom_incidental ((beq_eq_false_iff_ne.mpr notUp).trans off.symm) rfl
    exact h2.trans (moved.trans ((resolve_incidental ..).trans (ih _)))

theorem takeOrder_incidental (s : State) (d : Nat) : Incidental s (takeOrder s d) := advance_incidental ..

theorem askRequired_incidental (s : State) (d : Nat) : Incidental s (askRequired s d) := by
  have ask : ∀ t : State, ∀ r, Incidental t
      (if isOn t r || risesLater t r || leaving t r then t else takeOrder (enqueue t r (devReq .on)) r) := fun t r =>
    .ite (.refl _) ((enqueue_incidental ..).trans (takeOrder_incidental ..))
  unfold askRequired
  split
  · exact .foldl ask _ (.refl _)
  · exact .foldl ask _ (.refl _)
  · exact .refl _

theorem settle_incidental (s : State) (d : Nat) : Incidental s (settle s d) :=
  (takeOrder_incidental ..).trans (askRequired_incidental ..)

theorem request_incidental (s : State) (d : Nat) (q : Req) : Incidental s (request s d q) :=
  (enqueue_incidental ..).trans (settle_incidental ..)

theorem requestAll_incidental (s : State) (l : List (Nat × DS)) : Incidental s (requestAll s l) := by
  unfold requestAll
  exact .foldl (fun t x => settle_incidental ..) _ (.foldl (fun t x => enqueue_incidental ..) _ (.refl _))

theorem demand_incidental (s : State) (d : Nat) : Incidental s (demand s d) := .ite (.refl _) (request_incidental ..)

theorem idleReturn_incidental (s : State) (d : Nat) : Incidental s (idleReturn s d) :=
  .ite (demand_incidental ..) (.refl _)

theorem askAccess_incidental (s : State) (f : QFrame) : Incidental s (askAccess s f) :=
  .foldl idleReturn_incidental _ (.refl _)

theorem askMemory_incidental (s : State) : Incidental s (askMemory s) := by
  unfold askMemory
  split
  · exact .refl _
  split
  · exact demand_incidental ..
  · exact .refl _

/-! ### Entries of a notice -/

theorem closeNotice_incidental (s : State) : Incidental s (closeNotice s) := by
  have close : ∀ (cs : List Nat) (f : QFrame), Incidental s (pushQueue
      { allocCells s cs with
        queues.gather := []
        queues.nextId := s.queues.nextId + 1
        tether.sseq := s.tether.sseq + 1
        tether.nseq := s.tether.nseq + 1 } noticeTag f) := fun cs f =>
    { Incidental.refl s with
      only := (Only.set_tether (Only.set_queues (ps := incidentalParts) (Only.refl _ _) _ rfl) _ rfl)
      link := fun p => by cases p <;> rfl
      loop := rfl
      hIsD := rfl }
  unfold closeNotice
  exact .ite (.refl _) (.ite (.foldl idleReturn_incidental _ (.refl _)) (close ..))

theorem makeRoom_incidental (s : State) (es : List (List Byte)) : Incidental s (makeRoom s es) :=
  .ite (closeNotice_incidental ..) (.refl _)

theorem entryW2E_incidental (s : State) (e : List Byte) : Incidental s (entryW2E s e) :=
  .ite (recordW2E_incidental ..) (.refl _)

theorem addEntry_incidental (s : State) (e : List Byte) : Incidental s (addEntry s e) := by
  unfold addEntry
  extract_lets s' q0 s1 more q1 s2
  have h0 : Incidental s s' := entryW2E_incidental ..
  have h1 : Incidental s s1 := h0.trans (makeRoom_incidental ..)
  have h2 : Incidental s s2 := h1.trans (.of_queues rfl rfl rfl fun _ => .inl rfl)
  have kept : ∀ l, Incidental s { s' with queues.kept := l } := fun _ => h0.trans (.of_queues rfl rfl rfl fun _ => .inl rfl)
  have lost : ∀ n, Incidental s { s' with queues.lostEntries := n } := fun _ => h0.trans (.of_queues rfl rfl rfl fun _ => .inl rfl)
  have full : ∀ n, Incidental s { s1 with queues.lostEntries := n } := fun _ => h1.trans (.of_queues rfl rfl rfl fun _ => .inl rfl)
  split
  · exact h0
  split
  · exact h0
  split
  next noPort =>
    exact h0.trans (.of_queues rfl rfl rfl fun up => by rw [up] at noPort; simp at noPort)
  split
  · exact .ite (kept _) (lost _)
  split
  · exact .ite (h2.trans (closeNotice_incidental ..)) h2
  · exact (full _).trans (askMemory_incidental ..)

theorem addEntries_incidental (s : State) (es : List (List Byte)) : Incidental s (addEntries s es) := by
  unfold addEntries
  exact .foldl addEntry_incidental _ (.ite (.refl _) (makeRoom_incidental ..))

theorem deferEntry_incidental (s : State) (e : List Byte) : Incidental s (deferEntry s e) := by
  unfold deferEntry
  split
  · exact entryW2E_incidental ..
  split
  · exact addEntry_incidental ..
  · next noPort => exact .of_queues rfl rfl rfl fun up => absurd up noPort

theorem reportFrame_incidental (s : State) (b : List Byte) (tag : Half) (reason : Byte) :
    Incidental s (reportFrame s b tag reason) := .ite (.refl _) (addEntry_incidental ..)

theorem flushDeferred_incidental (s : State) : Incidental s (flushDeferred s) := by
  unfold flushDeferred
  exact .foldl addEntry_incidental _ (.of_queues rfl rfl rfl fun _ => .inr rfl)

end Sys2Proof.Proofs

/-! ## What an outage, a profile and the safe mode leave undisturbed, and the straps and the loader of the boot (file 04) -/

namespace Sys2Proof.Proofs

open Sys2Proof Sys2Proof.Machine

/-- The causes of FAULT_N, the records and the copies of the NVM, and which domains are on or faulty stay; alerts may be
added. -/
structure Undisturbed (s t : State) : Prop where
  prot : t.prot = { s.prot with alerts := t.prot.alerts }
  alerts : ∀ a, a ∈ s.prot.alerts → a ∈ t.prot.alerts
  nvm : t.nvm = { s.nvm with hours := t.nvm.hours }
  on : ∀ d, isOn t d = isOn s d
  faulty : ∀ d, (dom t d).faulty = (dom s d).faulty

theorem Undisturbed.trans {s t u : State} (h : Undisturbed s t) (k : Undisturbed t u) : Undisturbed s u where
  prot := k.prot.trans (by rw [h.prot])
  alerts := fun a mem => k.alerts a (h.alerts a mem)
  nvm := k.nvm.trans (by rw [h.nvm])
  on := fun d => (k.on d).trans (h.on d)
  faulty := fun d => (k.faulty d).trans (h.faulty d)

theorem Undisturbed.refl (s : State) : Undisturbed s s := ⟨rfl, fun _ mem => mem, rfl, fun _ => rfl, fun _ => rfl⟩

theorem Undisturbed.ite {c : Prop} [Decidable c] {s t u : State} (h : Undisturbed s t) (k : Undisturbed s u) :
    Undisturbed s (if c then t else u) := by
  split
  · exact h
  · exact k

theorem Undisturbed.foldl {α : Type} {g : State → α → State} {s t : State} (step : ∀ t x, Undisturbed t (g t x)) (l : List α)
    (h : Undisturbed s t) : Undisturbed s (l.foldl g t) := by
  induction l generalizing t with
  | nil => exact h
  | cons x rest ih => exact ih (h.trans (step t x))

theorem Incidental.undisturbed {s t : State} (h : Incidental s t) : Undisturbed s t where
  prot := h.prot
  alerts := h.alerts
  nvm := by rw [show t.nvm = s.nvm from h.only.same .nvm rfl]
  on := h.on
  faulty := h.faulty

theorem isOn_of_bridle {s t : State} (same : t.bridle = s.bridle) (d : Nat) : isOn t d = isOn s d := by
  unfold isOn domSt dom
  rw [same]

/-- A change apart from alarms, NVM and Bridle. -/
theorem Undisturbed.of_only {ps : List Part} {s t : State} (h : Only ps s t) (prot : ps.contains .prot = false)
    (nvm : ps.contains .nvm = false) (bridle : ps.contains .bridle = false) : Undisturbed s t :=
  have protSame : t.prot = s.prot := h.same .prot prot
  have nvmSame : t.nvm = s.nvm := h.same .nvm nvm
  { prot := by rw [protSame]
    alerts := fun a mem => by rwa [protSame]
    nvm := by rw [nvmSame]
    on := isOn_of_bridle (h.same .bridle bridle)
    faulty := fun d => by rw [dom, h.same .bridle bridle]; rfl }

theorem Undisturbed.after_only {ps : List Part} {s t u : State} (h : Undisturbed s t) (k : Only ps t u)
    (prot : ps.contains .prot = false) (nvm : ps.contains .nvm = false) (bridle : ps.contains .bridle = false) :
    Undisturbed s u := h.trans (.of_only k prot nvm bridle)

theorem Undisturbed.fault {s t : State} (h : Undisturbed s t) {a : Alarm} (mem : a ∈ s.prot.faults) :
    a ∈ t.prot.faults := by rwa [h.prot]

/-! ### The start of an outage -/

theorem cancelRequests_incidental (s : State) (d : Nat) : Incidental s (cancelRequests s d) := by
  unfold cancelRequests
  exact .foldl (fun t q => resolve_incidental ..) _ (modDom_incidental rfl rfl)

theorem cancelBehind_undisturbed (s : State) : Undisturbed s (cancelBehind s) := by
  unfold cancelBehind
  exact .foldl (fun t x => (resolve_incidental ..).undisturbed) _ ⟨rfl, fun _ mem => mem, rfl, fun _ => rfl, fun _ => rfl⟩

theorem cancelJob_incidental (s : State) (j : Job) : Incidental s (cancelJob s j) := by
  unfold cancelJob
  extract_lets s1 late
  have h1 : Incidental s s1 := w0bEntry_incidental ..
  exact (h1.trans (.of_act rfl)).trans (record83_incidental ..)

theorem abandonXfer_undisturbed (s : State) (sub : Nat) (waits : Bool) : Undisturbed s (abandonXfer s sub waits) := by
  unfold abandonXfer
  split
  · exact .refl _
  next t _ =>
    have dropped : Undisturbed s { s with xfer := none } := ⟨rfl, fun _ mem => mem, rfl, fun _ => rfl, fun _ => rfl⟩
    exact .ite (dropped.trans (deferEntry_incidental ..).undisturbed) (dropped.trans (addEntry_incidental ..).undisturbed)

theorem waiting_undisturbed (s : State) (l : List Job) : Undisturbed s { s with bridle.waiting := l } :=
  ⟨rfl, fun _ mem => mem, rfl, fun _ => rfl, fun _ => rfl⟩

theorem openSet_undisturbed (s : State) (o : Option OpenSet) (setno : Option Half) :
    Undisturbed s { s with rules.openSet := o, rules.refused := setno } :=
  ⟨rfl, fun _ mem => mem, rfl, fun _ => rfl, fun _ => rfl⟩

theorem beginOutage_undisturbed (s : State) (x : Starter) : Undisturbed s (beginOutage s x) := by
  unfold beginOutage
  extract_lets gauge nvm s1 s2 b s3 s4 s5
  have h1 : Undisturbed s s1 := ⟨rfl, fun _ mem => mem, rfl, fun _ => rfl, fun _ => rfl⟩
  have h2 : Undisturbed s s2 := .foldl (fun t d => (cancelRequests_incidental t d).undisturbed) (List.range 20) h1
  have noneWaits : Undisturbed s { s2 with bridle.waiting := [] } := h2.trans (waiting_undisturbed s2 [])
  have h3 : Undisturbed s s3 :=
    (noneWaits.foldl (fun t j => (cancelJob_incidental t j).undisturbed) s2.bridle.waiting).trans (cancelBehind_undisturbed _)
  have h4 : Undisturbed s s4 := (h3.after_only (endTries_only ..) rfl rfl rfl).after_only (endTries_only ..) rfl rfl rfl
  have h5 : Undisturbed s s5 := (h4.after_only (finishPage_only ..) rfl rfl rfl).trans (abandonXfer_undisturbed ..)
  split
  · exact (h5.trans (openSet_undisturbed s5 ..)).trans (deferEntry_incidental ..).undisturbed
  · exact h5

theorem fireStarter_undisturbed (s : State) (x : Starter) : Undisturbed s (fireStarter s x) :=
  .ite (.refl _) (.ite (beginOutage_undisturbed ..) ⟨rfl, fun _ mem => mem, rfl, fun _ => rfl, fun _ => rfl⟩)

theorem pfailNow_undisturbed (s : State) : Undisturbed s (pfailNow s) := .ite (.refl _) (fireStarter_undisturbed ..)

/-! ### Safe mode (R147) -/

theorem safeRailsOff_undisturbed (s : State) : Undisturbed s (safeRailsOff s) := by
  have descent : Undisturbed s { s with reg.descent := isOn s 17 && isOn s 18 } := ⟨rfl, fun _ mem => mem, rfl, fun _ => rfl, fun _ => rfl⟩
  exact .ite (descent.trans (requestAll_incidental ..).undisturbed) (.refl _)

theorem bringUp_incidental (s : State) (l : List Nat) : Incidental s (bringUp s l) := requestAll_incidental ..

theorem checkNvm_prot_faults (s : State) : ∀ a, a ∈ s.prot.faults → a ∈ (checkNvm s).prot.faults := by
  unfold checkNvm
  intro a mem
  split
  · exact mem
  · exact (mem_addNew ..).mpr (.inr mem)

/-- Safe mode is entered with no Reel, FAULT_N asserted, the NVM as its check leaves it, the domains as they are and a boot
that is over. -/
theorem enterSafe_reached (s : State) :
    (enterSafe s).boot = { s.boot with safe := true, step := .running, warm := false } ∧ (enterSafe s).reel = none ∧
      (enterSafe s).nvm = { (checkNvm s).nvm with hours := (enterSafe s).nvm.hours } ∧
      Alarm.safeMode ∈ (enterSafe s).prot.faults ∧ ∀ d, isOn (enterSafe s) d = isOn s d := by
  unfold enterSafe
  extract_lets s0 late boot front queues s1
  have checked : Only [.nvm, .prot] s s0 := checkNvm_only s
  have up : Undisturbed (addFault s1 .safeMode) (pfailNow (bringUp (safeRailsOff (addFault s1 .safeMode)) [0, 13, 14])) :=
    ((safeRailsOff_undisturbed _).trans (bringUp_incidental ..).undisturbed).trans (pfailNow_undisturbed _)
  have late : Only [.free, .nvm, .flash, .xfer, .rules, .act, .bridle, .reg, .prot, .tether, .queues, .win, .gauge, .outage,
      .integ] (addFault s1 .safeMode) (pfailNow (bringUp (safeRailsOff (addFault s1 .safeMode)) [0, 13, 14])) :=
    (((Only.refl _ _).post (safeRailsOff_only _) rfl).post (bringUp_only _ _) rfl).post (pfailNow_only _) rfl
  refine ⟨(late.same .boot rfl).trans ?_, late.same .reel rfl, up.nvm, up.fault (mem_addFault ..), fun d => (up.on d).trans ?_⟩
  · exact congrArg (fun b : Boot => { b with safe := true, step := .running, warm := false }) (checked.same .boot rfl)
  · exact isOn_of_bridle (checked.same .bridle rfl) d

theorem enterSafe_fault (s : State) : faultAsserted (enterSafe s) = true :=
  faultAsserted_of_mem _ _ (enterSafe_reached s).2.2.2.1

/-! ### The straps -/

/-- STRAP_DECODE in the sampling of the straps: what is decided before the device goes on. -/
def strapsTaken (rv : Vector (Vector Nat 3) 12) (tr : Vector (Vector PullReading 3) 7) (s : State) : State :=
  raiseKept (strapAlarms (refreshStraps { s with straps := decideStraps (variant s) rv tr, boot.step := .decided }))

theorem exec_strapDecode_sampling (rv : Vector (Vector Nat 3) 12) (tr : Vector (Vector PullReading 3) 7) {s : State}
    (sampling : s.boot.step = .sampling) :
    exec (.strapDecode rv tr) s = .next (if (strapsTaken rv tr s).boot.idFailed then strapsTaken rv tr s
      else if tri (strapsTaken rv tr s) 6 = .high ∨ (stallAddr (strapsTaken rv tr s)).isNone
      then enterSafe (strapsTaken rv tr s) else strapsTaken rv tr s) := by
  change execStrapDecode rv tr s = _
  unfold execStrapDecode strapsTaken
  rw [if_neg (not_not_intro sampling)]
  simp only [Bool.or_eq_true, decide_eq_true_eq]

theorem not_boot_of_addFault {s : State} {a : Alarm} (other : Alarm.boot ≠ a) (absent : Alarm.boot ∉ s.prot.faults) :
    Alarm.boot ∉ (addFault s a).prot.faults := by
  intro mem
  rcases (mem_addNew ..).mp mem with same | old
  · exact other same
  · exact absent old

theorem strapAlarms_straps (s : State) :
    (strapAlarms s).straps = { s.straps with strapf := strapFaultN s || strapAlertN s } := by
  unfold strapAlarms
  extract_lets st s1 s2 s3
  have h2 : s2.straps = s1.straps := by unfold s2; split <;> rfl
  have h3 : s3.straps = s1.straps := by unfold s3; split <;> exact h2
  split <;> exact h3

/-- The release of the boot cause is not undone by the alarms of the straps. -/
theorem strapAlarms_boot_cause (s : State) : Alarm.boot ∉ (strapAlarms s).prot.faults := by
  unfold strapAlarms
  extract_lets st s1 s2 s3
  have h1 : Alarm.boot ∉ s1.prot.faults := not_mem_dropFault _ _
  have h2 : Alarm.boot ∉ s2.prot.faults := by
    unfold s2; split
    · exact not_boot_of_addFault (by decide) h1
    · exact h1
  have h3 : Alarm.boot ∉ s3.prot.faults := by unfold s3; split <;> exact h2
  split <;> exact h3

theorem strapsTaken_boot (rv : Vector (Vector Nat 3) 12) (tr : Vector (Vector PullReading 3) 7) (s : State) :
    (strapsTaken rv tr s).boot = { s.boot with step := .decided } :=
  ((((Only.refl [.reg, .straps, .prot, .act] { s with straps := decideStraps (variant s) rv tr, boot.step := .decided }).post
    (refreshStraps_only _) rfl).post (strapAlarms_only _) rfl).post (raiseKept_only _) rfl).same .boot rfl

theorem strapsTaken_straps (rv : Vector (Vector Nat 3) 12) (tr : Vector (Vector PullReading 3) 7) (s : State) :
    (strapsTaken rv tr s).straps.rv = (decideStraps (variant s) rv tr).rv ∧
      (strapsTaken rv tr s).straps.tri = (decideStraps (variant s) rv tr).tri := by
  have taken : (strapsTaken rv tr s).straps = _ := ((raiseKept_only _).same .straps rfl).trans (strapAlarms_straps _)
  constructor <;> rw [taken] <;> rfl

theorem strapsTaken_boot_cause (rv : Vector (Vector Nat 3) 12) (tr : Vector (Vector PullReading 3) 7) (s : State) :
    Alarm.boot ∉ (strapsTaken rv tr s).prot.faults := by
  have same : (strapsTaken rv tr s).prot = _ := (raiseKept_only _).same .prot rfl
  rw [same]
  exact strapAlarms_boot_cause _

/-- Settles O15: after the decision the identity, T_SAFE and the address choose between waiting, safe mode and step 6. -/
theorem strapsAreDecided : Obligations.StrapsAreDecided := by
  unfold Obligations.StrapsAreDecided
  intro rv tr s sampling
  have run := exec_strapDecode_sampling rv tr sampling
  obtain ⟨rvs, tris⟩ := strapsTaken_straps rv tr s
  have boot := strapsTaken_boot rv tr s
  have cause := strapsTaken_boot_cause rv tr s
  generalize strapsTaken rv tr s = u at run rvs tris boot cause
  have idFailed : u.boot.idFailed = s.boot.idFailed := by rw [boot]
  by_cases failed : s.boot.idFailed = true
  · rw [if_pos (idFailed.trans failed)] at run
    refine ⟨_, run, rvs, tris, fun _ => by rw [boot]; exact ⟨rfl, rfl⟩, ?_, ?_⟩
    · intro good; exact absurd (failed.symm.trans good) (by decide)
    · intro good; exact absurd (failed.symm.trans good) (by decide)
  rw [if_neg fun h => failed (idFailed.symm.trans h)] at run
  by_cases safe : tri u 6 = .high ∨ (stallAddr u).isNone
  · rw [if_pos safe] at run
    have straps : (enterSafe u).straps = u.straps := (enterSafe_only u).same .straps rfl
    obtain ⟨bootAfter, _⟩ := enterSafe_reached u
    refine ⟨_, run, straps ▸ rvs, straps ▸ tris, fun h => absurd h failed, fun _ _ => ⟨by rw [bootAfter], enterSafe_fault u⟩,
      fun _ low addr => ?_⟩
    have same6 : tri (enterSafe u) 6 = tri u 6 := by unfold tri; rw [straps]
    have sameAddr : stallAddr (enterSafe u) = stallAddr u := by simp only [stallAddr, rawAddr, Machine.rv, straps]
    rcases safe with high | none
    · exact absurd (same6.trans high) low
    · exact absurd (sameAddr.trans (Option.isNone_iff_eq_none.mp none)) addr
  · rw [if_neg safe] at run
    refine ⟨_, run, rvs, tris, fun h => absurd h failed, fun _ h => ?_, fun _ _ _ => ⟨by rw [boot], cause⟩⟩
    exact absurd (h.imp_right Option.isNone_iff_eq_none.mpr) safe

end Sys2Proof.Proofs

/-! ## What a domain that leaves on does to alarms and records, and the loader and the supplies (files 02, 04 and 10) -/

namespace Sys2Proof.Proofs

open Sys2Proof Sys2Proof.Machine

/-- The causes of FAULT_N and the faulty domains stay, alerts may be added, and the latch holds records of the same codes
and channels in the same order. -/
structure RecordsStay (s t : State) : Prop where
  faults : t.prot.faults = s.prot.faults
  alerts : ∀ a, a ∈ s.prot.alerts → a ∈ t.prot.alerts
  codes : t.prot.latch.map (fun r => (r.code, r.aux)) = s.prot.latch.map fun r => (r.code, r.aux)
  faulty : ∀ d, (dom t d).faulty = (dom s d).faulty

theorem RecordsStay.trans {s t u : State} (h : RecordsStay s t) (k : RecordsStay t u) : RecordsStay s u :=
  ⟨k.faults.trans h.faults, fun a mem => k.alerts a (h.alerts a mem), k.codes.trans h.codes,
    fun d => (k.faulty d).trans (h.faulty d)⟩

theorem RecordsStay.of_same {s t : State} (prot : t.prot = s.prot) (faulty : ∀ d, (dom t d).faulty = (dom s d).faulty) :
    RecordsStay s t :=
  ⟨congrArg Prot.faults prot, fun _ mem => prot ▸ mem, congrArg (fun p : Prot => p.latch.map fun r => (r.code, r.aux)) prot, faulty⟩

theorem dom_of_bridle {s t : State} (same : t.bridle = s.bridle) (d : Nat) : dom t d = dom s d := by
  unfold dom
  rw [same]

theorem RecordsStay.of_prot {s t : State} (prot : t.prot = s.prot) (bridle : t.bridle = s.bridle) : RecordsStay s t :=
  .of_same prot fun d => congrArg Dom.faulty (dom_of_bridle bridle d)

theorem RecordsStay.refl (s : State) : RecordsStay s s := .of_prot rfl rfl

theorem RecordsStay.ite {c : Prop} [Decidable c] {s t u : State} (h : RecordsStay s t) (k : RecordsStay s u) :
    RecordsStay s (if c then t else u) := by
  split
  · exact h
  · exact k

theorem RecordsStay.foldl {α : Type} {g : State → α → State} {s t : State} (step : ∀ t x, RecordsStay t (g t x))
    (l : List α) (h : RecordsStay s t) : RecordsStay s (l.foldl g t) := by
  induction l generalizing t with
  | nil => exact h
  | cons x rest ih => exact ih (h.trans (step t x))

theorem RecordsStay.after_only {ps : List Part} {s t u : State} (h : RecordsStay s t) (k : Only ps t u)
    (prot : ps.contains .prot = false) (bridle : ps.contains .bridle = false) : RecordsStay s u :=
  h.trans (.of_prot (k.same .prot prot) (k.same .bridle bridle))

/-- One domain changed, not in its fault. -/
theorem RecordsStay.modDom {s t : State} (h : RecordsStay s t) {d : Nat} {f : Dom → Dom} (same : ∀ m, (f m).faulty = m.faulty) :
    RecordsStay s (modDom t d f) :=
  h.trans (.of_same rfl fun e => by
    rw [dom_modDom]
    split
    · exact same _
    · rfl)

theorem RecordsStay.set_reg {s t : State} (h : RecordsStay s t) (v : Reg) : RecordsStay s { t with reg := v } := ⟨h.faults, h.alerts, h.codes, h.faulty⟩

theorem RecordsStay.set_rules {s t : State} (h : RecordsStay s t) (v : RuleMem) : RecordsStay s { t with rules := v } :=
  ⟨h.faults, h.alerts, h.codes, h.faulty⟩

theorem RecordsStay.set_tether {s t : State} (h : RecordsStay s t) (v : Tether) : RecordsStay s { t with tether := v } :=
  ⟨h.faults, h.alerts, h.codes, h.faulty⟩

theorem RecordsStay.set_win {s t : State} (h : RecordsStay s t) (v : Window) : RecordsStay s { t with win := v } :=
  ⟨h.faults, h.alerts, h.codes, h.faulty⟩

theorem RecordsStay.set_rules_engs {s t : State} (h : RecordsStay s t) (v : RuleMem) (w : Engines) :
    RecordsStay s { t with rules := v, engs := w } := ⟨h.faults, h.alerts, h.codes, h.faulty⟩

theorem RecordsStay.code {s t : State} (h : RecordsStay s t) {c : BitVec 5} (kept : ∃ r ∈ s.prot.latch, r.code = c) :
    ∃ r ∈ t.prot.latch, r.code = c := by
  obtain ⟨r, mem, code⟩ := kept
  have there : (r.code, r.aux) ∈ t.prot.latch.map fun r => (r.code, r.aux) := h.codes ▸ List.mem_map.mpr ⟨r, mem, rfl⟩
  obtain ⟨r', mem', same⟩ := List.mem_map.mp there
  exact ⟨r', mem', (congrArg Prod.fst same).trans code⟩

theorem RecordsStay.length {s t : State} (h : RecordsStay s t) : t.prot.latch.length = s.prot.latch.length := by
  simpa using congrArg List.length h.codes

/-- Whether a rail is failing is read from the codes and channels of the records. -/
theorem RecordsStay.railFailing {s t : State} (h : RecordsStay s t) (c : Chan) :
    Machine.railFailing t c = Machine.railFailing s c := by
  have read : ∀ u : State, Machine.railFailing u c =
      (u.prot.latch.map fun r => (r.code, r.aux)).any fun x => x.1 == 0x0C && x.2 == (c == .aux) := fun u => by
    rw [List.any_map]
    rfl
  rw [read, read, h.codes]

theorem Undisturbed.recordsStay {s t : State} (h : Undisturbed s t) : RecordsStay s t where
  faults := by rw [h.prot]
  alerts := h.alerts
  codes := by rw [h.prot]
  faulty := h.faulty

theorem Incidental.recordsStay {s t : State} (h : Incidental s t) : RecordsStay s t := h.undisturbed.recordsStay

/-! ### A domain that leaves on -/

theorem endAlarms_recordsStay (s : State) (codes : List (BitVec 5)) (aux : Bool) :
    RecordsStay s (endAlarms s codes aux) where
  faults := rfl
  alerts := fun _ mem => mem
  codes := by
    unfold endAlarms pruneAlarms
    dsimp only
    rw [List.map_map]
    rfl
  faulty := fun _ => rfl

theorem channelLeaves_recordsStay (s : State) (c : Chan) (forced : Bool) : RecordsStay s (channelLeaves s c forced) := by
  unfold channelLeaves
  extract_lets r0 s0 s1 r1 s2 s3 r2 s4
  have h0 : RecordsStay s s0 := .ite ((RecordsStay.refl s).set_reg _) (.refl _)
  have h1 : RecordsStay s s1 := .ite (h0.after_only (stopChan_only ..) rfl rfl) ((h0.after_only (dropPgood_only ..) rfl rfl).trans
    (.of_prot (setPwm_prot ..) (setPwm_bridle ..)))
  have h2 : RecordsStay s s2 := .ite (h1.set_reg _) h1
  have h3 : RecordsStay s s3 := (h2.trans (.of_prot (modChan_prot ..) (modChan_bridle ..))).trans (endAlarms_recordsStay ..)
  have h4 : RecordsStay s s4 := by
    unfold s4
    cases c
    · exact h3.set_reg _
    · exact h3.set_reg _
  exact h4.after_only (refreshStraps_only ..) rfl rfl

theorem refuseSet_recordsStay (s : State) (setno : Half) (sub : Nat) : RecordsStay s (refuseSet s setno sub) :=
  ((RecordsStay.refl s).set_rules _).trans (addEntry_incidental ..).recordsStay

theorem ruleMemoryLeaves_recordsStay (s : State) : RecordsStay s (ruleMemoryLeaves s) := by
  unfold ruleMemoryLeaves
  extract_lets s1 s2
  have h1 : RecordsStay s s1 :=
    .foldl (fun t e => .of_prot ((engineLeaves_only t e).same .prot rfl) ((engineLeaves_only t e).same .bridle rfl)) [0, 1, 2, 3] (.refl _)
  have h2 : RecordsStay s s2 := by
    unfold s2
    split
    · exact h1.trans (refuseSet_recordsStay ..)
    · exact h1
  exact .foldl (fun t c => (addEntry_incidental ..).recordsStay) s2.rules.commits (h2.set_rules_engs _ _)

theorem portDownAs_recordsStay (s : State) (p : Port) (c : DownCause) (orderly : Bool) :
    RecordsStay s (portDownAs s p c orderly) := by
  unfold portDownAs
  extract_lets o s1 s1' h s2 pay s3 s4 s5 s6
  have reset : ∀ st step, RecordsStay s (resetLink s p st step) := fun _ _ => (RecordsStay.refl s).after_only (resetLink_only ..) rfl rfl
  have h1 : RecordsStay s s1 := by
    unfold s1
    split
    · exact reset ..
    · exact .ite (reset ..) (reset ..)
    · exact (reset ..).after_only (addErr_only ..) rfl rfl
    · exact reset ..
  have h1' : RecordsStay s s1' := h1.after_only (dropRings_only ..) rfl rfl
  have h2 : RecordsStay s s2 := .ite (h1'.set_tether _) h1'
  have h3 : RecordsStay s s3 := .ite (h2.after_only (originate_only ..) rfl rfl) h2
  have h4 : RecordsStay s s4 := h3.trans (addAlert_incidental ..).recordsStay
  have h5 : RecordsStay s s5 := .ite (h4.trans (addEntry_incidental ..).recordsStay) h4
  have h6 : RecordsStay s s6 := h5.trans (addAlert_incidental ..).recordsStay
  exact .ite h3 (.ite (.ite (h6.trans (addEntry_incidental ..).recordsStay) h6) h5)

theorem portLeaves_recordsStay (s : State) (p : Port) (forced : Bool) : RecordsStay s (portLeaves s p forced) :=
  .ite (portDownAs_recordsStay ..) (.of_prot (modLink_prot ..) (modLink_bridle ..))

theorem blockLeaves_recordsStay (s : State) (d : Nat) (forced : Bool) : RecordsStay s (blockLeaves s d forced) := by
  have early : RecordsStay s (storeEarliest s d) := .of_prot ((storeEarliest_only s d).same .prot rfl)
    ((storeEarliest_only s d).same .bridle rfl)
  unfold blockLeaves
  dsimp only
  split
  case h_1 | h_2 | h_3 => exact early.after_only (frontLeaves_only ..) rfl rfl
  case h_4 | h_5 | h_6 | h_7 => exact early.after_only (engineLeaves_only ..) rfl rfl
  case h_8 => exact (early.trans (ruleMemoryLeaves_recordsStay _)).set_rules _
  case h_9 => exact ((early.set_rules _).trans (abandonXfer_undisturbed ..).recordsStay).set_win _
  case h_10 => exact early.after_only (dropLeaves_only _) rfl rfl
  case h_11 | h_12 => exact (early.trans (channelLeaves_recordsStay ..)).after_only (monitorsLeave_only ..) rfl rfl
  case h_13 => exact early.after_only (monitorsLeave_only ..) rfl rfl
  case h_14 => exact early

theorem domLeaves_recordsStay (s : State) (d : Nat) (x : DS) (forced : Bool) : RecordsStay s (domLeaves s d x forced) := by
  unfold domLeaves
  extract_lets s1 s2 s3 s4
  have h1 : RecordsStay s s1 := blockLeaves_recordsStay ..
  have h2 : RecordsStay s s2 := h1.trans (loseBanks_incidental ..).recordsStay
  have h3 : RecordsStay s s3 := h2.modDom fun _ => rfl
  have h4 : RecordsStay s s4 := h3.after_only (forgetRules_only ..) rfl rfl
  exact .ite (h4.trans (portLeaves_recordsStay ..)) (.ite (h4.trans (portLeaves_recordsStay ..)) h4)

theorem forceDown_recordsStay (s : State) (d : Nat) (r : ReqResult) (reason : BitVec 4) :
    RecordsStay s (forceDown s d r reason) := by
  unfold forceDown
  extract_lets m s0 s1 s2
  have h0 : RecordsStay s s0 := by
    unfold s0
    split
    · exact .of_prot (modTry_prot ..) (modTry_bridle ..)
    · exact .refl _
  have h1 : RecordsStay s s1 := by
    refine .ite (h0.trans (domLeaves_recordsStay ..)) ?_
    have lost : RecordsStay s (loseBanks s0 d 0) := h0.trans (loseBanks_incidental ..).recordsStay
    have off : RecordsStay s (modDom (loseBanks s0 d 0) d fun x => { x with st := .off }) := lost.modDom fun _ => rfl
    exact off.after_only (forgetRules_only ..) rfl rfl
  have h2 : RecordsStay s s2 := by
    unfold s2
    split
    · have ended : RecordsStay s (endCur s1 d) := h1.modDom fun _ => rfl
      exact ended.trans (resolve_incidental ..).recordsStay
    · exact h1
  exact h2.after_only (pinsAtRailDown_only ..) rfl rfl

end Sys2Proof.Proofs

/-! ## The loader (steps 7 and 8 of the boot) and the fall of a supply (files 02, 04 and 10) -/

namespace Sys2Proof.Proofs

open Sys2Proof Sys2Proof.Machine

theorem off_of_noRise {s t : State} {d : Nat} (h : NoRise s t) (off : isOn s d = false) : isOn t d = false :=
  Bool.eq_false_iff.mpr fun on => Bool.eq_false_iff.mp off (h.fall d on)

/-- A domain moved to a state other than on is not on. -/
theorem off_of_modDom {s : State} {d : Nat} {f : Dom → Dom} (off : (f (dom s d)).st ≠ .on) (out : isOn s d = false ∨ d < 20) :
    isOn (modDom s d f) d = false := by
  unfold isOn domSt
  rw [dom_modDom]
  split
  · exact beq_eq_false_iff_ne.mpr off
  next outside =>
    rcases out with zero | inside
    · exact zero
    · exact absurd ⟨rfl, inside⟩ outside

/-! ### The loader -/

theorem isOn_loaderOn (s : State) (v : Bool) : isOn (loaderOn s v) 15 = v := by
  unfold isOn domSt loaderOn
  rw [dom_modDom, if_pos ⟨rfl, by decide⟩]
  cases v <;> rfl

theorem exec_loaderStart_supplies {s : State} (vcin : s.sup.vcin = true) (vaon : s.sup.vaon = true) :
    exec .loaderStart s = .next (if s.boot.step = .decided && !s.boot.idFailed
      then loaderOn { s with boot.step := .loader, boot.probes := 0 } true
      else if s.boot.safe && !isOn s 15 && s.boot.probes < 10 && s.outage.step = 0 then loaderOn s true else s) := by
  change execLoaderStart s = _
  unfold execLoaderStart
  rw [if_neg (by rw [vcin, vaon]; decide)]

theorem exec_flashProbe_on (j : BitVec 24) (f : FlashPart) {s : State} (on : isOn s 15 = true) (left : s.boot.probes < 10) :
    exec (.flashProbe j f) s = .next (if s.boot.step = .loader then
      if flashUsable j then { s with boot.step := .identified, boot.flashMode := flashAgrees s f, boot.flashOk := true }
      else if s.boot.probes + 1 = 10 then enterSafe { s with boot.probes := s.boot.probes + 1 }
        else { s with boot.probes := s.boot.probes + 1 }
    else if s.boot.safe && s.xfer.isNone then
      if flashUsable j then { s with boot.flashMode := flashAgrees s f, boot.flashOk := true }
      else { s with boot.probes := s.boot.probes + 1, boot.flashOk := false }
    else s) := by
  change execFlashProbe j f s = _
  unfold execFlashProbe
  rw [if_neg (by rw [on]; simpa using left)]

/-- A load that is abandoned goes back to before step 7, with PD15 off. -/
theorem abandonLoad_loading {s : State} (loading : s.boot.step = .loader ∨ s.boot.step = .identified) :
    abandonLoad s = loaderOn { s with boot.step := .decided, boot.probes := 0 } false := by
  unfold abandonLoad
  rcases loading with h | h <;> rw [h]

/-! ### A domain forced down -/

theorem domLeaves_off (s : State) {d : Nat} (isDom : d < 20) {x : DS} (forced : Bool) (off : x ≠ .on) :
    isOn (domLeaves s d x forced) d = false := by
  unfold domLeaves
  extract_lets s1 s2 s3 s4
  have h3 : isOn s3 d = false := off_of_modDom off (.inr isDom)
  have h4 : isOn s4 d = false := off_of_noRise (.of_only (forgetRules_only ..) rfl) h3
  split
  · exact off_of_noRise (portLeaves_noRise ..) h4
  split
  · exact off_of_noRise (portLeaves_noRise ..) h4
  · exact h4

theorem forceDown_off (s : State) {d : Nat} (isDom : d < 20) (r : ReqResult) (reason : BitVec 4) :
    isOn (forceDown s d r reason) d = false := by
  unfold forceDown
  extract_lets m s0 s1 s2
  have h1 : isOn s1 d = false := by
    unfold s1
    split
    · exact domLeaves_off _ isDom _ (by decide)
    · exact off_of_noRise (.of_only (forgetRules_only ..) rfl) (off_of_modDom DS.noConfusion (.inr isDom))
  have h2 : isOn s2 d = false := by
    unfold s2
    split
    · exact off_of_noRise ((endCur_noRise ..).after (resolve_noRise ..)) h1
    · exact h1
  exact off_of_noRise (.of_only (pinsAtRailDown_only ..) rfl) h2

/-- Every domain of a list that is forced down is off in the end. -/
theorem forceDown_all_off {l : List Nat} {d : Nat} (mem : d ∈ l) (isDom : d < 20) (r : ReqResult) (reason : BitVec 4)
    (s : State) : isOn (l.foldl (fun t e => forceDown t e r reason) s) d = false := by
  have stays : ∀ (k : List Nat) (t : State), isOn t d = false →
      isOn (k.foldl (fun t e => forceDown t e r reason) t) d = false := fun k t off =>
    off_of_noRise (NoRise.foldl (fun u e h => h.after (forceDown_noRise ..)) k (.refl t)) off
  induction l generalizing s with
  | nil => cases mem
  | cons e rest ih =>
    rcases List.mem_cons.mp mem with here | later
    · subst here
      exact stays rest _ (forceDown_off _ isDom ..)
    · exact ih later _

/-! ### An outage that goes on -/

/-- Incidental changes after a step of the outage sequence: the parts it sets itself apart, a step of the sequence makes
requests. -/
theorem Incidental.set_outage_reg {s t : State} (h : Incidental s t) (o : Outage) (r : Reg) :
    Incidental { s with outage := o, reg := r } { t with outage := o, reg := r } where
  only := ⟨fun p apart => by
    cases p
    case outage => rfl
    case reg => rfl
    all_goals exact h.only.same _ apart⟩
  prot := h.prot
  alerts := h.alerts
  rules := h.rules
  on := h.on
  bridle := h.bridle
  act := h.act
  link := h.link
  loop := h.loop
  hIsD := h.hIsD
  win := h.win
  marks := h.marks
  tally := h.tally
  deferred := h.deferred
  earliest := h.earliest
  faulty := h.faulty

/-- The state differs in the outage sequence and the regulator, and in what requests change. -/
def Sequenced (s t : State) : Prop := ∃ o r, Incidental { s with outage := o, reg := r } t

theorem Sequenced.refl (s : State) : Sequenced s s := ⟨s.outage, s.reg, .refl s⟩

theorem Sequenced.trans {s t u : State} (h : Sequenced s t) (k : Sequenced t u) : Sequenced s u := by
  obtain ⟨o, r, h⟩ := h
  obtain ⟨o', r', k⟩ := k
  exact ⟨o', r', (h.set_outage_reg o' r').trans k⟩

theorem Sequenced.ite {c : Prop} [Decidable c] {s t u : State} (h : Sequenced s t) (k : Sequenced s u) :
    Sequenced s (if c then t else u) := by
  split
  · exact h
  · exact k

theorem enterU5_sequenced (s : State) : Sequenced s (enterU5 s) := ⟨_, _, requestAll_incidental ..⟩

theorem enterStep6_sequenced (s : State) : Sequenced s (enterStep6 s) := ⟨_, _, requestAll_incidental ..⟩

theorem descentEnds_sequenced (s : State) : Sequenced s (descentEnds s) := by
  have returned : Sequenced s { s with outage.returned := false, outage.fired := [] } := ⟨_, _, .refl _⟩
  exact .ite (returned.trans (enterU5_sequenced _)) (enterStep6_sequenced s)

theorem undoGoesOn_sequenced (s : State) : Sequenced s (undoGoesOn s) :=
  .ite (.ite (enterU5_sequenced s) (enterStep6_sequenced s)) (.refl s)

theorem descentGoesOn_sequenced (s : State) : Sequenced s (descentGoesOn s) := .ite (descentEnds_sequenced s) (.refl s)

theorem outageGoesOn_sequenced (s : State) : Sequenced s (outageGoesOn s) :=
  (descentGoesOn_sequenced s).trans (undoGoesOn_sequenced _)

theorem Sequenced.undisturbed {s t : State} (h : Sequenced s t) : Undisturbed s t := by
  obtain ⟨o, r, h⟩ := h
  have set : Undisturbed s { s with outage := o, reg := r } := ⟨rfl, fun _ mem => mem, rfl, fun _ => rfl, fun _ => rfl⟩
  exact set.trans h.undisturbed

theorem Sequenced.bridle {s t : State} (h : Sequenced s t) :
    t.bridle = { s.bridle with doms := t.bridle.doms, jobs := t.bridle.jobs, w0b := t.bridle.w0b } := by
  obtain ⟨o, r, h⟩ := h
  exact h.bridle

/-! ### The fall of a supply -/

/-- The state in which the domains that a fallen supply feeds have been forced down. -/
def afterForced (s : State) (x : Supply) (snap : Snap) : State :=
  let l := forcedBy s x
  let c : Chan := if l.contains 18 && !l.contains 17 then .aux else .main
  let s1 := if x = .vbak then s else capture s 0x0D 0 c (l.contains 17 || l.contains 18) snap []
  l.foldl (fun t d => forceDown t d .failed 0xC) { s1 with sup := dropSupply s1.sup x }

/-- What hangs on a fallen supply beside the domains it feeds: a load, the balls on VIO, the balls on VPWM, the store. -/
def afterSupply (s : State) (x : Supply) : State :=
  let t := if x = .vcin then abandonLoad s else s
  match x with
  | .vio => vioLost t
  | .vpwm => pwmLost (pwmLost t .main) .aux
  | .vbak => if t.sup.vaon then backToVaon t else t
  | _ => t

theorem supplyFalls_eq (s : State) (x : Supply) (snap : Snap) :
    supplyFalls s x snap = outageGoesOn ((forcedBy s x).foldl settle (afterSupply (afterForced s x snap) x)) := rfl

theorem afterForced_only (s : State) (x : Supply) (snap : Snap) :
    Only [.free, .sup, .xfer, .front, .rules, .engs, .act, .bridle, .reg, .prot, .mons, .tether, .queues, .drop, .win,
      .integ] s (afterForced s x snap) := by
  unfold afterForced
  extract_lets l c s1
  have h1 : Only [.free, .sup, .xfer, .front, .rules, .engs, .act, .bridle, .reg, .prot, .mons, .tether, .queues, .drop, .win,
      .integ] s s1 := by
    unfold s1
    split
    · exact .refl _ _
    · exact (capture_only ..).mono rfl
  exact Only.foldl (fun t d h => h.post (forceDown_only ..) rfl) l (Only.set_sup h1 _ rfl)

theorem afterForced_sup (s : State) (x : Supply) (snap : Snap) : (afterForced s x snap).sup = dropSupply s.sup x := by
  unfold afterForced
  extract_lets l c s1
  have h1 : s1.sup = s.sup := by
    unfold s1
    split
    · rfl
    · exact (capture_only ..).same .sup rfl
  have down : Only [.free, .xfer, .front, .rules, .engs, .act, .bridle, .reg, .prot, .mons, .tether, .queues, .drop, .win,
      .integ] { s1 with sup := dropSupply s1.sup x }
      (l.foldl (fun t d => forceDown t d .failed 0xC) { s1 with sup := dropSupply s1.sup x }) :=
    Only.foldl (fun t d h => h.post (forceDown_only ..) rfl) l (Only.refl _ _)
  exact (down.same .sup rfl).trans (congrArg (dropSupply · x) h1)

theorem afterForced_off {s : State} {x : Supply} (snap : Snap) {d : Nat} (mem : d ∈ forcedBy s x) (isDom : d < 20) :
    isOn (afterForced s x snap) d = false := forceDown_all_off mem isDom ..

/-- The fall of a supply other than VBAK leaves its record where one can be kept. -/
theorem afterForced_record {s : State} {x : Supply} (snap : Snap) (counted : x ≠ .vbak) (room : s.prot.latch.length < 4) :
    ∃ r ∈ (afterForced s x snap).prot.latch, r.code = 0x0D := by
  unfold afterForced
  extract_lets l c s1
  have record : ∃ r ∈ s1.prot.latch, r.code = 0x0D := by
    unfold s1
    rw [if_neg counted, capture, if_neg (by omega)]
    exact ⟨_, List.mem_append_right _ (List.mem_singleton.mpr rfl), rfl⟩
  have down : RecordsStay { s1 with sup := dropSupply s1.sup x }
      (l.foldl (fun t d => forceDown t d .failed 0xC) { s1 with sup := dropSupply s1.sup x }) :=
    .foldl (fun t d => forceDown_recordsStay ..) l (.refl _)
  exact down.code record

theorem afterSupply_only (s : State) (x : Supply) :
    Only [.free, .boot, .bridle, .reg, .prot, .queues, .drop, .win, .gauge] s (afterSupply s x) := by
  unfold afterSupply
  extract_lets t
  have h : Only [.free, .boot, .bridle, .reg, .prot, .queues, .drop, .win, .gauge] s t := by
    unfold t
    split
    · exact (abandonLoad_only _).mono rfl
    · exact .refl _ _
  split
  · exact h.post (vioLost_only _) rfl
  · exact (h.post (pwmLost_only ..) rfl).post (pwmLost_only ..) rfl
  · split
    · exact h.post (backToVaon_only _) rfl
    · exact h
  · exact h

theorem afterSupply_noRise (s : State) (x : Supply) : NoRise s (afterSupply s x) := by
  unfold afterSupply
  extract_lets t
  have h : NoRise s t := by
    unfold t
    split
    · exact abandonLoad_noRise _
    · exact .refl _
  split
  · exact h.after (vioLost_noRise _)
  · exact (h.after_only rfl (pwmLost_only ..)).after_only rfl (pwmLost_only ..)
  · split
    · exact h.after_only rfl (backToVaon_only _)
    · exact h
  · exact h

theorem rebase_latch (s : State) : (rebase s).prot.latch = s.prot.latch := by
  unfold rebase
  split
  · rfl
  · extract_lets old sg s1 new
    split <;> rfl

theorem backToVaon_latch (s : State) : (backToVaon s).prot.latch = s.prot.latch := by
  unfold backToVaon
  split
  · exact rebase_latch _
  · rfl

theorem afterSupply_latch (s : State) (x : Supply) : (afterSupply s x).prot.latch = s.prot.latch := by
  unfold afterSupply
  extract_lets t
  have h : t.prot.latch = s.prot.latch := by
    unfold t
    split
    · exact congrArg Prot.latch ((abandonLoad_only _).same .prot rfl)
    · rfl
  split
  · exact (congrArg Prot.latch ((vioLost_only _).same .prot rfl)).trans h
  · exact (congrArg Prot.latch ((((Only.refl [.free, .reg] t).post (pwmLost_only ..) rfl).post (pwmLost_only ..) rfl).same
      .prot rfl)).trans h
  · split
    · exact (backToVaon_latch _).trans h
    · exact h
  · exact h

/-- What the order of requests and the outage sequence do after a fall. -/
theorem supplyFalls_sequenced (s : State) (x : Supply) (snap : Snap) :
    Sequenced (afterSupply (afterForced s x snap) x) (supplyFalls s x snap) := by
  rw [supplyFalls_eq]
  have settled : Incidental (afterSupply (afterForced s x snap) x)
      ((forcedBy s x).foldl settle (afterSupply (afterForced s x snap) x)) := .foldl settle_incidental _ (.refl _)
  exact Sequenced.trans ⟨_, _, settled⟩ (outageGoesOn_sequenced _)

theorem Sequenced.only {s t : State} (h : Sequenced s t) :
    Only [.rules, .act, .bridle, .reg, .prot, .tether, .queues, .win, .outage, .integ] s t := by
  obtain ⟨o, r, h⟩ := h
  exact (Only.set_reg (Only.set_outage (Only.refl _ _) o rfl) r rfl).post h.only rfl

theorem supplyFalls_sup (s : State) (x : Supply) (snap : Snap) : (supplyFalls s x snap).sup = dropSupply s.sup x :=
  ((supplyFalls_sequenced s x snap).only.same .sup rfl).trans
    (((afterSupply_only ..).same .sup rfl).trans (afterForced_sup ..))

theorem exec_supplyFall_of_up {x : Supply} (snap : Snap) {s : State} (other : x ≠ .vaon)
    (onVaon : x = .vbak → s.sup.vaon = true) (out : s.boot.step ≠ .por) (up : supplyUp s x = true) :
    exec (.supplyFall x snap) s = .next (supplyFalls s x snap) := by
  refine congrArg Host.Outcome.next (if_neg ?_)
  simp only [Bool.or_eq_true, Bool.and_eq_true, decide_eq_true_eq, Bool.not_eq_true', not_or, not_and]
  exact ⟨⟨⟨other, out⟩, by rw [up]; decide⟩, fun isVbak => by rw [onVaon isVbak]; decide⟩

/-- A domain that a fallen supply feeds is on no longer. -/
theorem supplyFalls_off {s : State} {x : Supply} (snap : Snap) {d : Nat} (isDom : d < 20) (fedBy : feeds x d = true)
    (isPresent : present s d = true) (on : isOn s d = true) : isOn (supplyFalls s x snap) d = false := by
  have mem : d ∈ forcedBy s x :=
    List.mem_filter.mpr ⟨List.mem_range.mpr isDom, by rw [fedBy, isPresent, on]; rfl⟩
  exact ((supplyFalls_sequenced s x snap).undisturbed.on d).trans
    (off_of_noRise (afterSupply_noRise ..) (afterForced_off snap mem isDom))

theorem supplyFalls_record {s : State} {x : Supply} (snap : Snap) (counted : x ≠ .vbak) (room : s.prot.latch.length < 4) :
    ∃ r ∈ (supplyFalls s x snap).prot.latch, r.code = 0x0D := by
  refine (supplyFalls_sequenced s x snap).undisturbed.recordsStay.code ?_
  rw [afterSupply_latch]
  exact afterForced_record snap counted room

/-- After the fall of VIO the WAKE balls and PACK are low and no egress unit is left. -/
theorem supplyFalls_vio (s : State) (snap : Snap) :
    (supplyFalls s .vio snap).sup.vio = false ∧ (supplyFalls s .vio snap).bridle.pack = false ∧
      (supplyFalls s .vio snap).drop.egress = none := by
  have seq := supplyFalls_sequenced s .vio snap
  refine ⟨by rw [supplyFalls_sup]; rfl, by rw [seq.bridle]; rfl, ?_⟩
  have drop : (supplyFalls s .vio snap).drop = (afterSupply (afterForced s .vio snap) .vio).drop := seq.only.same .drop rfl
  rw [drop]
  rfl

/-- Settles O18: the fall ends in `supplyFalls`, and what it forced off stays off. -/
theorem supplyFallForcesDomainsOff : Obligations.SupplyFallForcesDomainsOff := by
  unfold Obligations.SupplyFallForcesDomainsOff
  refine ⟨fun x snap s other onVaon out up => ?_, fun snap s out up => ?_, fun q csN oeN s live => ?_,
    fun q csN oeN s dead => ?_, fun snap s => rfl⟩
  · exact ⟨_, exec_supplyFall_of_up snap other onVaon out up, supplyFalls_sup ..,
      fun d isDom fedBy isPresent on => supplyFalls_off snap isDom fedBy isPresent on,
      fun counted room => supplyFalls_record snap counted room⟩
  · obtain ⟨vio, pack, egress⟩ := supplyFalls_vio s snap
    exact ⟨_, exec_supplyFall_of_up snap Supply.noConfusion Supply.noConfusion out up,
      fun k => by rw [wakeHigh, vio, Bool.and_false], pack, egress⟩
  · exact congrArg Host.Outcome.next (if_pos live)
  · exact congrArg Host.Outcome.next (if_neg (Bool.eq_false_iff.mp dead))

/-! ### Steps 7 and 8 of the boot -/

theorem exec_loadAbandon_vcin {s : State} (loading : s.boot.step = .loader ∨ s.boot.step = .identified) :
    exec (.loadAbandon .vcin) s = .next (supplyFalls (freeSnap s).2 .vcin (freeSnap s).1) := by
  refine congrArg Host.Outcome.next (if_neg ?_)
  rcases loading with h | h <;> rw [h] <;> decide

/-- VCIN falls while the Reel is loaded: the load goes back to before step 7. -/
theorem supplyFalls_loading {s : State} (snap : Snap) (loading : s.boot.step = .loader ∨ s.boot.step = .identified) :
    (supplyFalls s .vcin snap).boot.step = .decided ∧ isOn (supplyFalls s .vcin snap) 15 = false := by
  have seq := supplyFalls_sequenced s .vcin snap
  have same : (afterForced s .vcin snap).boot = s.boot := (afterForced_only ..).same .boot rfl
  have abandoned : afterSupply (afterForced s .vcin snap) .vcin =
      loaderOn { afterForced s .vcin snap with boot.step := .decided, boot.probes := 0 } false :=
    abandonLoad_loading (by rw [same]; exact loading)
  have boot : (supplyFalls s .vcin snap).boot = (afterSupply (afterForced s .vcin snap) .vcin).boot := seq.only.same .boot rfl
  refine ⟨?_, ?_⟩
  · rw [boot, abandoned]; rfl
  · rw [seq.undisturbed.on, abandoned, isOn_loaderOn]

theorem exec_loadAbandon_vaon {s : State} (loading : s.boot.step = .loader ∨ s.boot.step = .identified)
    (vbak : s.sup.vbak = true) :
    exec (.loadAbandon .vaon) s = .next (loaderOn
      { s with sup.vaon := false, gauge.onVbak := true, boot.step := .decided, boot.probes := 0 } false) := by
  have taken : exec (.loadAbandon .vaon) s = .next (abandonLoad { s with sup.vaon := false, gauge.onVbak := true }) := by
    refine congrArg Host.Outcome.next ((if_neg ?_).trans (if_pos vbak))
    rcases loading with h | h <;> rw [h] <;> decide
  rw [taken]
  exact congrArg Host.Outcome.next (abandonLoad_loading loading)

/-- Settles O16: each command of the loader through its equation on the states that it acts on. -/
theorem loaderAndFlashProbe : Obligations.LoaderAndFlashProbe := by
  unfold Obligations.LoaderAndFlashProbe
  refine ⟨fun s decided good vcin vaon => ?_, fun j f s loader on left usable => ?_, fun j f s loader on left bad => ?_,
    fun j f s loader on last bad => ?_, fun s loading vbak => ?_, fun s loading => ?_, fun s down => ?_,
    fun s past safe off left noOutage vcin vaon => ?_, fun j f s past safe noXfer on left => ?_⟩
  · exact ⟨_, (exec_loaderStart_supplies vcin vaon).trans (congrArg _ (if_pos (by rw [decided, good]; rfl))), rfl,
      isOn_loaderOn _ true, ((Only.set_boot (Only.refl _ _) _ rfl)).post (loaderOn_only _ true) rfl⟩
  · rw [exec_flashProbe_on j f on left, if_pos loader, if_pos usable]
  · rw [exec_flashProbe_on j f on (by omega), if_pos loader, if_neg (Bool.eq_false_iff.mp bad), if_neg (by omega)]
  · refine ⟨_, ?_, ?_, enterSafe_fault { s with boot.probes := s.boot.probes + 1 }⟩
    · rw [exec_flashProbe_on j f on (by omega), if_pos loader, if_neg (Bool.eq_false_iff.mp bad), if_pos (by omega)]
    · rw [(enterSafe_reached _).1]
  · exact ⟨_, exec_loadAbandon_vaon loading vbak, rfl, isOn_loaderOn _ false, rfl, rfl, rfl⟩
  · obtain ⟨step, off⟩ := supplyFalls_loading (s := (freeSnap s).2) (freeSnap s).1 loading
    exact ⟨_, exec_loadAbandon_vcin loading, step, off, by rw [supplyFalls_sup]; rfl, (supplyFalls_only ..).same .straps rfl⟩
  · refine congrArg Host.Outcome.next (if_pos ?_)
    rcases down with h | h <;> rw [h] <;> simp
  · refine ⟨?_, isOn_loaderOn _ true, loaderOn_only _ true⟩
    rw [exec_loaderStart_supplies vcin vaon, if_neg (by simp [past]), if_pos (by simp [safe, off, left, noOutage])]
  · rw [exec_flashProbe_on j f on left, if_neg past, if_pos (by rw [safe, noXfer]; rfl)]

end Sys2Proof.Proofs

/-! ## The loading of a Reel (steps 9 to 12 of the boot, R132 to R146) -/

namespace Sys2Proof.Proofs

open Sys2Proof Sys2Proof.Machine

theorem checkNvm_of_copy {s : State} {n : NvmCopy} (copy : nvmCopy s = some n) :
    checkNvm s = writeNvm s n.minVer n.keyHash := by
  rw [checkNvm, copy]

theorem checkNvm_bad {s : State} (none : nvmCopy s = none) : (checkNvm s).nvm.bad = true := by
  rw [checkNvm, none]
  rfl

theorem enterSafe_bad {s : State} (none : nvmCopy s = none) : (enterSafe s).nvm.bad = true := by
  rw [(enterSafe_reached s).2.2.1]
  exact checkNvm_bad none

/-! ### The Reel in force -/

/-- The chosen Reel is in force, the boot is at step 11, and the minimum version is not lower than that of the NVM. -/
theorem adoptReel_reached (s : State) (n : NvmCopy) (slot : Fin 2) (h : Header) (key : List Byte × KeyForm) :
    (adoptReel s n slot h key).reel = some (parseReel s slot h key.1) ∧ (adoptReel s n slot h key).boot.step = .ready ∧
      n.minVer.toNat ≤ (adoptReel s n slot h key).nvm.copy0.minVer.toNat := by
  unfold adoptReel
  extract_lets r hash s1 s2 b q g s3 s4 s5
  have reel3 : s3.reel = some r := (adoptLabel_only ..).same .reel rfl
  have boot3 : s3.boot.step = .ready := congrArg Boot.step ((adoptLabel_only ..).same .boot rfl)
  have nvm3 : s3.nvm = s2.nvm := (adoptLabel_only ..).same .nvm rfl
  have late : Only [.bridle, .prot, .reg] s3 (readopt (readopt s5 .main) .aux) := by
    refine Only.post (Only.post ?_ (readopt_only ..) rfl) (readopt_only ..) rfl
    have h4 : Only [.bridle, .prot, .reg] s3 s4 := (modDom_only ..).mono rfl
    unfold s5
    split
    · exact h4.post (addAlert_only ..) rfl
    · exact h4
  refine ⟨(late.same .reel rfl).trans reel3, (congrArg Boot.step (late.same .boot rfl)).trans boot3, ?_⟩
  rw [show (readopt (readopt s5 .main) .aux).nvm = s2.nvm from (late.same .nvm rfl).trans nvm3]
  change n.minVer.toNat ≤ (if n.minVer.toNat < r.minVer.toNat then r.minVer else n.minVer).toNat
  split
  · omega
  · exact Nat.le_refl _

/-- The boot profile: step 12 with PFAIL_N high, an outage at step 11 with it low. -/
theorem bootProfile_boot (s : State) (k vsel : Fin 8) :
    (bootProfile s k vsel).boot = if s.pins.pfailN then { s.boot with step := .running } else s.boot := by
  unfold bootProfile
  cases high : s.pins.pfailN
  · exact (fireStarter_only ..).same .boot rfl
  · have passed : (passProfile { s with boot.step := .running } k .dev 0 false).boot = { s.boot with step := .running } :=
      (passProfile_only ..).same .boot rfl
    dsimp only
    split
    · exact absurd high (by simp_all)
    split
    · exact passed
    · exact ((startJob_only ..).same .boot rfl).trans passed

theorem bootProfile_nvm (s : State) (k vsel : Fin 8) :
    (bootProfile s k vsel).nvm = { s.nvm with hours := (bootProfile s k vsel).nvm.hours } := by
  unfold bootProfile
  extract_lets b s1
  have passed : s1.nvm = s.nvm := (passProfile_only ..).same .nvm rfl
  split
  · exact (fireStarter_undisturbed ..).nvm
  split
  · rw [passed]
  · have started : ∀ u j, u.nvm = s.nvm → (startJob u j vsel).nvm = { s.nvm with hours := (startJob u j vsel).nvm.hours } :=
      fun u j same => by rw [show (startJob u j vsel).nvm = u.nvm from (startJob_only ..).same .nvm rfl, same]
    exact started _ _ passed

/-- REEL_LOAD with a chosen slot whose key is recovered. -/
def reelLoaded (s : State) (n : NvmCopy) (slot : Fin 2) (h : Header) (key : List Byte × KeyForm) (vsel : Fin 8) : State :=
  slewToReel (slewToReel { bootProfile (reportReset (adoptReel s n slot h key)) (Fin.ofNat 8 h.bootProf) vsel with
    boot.warm := false } .main) .aux

theorem exec_reelLoad_identified (v : Fin 8) {s : State} (step : s.boot.step = .identified) (on : isOn s 15 = true) :
    exec (.reelLoad v) s = .next (match nvmCopy s with
      | none => enterSafe s
      | some n => match chooseSlot (checkNvm s) n with
        | none => enterSafe (checkNvm s)
        | some (slot, h) => match recoverKey (checkNvm s) slot h with
          | none => enterSafe (checkNvm s)
          | some key => reelLoaded (checkNvm s) n slot h key v) := by
  have acts : ¬(s.boot.step ≠ .identified || !isOn s 15) := by simp [step, on]
  exact congrArg Host.Outcome.next ((if_neg acts).trans rfl)

theorem reelLoaded_reached (s : State) (n : NvmCopy) (slot : Fin 2) (h : Header) (key : List Byte × KeyForm) (v : Fin 8) :
    (reelLoaded s n slot h key v).reel = some (parseReel s slot h key.1) ∧ (reelLoaded s n slot h key v).boot.warm = false ∧
      (reelLoaded s n slot h key v).boot.step = (if s.pins.pfailN then .running else .ready) ∧
      n.minVer.toNat ≤ (reelLoaded s n slot h key v).nvm.copy0.minVer.toNat := by
  obtain ⟨reel, ready, minVer⟩ := adoptReel_reached s n slot h key
  have pins : (adoptReel s n slot h key).pins = s.pins := (adoptReel_only ..).same .pins rfl
  unfold reelLoaded
  generalize adoptReel s n slot h key = a at reel ready minVer pins
  have report : Only [.queues, .integ] a (reportReset a) := reportReset_only a
  have boot := bootProfile_boot (reportReset a) (Fin.ofNat 8 h.bootProf) v
  have nvm := bootProfile_nvm (reportReset a) (Fin.ofNat 8 h.bootProf) v
  have profile := bootProfile_only (reportReset a) (Fin.ofNat 8 h.bootProf) v
  generalize bootProfile (reportReset a) (Fin.ofNat 8 h.bootProf) v = b at boot nvm profile
  have slewed : Only [.free, .reg] { b with boot.warm := false }
      (slewToReel (slewToReel { b with boot.warm := false } .main) .aux) :=
    (slewToReel_only ..).post (slewToReel_only ..) rfl
  generalize slewToReel (slewToReel { b with boot.warm := false } .main) .aux = t at slewed
  have bootEnd : t.boot = { b.boot with warm := false } := slewed.same .boot rfl
  have nvmEnd : t.nvm = b.nvm := slewed.same .nvm rfl
  have reelEnd : t.reel = b.reel := slewed.same .reel rfl
  refine ⟨?_, by rw [bootEnd], ?_, ?_⟩
  · rw [reelEnd, show b.reel = a.reel from (profile.same .reel rfl).trans (report.same .reel rfl), reel]
  · have pinsB : (reportReset a).pins = s.pins := (report.same .pins rfl : _ = a.pins).trans pins
    have bootB : (reportReset a).boot = a.boot := report.same .boot rfl
    rw [bootEnd, boot, pinsB, bootB]
    split
    · rfl
    · exact ready
  · have nvmB : (reportReset a).nvm = a.nvm := report.same .nvm rfl
    rw [nvmEnd, nvm, nvmB]
    exact minVer

/-- Settles O17: the branches of REEL_LOAD, each with the state that it reaches. -/
theorem reelLoadChoosesVerifiedSlot : Obligations.ReelLoadChoosesVerifiedSlot := by
  unfold Obligations.ReelLoadChoosesVerifiedSlot
  intro v s step on
  have safe : ∀ u, (enterSafe u).boot.safe = true ∧ (enterSafe u).reel = none ∧ faultAsserted (enterSafe u) = true := fun u => by
    obtain ⟨boot, reel, _⟩ := enterSafe_reached u
    exact ⟨by rw [boot], reel, enterSafe_fault u⟩
  have run := exec_reelLoad_identified v step on
  refine ⟨_, run, ?_⟩
  cases copy : nvmCopy s with
  | none =>
    obtain ⟨isSafe, reel, fault⟩ := safe s
    exact ⟨isSafe, reel, enterSafe_bad copy, fault⟩
  | some n =>
    rw [checkNvm_of_copy copy]
    dsimp only
    cases chooseSlot (writeNvm s n.minVer n.keyHash) n with
    | none => exact safe _
    | some chosen =>
      dsimp only
      cases recoverKey (writeNvm s n.minVer n.keyHash) chosen.1 chosen.2 with
      | none => exact safe _
      | some key => exact reelLoaded_reached (writeNvm s n.minVer n.keyHash) n chosen.1 chosen.2 key v

end Sys2Proof.Proofs

/-! ## A channel that stops, a port that goes down, and the TAP (files 02, 11 and 15) -/

namespace Sys2Proof.Proofs

open Sys2Proof Sys2Proof.Machine

/-! ### The other channel and the phase of a channel that stops -/

theorem chan_of_reg {s t : State} (same : t.reg = s.reg) (c : Chan) : chan t c = chan s c := by
  unfold chan
  rw [same]

theorem settleRef_ne (s : State) {c k : Chan} (other : k ≠ c) : chan (settleRef s c) k = chan s k :=
  chan_modChan_ne _ _ _ _ other

theorem moveRef_ne (s : State) {c k : Chan} (other : k ≠ c) : chan (moveRef s c) k = chan s k := by
  unfold moveRef
  split
  · exact (settleRef_ne _ other).trans (chan_modChan_ne _ _ _ _ other)
  · exact (settleRef_ne _ other).trans (chan_modChan_ne _ _ _ _ other)
  · exact (settleRef_ne _ other).trans (chan_modChan_ne _ _ _ _ other)
  · rfl

theorem chan_refreshStraps (s : State) (c : Chan) : chan (refreshStraps s) c = chan s c := by cases c <;> rfl

theorem chan_endPulses (s : State) (c k : Chan) : chan (endPulses s c) k = chan s k := by cases c <;> cases k <;> rfl

/-- Stopping a channel leaves the other. -/
theorem stopChan_ne (s : State) {c k : Chan} (ph : ChPhase) (other : k ≠ c) : chan (stopChan s c ph) k = chan s k := by
  unfold stopChan
  extract_lets s1 s2 set r1 p1 r2 p2 s3
  have h1 : chan s1 k = chan s k := by
    unfold s1 dropPgood freezeRef
    rw [chan_modChan_ne _ _ _ _ other, chan_modChan_ne _ _ _ _ other, moveRef_ne _ other]
  have h2 : chan s2 k = chan s k := by
    unfold s2
    rw [chan_setPwm, chan_endPulses, chan_modChan_ne _ _ _ _ other, h1]
  have h3 : chan s3 k = chan s2 k := by
    unfold s3
    cases c <;> cases k <;> rfl
  rw [chan_refreshStraps, h3, h2]

/-- A channel that has stopped: its phase, and what stopping takes back. -/
theorem stopChan_same (s : State) (c : Chan) (ph : ChPhase) :
    (chan (stopChan s c ph) c).phase = ph ∧ (chan (stopChan s c ph) c).pgood = false ∧
      (chan (stopChan s c ph) c).diode = false := by
  have stopped : chan (stopChan s c ph) c =
      { chan (dropPgood (freezeRef s c) c) c with phase := ph, diode := false, withheld := false } := by
    unfold stopChan
    extract_lets s1 s2 set r1 p1 r2 p2 s3
    have h2 : chan s2 c = { chan s1 c with phase := ph, diode := false, withheld := false } := by
      unfold s2
      rw [chan_setPwm, chan_endPulses, chan_modChan_same]
    have h3 : chan s3 c = chan s2 c := by
      unfold s3
      cases c <;> rfl
    rw [chan_refreshStraps, h3, h2]
  refine ⟨by rw [stopped], ?_, by rw [stopped]⟩
  rw [stopped, dropPgood, chan_modChan_same]

/-! ### A port that goes down -/

theorem link_of_tether {s t : State} (same : t.tether = s.tether) (p : Port) : link t p = link s p := by
  cases p <;> simp only [link, same]

/-- The release of a frame moves credit counters, and nothing else of a port. -/
theorem creditFreed_link (s : State) (f : QFrame) (n : Nat) (q : Port) :
    link (creditFreed s f n) q =
      { link s q with ctl := (link (creditFreed s f n) q).ctl, bulk := (link (creditFreed s f n) q).bulk } := by
  unfold creditFreed
  split
  · rfl
  next p _ =>
    split
    · rfl
    · cases p <;> cases q <;> first
        | rfl
        | (simp only [modLink, link]; split <;> rfl)

theorem markRelease_tether (s : State) (src : Nat) : (markRelease s src).tether = s.tether := (markRelease_only ..).same .tether rfl

theorem releaseCopy_link (s : State) (tag : Nat) (f : QFrame) (q : Port) :
    link (releaseCopy s tag f) q =
      { link s q with ctl := (link (releaseCopy s tag f) q).ctl, bulk := (link (releaseCopy s tag f) q).bulk } := by
  unfold releaseCopy afterRemoval
  extract_lets s1 s2
  have h1 : link s1 q = link s q := rfl
  have h2 : link s2 q = { link s q with ctl := (link s2 q).ctl, bulk := (link s2 q).bulk } := creditFreed_link s1 f _ q
  split
  · rfl
  split
  · rw [link_of_tether (markRelease_tether ..)]
    exact h2
  · exact h2

theorem dropRings_link (s : State) (p q : Port) :
    link (dropRings s p) q =
      { link s q with ctl := (link (dropRings s p) q).ctl, bulk := (link (dropRings s p) q).bulk } := by
  unfold dropRings
  generalize List.filter _ _ = l
  induction l generalizing s with
  | nil => rfl
  | cons f rest ih =>
    refine (ih (releaseCopy s (holdTag p .ctl) f)).trans ?_
    rw [releaseCopy_link s (holdTag p .ctl) f q]
    rfl

theorem originate_link (s : State) (typ : BitVec 4) (dst : Byte) (pay : List Byte) (p : Port) (wrap : Bool) (q : Port) :
    link (originate s typ dst pay p wrap) q = link s q := by
  unfold originate
  extract_lets b n cs f
  split
  · cases q <;> rfl
  · rfl

/-- What follows a port that has gone down: rings dropped and reported, on this port and the other, in what the report of a
loss may touch. -/
structure PortTold (s t : State) : Prop where
  link : ∀ q, link t q = { link s q with
    out := (link t q).out, resend := (link t q).resend, goBackDue := (link t q).goBackDue
    ctl := (link t q).ctl, bulk := (link t q).bulk }

theorem PortTold.refl (s : State) : PortTold s s := ⟨fun _ => rfl⟩

theorem PortTold.trans {s t u : State} (h : PortTold s t) (k : PortTold t u) : PortTold s u :=
  ⟨fun q => (k.link q).trans (by rw [h.link q])⟩

theorem PortTold.of_link {s t : State} (same : ∀ q, Machine.link t q = Machine.link s q) : PortTold s t :=
  ⟨fun q => by rw [same]⟩

theorem PortTold.ite {c : Prop} [Decidable c] {s t u : State} (h : PortTold s t) (k : PortTold s u) :
    PortTold s (if c then t else u) := by
  split
  · exact h
  · exact k

theorem Incidental.portTold {s t : State} (h : Incidental s t) : PortTold s t := ⟨fun q => by rw [h.link q]⟩

theorem dropRings_portTold (s : State) (p : Port) : PortTold s (dropRings s p) := ⟨fun q => by rw [dropRings_link s p q]⟩

/-- The link of a port that goes down, before its rings are dropped. -/
def downLink (s : State) (p : Port) (c : DownCause) : State :=
  match c with
  | .clockLoss => resetLink s p .lockFailed 0
  | .ownDomain => if isOn s (portDom p) then resetLink s p .training 2 else resetLink s p .down 0
  | .lossOfSync => addErr (resetLink s p .training 2) p 16
  | _ => resetLink s p .training 2

theorem portDownAs_told (s : State) (p : Port) (c : DownCause) (orderly : Bool) :
    PortTold (downLink s p c) (portDownAs s p c orderly) := by
  unfold portDownAs
  extract_lets o s1 s1' h s2 pay s3 s4 s5 s6
  have h1' : PortTold (downLink s p c) s1' := dropRings_portTold ..
  have h2 : PortTold (downLink s p c) s2 := .ite (h1'.trans (.of_link fun q => by cases q <;> rfl)) h1'
  have h3 : PortTold (downLink s p c) s3 := .ite (h2.trans (.of_link (originate_link _ _ _ _ _ _))) h2
  have h4 : PortTold (downLink s p c) s4 := h3.trans (addAlert_incidental ..).portTold
  have h5 : PortTold (downLink s p c) s5 := .ite (h4.trans (addEntry_incidental ..).portTold) h4
  have h6 : PortTold (downLink s p c) s6 := h5.trans (addAlert_incidental ..).portTold
  exact .ite h3 (.ite (.ite (h6.trans (addEntry_incidental ..).portTold) h6) h5)

theorem modLink_ne (s : State) {p q : Port} (f : Link → Link) (other : q ≠ p) : link (modLink s p f) q = link s q := by
  cases p <;> cases q
  · exact absurd rfl other
  · rfl
  · rfl
  · exact absurd rfl other

theorem resetLink_other (s : State) {p q : Port} (other : q ≠ p) (st : LinkState) (step : Nat) :
    link (resetLink s p st step) q = link s q := modLink_ne s _ other

theorem downLink_other (s : State) {p q : Port} (other : q ≠ p) (c : DownCause) : link (downLink s p c) q = link s q := by
  unfold downLink
  split
  · exact resetLink_other s other ..
  · split <;> exact resetLink_other s other ..
  · exact (modLink_ne _ _ other).trans (resetLink_other s other ..)
  · exact resetLink_other s other ..

/-! ### The TAP (R67, R68) -/

/-- EXTEST, CLAMP and HIGHZ stop a channel. -/
def tapChanOff (t : State) (c : Chan) : State :=
  setPwm (if switching (chan t c) then modChan (stopChan t c .notSwitching) c fun x => { x with warm := false } else t) c .mid

/-- EXTEST, CLAMP and HIGHZ take a port down. -/
def tapPortOff (t : State) (p : Port) : State :=
  modLink (if portUp t p then portDownAs t p .ownDomain false else t) p fun l => { l with st := .down, step := 0 }

theorem tapForces_eq (s : State) : tapForces s =
    tapPortOff (tapPortOff (tapChanOff (tapChanOff { s with tap.forced := true } .main) .aux) .u) .d := rfl

theorem tapChanOff_only (s : State) (c : Chan) : Only [.free, .reg] s (tapChanOff s c) := by
  have stopped : Only [.free, .reg] s
      (if switching (chan s c) then modChan (stopChan s c .notSwitching) c fun x => { x with warm := false } else s) := by
    split
    · exact (stopChan_only ..).post (modChan_only ..) rfl
    · exact .refl _ _
  exact stopped.post (setPwm_only ..) rfl

theorem tapChanOff_stopped (s : State) (c : Chan) : switching (chan (tapChanOff s c) c) = false := by
  unfold tapChanOff
  rw [chan_setPwm]
  split
  · rw [chan_modChan_same]
    unfold switching
    dsimp only
    rw [(stopChan_same s c .notSwitching).1]
  next off => exact Bool.eq_false_iff.mpr off

theorem tapChanOff_ne (s : State) {c k : Chan} (other : k ≠ c) : chan (tapChanOff s c) k = chan s k := by
  unfold tapChanOff
  rw [chan_setPwm]
  split
  · rw [chan_modChan_ne _ _ _ _ other, stopChan_ne s _ other]
  · rfl

theorem tapPortOff_only (s : State) (p : Port) :
    Only [.rules, .act, .bridle, .prot, .tether, .queues, .win, .integ] s (tapPortOff s p) := by
  have down : Only [.rules, .act, .bridle, .prot, .tether, .queues, .win, .integ] s
      (if portUp s p then portDownAs s p .ownDomain false else s) := by
    split
    · exact portDownAs_only ..
    · exact .refl _ _
  exact down.post (modLink_only ..) rfl

theorem tapPortOff_down (s : State) (p : Port) : (link (tapPortOff s p) p).st = .down := by
  unfold tapPortOff
  rw [link_modLink_same]

theorem tapPortOff_other (s : State) {p q : Port} (other : q ≠ p) : (link (tapPortOff s p) q).st = (link s q).st := by
  have moved : ∀ t f, link (modLink t p f) q = link t q := fun t f => modLink_ne t f other
  unfold tapPortOff
  rw [moved]
  split
  · rw [(portDownAs_told s p .ownDomain false).link q, downLink_other s other]
  · rfl

/-- The balls forced: the TAP as it was but for its mark, both ports down and no channel switching. -/
theorem tapForces_reached (s : State) : (tapForces s).tap = { s.tap with forced := true } ∧
    (∀ p, (link (tapForces s) p).st = .down) ∧ ∀ c, switching (chan (tapForces s) c) = false := by
  rw [tapForces_eq]
  have main := tapChanOff_stopped { s with tap.forced := true } .main
  have mainTap : (tapChanOff { s with tap.forced := true } .main).tap = { s.tap with forced := true } :=
    (tapChanOff_only ..).same .tap rfl
  generalize tapChanOff { s with tap.forced := true } .main = a at main mainTap
  have both : ∀ c, switching (chan (tapChanOff a .aux) c) = false := fun c => by
    cases c
    · rw [tapChanOff_ne a (by decide)]; exact main
    · exact tapChanOff_stopped ..
  have tap : (tapChanOff a .aux).tap = { s.tap with forced := true } := ((tapChanOff_only ..).same .tap rfl).trans mainTap
  generalize tapChanOff a .aux = b at both tap
  have ports : Only [.rules, .act, .bridle, .prot, .tether, .queues, .win, .integ] b (tapPortOff (tapPortOff b .u) .d) :=
    (tapPortOff_only ..).post (tapPortOff_only ..) rfl
  refine ⟨(ports.same .tap rfl).trans tap, fun p => ?_, fun c => ?_⟩
  · cases p
    · exact (tapPortOff_other _ (by decide)).trans (tapPortOff_down ..)
    · exact tapPortOff_down ..
  · rw [chan_of_reg (ports.same .reg rfl)]; exact both c

/-- Settles O19: the three instructions force the balls, the two others write the TAP. -/
theorem boundaryScan : Obligations.BoundaryScan := by
  unfold Obligations.BoundaryScan
  have live : ∀ s : State, s.sup.vio = true → s.boot.step ≠ .por → tapLive s = true := fun s vio out => by
    rw [tapLive, vio, Bool.true_and]
    exact bne_iff_ne.mpr out
  refine ⟨fun b s vio out => ⟨?_, ?_⟩, fun s vio out => ⟨?_, ?_, ?_⟩⟩
  · obtain ⟨tap, rest⟩ := tapForces_reached { s with tap.ir := 0x0, tap.boundary := b }
    exact ⟨_, congrArg Host.Outcome.next (if_pos (live s vio out)), tap, rest⟩
  · obtain ⟨tap, rest⟩ := tapForces_reached { s with tap.ir := 0x2, tap.boundary := b }
    exact ⟨_, congrArg Host.Outcome.next (if_pos (live s vio out)), tap, rest⟩
  · obtain ⟨tap, rest⟩ := tapForces_reached { s with tap.ir := 0x3 }
    exact ⟨_, congrArg Host.Outcome.next (if_pos (live s vio out)), tap, rest⟩
  · have run : exec .samplePreload s = .next _ := congrArg Host.Outcome.next (if_pos (live s vio out))
    exact ⟨_, run, rfl, rfl, execSamplePreload_only s _ run⟩
  · exact congrArg Host.Outcome.next (if_pos (live s vio out))

end Sys2Proof.Proofs

/-! ## Mains words, the relay and candidates (file 06) -/

namespace Sys2Proof.Proofs

open Sys2Proof Sys2Proof.Machine

/-! ### Mains words outside safe mode -/

theorem accepted_mains_iff (s : State) (body : Word32) (mac : Half) (crc : Byte) :
    Accepted s .mains body mac crc ↔ wordCrc body mac = crc ∧ wordMac (kwakeOf s) false body = mac ∧
      freshSeq (vget s.front.wmMains none (bGroup body).toNat) (bSeq false body) = true := Iff.rfl

theorem exec_mainsWord_of_candidate {s : State} (body : Word32) (mac : Half) (crc : Byte) (hears : listens s .mains = true)
    (cand : locked s .mains = true) :
    exec (.mainsWord body mac crc) s = .next (if s.boot.safe then decideSafe (setLocked s .mains false) body mac crc
      else decideWord (setLocked s .mains false) .mains body mac crc) := by
  change execMainsWord body mac crc s = _
  rw [execMainsWord, hears, cand]
  rfl

theorem exec_mainsWord_lost {s : State} (body : Word32) (mac : Half) (crc : Byte)
    (lost : listens s .mains = false ∨ locked s .mains = false) : exec (.mainsWord body mac crc) s = .next s := by
  refine congrArg Host.Outcome.next (if_pos ?_)
  rcases lost with h | h <;> rw [h] <;> simp

/-- A mains word outside safe mode and the mains watermarks: the accepted one moves that of its group. -/
theorem decideWord_mains_marks (s : State) (body : Word32) (mac : Half) (crc : Byte) :
    (Accepted s .mains body mac crc → (decideWord s .mains body mac crc).front.wmMains =
      vset s.front.wmMains (bGroup body).toNat (some (bSeq false body))) ∧
    (¬ Accepted s .mains body mac crc → (decideWord s .mains body mac crc).front.wmMains = s.front.wmMains) := by
  refine ⟨fun acc => ?_, fun rejected => ?_⟩
  · rw [decideWord_accepted acc, freshWord_mains_front]
    rfl
  · obtain ⟨fails, flag, front⟩ := decideWord_rejected rejected
    rw [front]

/-- Settles O20: a candidate goes to `decideWord`, whose watermarks turn on whether the word is accepted. -/
theorem mainsWordMovesItsWatermark : Obligations.MainsWordMovesItsWatermark := by
  unfold Obligations.MainsWordMovesItsWatermark
  intro body mac crc s
  refine ⟨fun hears cand normal => ?_, exec_mainsWord_lost body mac crc⟩
  have run : exec (.mainsWord body mac crc) s = .next (decideWord (setLocked s .mains false) .mains body mac crc) :=
    (exec_mainsWord_of_candidate body mac crc hears cand).trans (congrArg _ (if_neg (Bool.eq_false_iff.mp normal)))
  obtain ⟨moved, kept⟩ := decideWord_mains_marks (setLocked s .mains false) body mac crc
  refine ⟨_, run, decideWord_mains_tug _ _ _ _, execMainsWord_only body mac crc s _ run, ?_, fun bad => ?_⟩
  · split
    next acc => exact moved acc
    next rejected => exact kept rejected
  · rw [decideWord_eq, if_pos bad]

/-! ### Mains words in safe mode -/

/-- The state in which a fresh word of safe mode has moved its watermark. -/
def markSafe (s : State) (body : Word32) : State :=
  { s with front.wmSafe := vset s.front.wmSafe (bGroup body).toNat (some (bSeq false body)) }

theorem decideSafe_fresh {s : State} {body : Word32} {mac : Half} {crc : Byte} (crcOk : wordCrc body mac = crc)
    (macOk : wordMac 0 false body = mac)
    (fresh : freshSeq (vget s.front.wmSafe none (bGroup body).toNat) (bSeq false body) = true) :
    decideSafe s body mac crc =
      if bAddr body = 0xFF || (match stallAddr s with | some n => (bAddr body).toNat = n | none => false)
      then recordDevice (markSafe s body) 1 0x85 else markSafe s body := by
  unfold decideSafe
  dsimp only
  rw [if_neg (not_not_intro crcOk), if_neg (not_not_intro macOk), fresh]
  rfl

/-- Settles O21: `decideSafe` leaves the normal sets, and a fresh word addressed to the device is its cause 0x85. -/
theorem safeModeMainsWord : Obligations.SafeModeMainsWord := by
  unfold Obligations.SafeModeMainsWord
  intro body mac crc s on safe cand
  have hears : listens s .mains = true := by
    change (isOn s 0 && (s.boot.safe || _)) = true
    rw [on, safe]
    rfl
  have run : exec (.mainsWord body mac crc) s = .next (decideSafe (setLocked s .mains false) body mac crc) :=
    (exec_mainsWord_of_candidate body mac crc hears cand).trans (congrArg _ (if_pos safe))
  obtain ⟨mains, tug⟩ := decideSafe_marks (setLocked s .mains false) body mac crc
  refine ⟨_, run, mains, tug, fun crcOk macOk fresh => ?_⟩
  rw [decideSafe_fresh (s := setLocked s .mains false) crcOk macOk fresh]
  refine ⟨?_, fun addressed => ?_⟩
  · rw [recordDevice_if_front]
    rfl
  · have mine : (bAddr body = 0xFF || (match stallAddr (setLocked s .mains false) with
        | some n => (bAddr body).toNat = n | none => false)) = true := by
      rcases addressed with all | own
      · rw [all]; rfl
      · rw [show stallAddr (setLocked s .mains false) = stallAddr s from rfl, own]
        simp
    rw [if_pos mine, recordDevice_word _ _ _ (by decide), if_pos (by decide)]
    have word : (markSafe (setLocked s .mains false) body).act.wake = s.act.wake := rfl
    rw [word]
    cases pend : (vget s.act.wake WakeWord.zero 0).pend
    · rw [deviceWord_of_not_pend pend]; exact ⟨rfl, rfl, fun _ => rfl⟩
    · rw [deviceWord_of_pend pend]; exact ⟨rfl, rfl, fun h => absurd h (by decide)⟩

/-! ### The relay and candidates -/

/-- The relayed word bit by bit: HOP is one less, and every other bit stays (R238). -/
theorem relayBody_getLsbD (b : Word32) {i : Nat} (inWord : i < 32) :
    (relayBody b).getLsbD i = if 12 ≤ i ∧ i < 16 then ((bHop b).toNat - 1).testBit (i - 12) else b.getLsbD i := by
  have mask : ∀ j : Fin 32, (0xFFFF0FFF : Word32).getLsbD j = !decide (12 ≤ j.val ∧ j.val < 16) := by decide
  have hop : (bHop b).toNat - 1 < 2 ^ 4 := Nat.lt_of_le_of_lt (Nat.sub_le ..) (bHop b).isLt
  have moved : (BitVec.ofNat 32 (((bHop b).toNat - 1) * 4096)).getLsbD i =
      (decide (12 ≤ i) && ((bHop b).toNat - 1).testBit (i - 12)) := by
    rw [BitVec.getLsbD_ofNat, show 4096 = 2 ^ 12 from rfl, Nat.testBit_mul_two_pow]
    simp [inWord]
  rw [relayBody, BitVec.getLsbD_or, BitVec.getLsbD_and, mask ⟨i, inWord⟩, moved]
  by_cases low : 12 ≤ i
  · by_cases high : i < 16
    · simp [low, high]
    · have none : ((bHop b).toNat - 1).testBit (i - 12) = false :=
        Nat.testBit_lt_two_pow (Nat.lt_of_lt_of_le hop (Nat.pow_le_pow_right (by decide) (by omega)))
      simp [low, high, none]
  · simp [low]

theorem relayBody_field (b : Word32) {lo n : Nat} (inside : lo + n ≤ 32) (apart : lo + n ≤ 12 ∨ 16 ≤ lo) :
    (relayBody b).extractLsb' lo n = b.extractLsb' lo n := by
  refine BitVec.eq_of_getLsbD_eq fun i isBit => ?_
  rw [BitVec.getLsbD_extractLsb', BitVec.getLsbD_extractLsb', relayBody_getLsbD b (by omega), if_neg (by omega)]

theorem relayBody_hop (b : Word32) : (bHop (relayBody b)).toNat = (bHop b).toNat - 1 := by
  have hop : (bHop b).toNat - 1 < 2 ^ 4 := Nat.lt_of_le_of_lt (Nat.sub_le ..) (bHop b).isLt
  have bits : bHop (relayBody b) = BitVec.ofNat 4 ((bHop b).toNat - 1) := by
    refine BitVec.eq_of_getLsbD_eq fun i isBit => ?_
    rw [bHop, BitVec.getLsbD_extractLsb', relayBody_getLsbD b (by omega), if_pos (by omega), BitVec.getLsbD_ofNat]
    simp
  rw [bits, BitVec.toNat_ofNat, Nat.mod_eq_of_lt hop]

theorem vget_vset_same {α : Type} {n : Nat} (v : Vector α n) (z x : α) {k : Nat} (inside : k < n) : vget (vset v k x) z k = x := by
  simp [vget, vset, inside]

theorem feNum_lt (fe : FrontEnd) : feNum fe < 3 := by cases fe <;> decide

/-- Settles O23: the relay by the waiting place of each port, the fields of the relayed word bit by bit, and candidates. -/
theorem relayAndCandidates : Obligations.RelayAndCandidates := by
  unfold Obligations.RelayAndCandidates
  refine ⟨fun body mac s => ⟨fun waits on down => ?_, fun waits on down => ?_, fun _ => ?_⟩, fun fe s => ⟨fun hears => ?_, ?_⟩⟩
  · change execTugRelay .u s = _
    unfold execTugRelay
    dsimp only
    rw [waits]
    exact congrArg Host.Outcome.next (if_pos (by rw [show isOn s (tugDom .u) = true from on, down]; rfl))
  · change execTugRelay .d s = _
    unfold execTugRelay
    dsimp only
    rw [waits]
    exact congrArg Host.Outcome.next (if_pos (by rw [show isOn s (tugDom .d) = true from on, down]; rfl))
  · refine ⟨relayBody_hop body, ?_, ?_, ?_, ?_⟩
    · exact relayBody_field body (by decide) (by decide)
    · exact relayBody_field body (by decide) (by decide)
    · exact relayBody_field body (by decide) (by decide)
    · exact relayBody_field body (by decide) (by decide)
  · exact ⟨_, congrArg Host.Outcome.next (if_pos hears), vget_vset_same _ _ _ (feNum_lt fe), rfl⟩
  · exact ⟨_, rfl, vget_vset_same _ _ _ (feNum_lt fe), rfl⟩

end Sys2Proof.Proofs

/-! ## Counted reads of the status window (R691, R696, R697, R705, R706) -/

namespace Sys2Proof.Proofs

open Sys2Proof Sys2Proof.Machine

/-! ### The word that a read drives -/

/-- Before step 11 every word past W04 reads 0. -/
theorem driveWord_not_ready {s : State} {q : BitVec 6} (early : isReady s = false) (past : 5 ≤ q.toNat) :
    driveWord s q = { s with win.qd := 0, win.qcsN := true, win.qoeN := true } := by
  have zero : statusWord s q = 0 := by
    unfold statusWord
    dsimp only
    rw [if_neg (by omega), if_neg (by omega), if_pos (by rw [early]; rfl)]
  rw [driveWord, zero]

theorem read_not_ready {s u : State} {q : BitVec 6} (live : pinsLive s = true) (early : isReady s = false)
    (past : 5 ≤ q.toNat) :
    (if !pinsLive s then s else if !isReady s then driveWord s q else u) =
      { s with win.qd := 0, win.qcsN := true, win.qoeN := true } := by
  rw [if_neg (by rw [live]; decide), if_pos (by rw [early]; rfl), driveWord_not_ready early past]

theorem read_ready {s u v : State} (live : pinsLive s = true) (ready : isReady s = true) :
    (if !pinsLive s then s else if !isReady s then v else u) = u := by
  rw [if_neg (by rw [live]; decide), if_neg (by rw [ready]; decide)]

/-- Past step 11 a word past W04 drives what its address holds. -/
theorem statusWord_ready {s : State} (q : BitVec 6) (ready : isReady s = true) (past : 5 ≤ q.toNat) :
    statusWord s q =
      if q.toNat ≤ 7 then wordReel s (q.toNat - 5)
      else if q.toNat ≤ 0xA then vget s.win.g08 0 (q.toNat - 8)
      else if q.toNat = 0xB then word0b s
      else if q.toNat ≤ 0xF then wordWake s (q.toNat - 0xC)
      else if q.toNat = 0x10 then word10 s
      else if q.toNat = 0x11 then word11 s
      else if q.toNat = 0x12 then word12 s
      else if q.toNat ≤ 0x15 then vget s.win.g13 0 (q.toNat - 0x13)
      else if q.toNat ≤ 0x1F then vget s.win.g16 0 (q.toNat - 0x16)
      else if q.toNat = 0x20 then word20 s
      else if q.toNat = 0x21 then word21 s
      else if q.toNat = 0x22 then s.win.tdie
      else if q.toNat = 0x23 then word23 s
      else if q.toNat ≤ 0x27 then w16 (errorCounter s (q.toNat - 0x24))
      else if q.toNat = 0x28 then word28 s
      else if q.toNat = 0x29 then word29 s
      else if q.toNat = 0x2A then wordPort s .u
      else if q.toNat = 0x2B then wordPort s .d
      else if q.toNat = 0x2C then word2c s
      else if q.toNat = 0x2D then if variant s = 2 then 0 else s.win.w2d
      else if q.toNat ≤ 0x2F then vget s.win.g2e 0 (q.toNat - 0x2E)
      else if q.toNat = 0x3F then word3f s
      else 0 := by
  unfold statusWord
  dsimp only
  rw [if_neg (by omega), if_neg (by omega), if_neg (by rw [ready]; decide)]

/-! ### The reads -/

theorem exec_readW0b_ready {s : State} (live : pinsLive s = true) (ready : isReady s = true) :
    exec .readW0b s =
      .next (dropAlert { driveWord s 0xB with bridle.w0b := { s.bridle.w0b with cnt := 0, unread := false } } .w0b) :=
  congrArg Host.Outcome.next (read_ready live ready)

/-- The effect of a read of a group head beside its latch and the word driven. -/
def groupRead (h : GroupHead) (t : State) : State :=
  match h with
  | .w16 => pruneAlarms { t with prot.recAlarms := t.prot.recAlarms.map fun a => { a with read := true } }
  | .w2e => { t with win.icnt := 0 }
  | _ => t

theorem exec_readGroupHead_ready (h : GroupHead) {s : State} (live : pinsLive s = true) (ready : isReady s = true) :
    exec (.readGroupHead h) s = .next (groupRead h (driveWord (latchGroup s h) (headAddr h))) :=
  congrArg Host.Outcome.next (read_ready live ready)

/-- The first word of the group, as its latch holds it (R696). -/
theorem driveWord_latched (h : GroupHead) {s : State} (ready : isReady s = true) :
    (driveWord (latchGroup s h) (headAddr h)).win.qd =
      (match h with | .w08 => wordDoms s 0 | .w13 => wordReg s 0 | .w16 => wordRecord s 0 | .w2e => word2e s) := by
  have latched : ∀ past, (driveWord (latchGroup s h) (headAddr h)).win.qd = _ := statusWord_ready (s := latchGroup s h) (headAddr h)
    (by cases h <;> exact ready)
  rw [latched (by cases h <;> decide)]
  cases h
  · exact vget_vgen (n := 3) (wordDoms s) 0 0
  · exact vget_vgen (n := 3) (wordReg s) 0 0
  · exact vget_vgen (n := 10) (wordRecord s) 0 0
  · rfl

/-- The records are marked read, and the causes of those whose condition has ended are gone (R512). -/
theorem groupRead_records (t : State) :
    (groupRead .w16 t).prot.recAlarms = (t.prot.recAlarms.filter fun a => !a.ended).map fun a => { a with read := true } := by
  change List.filter _ (List.map _ _) = _
  rw [List.filter_map]
  rfl

theorem exec_readErrorCounter_ready (k : Fin 4) {s : State} (live : pinsLive s = true) (ready : isReady s = true) :
    exec (.readErrorCounter k) s = .next (match k with
      | 0 => { driveWord s (BitVec.ofNat 6 (0x24 + k.val)) with win.ecrc := 0 }
      | 1 => { driveWord s (BitVec.ofNat 6 (0x24 + k.val)) with win.ecor := 0 }
      | 2 => { driveWord s (BitVec.ofNat 6 (0x24 + k.val)) with win.eunc := 0 }
      | 3 => { driveWord s (BitVec.ofNat 6 (0x24 + k.val)) with win.epar := 0 }) :=
  congrArg Host.Outcome.next (read_ready live ready)

/-- A counted read of an error counter returns it and leaves it 0; the others stay (R691). -/
theorem readErrorCounter_effect (k : Fin 4) {s : State} (live : pinsLive s = true) (ready : isReady s = true) :
    ∃ t, exec (.readErrorCounter k) s = .next t ∧ t.win.qd = w16 (errorCounter s k) ∧ errorCounter t k = 0 ∧
      (∀ j : Fin 4, j ≠ k → errorCounter t j = errorCounter s j) ∧ Only [.win] s t := by
  have word : ∀ j : Fin 4, statusWord s (BitVec.ofNat 6 (0x24 + j.val)) = w16 (errorCounter s j) := fun j => by
    rw [statusWord_ready _ ready (by revert j; decide)]
    match j with
    | 0 => rfl
    | 1 => rfl
    | 2 => rfl
    | 3 => rfl
  have run := exec_readErrorCounter_ready k live ready
  refine ⟨_, run, ?_⟩
  match k with
  | 0 => exact ⟨word 0, rfl, (fun | 0, ne => absurd rfl ne | 1, _ => rfl | 2, _ => rfl | 3, _ => rfl),
      execReadErrorCounter_only _ s _ run⟩
  | 1 => exact ⟨word 1, rfl, (fun | 0, _ => rfl | 1, ne => absurd rfl ne | 2, _ => rfl | 3, _ => rfl),
      execReadErrorCounter_only _ s _ run⟩
  | 2 => exact ⟨word 2, rfl, (fun | 0, _ => rfl | 1, _ => rfl | 2, ne => absurd rfl ne | 3, _ => rfl),
      execReadErrorCounter_only _ s _ run⟩
  | 3 => exact ⟨word 3, rfl, (fun | 0, _ => rfl | 1, _ => rfl | 2, _ => rfl | 3, ne => absurd rfl ne),
      execReadErrorCounter_only _ s _ run⟩

theorem not_mem_dropAlert_of {s : State} {a b : Alarm} (absent : a ∉ s.prot.alerts) : a ∉ (dropAlert s b).prot.alerts :=
  fun mem => absent (List.mem_filter.mp mem).1

theorem link_dropAlert (s : State) (a : Alarm) (p : Port) : link (dropAlert s a) p = link s p := by cases p <;> rfl

theorem link_driveWord (s : State) (q : BitVec 6) (p : Port) : link (driveWord s q) p = link s p := by cases p <;> rfl

/-- The address of the status word of a port. -/
def portAddr (p : Port) : BitVec 6 := match p with | .u => 0x2A | .d => 0x2B

theorem statusWord_port (p : Port) {s : State} (ready : isReady s = true) : statusWord s (portAddr p) = wordPort s p := by
  cases p <;> exact (statusWord_ready _ ready (by decide)).trans rfl

theorem exec_readPortStatus_ready (p : Port) {s : State} (live : pinsLive s = true) (ready : isReady s = true) :
    exec (.readPortStatus p) s = .next (dropAlert (dropAlert
      (modLink (driveWord s (portAddr p)) p fun l => { l with err := 0 }) (.linkDown p)) (.lockFail p)) :=
  congrArg Host.Outcome.next (read_ready live ready)

theorem readPortStatus_effect (p : Port) {s : State} (live : pinsLive s = true) (ready : isReady s = true) :
    ∃ t, exec (.readPortStatus p) s = .next t ∧
      t.win = { s.win with qd := wordPort s p, qcsN := true, qoeN := true } ∧ link t p = { link s p with err := 0 } ∧
      link t (otherPort p) = link s (otherPort p) ∧ Alarm.linkDown p ∉ t.prot.alerts ∧ Alarm.lockFail p ∉ t.prot.alerts := by
  refine ⟨_, exec_readPortStatus_ready p live ready, ?_, ?_, ?_, not_mem_dropAlert_of (not_mem_dropAlert _ _),
    not_mem_dropAlert _ _⟩
  · rw [dropAlert_win, dropAlert_win, modLink_win, driveWord, statusWord_port p ready]
  · rw [link_dropAlert, link_dropAlert, link_modLink_same, link_driveWord]
  · rw [link_dropAlert, link_dropAlert, link_modLink_other, link_driveWord]

/-- Settles O58: each counted read through its equation, before and after step 11. -/
theorem statusReadsActOnce : Obligations.StatusReadsActOnce := by
  unfold Obligations.StatusReadsActOnce
  intro s live
  refine ⟨?_, fun ready => ⟨?_, fun h => ?_, fun k => readErrorCounter_effect k live ready,
    fun p => readPortStatus_effect p live ready, ?_, ?_⟩, fun early i which => ?_⟩
  · refine ⟨_, congrArg Host.Outcome.next (if_neg (by rw [live]; decide)), ?_⟩
    cases ready : isReady s
    · exact ⟨rfl, not_mem_dropAlert_of (not_mem_dropAlert _ _), not_mem_dropAlert _ _, fun h => absurd h (by decide),
        fun _ => rfl⟩
    · exact ⟨rfl, not_mem_dropAlert_of (not_mem_dropAlert _ _), not_mem_dropAlert _ _, fun _ => rfl,
        fun h => absurd h (by decide)⟩
  · exact ⟨_, exec_readW0b_ready live ready, congrArg (fun w => ({ s.win with qd := w, qcsN := true, qoeN := true } : Window))
      ((statusWord_ready _ ready (by decide)).trans rfl), rfl⟩
  · have run := exec_readGroupHead_ready h live ready
    refine ⟨_, run, ?_, ?_, ?_, ?_, ?_, ?_, ?_, execReadGroupHead_only h s _ run⟩
    · cases h <;> rfl
    · cases h <;> rfl
    · refine Eq.trans ?_ (driveWord_latched h ready)
      cases h <;> rfl
    · rintro rfl; rfl
    · rintro rfl; rfl
    · rintro rfl
      exact ⟨fun k => getElem_vgen (n := 10) (wordRecord s) k, groupRead_records _⟩
    · rintro rfl; exact ⟨rfl, rfl⟩
  · refine ⟨_, congrArg Host.Outcome.next (read_ready live ready), congrArg (fun w =>
      ({ s.win with qd := w, qcsN := true, qoeN := true } : Window)) ((statusWord_ready _ ready (by decide)).trans rfl),
      not_mem_dropAlert _ _, fun e => not_mem_dropAlert_of ?_⟩
    have step : ∀ {t : State} {a b : Alarm}, a ∉ t.prot.alerts → a ∉ (dropAlert t b).prot.alerts := not_mem_dropAlert_of
    match e with
    | 0 => exact step (step (step (not_mem_dropAlert _ _)))
    | 1 => exact step (step (not_mem_dropAlert _ _))
    | 2 => exact step (not_mem_dropAlert _ _)
    | 3 => exact not_mem_dropAlert _ _
  · exact ⟨_, congrArg Host.Outcome.next (read_ready live ready), congrArg (fun w =>
      ({ s.win with qd := w, qcsN := true, qoeN := true } : Window)) ((statusWord_ready _ ready (by decide)).trans rfl),
      not_mem_dropAlert _ _⟩
  · rcases which with rfl | ⟨k, rfl⟩ | ⟨h, rfl⟩ | ⟨k, rfl⟩ | ⟨p, rfl⟩ | rfl | rfl
    · exact congrArg Host.Outcome.next (read_not_ready live early (by decide))
    · exact congrArg Host.Outcome.next (read_not_ready live early (by revert k; decide))
    · exact congrArg Host.Outcome.next (read_not_ready live early (by cases h <;> decide))
    · exact congrArg Host.Outcome.next (read_not_ready live early (by revert k; decide))
    · exact congrArg Host.Outcome.next (read_not_ready live early (by cases p <;> decide))
    · exact congrArg Host.Outcome.next (read_not_ready live early (by decide))
    · exact congrArg Host.Outcome.next (read_not_ready live early (by decide))

end Sys2Proof.Proofs

/-! ## The backup store, its gauge and the pace rails (files 20 and 22) -/

namespace Sys2Proof.Proofs

open Sys2Proof Sys2Proof.Machine

/-! ### Stages (R734) -/

theorem stageActs_incidental (s : State) (k : Nat) : Incidental { s with gauge.acted := k } (stageActs s k) := by
  have off : ∀ (t : State) (d : Nat),
      Incidental t (if present t d && domSt t d ≠ .off then request t d (devReq .off) else t) := fun t d =>
    .ite (request_incidental ..) (.refl _)
  unfold stageActs
  extract_lets g s1 off'
  refine .ite ?_ (.ite ((off ..).trans (off ..)) ((off ..).trans (off ..)))
  exact .foldl (fun t d => .ite (loseBanks_incidental ..) (.refl _)) [7, 8, 9, 10, 11, 12] (.refl _)

/-- Stages that act leave the gauge but for their number, and W22. -/
theorem stageActs_gauge (s : State) (k : Nat) :
    (stageActs s k).gauge = { s.gauge with acted := k } ∧ (stageActs s k).win.tdie = s.win.tdie := by
  have acts := stageActs_incidental s k
  exact ⟨acts.only.same .gauge rfl, by rw [acts.win]⟩

theorem foldl_stageActs_gauge (l : List Nat) (s : State) :
    (∃ k, (l.foldl stageActs s).gauge = { s.gauge with acted := k }) ∧ (l.foldl stageActs s).win.tdie = s.win.tdie := by
  induction l generalizing s with
  | nil => exact ⟨⟨_, rfl⟩, rfl⟩
  | cons k rest ih =>
    obtain ⟨gauge, tdie⟩ := stageActs_gauge s k
    obtain ⟨⟨j, gauge'⟩, tdie'⟩ := ih (stageActs s k)
    exact ⟨⟨j, by rw [List.foldl_cons, gauge', gauge]⟩, tdie'.trans tdie⟩

/-- The stages up to n have acted, and those that acted before. -/
theorem actStages_gauge (s : State) (n : Nat) :
    (actStages s n).gauge = { s.gauge with acted := max s.gauge.acted n } ∧ (actStages s n).win.tdie = s.win.tdie := by
  unfold actStages
  by_cases more : s.gauge.acted < n
  · rw [List.range_succ, List.filter_append, List.foldl_append,
      show ([n].filter fun k => s.gauge.acted < k) = [n] by simp [more]]
    obtain ⟨⟨k, gauge⟩, tdie⟩ := foldl_stageActs_gauge ((List.range n).filter fun k => s.gauge.acted < k) s
    obtain ⟨gaugeLast, tdieLast⟩ := stageActs_gauge
      (((List.range n).filter fun k => s.gauge.acted < k).foldl stageActs s) n
    refine ⟨gaugeLast.trans ?_, tdieLast.trans tdie⟩
    rw [gauge, Nat.max_eq_right (Nat.le_of_lt more)]
  · have none : ((List.range (n + 1)).filter fun k => s.gauge.acted < k) = [] :=
      List.filter_eq_nil_iff.mpr fun k mem => by have := List.mem_range.mp mem; simp only [decide_eq_true_eq]; omega
    rw [none, Nat.max_eq_left (by omega)]
    exact ⟨rfl, rfl⟩

/-! ### Readings and packets (R715 to R718) -/

/-- A re-base writes Q and the marks of the gauge, and no reading, stage or selection. -/
theorem rebase_gauge (s : State) : ∃ q due based drift,
    (rebase s).gauge = { s.gauge with q := q, rebaseDue := due, based := based, gdrift := drift } ∧
      (gaugeOff s = false → q = qOf s s.gauge.vbak) := by
  unfold rebase
  split
  next off => exact ⟨_, _, _, _, rfl, fun h => absurd (h.symm.trans off) (by decide)⟩
  · extract_lets old g s1 new
    split
    · exact ⟨_, _, _, _, rfl, fun _ => rfl⟩
    · exact ⟨_, _, _, _, rfl, fun _ => rfl⟩

/-- The state of a reading before the stages: its values taken, the gauge re-based where it is due. -/
def readingTaken (mv : Nat) (tdie : Half) (s : State) : State :=
  let s1 := { s with win.tdie := tdie, gauge.vbak := mv }
  if !s.gauge.onVbak || s.gauge.rebaseDue || stagesBelow mv ≠ stagesBelow s.gauge.vbak then rebase s1 else s1

theorem exec_vbakReading {mv : Nat} {tdie : Half} {s : State} (past : s.boot.step ≠ .por) :
    exec (.vbakReading mv tdie) s = .next (if (readingTaken mv tdie s).gauge.onVbak then
      { actStages (readingTaken mv tdie s) (min (readingTaken mv tdie s).gauge.below (stagesBelow mv)) with
        gauge.below := stagesBelow mv }
      else { readingTaken mv tdie s with gauge.below := 0 }) :=
  congrArg Host.Outcome.next (if_neg past)

theorem readingTaken_gauge (mv : Nat) (tdie : Half) (s : State) : ∃ q due based drift,
    (readingTaken mv tdie s).gauge =
        { s.gauge with vbak := mv, q := q, rebaseDue := due, based := based, gdrift := drift } ∧
      (readingTaken mv tdie s).win.tdie = tdie ∧ (readingTaken mv tdie s).bridle = s.bridle ∧
      (s.gauge.onVbak = false → gaugeOff s = false → q = qOf s mv) := by
  have rebased : Only [.prot, .gauge] { s with win.tdie := tdie, gauge.vbak := mv }
      (rebase { s with win.tdie := tdie, gauge.vbak := mv }) := rebase_only _
  obtain ⟨q, due, based, drift, gauge, amount⟩ := rebase_gauge { s with win.tdie := tdie, gauge.vbak := mv }
  unfold readingTaken
  dsimp only
  split
  · exact ⟨q, due, based, drift, gauge, congrArg Window.tdie (rebased.same .win rfl), rebased.same .bridle rfl,
      fun _ on => amount on⟩
  next notDue => exact ⟨_, _, _, _, rfl, rfl, rfl, fun onVaon _ => absurd (by rw [onVaon]; rfl) notDue⟩

theorem vbakReading_effect (mv : Nat) (tdie : Half) {s : State} (past : s.boot.step ≠ .por) :
    ∃ t, exec (.vbakReading mv tdie) s = .next t ∧ t.win.tdie = tdie ∧ t.gauge.vbak = mv ∧
      (s.gauge.onVbak = false → t.gauge.acted = s.gauge.acted ∧ t.gauge.below = 0 ∧ t.bridle = s.bridle ∧
        (gaugeOff s = false → t.gauge.q = qOf s mv)) ∧
      (s.gauge.onVbak = true → t.gauge.below = stagesBelow mv ∧
        t.gauge.acted = max s.gauge.acted (min s.gauge.below (stagesBelow mv))) := by
  have run := exec_vbakReading (mv := mv) (tdie := tdie) past
  obtain ⟨q, due, based, drift, gauge, word, bridle, amount⟩ := readingTaken_gauge mv tdie s
  generalize readingTaken mv tdie s = u at run gauge word bridle
  have onVbak : u.gauge.onVbak = s.gauge.onVbak := by rw [gauge]
  cases bsel : s.gauge.onVbak
  · rw [if_neg (by rw [onVbak, bsel]; decide)] at run
    refine ⟨_, run, word, ?_, fun _ => ⟨?_, rfl, bridle, fun on => ?_⟩, fun h => absurd h (by decide)⟩
    · change u.gauge.vbak = mv
      rw [gauge]
    · change u.gauge.acted = s.gauge.acted
      rw [gauge]
    · change u.gauge.q = qOf s mv
      rw [gauge]
      exact amount bsel on
  · rw [if_pos (onVbak.trans bsel)] at run
    obtain ⟨staged, wordStaged⟩ := actStages_gauge u (min u.gauge.below (stagesBelow mv))
    refine ⟨_, run, wordStaged.trans word, ?_, fun h => absurd h (by decide), fun _ => ⟨rfl, ?_⟩⟩
    · change (actStages u _).gauge.vbak = mv
      rw [staged, gauge]
    · change (actStages u _).gauge.acted = _
      rw [staged, gauge]

theorem exec_gaugePacket {s : State} (onVbak : s.gauge.onVbak = true) (gauged : gaugeOff s = false) (left : s.gauge.q ≠ 0) :
    exec .gaugePacket s = .next (if s.gauge.q - 1 ≠ 0 then { s with gauge.q := s.gauge.q - 1 }
      else if 2800 ≤ s.gauge.vbak then setDrift { s with gauge.q := s.gauge.q - 1, gauge.rebaseDue := true }
      else { s with gauge.q := s.gauge.q - 1, gauge.rebaseDue := true }) :=
  congrArg Host.Outcome.next (if_neg (by simp [onVbak, gauged, left]))

/-! ### The pace loop (R765 to R767) -/

/-- How the loop moves a rail of a state whose canary reads c where n is needed. -/
structure RailPaced (s : State) (k : Fin 3) (c n : Nat) (r r' : PaceRail) : Prop where
  stalled : r'.stalled = r.stalled
  held : paceOn s k = false ∨ r.stalled = true → r'.level = r.level
  moved : paceOn s k = true → r.stalled = false → paceFloor s k ≤ r.level → r.level ≤ 48 →
    (100 * c < 105 * n → r.level < 48 → r.level < r'.level ∧ r'.level ≤ 48) ∧
    (105 * n ≤ 100 * c → 100 * c < 115 * n → r'.level = min 48 (r.level + 1)) ∧
    (115 * n ≤ 100 * c → 0 < n → 100 * c ≤ 120 * n → r'.level = r.level) ∧
    (120 * n < 100 * c → paceFloor s k < r.level → r'.level = r.level - 1)
  floored : paceOn s k = true → r.stalled = false → r.level < paceFloor s k → r'.level = paceFloor s k

theorem pace_put (s : State) (v : PaceRail) (k j : Fin 3) :
    (vset s.pace k v)[j] = if j = k then v else s.pace[j] := by
  have eq := vget_eq_getElem (vset s.pace k v) v j
  rw [← eq, vget, dif_pos j.isLt]
  simp only [vset, dif_pos k.isLt, Vector.getElem_set]
  by_cases same : j = k
  · subst same; simp
  · rw [if_neg same, if_neg fun h => same (Fin.ext h.symm)]
    rfl

/-- The rails of a state after the loop has acted on one: only that rail moves, in its level. -/
theorem paceAct_pace (s : State) (k : Fin 3) (c n : Nat) : ∃ l f,
    (paceAct s k c n).pace = vset s.pace k { s.pace[k] with level := l } ∧
      l = (if !paceOn s k || s.pace[k].stalled then s.pace[k].level
        else if s.pace[k].level < paceFloor s k then paceFloor s k
        else if 100 * c < 105 * n then
          if 48 ≤ s.pace[k].level then s.pace[k].level else s.pace[k].level + 1 + f % (48 - s.pace[k].level)
        else if 100 * c < 115 * n then min 48 (s.pace[k].level + 1)
        else if (n = 0 || 120 * n < 100 * c) && paceFloor s k < s.pace[k].level then s.pace[k].level - 1
        else s.pace[k].level) := by
  have same : vset s.pace k { s.pace[k] with level := s.pace[k].level } = s.pace := by
    change vset s.pace k s.pace[k] = s.pace
    simp [vset]
  have rail : vget s.pace ⟨48, false⟩ k = s.pace[k] := vget_eq_getElem ..
  unfold paceAct
  rw [rail]
  dsimp only
  split
  · exact ⟨_, 0, same.symm, rfl⟩
  split
  · exact ⟨_, 0, rfl, rfl⟩
  split
  · split
    · exact ⟨_, 0, same.symm, rfl⟩
    · exact ⟨_, _, rfl, rfl⟩
  split
  · exact ⟨_, 0, rfl, rfl⟩
  split
  · exact ⟨_, 0, rfl, rfl⟩
  · exact ⟨_, 0, same.symm, rfl⟩

theorem paceAct_other (s : State) {k j : Fin 3} (other : j ≠ k) (c n : Nat) : (paceAct s k c n).pace[j] = s.pace[j] := by
  obtain ⟨l, f, pace, _⟩ := paceAct_pace s k c n
  rw [pace, pace_put, if_neg other]

theorem paceAct_paced (s : State) (k : Fin 3) (c n : Nat) : RailPaced s k c n s.pace[k] (paceAct s k c n).pace[k] := by
  obtain ⟨l, f, pace, level⟩ := paceAct_pace s k c n
  rw [pace, pace_put, if_pos rfl]
  refine ⟨rfl, fun off => ?_, fun on free floor top => ?_, fun on free below => ?_⟩
  · rw [if_pos (by rcases off with h | h <;> rw [h] <;> simp)] at level
    exact level
  · rw [if_neg (by rw [on, free]; decide), if_neg (by omega)] at level
    dsimp only
    refine ⟨fun low room => ?_, fun notLow fewer => ?_, fun enough some_ few => ?_, fun many above => ?_⟩
    · rw [if_pos low, if_neg (by omega)] at level
      have := Nat.mod_lt f (show 0 < 48 - s.pace[k].level by omega)
      omega
    · rw [if_neg (by omega), if_pos fewer] at level
      exact level
    · rw [if_neg (by omega), if_neg (by omega), if_neg (by simp; omega)] at level
      exact level
    · rw [if_neg (by omega), if_neg (by omega), if_pos (by simp only [Bool.and_eq_true, Bool.or_eq_true, decide_eq_true_eq]; omega)] at level
      exact level
  · rw [if_neg (by rw [on, free]; decide), if_pos below] at level
    exact level

/-- What the loop reads of a state beside its rails is apart from what it changes. -/
theorem paced_reads {s t : State} (h : Only [.free, .pace] s t) (k : Fin 3) (mem : Nat) :
    paceOn t k = paceOn s k ∧ paceFloor t k = paceFloor s k ∧ paceNeed t k mem = paceNeed s k mem := by
  have bridle : t.bridle = s.bridle := h.same .bridle rfl
  have tether : t.tether = s.tether := h.same .tether rfl
  have engs : t.engs = s.engs := h.same .engs rfl
  have on : isOn t = isOn s := funext (isOn_of_bridle bridle)
  have up : portUp t = portUp s := funext fun p => by unfold portUp; rw [link_of_tether tether]
  have source : lineSourceUp t = lineSourceUp s := funext fun e => by unfold lineSourceUp; rw [on, up, engs]
  refine ⟨?_, ?_, ?_⟩
  · unfold paceOn; rw [on]
  · unfold paceFloor; rw [on, up]
  · unfold paceNeed; rw [on, up, source]

theorem RailPaced.congr {s t : State} {k : Fin 3} {c n : Nat} {r r' : PaceRail} (on : paceOn t k = paceOn s k)
    (floor : paceFloor t k = paceFloor s k) (h : RailPaced t k c n r r') : RailPaced s k c n r r' := by
  obtain ⟨stalled, held, moved, floored⟩ := h
  rw [on, floor] at moved floored
  rw [on] at held
  exact ⟨stalled, held, moved, floored⟩

theorem exec_paceLoop (code : Vector Nat 3) (mem : Nat) (s : State) :
    exec (.paceLoop code mem) s = .next ([0, 1, 2].foldl (fun t k => paceAct t k (vget code 0 k) (paceNeed t k mem)) s) := rfl

/-- The loop moves each rail once, by its own canary and need. -/
theorem paceLoop_paced (code : Vector Nat 3) (mem : Nat) (s : State) (k : Fin 3) :
    RailPaced s k code[k] (paceNeed s k mem) s.pace[k]
      (([0, 1, 2].foldl (fun t k => paceAct t k (vget code 0 k) (paceNeed t k mem)) s).pace[k]) := by
  let act (t : State) (j : Fin 3) : State := paceAct t j code[j] (paceNeed t j mem)
  have step : ∀ t j, Only [.free, .pace] t (act t j) := fun t j => paceAct_only ..
  have steps : [0, 1, 2].foldl (fun t k => paceAct t k (vget code 0 k) (paceNeed t k mem)) s = act (act (act s 0) 1) 2 := rfl
  have other : ∀ t {j i : Fin 3}, i ≠ j → (act t j).pace[i] = t.pace[i] := fun t _ _ ne => paceAct_other t ne _ _
  have paced : ∀ {t}, Only [.free, .pace] s t → t.pace[k] = s.pace[k] →
      RailPaced s k code[k] (paceNeed s k mem) s.pace[k] (act t k).pace[k] := fun {t} apart same => by
    obtain ⟨on, floor, need⟩ := paced_reads apart k mem
    have own := paceAct_paced t k code[k] (paceNeed t k mem)
    rw [need, same] at own
    refine RailPaced.congr on floor ?_
    change RailPaced t k _ _ _ (paceAct t k code[k] (paceNeed t k mem)).pace[k]
    rw [need]
    exact own
  rw [steps]
  obtain rfl | rfl | rfl : k = 0 ∨ k = 1 ∨ k = 2 := by omega
  · rw [other _ (show (0 : Fin 3) ≠ 2 by decide), other _ (show (0 : Fin 3) ≠ 1 by decide)]
    exact paced (Only.refl _ _) rfl
  · rw [other _ (show (1 : Fin 3) ≠ 2 by decide)]
    exact paced (step _ _) (other _ (by decide))
  · exact paced ((step _ _).post (step _ _) rfl) ((other _ (by decide)).trans (other _ (by decide)))

/-- Settles O60: readings, packets, the loop rail by rail, and the stall of a canary. -/
theorem storeGaugeAndPace : Obligations.StoreGaugeAndPace := by
  unfold Obligations.StoreGaugeAndPace
  refine ⟨fun mv tdie s past => vbakReading_effect mv tdie past, fun s onVbak gauged => ⟨fun more => ?_, fun last => ?_⟩,
    fun code mem s => ?_, fun k s on => congrArg Host.Outcome.next (if_pos on)⟩
  · rw [exec_gaugePacket onVbak gauged (by omega), if_pos (by omega)]
  · refine ⟨_, exec_gaugePacket onVbak gauged (by omega), ?_⟩
    have zero : s.gauge.q - 1 = 0 := by omega
    rw [if_neg (not_not_intro zero)]
    split
    · exact ⟨zero, rfl, fun _ => ⟨rfl, alertAsserted_of_mem _ .gdrift (mem_addAlert _ _)⟩⟩
    next low => exact ⟨zero, rfl, fun high => absurd high low⟩
  · have run := exec_paceLoop code mem s
    refine ⟨_, run, execPaceLoop_only code mem s _ run, fun k l n level need => ?_⟩
    subst level need
    obtain ⟨stalled, held, moved, floored⟩ := paceLoop_paced code mem s k
    exact ⟨stalled, held, moved, floored⟩

end Sys2Proof.Proofs

/-! ## The host's commands on PSEL and PCMD (file 10) -/

namespace Sys2Proof.Proofs

open Sys2Proof Sys2Proof.Machine

/-! ### Answers and refusals -/

/-- An entry of the host's own for a refusal that PRES answers: it takes W0B, counts, and asserts no alert. -/
def refusedEntry (s : State) (sel : BitVec 5) (reason : BitVec 4) : W0B := ⟨sel, 0, 1, reason, satur 7 (s.bridle.w0b.cnt + 1), true⟩

theorem hostRefuse_eq (s : State) (sel : BitVec 5) (reason : BitVec 4) :
    hostRefuse s sel reason =
      { s with bridle.w0b := refusedEntry s sel reason, bridle.pack := true, bridle.pres := 1 } := by
  have own : (s.bridle.w0b.unread && s.bridle.w0b.origin == 0 && Origin.host != .host) = false := Bool.and_false _
  unfold hostRefuse w0bEntry
  dsimp only
  rw [own]
  rfl

theorem hostRefuse_bridle_only (s : State) (sel : BitVec 5) (reason : BitVec 4) : Only [.bridle] s (hostRefuse s sel reason) := by
  rw [hostRefuse_eq]
  exact Only.set_bridle (Only.refl _ _) _ rfl

theorem modDom_dropIdle {s : State} {d : Nat} (free : outstanding s d = false) : modDom s d dropIdle = s := by
  obtain ⟨idle, empty⟩ := outstanding_eq_false.mp free
  refine modDom_self ?_
  generalize dom s d = m at idle empty
  cases m
  subst idle empty
  rfl

theorem settle_of_not_outstanding {s : State} {d : Nat} (free : outstanding s d = false) : settle s d = s := by
  obtain ⟨idle, empty⟩ := outstanding_eq_false.mp free
  have taken : takeOrder s d = s := by rw [takeOrder, empty]; rfl
  rw [settle, taken, askRequired, idle]

theorem domSt_dropIdle (s : State) (d e : Nat) : domSt (modDom s d dropIdle) e = domSt s e := by
  unfold domSt
  rw [dom_modDom]
  split <;> rfl

theorem railAsked_of_no_chan {s : State} {d : Nat} (x : DS) (notMain : d ≠ 17) (notAux : d ≠ 18) : railAsked s d x = s := by
  rw [railAsked, domChan, if_neg notMain, if_neg notAux]

/-! ### HOST_OFF, HOST_RETENTION and HOST_ON -/

theorem exec_hostState {d : Fin 20} {x : DS} {i : Instr}
    (row : (x, i) = (.off, .hostOff d) ∨ (x, i) = (.ret, .hostRetention d) ∨ (x, i) = (.on, .hostOn d)) (s : State) :
    exec i s = .next (hostState s d x) := by
  rcases row with h | h | h <;> (obtain ⟨rfl, rfl⟩ := Prod.mk.inj h; rfl)

/-- The request of a host command for a state. -/
def hostReq (x : DS) : Req := ⟨.host, x, 0, true, false⟩

theorem hostState_not_ready {s : State} (d : Fin 20) (x : DS) (taken : hostTaken s = true) (early : isReady s = false) :
    hostState s d x = hostRefuse s (BitVec.ofNat 5 d.val) 0x1 := by
  unfold hostState
  rw [if_neg (by rw [taken]; decide), if_pos (by rw [early]; rfl)]

theorem hostState_ready {s : State} (d : Fin 20) (x : DS) (taken : hostTaken s = true) (ready : isReady s = true) :
    hostState s d x = match refusal s d.val (hostReq x) with
    | some r => hostRefuse (settle (modDom s d.val dropIdle) d.val) (BitVec.ofNat 5 d.val) r
    | none => match lastNaming s d.val with
      | some k => hostAnswer { modDom s d.val dropIdle with bridle.behind := s.bridle.behind ++ [(k, d, x)] } 2
      | none =>
        if !outstanding s d.val && domSt s d.val = x then hostAnswer (railAsked s d.val x) 0
        else request (railAsked (hostAnswer s 2) d.val x) d.val (hostReq x) := by
  exact (if_neg (by rw [taken]; decide)).trans ((if_neg (by rw [ready]; decide)).trans rfl)

theorem hostState_refused {s : State} {d : Fin 20} {x : DS} {r : BitVec 4} (taken : hostTaken s = true)
    (ready : isReady s = true) (refused : refusal s d (hostReq x) = some r) :
    hostState s d x = hostRefuse (settle (modDom s d.val dropIdle) d.val) (BitVec.ofNat 5 d.val) r := by
  rw [hostState_ready d x taken ready, refused]

theorem hostState_behind {s : State} {d : Fin 20} {x : DS} {k : Nat} (taken : hostTaken s = true)
    (ready : isReady s = true) (allowed : refusal s d (hostReq x) = none) (named : lastNaming s d = some k) :
    hostState s d x = hostAnswer { modDom s d.val dropIdle with bridle.behind := s.bridle.behind ++ [(k, d, x)] } 2 := by
  rw [hostState_ready d x taken ready, allowed, named]

theorem hostState_taken {s : State} {d : Fin 20} {x : DS} (taken : hostTaken s = true)
    (ready : isReady s = true) (allowed : refusal s d (hostReq x) = none) (free : lastNaming s d = none) :
    hostState s d x = if !outstanding s d && domSt s d = x then hostAnswer (railAsked s d.val x) 0
      else request (railAsked (hostAnswer s 2) d.val x) d.val (hostReq x) := by
  rw [hostState_ready d x taken ready, allowed, free]

/-- PACK and PRES after a request that was made are those of the answer. -/
theorem request_answer (s : State) (d : Nat) (x : DS) (q : Req) :
    (request (railAsked (hostAnswer s 2) d x) d q).bridle.pack = true ∧
      (request (railAsked (hostAnswer s 2) d x) d q).bridle.pres = 2 := by
  have asked : (railAsked (hostAnswer s 2) d x).bridle = { s.bridle with pack := true, pres := 2 } :=
    (railAsked_only ..).same .bridle rfl
  have made := (request_incidental (railAsked (hostAnswer s 2) d x) d q).bridle
  constructor
  · rw [made, asked]
  · rw [made, asked]

/-- Settles O38: each branch of `hostState` with the answer it gives. -/
theorem hostStateCommands : Obligations.HostStateCommands := by
  unfold Obligations.HostStateCommands
  intro d x i s row
  rw [exec_hostState row]
  refine ⟨fun idle => congrArg Host.Outcome.next (if_pos (by rw [idle]; rfl)), fun taken ready => ⟨_, rfl, ?_⟩,
    fun taken early => ⟨_, rfl, ?_⟩⟩
  rotate_left
  · rw [hostState_not_ready d x taken early, hostRefuse_eq]
    exact ⟨rfl, rfl, rfl⟩
  have refused : ∀ r, refusal s d ⟨.host, x, 0, true, false⟩ = some r → hostState s d x =
      hostRefuse (settle (modDom s d.val dropIdle) d.val) (BitVec.ofNat 5 d.val) r := fun r =>
    hostState_refused taken ready
  have behind := fun k => hostState_behind (k := k) (d := d) (x := x) taken ready
  have answered := hostState_taken (d := d) (x := x) taken ready
  have packed : (hostState s d x).bridle.pack = true := by
    cases verdict : refusal s d (hostReq x) with
    | some r => rw [refused r verdict, hostRefuse_eq]
    | none =>
      cases name : lastNaming s d with
      | some k => rw [behind k verdict name]; rfl
      | none =>
        rw [answered verdict name]
        split
        · rfl
        · exact (request_answer ..).1
  refine ⟨packed, fun r verdict => ?_, fun allowed name free there => ?_, fun allowed moves => ?_,
    fun allowed name free on leaves notMain notAux => ?_, fun k allowed name => ?_⟩
  · rw [refused r verdict, hostRefuse_eq]
    refine ⟨rfl, rfl, fun free => ?_⟩
    rw [modDom_dropIdle free, settle_of_not_outstanding free]
    exact ⟨Only.set_bridle (Only.refl _ _) _ rfl, rfl, rfl⟩
  · rw [answered allowed name, if_pos (by rw [free, there]; simp)]
    have asked : (railAsked s d x).bridle = s.bridle := (railAsked_only ..).same .bridle rfl
    have doms := congrArg Bridle.doms asked
    have w0b := congrArg Bridle.w0b asked
    exact ⟨rfl, doms, w0b⟩
  · cases name : lastNaming s d with
    | some k => rw [behind k allowed name]; rfl
    | none =>
      rw [answered allowed name, if_neg (by rcases moves with h | h <;> simp [h])]
      exact (request_answer ..).2
  · have asks := request_leave (s := hostAnswer s 2) (q := hostReq x) free allowed (beq_iff_eq.mpr on) leaves
    rw [answered allowed name, if_neg (by simp [free, on, leaves.symm]), railAsked_of_no_chan _ notMain notAux, asks]
    have waits := dom_modDom_same (hostAnswer s 2) d fun m => { m with cur := some (hostReq x, .wait) }
    exact ⟨congrArg Dom.cur waits, (congrArg (fun m : Dom => m.st == .on) waits).trans (beq_iff_eq.mpr on)⟩
  · rw [behind k allowed name]
    exact ⟨rfl, rfl, fun e => domSt_dropIdle s d e, Only.set_bridle (Only.refl _ _) _ rfl⟩

/-! ### The other commands -/

theorem taken_of {s a b : State} (taken : hostTaken s = true) : (if !hostTaken s then a else b) = b :=
  if_neg (by rw [taken]; decide)

theorem ready_of {s a b : State} (ready : isReady s = true) : (if !isReady s then a else b) = b :=
  if_neg (by rw [ready]; decide)

/-- The profile that HOST_APPLY passes on. -/
def hostJob (s : State) (k : Fin 8) (hostCmd : Bool) : Job :=
  ⟨s.bridle.nextJob, .host, k, (profileOf s k).targets, profileOf s k, 0, 0, false, false, 0, hostCmd⟩

theorem passProfile_host (s : State) (k : Fin 8) (hostCmd : Bool) :
    passProfile s k .host 0 hostCmd =
      { s with bridle.waiting := s.bridle.waiting ++ [hostJob s k hostCmd], bridle.nextJob := s.bridle.nextJob + 1 } := rfl

/-- HOST_APPLY while Bridle may take it. -/
theorem exec_hostApply {s : State} (k : Fin 8) (taken : hostTaken s = true) (ready : isReady s = true)
    (normal : s.boot.safe = false) (calm : inOutage s = false) :
    exec (.hostApply k) s = .next (
      if (profileTargets s (profileOf s k).targets).isEmpty && !(s.bridle.waiting.any fun j =>
          (List.range 20).any fun d => (targetOf j.targets d).isSome && (targetOf (profileOf s k).targets d).isSome) then
        if badSetpoint s (profileOf s k) .main || badSetpoint s (profileOf s k) .aux
        then passProfile (hostRefuse s (BitVec.ofNat 5 (24 + k.val)) 0x7) k .host 0 false
        else passProfile (hostAnswer s 0) k .host 0 false
      else passProfile (hostAnswer s 2) k .host 0 true) :=
  congrArg Host.Outcome.next ((taken_of taken).trans ((ready_of ready).trans
    ((if_neg (by rw [normal]; decide)).trans (if_neg (by rw [calm]; decide)))))

theorem hostApply_effect {s : State} (k : Fin 8) (taken : hostTaken s = true) (ready : isReady s = true)
    (normal : s.boot.safe = false) (calm : inOutage s = false) :
    ∃ t j, exec (.hostApply k) s = .next t ∧ t.bridle.pack = true ∧ t.bridle.waiting = s.bridle.waiting ++ [j] ∧
      j.prof = k ∧ j.origin = .host ∧ j.targets = (profileOf s k).targets ∧ t.bridle.doms = s.bridle.doms ∧
      ((profileTargets s (profileOf s k).targets).isEmpty = false → t.bridle.pres = 2 ∧ j.hostCmd = true) ∧
      ((profileTargets s (profileOf s k).targets).isEmpty = true → s.bridle.waiting = [] →
        badSetpoint s (profileOf s k) .main = false → badSetpoint s (profileOf s k) .aux = false →
        t.bridle.pres = 0 ∧ t.bridle.w0b = s.bridle.w0b) ∧
      ((profileTargets s (profileOf s k).targets).isEmpty = true → s.bridle.waiting = [] →
        badSetpoint s (profileOf s k) .main = true ∨ badSetpoint s (profileOf s k) .aux = true →
        t.bridle.pres = 1 ∧ t.bridle.w0b.reason = 7) ∧ Only [.bridle] s t := by
  have run := exec_hostApply k taken ready normal calm
  have passed : ∀ (t : State) (c : Bool), Only [.bridle] s t → Only [.bridle] s (passProfile t k .host 0 c) := fun t c h =>
    h.post (passProfile_only ..) rfl
  split at run
  next none =>
    obtain ⟨noTarget, _⟩ := Bool.and_eq_true_iff.mp none
    split at run
    next bad =>
      rw [hostRefuse_eq] at run
      refine ⟨_, hostJob s k false, run, rfl, rfl, rfl, rfl, rfl, rfl, fun h => absurd (h.symm.trans noTarget) (by decide),
        fun _ _ main aux => ?_, fun _ _ _ => ⟨rfl, rfl⟩, passed _ _ (Only.set_bridle (Only.refl _ _) _ rfl)⟩
      rw [main, aux] at bad
      cases bad
    next good =>
      refine ⟨_, hostJob s k false, run, rfl, rfl, rfl, rfl, rfl, rfl, fun h => absurd (h.symm.trans noTarget) (by decide),
        fun _ _ _ _ => ⟨rfl, rfl⟩, fun _ _ bad => ?_, passed _ _ (hostAnswer_only ..)⟩
      exact absurd (by rcases bad with h | h <;> simp [h]) good
  next some_ =>
    have clash : (profileTargets s (profileOf s k).targets).isEmpty = true → s.bridle.waiting ≠ [] := fun h e => by
      rw [h, e] at some_
      exact some_ rfl
    exact ⟨_, hostJob s k true, run, rfl, rfl, rfl, rfl, rfl, rfl, fun _ => ⟨rfl, rfl⟩,
      fun h e => absurd e (clash h), fun h e => absurd e (clash h), passed _ _ (hostAnswer_only ..)⟩

/-- The reason for which HOST_APPLY is refused at once, in the order of log entry 20. -/
theorem exec_hostApply_refused {s : State} {r : BitVec 4} (k : Fin 8) (taken : hostTaken s = true)
    (reason : r = (if isReady s = false then 1 else if s.boot.safe then 0xE else if inOutage s then 0xA else 0))
    (refused : r ≠ 0) : exec (.hostApply k) s = .next (hostRefuse s (BitVec.ofNat 5 (24 + k.val)) r) := by
  refine congrArg Host.Outcome.next ((taken_of taken).trans ?_)
  cases ready : isReady s
  · rw [ready] at reason
    rw [reason]
    rfl
  · cases safe : s.boot.safe
    · cases outage : inOutage s
      · rw [ready, safe, outage] at reason
        exact absurd reason refused
      · rw [ready, safe, outage] at reason
        rw [reason]
        rfl
    · rw [ready, safe] at reason
      rw [reason]
      rfl

theorem hostCommand_dom (d : Fin 20) (pcmd : BitVec 2) :
    hostCommand (BitVec.ofNat 5 d) pcmd =
      if pcmd = 0 then .hostOff d else if pcmd = 1 then .hostRetention d else if pcmd = 2 then .hostOn d else .hostQuery d := by
  have num : (BitVec.ofNat 5 d.val).toNat = d.val := by rw [BitVec.toNat_ofNat]; omega
  have same : (⟨(BitVec.ofNat 5 d.val).toNat, by omega⟩ : Fin 20) = d := Fin.ext num
  rw [hostCommand, dif_pos (by omega), same]

/-- Settles O39: each command through its equation. -/
theorem otherHostCommands : Obligations.OtherHostCommands := by
  unfold Obligations.OtherHostCommands
  refine ⟨fun d s taken ready there => ?_, fun d s taken ready absent => ?_,
    fun k s taken ready normal calm => hostApply_effect k taken ready normal calm,
    fun k r s taken reason refused => ?_, fun psel pcmd s taken bad => ?_, fun d k psel pcmd s idle => ?_,
    fun s live => congrArg Host.Outcome.next (if_pos live), fun d => ?_, fun k => ?_, fun psel pcmd bad => ?_⟩
  · refine congrArg Host.Outcome.next ((taken_of taken).trans ((ready_of ready).trans
      ((if_neg (by rw [there]; decide)).trans ?_)))
    split
    · rfl
    · split <;> rfl
  · have run : exec (.hostQuery d) s = .next (hostRefuse s (BitVec.ofNat 5 d.val) 0x2) :=
      congrArg Host.Outcome.next ((taken_of taken).trans ((ready_of ready).trans (if_pos (by rw [absent]; rfl))))
    rw [hostRefuse_eq] at run
    exact ⟨_, run, rfl, rfl, rfl, rfl, Only.set_bridle (Only.refl _ _) _ rfl⟩
  · have run := exec_hostApply_refused k taken reason refused
    rw [hostRefuse_eq] at run
    exact ⟨_, run, rfl, rfl, rfl, rfl, Only.set_bridle (Only.refl _ _) _ rfl⟩
  · have run : exec (.hostInvalidCommand psel pcmd) s = .next (hostRefuse s psel (if isReady s then 8 else 1)) := by
      refine congrArg Host.Outcome.next ((if_neg ?_).trans ?_)
      · have isBad : ((20 ≤ psel.toNat && psel.toNat ≤ 23) || (24 ≤ psel.toNat && pcmd ≠ 3)) = true := by simpa using bad
        change ¬(!hostTaken s || !((20 ≤ psel.toNat && psel.toNat ≤ 23) || (24 ≤ psel.toNat && pcmd ≠ 3))) = true
        rw [taken, isBad]
        decide
      · cases isReady s <;> rfl
    rw [hostRefuse_eq] at run
    exact ⟨_, run, rfl, rfl, rfl, rfl, Only.set_bridle (Only.refl _ _) _ rfl⟩
  · have off : ∀ {a b : State}, (if !hostTaken s then a else b) = a := if_pos (by rw [idle]; rfl)
    exact ⟨congrArg Host.Outcome.next off, congrArg Host.Outcome.next off,
      congrArg Host.Outcome.next (if_pos (by rw [idle]; rfl))⟩
  · exact ⟨hostCommand_dom d 0, hostCommand_dom d 1, hostCommand_dom d 2, hostCommand_dom d 3⟩
  · have num : (BitVec.ofNat 5 (24 + k.val)).toNat = 24 + k.val := by rw [BitVec.toNat_ofNat]; omega
    have same : Fin.ofNat 8 (24 + k.val - 24) = k := Fin.ext (by simp [Fin.ofNat])
    rw [hostCommand, dif_neg (by omega), if_pos (by simp [num]), num, same]
  · rw [hostCommand, dif_neg (by omega), if_neg]
    simp only [Bool.and_eq_true, decide_eq_true_eq, not_and]
    rcases bad with h | ⟨_, h⟩
    · omega
    · exact fun _ => h

end Sys2Proof.Proofs

/-! ## How a domain leaves on and comes to it (Sequences DOM-1 and DOM-2, file 10) -/

namespace Sys2Proof.Proofs

open Sys2Proof Sys2Proof.Machine

/-! ### ASK, HOLD and DRAIN -/

/-- The steps of a reference leave PGOOD. -/
theorem refSteps_pgood (n : Nat) (x : ChanSt) : (refSteps n x).pgood = x.pgood := by
  induction n generalizing x with
  | zero => rfl
  | succ n ih =>
    refine (ih (refStep x)).trans ?_
    unfold refStep
    split
    · rfl
    · split <;> rfl

theorem moveRef_pgood (s : State) (c : Chan) : (chan (moveRef s c) c).pgood = (chan s c).pgood := by
  unfold moveRef settleRef
  split
  · rw [chan_modChan_same, chan_modChan_same]
    exact refSteps_pgood ..
  · rw [chan_modChan_same, chan_modChan_same]
    exact refSteps_pgood ..
  · rw [chan_modChan_same, chan_modChan_same]
    rfl
  · rfl

/-- A switching channel that begins its stop sequence: PGOOD is low and the reference goes down (R437, R441). -/
theorem beginStop_switching {s : State} {c : Chan} (runs : switching (chan s c) = true) :
    (chan (beginStop s c) c).phase = .stopping ∧ (chan (beginStop s c) c).pgood = false := by
  have low : (chan (freezeRef (dropPgood s c) c) c).pgood = false := by
    unfold freezeRef
    rw [chan_modChan_same]
    refine (moveRef_pgood ..).trans ?_
    rw [dropPgood, chan_modChan_same]
  have stopping : chan (beginStop s c) c = { chan (freezeRef (dropPgood s c) c) c with
      phase := .stopping, target := 0, targetHigh := (chan (freezeRef (dropPgood s c) c) c).high, diode := true,
      warm := false } := by
    unfold beginStop
    rw [if_pos runs]
    dsimp only
    cases c <;> rfl
  exact ⟨congrArg ChanSt.phase stopping, (congrArg ChanSt.pgood stopping).trans low⟩

theorem exec_drain_waiting {s : State} {d : Fin 20} {q : Req} (waits : (dom s d).cur = some (q, .wait)) :
    exec (.drain d) s = .next (if !negotiated s d && freeToLeave s d && !descentHolds s d then
      match domChan d with
      | some c => beginStop (toStage s d q .draining) c
      | none => toStage s d q .draining
    else s) := by
  change execDrain d s = _
  unfold execDrain
  rw [waits] <;> rfl

theorem exec_drain_held {s : State} {d : Fin 20} (held : freeToLeave s d = false ∨ descentHolds s d = true) :
    exec (.drain d) s = .next s := by
  change execDrain d s = _
  unfold execDrain
  refine congrArg Host.Outcome.next ?_
  split
  · exact if_neg (by rcases held with h | h <;> simp [h])
  · rfl

theorem exec_ask_held {s : State} {d : Fin 20} (held : freeToLeave s d = false) : exec (.ask d) s = .next s := by
  change execAsk d s = _
  unfold execAsk
  refine congrArg Host.Outcome.next ?_
  split
  · exact if_neg (by simp [held])
  · rfl

/-- Settles O40: ASK, HOLD and DRAIN move the stage of the request in progress, and DRAIN of PD17 begins the stop. -/
theorem leaveSequenceBegins : Obligations.LeaveSequenceBegins := by
  unfold Obligations.LeaveSequenceBegins
  intro d q s
  refine ⟨fun waits own free => ?_, fun asked delay => ?_, fun asked none => ?_, fun waits other free goes => ?_,
    fun held => ⟨exec_ask_held held, exec_drain_held (.inl held)⟩, fun held => exec_drain_held (.inr held)⟩
  · change execAsk d s = _
    unfold execAsk
    rw [waits]
    exact congrArg Host.Outcome.next (if_pos (by rw [own, free]; rfl))
  · change execHold d s = _
    unfold execHold
    rw [asked]
    exact congrArg Host.Outcome.next (if_neg delay)
  · change execHold d s = _
    unfold execHold
    rw [asked]
    exact congrArg Host.Outcome.next (if_pos none)
  · have run := exec_drain_waiting waits
    rw [if_pos (by rw [other, free, goes]; rfl)] at run
    have stage : dom (toStage s d q .draining) d = { dom s d with cur := some (q, .draining) } := dom_modDom_same ..
    have drained : ∀ t, t.bridle = (toStage s d q .draining).bridle →
        (dom t d).cur = some (q, .draining) ∧ domSt t d = domSt s d := fun t same => by
      unfold domSt
      rw [dom_of_bridle same, stage]
      exact ⟨rfl, rfl⟩
    refine ⟨_, run, ?_⟩
    have frame := execDrain_only d s _ run
    cases chanOf : domChan d with
    | none =>
      rw [chanOf] at frame
      obtain ⟨cur, st⟩ := drained _ rfl
      refine ⟨cur, st, frame, fun main => ?_⟩
      rw [domChan, if_pos main] at chanOf
      cases chanOf
    | some c =>
      rw [chanOf] at frame
      obtain ⟨cur, st⟩ := drained (beginStop (toStage s d q .draining) c) ((beginStop_only ..).same .bridle rfl)
      refine ⟨cur, st, frame, fun main runs => ?_⟩
      rw [domChan, if_pos main] at chanOf
      cases chanOf
      exact beginStop_switching (s := toStage s d q .draining) (c := .main) runs

/-! ### GRANT, DRAINED and REFUSE -/

theorem askedFor_leaves {s : State} {d : Nat} {q : Req} (asked : askedFor s d = some q) : q.target ≠ .on := by
  unfold askedFor at asked
  intro on
  split at asked
  · split at asked
    · cases asked
    next leaves => cases asked; exact leaves on
  · split at asked
    · cases asked
    next leaves => cases asked; exact leaves on
  · cases asked

/-- A domain that ends its leave is not on, and no other comes to on. -/
theorem leaveNow_off (s : State) (d : Fin 20) {q : Req} (leaves : q.target ≠ .on) :
    isOn (outageGoesOn (leaveNow s d q)) d = false ∧
      ∀ e, isOn (outageGoesOn (leaveNow s d q)) e = true → isOn s e = true := by
  refine ⟨?_, ((leaveNow_noRise s d q leaves).after (outageGoesOn_noRise _)).fall⟩
  have later : NoRise (domLeaves s d q.target false) (outageGoesOn (leaveNow s d q)) :=
    (((finish_noRise ..).after_only rfl (pinsAtRailDown_only ..)).after (askAgain_noRise ..)).after (outageGoesOn_noRise _)
  exact off_of_noRise later (domLeaves_off s d.isLt false leaves)

theorem outageGoesOn_of_none {s : State} (step : s.outage.step = 0) (undo : s.outage.undo = none) : outageGoesOn s = s := by
  have descent : descentGoesOn s = s := by rw [descentGoesOn, if_neg (by simp [step])]
  rw [outageGoesOn, descent, undoGoesOn, if_neg (by simp [undo])]

/-- The end of a host request that its block has refused, while nothing waits below it. -/
theorem refuse_ends {s : State} {d : Fin 20} {q : Req} {r : BitVec 4} (job : q.job = 0) (host : q.hostCmd = true) :
    resolve (endCur s d) d q .refused r =
      addAlert { endCur s d with bridle.w0b := refusedEntry s (BitVec.ofNat 5 d.val) r } .w0b := by
  have own : (s.bridle.w0b.unread && s.bridle.w0b.origin == 0 && Origin.host != .host) = false := Bool.and_false _
  have entry : w0bEntry (endCur s d) (BitVec.ofNat 5 d.val) .host .refused r true =
      addAlert { endCur s d with bridle.w0b := refusedEntry s (BitVec.ofNat 5 d.val) r } .w0b := by
    unfold w0bEntry
    dsimp only
    rw [show ((endCur s d).bridle.w0b.unread && (endCur s d).bridle.w0b.origin == 0 && Origin.host != .host) = false from own]
    rfl
  unfold resolve
  dsimp only
  rw [if_pos host, if_pos job, if_neg (show ReqResult.refused ≠ .done by decide)]
  exact entry

theorem refuseBelow_of_idle {s : State} {d : Nat} (idle : ∀ r ∈ required s d, (dom s r).cur = none) : refuseBelow s d = s := by
  unfold refuseBelow
  generalize required s d = l at idle
  induction l with
  | nil => rfl
  | cons r rest ih =>
    rw [List.foldl_cons, idle r List.mem_cons_self]
    exact ih fun r' mem => idle r' (List.mem_cons_of_mem _ mem)

/-- Settles O41: GRANT and DRAINED through `leaveNow`, REFUSE of a host request written out. -/
theorem leaveSequenceEnds : Obligations.LeaveSequenceEnds := by
  unfold Obligations.LeaveSequenceEnds
  intro d q s
  refine ⟨fun asked grants may => ?_, fun draining leaves => ?_, fun r asked refuses => ⟨?_, ?_⟩, fun asked grants => ?_⟩
  · have run : exec (.grant d) s = .next (outageGoesOn (leaveNow s d q)) := by
      change execGrant d s = _
      unfold execGrant
      rw [asked]
      exact congrArg Host.Outcome.next (if_pos (by rw [grants, may]; rfl))
    exact ⟨_, run, leaveNow_off s d (askedFor_leaves asked)⟩
  · have run : exec (.drained d) s = .next (outageGoesOn (leaveNow s d q)) := by
      change execDrained d s = _
      unfold execDrained
      rw [draining]
      exact congrArg Host.Outcome.next (if_neg leaves)
    exact ⟨_, run, leaveNow_off s d leaves⟩
  · change execGrant d s = _
    unfold execGrant
    rw [asked]
    exact congrArg Host.Outcome.next (if_neg (by simp [refuses]))
  · intro empty job host step undo idle
    let t : State := addAlert { endCur s d with bridle.w0b := refusedEntry s (BitVec.ofNat 5 d.val) r } .w0b
    have domT : ∀ e, dom t e = dom (endCur s d) e := fun _ => rfl
    have ended : dom (endCur s d) d = { dom s d with cur := none } := dom_modDom_same ..
    have below : refuseBelow t d = t := refuseBelow_of_idle fun r' mem => by
      rw [domT, endCur, dom_modDom]
      split
      · rfl
      · exact idle r' mem
    have settled : settle t d = t := settle_of_not_outstanding (outstanding_eq_false.mpr (by
      rw [domT, ended]
      exact ⟨rfl, empty⟩))
    have calm : outageGoesOn t = t := outageGoesOn_of_none step undo
    have run : exec (.refuse d) s = .next t := by
      change execRefuse d s = _
      unfold execRefuse
      rw [asked]
      dsimp only
      rw [refuses]
      dsimp only
      rw [refuse_ends job host]
      change Host.Outcome.next (outageGoesOn (settle (refuseBelow t d) d)) = _
      rw [below, settled, calm]
    refine ⟨t, run, ?_, ?_, rfl, alertAsserted_of_mem _ .w0b (mem_addAlert _ _)⟩
    · rw [domT, ended]
    · unfold domSt
      rw [domT, ended]
  · change execRefuse d s = _
    unfold execRefuse
    rw [asked]
    dsimp only
    rw [grants]

end Sys2Proof.Proofs

/-! ## LIVE, faulty domains and failed engines (files 07 and 10) -/

namespace Sys2Proof.Proofs

open Sys2Proof Sys2Proof.Machine

/-! ### A domain that comes to on -/

/-- No domain that is on leaves on. -/
structure KeepsOn (s t : State) : Prop where
  on : ∀ d, isOn s d = true → isOn t d = true

theorem KeepsOn.refl (s : State) : KeepsOn s s := ⟨fun _ h => h⟩

theorem KeepsOn.trans {s t u : State} (h : KeepsOn s t) (k : KeepsOn t u) : KeepsOn s u := ⟨fun d on => k.on d (h.on d on)⟩

theorem KeepsOn.after_only {ps : List Part} {s t u : State} (h : KeepsOn s t) (k : Only ps t u)
    (apart : ps.contains .bridle = false) : KeepsOn s u :=
  h.trans ⟨fun d on => (isOn_of_bridle (k.same .bridle apart) d).trans on⟩

theorem Undisturbed.keepsOn {s t : State} (h : Undisturbed s t) : KeepsOn s t := ⟨fun d on => (h.on d).trans on⟩

theorem Incidental.keepsOn {s t : State} (h : Incidental s t) : KeepsOn s t := h.undisturbed.keepsOn

theorem modDom_keepsOn (s : State) {d : Nat} {f : Dom → Dom} (up : ∀ m : Dom, m.st = .on → (f m).st = .on) :
    KeepsOn s (modDom s d f) := by
  refine ⟨fun e on => ?_⟩
  unfold isOn domSt at on ⊢
  rw [dom_modDom]
  split
  · exact beq_iff_eq.mpr (up _ (beq_iff_eq.mp on))
  · exact on

theorem ruleMemoryReturns_keepsOn (s : State) : KeepsOn s (ruleMemoryReturns s) := by
  have held : KeepsOn s (modDom s 7 fun m => { m with banks := allBanks 7 }) := modDom_keepsOn s fun _ on => on
  have reload : KeepsOn s (demand { s with rules.reloading := true } 15) :=
    ((KeepsOn.refl s).after_only (Only.set_rules (ps := [.rules]) (Only.refl _ _) _ rfl) rfl).trans
      (demand_incidental ..).keepsOn
  unfold ruleMemoryReturns
  split
  · exact held
  split
  · exact reload
  · exact held

/-- A domain reaches on: it is on, and so is every domain that was (Sequence DOM-2). -/
theorem domReturns_on (s : State) (d : Nat) : KeepsOn s (domReturns s d) ∧ (d < 20 → isOn (domReturns s d) d = true) := by
  have up : KeepsOn s (modDom s d fun m => { m with st := .on, banks := if 8 ≤ d && d ≤ 12 then allBanks d else m.banks }) :=
    modDom_keepsOn s fun _ _ => rfl
  have here : d < 20 → isOn (modDom s d fun m =>
      { m with st := .on, banks := if 8 ≤ d && d ≤ 12 then allBanks d else m.banks }) d = true := fun inside => by
    unfold isOn domSt
    rw [dom_modDom, if_pos ⟨rfl, inside⟩]
    rfl
  have later : KeepsOn (modDom s d fun m => { m with st := .on, banks := if 8 ≤ d && d ≤ 12 then allBanks d else m.banks })
      (domReturns s d) := by
    unfold domReturns
    generalize modDom s d _ = u
    have raised : KeepsOn u (raiseFor u d) := (KeepsOn.refl u).after_only (raiseFor_only ..) rfl
    dsimp only
    split
    case h_1 | h_2 | h_3 | h_4 => exact raised.after_only (engineReturns_only ..) rfl
    case h_5 => exact raised.trans (ruleMemoryReturns_keepsOn _)
    case h_6 | h_7 => exact raised.after_only (portReturns_only ..) rfl
    case h_8 => exact raised.after_only (dropReturns_only _) rfl
    case h_9 | h_10 => exact raised.after_only (channelReturns_only ..) rfl
    case h_11 => exact raised
  exact ⟨up.trans later, fun inside => later.on d (here inside)⟩

theorem finish_incidental (s : State) (d : Nat) (q : Req) : Incidental s (finish s d q) := by
  have ended : Incidental s (endCur s d) := modDom_incidental rfl rfl
  exact (ended.trans (resolve_incidental ..)).trans (settle_incidental ..)

theorem tryLive_keepsOn (s : State) (d : Nat) : KeepsOn s (tryLive s d) := by
  unfold tryLive
  split
  · split
    · exact ((((KeepsOn.refl s).after_only (attachPins_only ..) rfl).trans (domReturns_on ..).1)).trans
        (finish_incidental ..).keepsOn
    · exact .refl s
  · exact .refl s

/-- A domain that has reported LIVE with all it requires on reaches on. -/
theorem tryLive_on {s : State} {d : Nat} {q : Req} (isDom : d < 20) (live : (dom s d).cur = some (q, .live))
    (all : (required s d).all (isOn s) = true) : isOn (tryLive s d) d = true := by
  unfold tryLive
  rw [live]
  dsimp only
  rw [if_pos all]
  exact (finish_incidental ..).keepsOn.on d ((domReturns_on ..).2 isDom)

theorem isOn_toStage (s : State) (d e : Nat) (q : Req) (g : Stage) : isOn (toStage s d q g) e = isOn s e := by
  unfold isOn domSt toStage
  rw [dom_modDom]
  split <;> rfl

theorem exec_live_rising {s : State} {d : Fin 20} {q : Req} (rising : (dom s d).cur = some (q, .rising))
    (feeds : fed s d = true) :
    exec (.live d) s = .next (outageGoesOn ((requirers (tryLive (toStage s d q .live) d) d).foldl tryLive
      (tryLive (toStage s d q .live) d))) := by
  change execLive d s = _
  unfold execLive
  rw [rising]
  exact congrArg Host.Outcome.next (if_pos feeds)

/-- LIVE of a rising domain with its supplies up and all it requires on. -/
theorem exec_live_on {s : State} {d : Fin 20} {q : Req} (rising : (dom s d).cur = some (q, .rising))
    (feeds : fed s d = true) (all : (required s d).all (isOn s) = true) :
    ∃ t, exec (.live d) s = .next t ∧ isOn t d = true := by
  refine ⟨_, exec_live_rising rising feeds, ?_⟩
  have on : isOn (toStage s d q .live) = isOn s := funext fun e => isOn_toStage ..
  have stage : (dom (toStage s d q .live) d).cur = some (q, .live) := congrArg Dom.cur (dom_modDom_same ..)
  have first : isOn (tryLive (toStage s d q .live) d) d = true :=
    tryLive_on d.isLt stage (by rw [on]; exact all)
  generalize tryLive (toStage s d q .live) d = u at first
  have others : ∀ (l : List Nat) (t : State), KeepsOn t (l.foldl tryLive t) := fun l => by
    induction l with
    | nil => exact fun t => .refl t
    | cons e rest ih => exact fun t => (tryLive_keepsOn t e).trans (ih _)
  exact (outageGoesOn_sequenced _).undisturbed.keepsOn.on d ((others _ u).on d first)

theorem exec_live_waits {s : State} {d : Fin 20} (waits : fed s d = false ∨ (dom s d).cur = none) :
    exec (.live d) s = .next s := by
  change execLive d s = _
  unfold execLive
  refine congrArg Host.Outcome.next ?_
  split
  next rising =>
    rcases waits with down | idle
    · exact if_neg (by rw [down]; decide)
    · rw [idle] at rising; cases rising
  · rfl

/-! ### An engine that leaves (R294 to R297) -/

theorem eng_modEng (s : State) (e k : Nat) (f : Engine → Engine) :
    eng (modEng s e f) k = if e = k ∧ k < 4 then f (eng s k) else eng s k := vget_vmod ..

/-- An engine with nothing in it. -/
def emptied (g : Engine) : Engine :=
  { g with run := none, paused := [], cache := [], since := 0, checkDue := false, lineBytes := 128 }

theorem foldl_recordW2D_engs (l : List Stream) (s : State) :
    (l.foldl (fun t x => if x.stopped then t else recordW2D t (kindPort x.kind) 2 x.taken) s).engs = s.engs := by
  induction l generalizing s with
  | nil => rfl
  | cons x rest ih =>
    refine (ih _).trans ?_
    change (if x.stopped then s else recordW2D s (kindPort x.kind) 2 x.taken).engs = s.engs
    split <;> rfl

theorem endEpoch_engs (s : State) : (endEpoch s).engs = s.engs := (endEpoch_only s).same .engs rfl

theorem engineLeaves_engs (s : State) (e : Nat) :
    (engineLeaves s e).engs = { (dropHolder s e).engs with eng := vmod s.engs.eng e emptied } := by
  have twice : ∀ v : Vector Engine 4,
      vmod (vmod v e fun g => { g with run := none, paused := [] }) e
        (fun g => { g with cache := [], since := 0, checkDue := false, lineBytes := 128 }) = vmod v e emptied := fun v => by
    unfold vmod
    split
    · simp [emptied]
    · rfl
  unfold engineLeaves abandonStreams modEng
  dsimp only
  rw [endEpoch_engs]
  dsimp only
  rw [foldl_recordW2D_engs, twice]
  rfl

theorem eng_engineLeaves (s : State) (e k : Nat) :
    eng (engineLeaves s e) k = if e = k ∧ k < 4 then emptied (eng s k) else eng s k := by
  unfold eng
  rw [engineLeaves_engs]
  exact vget_vmod ..

/-- The failure of an engine is not undone by its domain being forced down. -/
theorem forceDown_failed (s : State) (e k : Fin 4) (r : ReqResult) (reason : BitVec 4) :
    (eng (forceDown s (3 + e) r reason) k).failed = (eng s k).failed := by
  have of_only : ∀ {ps : List Part} {t u : State}, Only ps t u → ps.contains .engs = false → eng u k = eng t k :=
    fun h apart => by unfold eng; rw [show _ = _ from h.same .engs apart]
  have leaves : ∀ t : State, (eng (domLeaves t (3 + e) .off true) k).failed = (eng t k).failed := fun t => by
    have block : (eng (blockLeaves t (3 + e) true) k).failed = (eng t k).failed := by
      have early : eng (storeEarliest t (3 + e)) k = eng t k := of_only (storeEarliest_only ..) rfl
      have left : blockLeaves t (3 + e) true = engineLeaves (storeEarliest t (3 + e)) e := by
        match e with
        | 0 => rfl
        | 1 => rfl
        | 2 => rfl
        | 3 => rfl
      rw [left, eng_engineLeaves]
      split
      · have same := congrArg Engine.failed early
        exact same
      · exact congrArg Engine.failed early
    unfold domLeaves
    extract_lets s1 s2 s3 s4
    have h2 : eng s2 k = eng s1 k := of_only (loseBanks_only ..) rfl
    have h3 : eng s3 k = eng s2 k := of_only (modDom_only ..) rfl
    have h4 : eng s4 k = eng s3 k := of_only (forgetRules_only ..) rfl
    rw [if_neg (by omega), if_neg (by omega), h4, h3, h2]
    exact block
  have chan : domChan (3 + e) = none := by rw [domChan, if_neg (by omega), if_neg (by omega)]
  unfold forceDown
  rw [chan]
  extract_lets m s0 s1 s2
  have h1 : (eng s1 k).failed = (eng s k).failed := by
    unfold s1
    split
    · exact leaves s
    · rw [of_only (forgetRules_only ..) rfl, of_only (modDom_only ..) rfl, of_only (loseBanks_only ..) rfl]
  have h2 : eng s2 k = eng s1 k := by
    unfold s2
    split
    · exact (of_only (resolve_only ..) rfl).trans (of_only (endCur_only ..) rfl)
    · rfl
  rw [of_only (pinsAtRailDown_only ..) rfl, h2, h1]

/-! ### A failed engine -/

theorem eng_of_only {ps : List Part} {s t : State} (h : Only ps s t) (apart : ps.contains .engs = false) (k : Nat) :
    eng t k = eng s k := by
  unfold eng
  rw [show t.engs = s.engs from h.same .engs apart]

/-- An engine is left as it is, the streams keep their engines, and the count of failures stays. -/
structure Spares (e : Fin 4) (s t : State) : Prop where
  eng : Machine.eng t e = Machine.eng s e
  assign : t.engs.assign = s.engs.assign
  failures : t.engs.failures = s.engs.failures

theorem Spares.refl (e : Fin 4) (s : State) : Spares e s s := ⟨rfl, rfl, rfl⟩

theorem Spares.trans {e : Fin 4} {s t u : State} (h : Spares e s t) (k : Spares e t u) : Spares e s u :=
  ⟨k.eng.trans h.eng, k.assign.trans h.assign, k.failures.trans h.failures⟩

theorem Spares.of_only {e : Fin 4} {ps : List Part} {s t : State} (h : Only ps s t) (apart : ps.contains .engs = false) :
    Spares e s t :=
  have engs : t.engs = s.engs := h.same .engs apart
  ⟨eng_of_only h apart e, congrArg Engines.assign engs, congrArg Engines.failures engs⟩

theorem Spares.foldl {α : Type} {e : Fin 4} {g : State → α → State} (l : List α) {s t : State}
    (step : ∀ t x, Spares e s t → Spares e t (g t x)) (h : Spares e s t) : Spares e s (l.foldl g t) := by
  induction l generalizing t with
  | nil => exact h
  | cons x rest ih => exact ih (h.trans (step t x h))

theorem modEng_other_spares {e t : Fin 4} (other : t ≠ e) (s : State) (f : Engine → Engine) : Spares e s (modEng s t f) := by
  refine ⟨?_, rfl, rfl⟩
  rw [eng_modEng, if_neg fun h => other (Fin.ext h.1)]

/-- Streams move to the engines that they are assigned to, and to no other. -/
theorem moveStream_spares {e : Fin 4} {s : State} (x : Stream) (none : ∀ k, engineFor s.engs.assign k ≠ some e) :
    Spares e s (moveStream s x) := by
  unfold moveStream
  split
  next t dest =>
    have other : t ≠ e := fun same => none x.kind (same ▸ dest)
    split
    · exact modEng_other_spares other ..
    · exact ((modEng_other_spares other ..).trans (.of_only (recordW2D_only ..) rfl)).trans (.of_only (addAlert_only ..) rfl)
  · split
    · exact .of_only (pushResult_only ..) rfl
    · exact .refl ..

theorem lowestWorking_ne {s : State} {e : Fin 4} (failed : (eng s e).failed = true) : lowestWorking s ≠ some e := by
  intro found
  have works := List.find?_some found
  rw [working, failed] at works
  simp at works

/-- No stream kind stays assigned to an engine that has failed (R296). -/
theorem reassign_ne {s : State} {e : Fin 4} (failed : (eng s e).failed = true) (first : Bool) (k : StreamKind) :
    engineFor (reassign s e first) k ≠ some e := by
  have slow : (if s.engs.assign.slow = some e then lowestWorking s else s.engs.assign.slow) ≠ some e := by
    split
    · exact lowestWorking_ne failed
    next other => exact other
  have move : ∀ (x : Option (Fin 4)) (line : Bool) (free : Fin 4 → Bool) (y : Option (Fin 4)), y ≠ some e →
      (if x ≠ some e then x else if !first then none else match y with
        | some t => if line && !free t then none else some t
        | none => none) ≠ some e := fun x line free y ne => by
    split
    next other => exact other
    split
    · nofun
    cases y with
    | none => nofun
    | some t =>
      dsimp only
      split
      · nofun
      · exact ne
  have dropped : ∀ (c : Bool) (x : Option (Fin 4)), x ≠ some e → (if c then none else x) ≠ some e := fun c x ne => by
    split
    · nofun
    · exact ne
  unfold reassign
  let free (t : Fin 4) : Bool := s.engs.assign.portU != some t && s.engs.assign.portD != some t
  cases k with
  | frame p =>
    cases p
    · exact move s.engs.assign.portU true free _ slow
    · exact dropped _ _ (move s.engs.assign.portD true free _ slow)
  | host => exact move s.engs.assign.host false free _ slow
  | word => exact slow
  | event => exact slow

/-- An engine that is lost: failed, empty, with no stream kind, counted once. -/
theorem loseEngine_lost (s : State) (e : Fin 4) :
    (eng (loseEngine s e) e).failed = true ∧ (eng (loseEngine s e) e).run = none ∧ (eng (loseEngine s e) e).cache = [] ∧
      (∀ k, engineFor (loseEngine s e).engs.assign k ≠ some e) ∧
      (loseEngine s e).engs.failures = s.engs.failures + 1 := by
  unfold loseEngine
  extract_lets l s1 old en s2 s3 s4 en' s5
  have gone : eng s1 e = { eng (dropHolder s e) e with
      failed := true, cache := [], run := none, paused := [], checkDue := false, lineBytes := 128 } := by
    unfold s1
    rw [eng_modEng, if_pos ⟨rfl, e.isLt⟩]
  have apart : ∀ k, engineFor s2.engs.assign k ≠ some e := reassign_ne (s := s1) (by rw [gone]) _
  have h3 : Spares e s2 s3 := .foldl l (fun t x same => moveStream_spares x (same.assign ▸ apart)) (.refl e s2)
  have h4 : Spares e s2 s4 := .foldl [StreamKind.frame .u, .frame .d, .host] (fun t k _ => by
    split
    · exact .of_only (leftWithout_only ..) rfl
    · exact .refl e t) h3
  have h5 : Spares e s2 s5 := by
    unfold s5
    split
    · exact .foldl s4.engs.slowQ (fun t _ _ => .of_only (pushResult_only ..) rfl) (h4.trans ⟨rfl, rfl, rfl⟩)
    · exact h4
  have last : Spares e s2 (endEpoch s5) := h5.trans (.of_only (endEpoch_only _) rfl)
  have here : eng (endEpoch s5) e = eng s1 e := last.eng
  refine ⟨by rw [here, gone], by rw [here, gone], by rw [here, gone], fun k => ?_, last.failures⟩
  rw [last.assign]
  exact apart k

theorem moveStream_recordsStay (s : State) (x : Stream) : RecordsStay s (moveStream s x) := by
  unfold moveStream
  split
  · split
    · exact .of_prot rfl rfl
    next t _ _ =>
      have moved : RecordsStay s (recordW2D (modEng s t.val fun g => joinEngine g
          { x with st := x.chk.2.1, collected := x.chk.2.2, read := [] }) (kindPort x.kind) 1 x.chk.1) := .of_prot rfl rfl
      exact moved.trans (addAlert_incidental ..).recordsStay
  · exact .ite (.of_prot rfl rfl) (.refl s)

theorem leftWithout_recordsStay (s : State) (k : StreamKind) (l : List Stream) : RecordsStay s (leftWithout s k l) := by
  have noted : RecordsStay s (recordW2D s (kindPort k) 3 0) :=
    (RecordsStay.refl s).after_only (recordW2D_only ..) rfl rfl
  exact (noted.trans (addAlert_incidental ..).recordsStay).trans (addEntry_incidental ..).recordsStay

theorem pushResult_recordsStay (s : State) (r : Result) : RecordsStay s (pushResult s r) := .of_prot rfl rfl

theorem loseEngine_recordsStay (s : State) (e : Fin 4) : RecordsStay s (loseEngine s e) := by
  unfold loseEngine
  extract_lets l s1 old en s2 s3 s4 en' s5
  have h2 : RecordsStay s s2 := .of_prot rfl rfl
  have h3 : RecordsStay s s3 := h2.trans (.foldl (fun t x => moveStream_recordsStay ..) l (.refl s2))
  have h4 : RecordsStay s s4 := h3.trans (.foldl (fun t k => .ite (leftWithout_recordsStay ..) (.refl t))
    [StreamKind.frame .u, .frame .d, .host] (.refl s3))
  have emptyQ : RecordsStay s4 { s4 with engs.slowQ := [] } := .of_prot rfl rfl
  have h5 : RecordsStay s s5 := .ite (h4.trans (emptyQ.foldl (fun t _ => pushResult_recordsStay t .engineLost)
    s4.engs.slowQ)) h4
  exact h5.after_only (endEpoch_only _) rfl rfl

/-- A domain that is switched off at once: off, in what its requests change (R294). -/
theorem forceOff_off (s : State) {d : Nat} (isDom : d < 20) (reason : BitVec 4) :
    isOn (forceOff s d reason) d = false ∧
      Incidental (modDom s d fun m => { m with st := .off, cur := none }) (forceOff s d reason) := by
  have later : Incidental (modDom s d fun m => { m with st := .off, cur := none }) (forceOff s d reason) := by
    unfold forceOff
    dsimp only
    split
    · exact (resolve_incidental ..).trans (takeOrder_incidental ..)
    · exact takeOrder_incidental ..
  exact ⟨(later.on d).trans (off_of_modDom (show DS.off ≠ .on by decide) (.inr isDom)), later⟩

/-- Settles O27: the failing engine through `loseEngine`, its domain through `forceOff`. -/
theorem engineFailureReassigns : Obligations.EngineFailureReassigns := by
  unfold Obligations.EngineFailureReassigns
  refine ⟨fun e c s works on => ?_, fun e s works on => ?_⟩
  · let s1 := if c = .cacheParity then countParity s else s
    let s2 := addEntry (addAlert s1 (.engineFail e)) (entryPlain 0x38 [BitVec.ofNat 8 e.val, failCode c, 0, 0])
    have run : exec (.engineFail e c) s = .next (forceOff (loseEngine s2 e) (3 + e.val) 0x9) :=
      congrArg Host.Outcome.next (if_neg (by rw [works, on]; decide))
    have told : Incidental (addAlert s1 (.engineFail e)) s2 := addEntry_incidental ..
    have same : Only [.rules, .act, .bridle, .prot, .tether, .queues, .win, .integ] s s2 := by
      have h1 : Only [.rules, .act, .bridle, .prot, .tether, .queues, .win, .integ] s s1 := by
        unfold s1
        split
        · exact (countParity_only _).mono rfl
        · exact .refl _ _
      exact (h1.post (addAlert_only ..) rfl).post (addEntry_only ..) rfl
    have engs : s2.engs = s.engs := same.same .engs rfl
    have alert : Alarm.engineFail e ∈ (loseEngine s2 e).prot.alerts :=
      (loseEngine_recordsStay s2 e).alerts _ (told.alerts _ (mem_addAlert ..))
    have lose : Only [.rules, .engs, .act, .bridle, .prot, .tether, .queues, .win, .integ] s (loseEngine s2 e) :=
      (same.mono rfl).post (loseEngine_only ..) rfl
    obtain ⟨failed, idle, empty, unassigned, count⟩ := loseEngine_lost s2 e
    rw [engs] at count
    generalize loseEngine s2 e = u at run alert lose failed idle empty unassigned count
    obtain ⟨off, later⟩ := forceOff_off u (show 3 + e.val < 20 by omega) 0x9
    have engsAfter : (forceOff u (3 + e.val) 0x9).engs = u.engs := later.only.same .engs rfl
    have engAfter : eng (forceOff u (3 + e.val) 0x9) e = eng u e := by unfold eng; rw [engsAfter]
    refine ⟨_, run, ?_, ?_, ?_, off, alertAsserted_of_mem _ _ (later.alerts _ alert), ?_, fun k => ?_, ?_, ?_⟩
    · rw [engAfter, failed]
    · rw [engAfter, idle]
    · rw [engAfter, empty]
    · rw [engsAfter, count]
    · rw [engsAfter]; exact unassigned k
    · exact (later.only.same .reg rfl).trans (lose.same .reg rfl)
    · exact (later.only.same .pins rfl).trans (lose.same .pins rfl)
  · have run : exec (.engineSelfCheck e true) s = .next (modEng s e.val fun g => { g with checkDue := false }) :=
      congrArg Host.Outcome.next (if_pos (by rw [works, on]; rfl))
    refine ⟨_, run, ?_, fun k other => ?_, modEng_only ..⟩
    · rw [eng_modEng, if_pos ⟨rfl, e.isLt⟩]
    · rw [eng_modEng, if_neg fun h => other (Fin.ext h.1.symm)]

/-! ### A faulty domain (R380) -/

theorem failWaiting_incidental (s : State) (d : Nat) : Incidental s (failWaiting s d) := by
  unfold failWaiting
  exact .foldl (fun t q => resolve_incidental ..) _ (modDom_incidental rfl rfl)

theorem askAgain_incidental (s : State) (d : Nat) : Incidental s (askAgain s d) := .foldl askRequired_incidental _ (.refl s)

/-- What a faulty domain does to the engine it is the domain of: an engine there has failed (R295). -/
def engineFaulty (s : State) (d : Nat) : State :=
  let s0 := if d = 7 then slowLost s else s
  if h : 3 ≤ d ∧ d ≤ 6 then if working s0 (d - 3) then loseEngine s0 ⟨d - 3, by omega⟩ else s0 else s0

theorem engineFaulty_failed (s : State) (e : Fin 4) (isPresent : present s (3 + e.val) = true) :
    (eng (engineFaulty s (3 + e.val)) e).failed = true := by
  have num : (⟨3 + e.val - 3, by omega⟩ : Fin 4) = e := Fin.ext (Nat.add_sub_cancel_left ..)
  unfold engineFaulty
  rw [if_neg (by omega), dif_pos (by omega)]
  split
  · rw [num]; exact (loseEngine_lost s e).1
  next idle =>
    rw [Nat.add_sub_cancel_left, working, isPresent, Bool.true_and, Bool.not_eq_true', Bool.not_eq_false] at idle
    exact idle

theorem exec_domainFaulty {s : State} {d : Fin 20} {q : Req} {g : Stage} (snap : Snap) (cur : (dom s d).cur = some (q, g))
    (begun : g ≠ .wait) (notLive : g ≠ .live) : ∃ c note toFault,
    exec (.domainFaulty d snap) s = .next (outageGoesOn (askAgain (failWaiting (forceDown
      (modDom (capture (engineFaulty s d) 0x0E 0 c toFault snap note) d fun m => { m with faulty := true }) d .escalated 0xB)
      d) d)) := by
  change ∃ c note toFault, execDomainFaulty d snap s = _
  unfold execDomainFaulty
  rw [cur]
  cases g with
  | wait => exact absurd rfl begun
  | live => exact absurd rfl notLive
  | _ => exact ⟨_, _, _, rfl⟩

theorem exec_domainFaulty_idle {s : State} {d : Fin 20} (snap : Snap) (idle : (dom s d).cur = none) :
    exec (.domainFaulty d snap) s = .next s := by
  change execDomainFaulty d snap s = _
  unfold execDomainFaulty
  rw [idle]

/-- Settles O42: LIVE through `tryLive`, a faulty domain through `forceDown`. -/
theorem liveAndFaulty : Obligations.LiveAndFaulty := by
  unfold Obligations.LiveAndFaulty
  refine ⟨fun d q s rising feeds all _ _ => exec_live_on rising feeds all, fun d s waits => exec_live_waits waits,
    fun d snap q g s cur begun notLive => ?_, fun d snap s idle => exec_domainFaulty_idle snap idle⟩
  obtain ⟨c, note, toFault, run⟩ := exec_domainFaulty snap cur begun notLive
  refine ⟨_, run, ?_⟩
  have engs := fun e here => engineFaulty_failed s e here
  have taken : Only [.free, .rules, .act, .bridle, .reg, .prot, .tether, .queues, .win, .integ] (engineFaulty s d)
      (capture (engineFaulty s d) 0x0E 0 c toFault snap note) := capture_only ..
  generalize hcap : capture (engineFaulty s d) 0x0E 0 c toFault snap note = u at taken
  have marked : (dom (modDom u d fun m => { m with faulty := true }) d).faulty = true :=
    congrArg Dom.faulty (dom_modDom_same ..)
  have down := forceDown_recordsStay (modDom u d fun m => { m with faulty := true }) d .escalated 0xB
  have off := forceDown_off (modDom u d fun m => { m with faulty := true }) d.isLt .escalated 0xB
  have late : ∀ w, Sequenced w (outageGoesOn (askAgain (failWaiting w d) d)) := fun w =>
    Sequenced.trans ⟨_, _, (failWaiting_incidental w d).trans (askAgain_incidental ..)⟩ (outageGoesOn_sequenced _)
  have seq := late (forceDown (modDom u d fun m => { m with faulty := true }) d .escalated 0xB)
  refine ⟨(seq.undisturbed.on d).trans off, (seq.undisturbed.faulty d).trans ((down.faulty d).trans marked),
    fun e here isPresent => ?_⟩
  rw [here] at isPresent
  have failed := engs e isPresent
  rw [eng_of_only seq.only rfl, here, forceDown_failed, eng_of_only (modDom_only ..) rfl, ← hcap]
  rw [here] at *
  rw [eng_of_only (capture_only ..) rfl]
  exact failed

end Sys2Proof.Proofs

/-! ## Results of the action sequencer and the attempts of the rails (file 09) -/

namespace Sys2Proof.Proofs

open Sys2Proof Sys2Proof.Machine

/-! ### The oldest result is taken (R336) -/

theorem takeLate_nil {s : State} (none : s.act.late = []) : takeLate s = s := by
  rw [takeLate, none]

theorem takeLate_room {s : State} {e : Fin 4} {r : Result} {m : List (Fin 4 × Result)} (held : s.act.late = (e, r) :: m)
    (room : s.act.queue.length < 64) : takeLate s = pushResult { s with act.late := m } r := by
  rw [takeLate, held]
  exact if_pos room

theorem takeLate_full {s : State} {e : Fin 4} {r : Result} {m : List (Fin 4 × Result)} (held : s.act.late = (e, r) :: m)
    (full : ¬ s.act.queue.length < 64) : takeLate s = s := by
  rw [takeLate, held]
  exact if_neg full

/-- The result at the head is taken and the oldest one that an engine holds back enters the queue where there is room. -/
theorem takeLate_taken (s : State) (rest : List Result) : ∃ q l,
    takeLate { s with act.queue := rest } = { s with act.queue := q, act.late := l } ∧
      (s.act.late = [] → q = rest ∧ l = []) ∧
      ∀ e r m, s.act.late = (e, r) :: m →
        (rest.length < 64 → q = rest ++ [r] ∧ l = m) ∧ (64 ≤ rest.length → q = rest ∧ l = s.act.late) := by
  have either : s.act.late = [] ∨ ∃ e r m, s.act.late = (e, r) :: m := by
    generalize s.act.late = late
    match late with
    | [] => exact .inl rfl
    | (e, r) :: m => exact .inr ⟨e, r, m, rfl⟩
  rcases either with held | ⟨e, r, m, held⟩
  · refine ⟨rest, s.act.late, takeLate_nil (s := { s with act.queue := rest }) held, fun _ => ⟨rfl, held⟩,
      fun e r m h => ?_⟩
    rw [held] at h
    cases h
  by_cases room : rest.length < 64
  · refine ⟨rest ++ [r], m, takeLate_room (s := { s with act.queue := rest }) held room, fun h => ?_, fun e' r' m' h => ?_⟩
    · rw [held] at h
      cases h
    · rw [held] at h
      cases h
      exact ⟨fun _ => ⟨rfl, rfl⟩, fun full => absurd room (Nat.not_lt.mpr full)⟩
  · refine ⟨rest, s.act.late, takeLate_full (s := { s with act.queue := rest }) held room, fun h => ?_,
      fun e' r' m' h => ⟨fun less => absurd less room, fun _ => ⟨rfl, rfl⟩⟩⟩
    rw [held] at h
    cases h

/-! ### What a cause and a pin move -/

/-- Only the words, the last cause and the waiting causes 0x83 of the action sequencer move. -/
structure WakeOnly (s t : State) : Prop where
  same : t = { s with act := { s.act with wake := t.act.wake, lastCause := t.act.lastCause, after83 := t.act.after83 } }

theorem WakeOnly.trans {s t u : State} (h : WakeOnly s t) (k : WakeOnly t u) : WakeOnly s u :=
  ⟨k.same.trans (by rw [h.same])⟩

theorem WakeOnly.only {s t : State} (h : WakeOnly s t) : Only [.act] s t := by
  rw [h.same]
  exact Only.set_act (Only.refl _ _) _ rfl

theorem recordCause_wakeOnly (s : State) (mask : BitVec 4) (cause : Byte) {src : BitVec 3} (other : src ≠ srcDevice) :
    WakeOnly s (recordCause s mask cause src) ∧ (recordCause s mask cause src).act.after83 = s.act.after83 := by
  unfold recordCause
  rw [if_neg (by simp [other])]
  dsimp only
  split <;> exact ⟨⟨rfl⟩, rfl⟩

theorem raisePins_wakeOnly {s : State} {mask : BitVec 4} (none83 : s.act.after83 &&& mask = 0) :
    WakeOnly s (raisePins s mask) := by
  have simple : raisePins s mask = eachPin s mask raisedWord := if_pos none83
  rw [simple]
  exact ⟨rfl⟩

theorem pendPins_wakeOnly (s : State) (mask : BitVec 4) : WakeOnly s (pendPins s mask) := ⟨rfl⟩

theorem pendPins_word (s : State) (mask : BitVec 4) {k : Nat} (four : k < 4) :
    vget (pendPins s mask).act.wake WakeWord.zero k =
      if mask.getLsbD k then { vget s.act.wake WakeWord.zero k with pend := true } else vget s.act.wake WakeWord.zero k :=
  eachPin_word s mask _ four

theorem srcOf_ne (k : StreamKind) : srcOf k ≠ srcDevice := by
  cases k with
  | word fe => cases fe <;> decide
  | frame p => exact (by decide : (4 : BitVec 3) ≠ srcDevice)
  | _ => decide

/-- A cause recorded on the pins of a mask, and the pins raised. -/
theorem recordRaise_word {s : State} {mask : BitVec 4} {cause : Byte} {src : BitVec 3} (other : src ≠ srcDevice)
    (none83 : s.act.after83 &&& mask = 0) :
    WakeOnly s (raisePins (recordCause s mask cause src) mask) ∧ ∀ k : Fin 4,
      vget (raisePins (recordCause s mask cause src) mask).act.wake WakeWord.zero k =
        if mask.getLsbD k then raisedWord (causedWord cause src (vget s.act.wake WakeWord.zero k))
        else vget s.act.wake WakeWord.zero k := by
  obtain ⟨caused, after83⟩ := recordCause_wakeOnly s mask cause other
  have calm : (recordCause s mask cause src).act.after83 &&& mask = 0 := by rw [after83]; exact none83
  refine ⟨caused.trans (raisePins_wakeOnly calm), fun k => ?_⟩
  rw [raisePins_word _ _ k.isLt, raisedBy_of_not_after83 calm, recordCause_word _ _ _ _ k.isLt]
  split <;> rfl

/-- The pins of a profile's mask rise at once: EARLY, or no rail to wait for (R338). -/
def riseNow (s : State) (p : Profile) : Bool :=
  p.early ||
    match targetOf p.targets 17 with
    | some .on => false
    | some _ => true
    | none => !isOn s 17

theorem pinsFor_eq (s : State) (p : Profile) (mask : BitVec 4) :
    pinsFor s p mask = if riseNow s p then raisePins s mask else pendPins s mask := rfl

theorem pinsFor_wakeOnly {s : State} (p : Profile) {mask : BitVec 4} (none83 : s.act.after83 &&& mask = 0) :
    WakeOnly s (pinsFor s p mask) := by
  rw [pinsFor_eq]
  split
  · exact raisePins_wakeOnly none83
  · exact pendPins_wakeOnly ..

/-! ### RESULT_APPLY -/

theorem exec_resultApply (s : State) : exec .resultApply s = .next (settleEnd (takeResult s)) := rfl

theorem settleEnd_of_not_settling {s : State} (calm : s.outage.settle = false) : settleEnd s = s :=
  if_neg (by rw [calm]; simp)

theorem settleEnd_in_outage {s : State} (outage : inOutage s = true) : settleEnd s = s :=
  if_neg (by rw [outage]; simp)

theorem takeResult_tally {s : State} {m : BitVec 4} {c : Byte} {rest : List Result} (head : s.act.queue = .tally m c :: rest) :
    takeResult s = raisePins (recordCause (takeLate { s with act.queue := rest }) m c srcTally) m := by
  rw [takeResult, head]

theorem takeResult_rule {s : State} {n : Nat} {a : Assoc} {kd : StreamKind} {e : Bool} {nm : Option FrameName}
    {rest : List Result} (head : s.act.queue = .rule n a kd e nm :: rest) (noTally : a.tinc = 0) (noNote : a.note = false) :
    takeResult s = (if a.pen
      then applyProfile (recordCause (takeLate { s with act.queue := rest }) a.wmask a.cause (srcOf kd)) a.prof a.wmask
      else raisePins (recordCause (takeLate { s with act.queue := rest }) a.wmask a.cause (srcOf kd)) a.wmask) := by
  rw [takeResult, head]
  unfold applyRule
  dsimp only
  rw [if_pos noTally, if_neg (by rw [noNote]; decide)]

/-- A result whose only effect is its cause on the pins of its mask. -/
theorem resultApply_raises {s u : State} {rest : List Result} {mask : BitVec 4} {cause : Byte} {src : BitVec 3}
    (settled : s.outage.settle = false) (none83 : s.act.after83 &&& mask = 0) (other : src ≠ srcDevice)
    (taken : takeLate { s with act.queue := rest } = u)
    (applied : takeResult s = raisePins (recordCause u mask cause src) mask) :
    ∃ t, exec .resultApply s = .next t ∧ tookResult s t rest ∧ Only [.act] s t ∧
      (∀ k : Fin 4, vget t.act.wake WakeWord.zero k = (let w := vget s.act.wake WakeWord.zero k
        if mask.getLsbD k then { w with
          cause := cause, src := src, count := min 15 (w.count + 1), pend := false, pin := true, held := .no, again := false }
        else w)) := by
  obtain ⟨q, l, late, empty, more⟩ := takeLate_taken s rest
  rw [late] at taken
  subst taken
  obtain ⟨moved, words⟩ := recordRaise_word (s := { s with act.queue := q, act.late := l }) (cause := cause) other none83
  rw [← applied] at moved words
  have run : exec .resultApply s = .next (takeResult s) := by
    rw [exec_resultApply, settleEnd_of_not_settling]
    rw [moved.same]
    exact settled
  refine ⟨_, run, ⟨?_, ?_⟩, ?_, words⟩
  · rw [moved.same]; exact empty
  · rw [moved.same]; exact more
  · exact (Only.set_act (Only.refl _ _) _ rfl).post moved.only rfl

/-- Clauses 3 and 4 of the obligation in terms of the state in which the cause of the result is recorded. -/
theorem applyProfile_normal {s : State} {k : Fin 8} {mask : BitVec 4} (calm : inOutage s = false)
    (settled : s.outage.settle = false) (none83 : s.act.after83 &&& mask = 0) (noSeq : ∀ j ∈ s.bridle.waiting, j.origin ≠ .seq) :
    ∃ j, (applyProfile s k mask).bridle.waiting = s.bridle.waiting ++ [j] ∧ j.origin = .seq ∧ j.prof = k ∧
      j.targets = (profileOf s k).targets ∧ j.mask = mask ∧ Only [.act, .bridle] s (applyProfile s k mask) ∧
      (applyProfile s k mask).outage = s.outage ∧
      ∀ i : Fin 4, mask.getLsbD i = true →
        (vget (applyProfile s k mask).act.wake WakeWord.zero i).cause = (vget s.act.wake WakeWord.zero i).cause ∧
        ((profileOf s k).early = true → (vget (applyProfile s k mask).act.wake WakeWord.zero i).pin = true) ∧
        ((profileOf s k).early = false → targetOf (profileOf s k).targets 17 = some .on →
          (vget (applyProfile s k mask).act.wake WakeWord.zero i).pend = true ∧
          (vget (applyProfile s k mask).act.wake WakeWord.zero i).pin = (vget s.act.wake WakeWord.zero i).pin) := by
  let j : Job := ⟨s.bridle.nextJob, .seq, k, (profileOf s k).targets, profileOf s k, mask, 0, false, false, 0, false⟩
  have none : (s.bridle.waiting.any fun x => x.origin == .seq) = false :=
    List.any_eq_false.mpr fun x mem => by simpa using noSeq x mem
  have passed : passProfile s k .seq mask false =
      { s with bridle.waiting := s.bridle.waiting ++ [j], bridle.nextJob := s.bridle.nextJob + 1 } := by
    unfold passProfile
    dsimp only
    rw [if_neg (by rw [none]; decide)]
  have applied : applyProfile s k mask = pinsFor (passProfile s k .seq mask false) (profileOf s k) mask :=
    if_neg (by rw [calm, settled]; decide)
  rw [passed] at applied
  have moved : WakeOnly { s with bridle.waiting := s.bridle.waiting ++ [j], bridle.nextJob := s.bridle.nextJob + 1 }
      (applyProfile s k mask) := by
    rw [applied]
    exact pinsFor_wakeOnly _ none83
  refine ⟨j, by rw [moved.same], rfl, rfl, rfl, rfl, ?_, by rw [moved.same], fun i named => ?_⟩
  · exact (Only.set_bridle (Only.refl _ _) _ rfl).post moved.only rfl
  rw [applied, pinsFor_eq]
  split
  next now =>
    rw [raisePins_word _ _ i.isLt, raisedBy_of_not_after83 none83, if_pos named]
    refine ⟨rfl, fun _ => rfl, fun late rises => ?_⟩
    rw [riseNow, late, rises] at now
    cases now
  next later =>
    rw [pendPins_word _ _ i.isLt, if_pos named]
    exact ⟨rfl, fun early => absurd (by rw [riseNow, early]; rfl) later, fun _ _ => ⟨rfl, rfl⟩⟩

theorem applyProfile_outage {s : State} {k : Fin 8} {mask : BitVec 4} (outage : inOutage s = true) :
    applyProfile s k mask = pendPins { s with
      act.outProfile := some (k, (match s.act.outProfile with | some (_, m) => m | none => 0) ||| mask) } mask :=
  (if_pos (by rw [outage]; rfl)).trans rfl

/-- The recorded profile is passed once the kept selections are matched. -/
theorem applyRecorded_effect (s : State) : (applyRecorded s).outage.settle = false ∧
    ∀ k m, s.act.outProfile = some (k, m) → (applyRecorded s).act.outProfile = none ∧
      ∃ j ∈ (applyRecorded s).bridle.waiting, j.origin = .seq ∧ j.prof = k ∧ m &&& j.mask = m := by
  have pins : ∀ (t : State) (p : Profile) (m : BitVec 4), Incidental t (pinsFor t p m) := fun t p m => by
    rw [pinsFor_eq]
    split
    · exact raisePins_incidental ..
    · exact eachPin_incidental ..
  unfold applyRecorded
  dsimp only
  split
  next k m recorded =>
    have later := pins (passProfile { s with outage.settle := false, act.outProfile := none } k .seq m false)
      (profileOf (passProfile { s with outage.settle := false, act.outProfile := none } k .seq m false) k)
      (pendingMask (passProfile { s with outage.settle := false, act.outProfile := none } k .seq m false))
    have frame : Only [.bridle] { s with outage.settle := false, act.outProfile := none }
        (passProfile { s with outage.settle := false, act.outProfile := none } k .seq m false) := passProfile_only ..
    refine ⟨?_, fun k' m' same => ?_⟩
    · rw [show (pinsFor _ _ _).outage = _ from later.only.same .outage rfl]
      exact congrArg Outage.settle (frame.same .outage rfl)
    · rw [recorded] at same
      cases same
      refine ⟨?_, ?_⟩
      · rw [later.act]
        exact congrArg Act.outProfile (frame.same .act rfl)
      · rw [later.bridle]
        dsimp only
        unfold passProfile
        dsimp only
        split
        next some_ =>
          obtain ⟨x, mem, isSeq⟩ := List.any_eq_true.mp (Bool.and_eq_true_iff.mp some_).2
          refine ⟨_, List.mem_map.mpr ⟨x, mem, rfl⟩, ?_⟩
          rw [if_pos (beq_iff_eq.mp isSeq)]
          refine ⟨beq_iff_eq.mp isSeq, rfl, ?_⟩
          have absorb : ∀ a b : Bool, (a && (b || a)) = a := by decide
          exact BitVec.eq_of_getElem_eq fun i _ => by
            rw [BitVec.getElem_and, BitVec.getElem_or]
            exact absorb _ _
        · exact ⟨_, List.mem_append_right _ (List.mem_singleton.mpr rfl), rfl, rfl, BitVec.and_self⟩
  next none =>
    refine ⟨?_, fun k' m' same => ?_⟩
    · split
      · rfl
      · exact congrArg Outage.settle ((releasePins_only ..).same .outage rfl)
    · rw [none] at same
      cases same

/-- Settles O34: each kind of result through the state in which its cause is recorded. -/
theorem resultRaisesPins : Obligations.ResultRaisesPins := by
  unfold Obligations.ResultRaisesPins
  refine ⟨fun m c rest s head settled none83 => ?_, fun n a kd e nm rest s head plain noTally noNote settled none83 => ?_,
    fun n a kd e nm rest s head withProf noTally noNote calm settled noSeq none83 => ?_,
    fun n a kd e nm rest s head withProf noTally noNote outage => ?_, fun s empty => ⟨fun settled => ?_, fun held => ?_,
      fun settling calm idle => ?_⟩⟩
  · exact resultApply_raises (mask := m) settled none83 (by decide) rfl (takeResult_tally head)
  · exact resultApply_raises (mask := a.wmask) settled none83 (srcOf_ne kd) rfl
      ((takeResult_rule head noTally noNote).trans (if_neg (by rw [plain]; decide)))
  · obtain ⟨q, l, late, _⟩ := takeLate_taken s rest
    have applied := (takeResult_rule head noTally noNote).trans (if_pos withProf)
    rw [late] at applied
    obtain ⟨caused, after83⟩ := recordCause_wakeOnly { s with act.queue := q, act.late := l } a.wmask a.cause (srcOf_ne kd)
    have words := fun k => recordCause_word { s with act.queue := q, act.late := l } a.wmask a.cause (srcOf kd) (k := k)
    generalize recordCause { s with act.queue := q, act.late := l } a.wmask a.cause (srcOf kd) = u at applied caused after83 words
    obtain ⟨j, waiting, origin, prof, targets, mask, only, outage, pins⟩ := applyProfile_normal (s := u) (k := a.prof)
      (mask := a.wmask) (by rw [caused.same]; exact calm) (by rw [caused.same]; exact settled) (by rw [after83]; exact none83)
      (by rw [caused.same]; exact noSeq)
    have profs : profileOf u a.prof = profileOf s a.prof := by rw [caused.same]; rfl
    rw [← applied] at waiting only outage pins
    have run : exec .resultApply s = .next (takeResult s) := by
      rw [exec_resultApply, settleEnd_of_not_settling]
      rw [outage, caused.same]
      exact settled
    refine ⟨_, j, run, ?_, origin, prof, profs ▸ targets, mask, ?_, fun k named => ?_⟩
    · rw [waiting, caused.same]
    · exact ((Only.set_act (Only.refl _ _) _ rfl).post caused.only rfl).post only rfl
    · obtain ⟨cause, early, pend⟩ := pins k named
      rw [words k k.isLt, if_pos named] at cause pend
      rw [profs] at early pend
      exact ⟨cause, early, pend⟩
  · obtain ⟨q, l, late, took, took'⟩ := takeLate_taken s rest
    have applied := (takeResult_rule head noTally noNote).trans (if_pos withProf)
    rw [late] at applied
    obtain ⟨caused, _⟩ := recordCause_wakeOnly { s with act.queue := q, act.late := l } a.wmask a.cause (srcOf_ne kd)
    have words := fun k => recordCause_word { s with act.queue := q, act.late := l } a.wmask a.cause (srcOf kd) (k := k)
    generalize recordCause { s with act.queue := q, act.late := l } a.wmask a.cause (srcOf kd) = u at applied caused words
    rw [applyProfile_outage (by rw [caused.same]; exact outage)] at applied
    have bridle : (takeResult s).bridle = s.bridle := by rw [applied, caused.same]; rfl
    have run : exec .resultApply s = .next (takeResult s) := by
      rw [exec_resultApply, settleEnd_in_outage]
      rw [applied, caused.same]
      exact outage
    refine ⟨_, run, ⟨?_, ?_⟩, bridle, ?_, fun k named => ?_⟩
    · rw [applied, caused.same]; exact took
    · rw [applied, caused.same]; exact took'
    · rw [applied, caused.same]; rfl
    · rw [applied, pendPins_word _ _ k.isLt, if_pos named]
      refine ⟨?_, rfl⟩
      change (vget u.act.wake WakeWord.zero k).cause = a.cause
      rw [words k k.isLt, if_pos named]
      rfl
  · rw [exec_resultApply, takeResult, empty, settleEnd_of_not_settling settled]
  · rw [exec_resultApply, takeResult, empty]
    exact congrArg Host.Outcome.next (if_neg (by rcases held with h | h <;> simp [h]))
  · have run : exec .resultApply s = .next (applyRecorded s) := by
      rw [exec_resultApply, takeResult, empty]
      exact congrArg Host.Outcome.next (if_pos (by rw [settling, calm, idle, empty]; rfl))
    obtain ⟨settled, passed⟩ := applyRecorded_effect s
    exact ⟨_, run, settled, passed⟩

end Sys2Proof.Proofs

/-! ## The attempts of a rail (Sequence ACT-2) -/

namespace Sys2Proof.Proofs

open Sys2Proof Sys2Proof.Machine

/-! ### A rail's domain leaves on -/

theorem blockLeaves_rail (s : State) (c : Chan) (forced : Bool) : blockLeaves s (chanDom c) forced =
    monitorsLeave (channelLeaves (storeEarliest s (chanDom c)) c forced) (chanDom c) := by cases c <;> rfl

theorem domLeaves_rail (s : State) (c : Chan) (x : DS) (forced : Bool) : domLeaves s (chanDom c) x forced =
    forgetRules (modDom (loseBanks (blockLeaves s (chanDom c) forced) (chanDom c)
      (if x = .ret then keptBanks (blockLeaves s (chanDom c) forced) (chanDom c) else 0)) (chanDom c)
      fun m => { m with st := x }) (chanDom c) x := by
  unfold domLeaves
  dsimp only
  rw [if_neg (by cases c <;> decide), if_neg (by cases c <;> decide)]

theorem domLeaves_rail_only (s : State) (c : Chan) (x : DS) (forced : Bool) :
    Only [.free, .rules, .bridle, .reg, .prot, .mons, .tether, .queues, .integ] s (domLeaves s (chanDom c) x forced) := by
  rw [domLeaves_rail, blockLeaves_rail]
  exact (((((((Only.refl _ s).post (storeEarliest_only ..) rfl).post (channelLeaves_only ..) rfl).post
    (monitorsLeave_only ..) rfl).post (loseBanks_only ..) rfl).post (modDom_only ..) rfl).post (forgetRules_only ..) rfl)

theorem modChan_kept (s : State) (c : Chan) (f : ChanSt → ChanSt) : (modChan s c f).reg.kept = s.reg.kept := by
  cases c <;> rfl

theorem moveRef_kept (s : State) (c : Chan) : (moveRef s c).reg.kept = s.reg.kept := by
  unfold moveRef settleRef
  split
  · exact (modChan_kept ..).trans (modChan_kept ..)
  · exact (modChan_kept ..).trans (modChan_kept ..)
  · exact (modChan_kept ..).trans (modChan_kept ..)
  · rfl

theorem stopChan_kept (s : State) (c : Chan) (ph : ChPhase) : (stopChan s c ph).reg.kept = s.reg.kept := by
  have frozen : (dropPgood (freezeRef s c) c).reg.kept = s.reg.kept := by
    unfold dropPgood freezeRef
    rw [modChan_kept, modChan_kept, moveRef_kept]
  unfold stopChan
  cases c <;> exact frozen

/-- A channel whose domain leaves on keeps the policy of an earlier Reel. -/
theorem channelLeaves_kept (s : State) (c : Chan) (forced : Bool) : (channelLeaves s c forced).reg.kept = s.reg.kept := by
  unfold channelLeaves
  extract_lets r0 s0 s1 r1 s2 s3 r2 s4
  have h0 : s0.reg.kept = s.reg.kept := by unfold s0; split <;> rfl
  have h1 : s1.reg.kept = s.reg.kept := by
    unfold s1
    split
    · exact (stopChan_kept ..).trans h0
    · refine Eq.trans ?_ h0
      cases c <;> rfl
  have h2 : s2.reg.kept = s.reg.kept := by unfold s2; split <;> exact h1
  have h3 : s3.reg.kept = s.reg.kept := (modChan_kept ..).trans h2
  have h4 : s4.reg.kept = s.reg.kept := by unfold s4; cases c <;> exact h3
  exact h4

theorem polOf_congr {s t : State} (reel : t.reel = s.reel) (kept : t.reg.kept = s.reg.kept) : polOf t = polOf s := by
  unfold polOf
  rw [reel, kept]

theorem railTry_of_act {s t : State} (same : t.act = s.act) (c : Chan) : railTry t c = railTry s c := by
  unfold railTry
  rw [same]

theorem domLeaves_rail_pol (s : State) (c : Chan) (x : DS) (forced : Bool) :
    polOf (domLeaves s (chanDom c) x forced) = polOf s := by
  refine polOf_congr ((domLeaves_rail_only ..).same .reel rfl) ?_
  rw [domLeaves_rail, blockLeaves_rail]
  have late : ∀ {t u : State}, Only [.bridle, .tether, .queues, .integ, .rules, .mons] t u → u.reg.kept = t.reg.kept :=
    fun h => congrArg Reg.kept (h.same .reg rfl)
  refine (late (((((Only.refl _ _).post (monitorsLeave_only ..) rfl).post (loseBanks_only ..) rfl).post (modDom_only ..) rfl).post
    (forgetRules_only ..) rfl)).trans ((channelLeaves_kept ..).trans ?_)
  exact congrArg Reg.kept ((storeEarliest_only ..).same .reg rfl)

/-! ### An attempt that fails -/

theorem railTry_modTry (s : State) (c : Chan) (f : RailTry → RailTry) : railTry (modTry s c f) c = f (railTry s c) := by
  cases c <;> rfl

theorem railTry_modChan (s : State) (c k : Chan) (f : ChanSt → ChanSt) : railTry (modChan s c f) k = railTry s k := by
  cases c <;> cases k <;> rfl

theorem isOn_modChan (s : State) (c : Chan) (f : ChanSt → ChanSt) (d : Nat) : isOn (modChan s c f) d = isOn s d :=
  isOn_of_bridle (modChan_bridle ..) d

theorem isOn_modTry (s : State) (c : Chan) (f : RailTry → RailTry) (d : Nat) : isOn (modTry s c f) d = isOn s d :=
  isOn_of_bridle (modTry_bridle ..) d

/-- A record is captured where the latch has room; where it has none, the latch stays. -/
theorem capture_latch (s : State) (code : BitVec 5) (phase : Nat) (c : Chan) (toFault : Bool) (snap : Snap)
    (companion : List Byte) :
    (s.prot.latch.length < 4 → ∃ r ∈ (capture s code phase c toFault snap companion).prot.latch,
      r.code = code ∧ r.aux = (c == .aux)) ∧
    (4 ≤ s.prot.latch.length → (capture s code phase c toFault snap companion).prot.latch = s.prot.latch) := by
  unfold capture
  refine ⟨fun room => ?_, fun full => ?_⟩
  · rw [if_neg (by omega)]
    exact ⟨_, List.mem_append_right _ (List.mem_singleton.mpr rfl), rfl, rfl⟩
  · rw [if_pos full]
    dsimp only
    split
    · rfl
    · rw [(addEntry_incidental ..).prot]
      rfl

/-- A capture takes no domain into or out of on. -/
theorem capture_on (s : State) (code : BitVec 5) (phase : Nat) (c : Chan) (toFault : Bool) (snap : Snap)
    (companion : List Byte) (d : Nat) : isOn (capture s code phase c toFault snap companion) d = isOn s d := by
  unfold capture
  dsimp only
  split
  · split
    · rfl
    · exact (addEntry_incidental ..).on d
  · exact isOn_of_bridle ((presentRef_only s c).same .bridle rfl) d

theorem railCause_only (s : State) (c : Chan) (mask : BitVec 4) : Only [.act, .win] s (railCause s c mask) :=
  Machine.railCause_only s c mask

/-- Cause 0x81 on the pins that waited on the main rail (Sequence ACT-2 step 6). -/
theorem railCause_main_word (s : State) (mask : BitVec 4) {k : Fin 4} (named : mask.getLsbD k = true) :
    (vget (railCause s .main mask).act.wake WakeWord.zero k).cause = 0x81 ∧
      (vget (railCause s .main mask).act.wake WakeWord.zero k).src = 7 ∧
      (vget (railCause s .main mask).act.wake WakeWord.zero k).pend = false := by
  unfold railCause
  dsimp only
  rw [eachPin_word _ _ _ k.isLt, if_pos named, recordCause_word _ _ _ _ k.isLt, if_pos named]
  split <;> exact ⟨rfl, rfl, rfl⟩

/-- The pins that a set of attempts on a channel has waiting. -/
def railMask (s : State) (c : Chan) : BitVec 4 :=
  match c with
  | .main => (railTry s c).mask ||| (pendingMask s &&& ~~~(match s.act.outProfile with | some (_, m) => m | none => 0))
  | .aux => (railTry s c).mask

theorem railFails_eq (s : State) (c : Chan) (snap : Snap) : ∃ note,
    railFails s c snap = modChan (modTry (if railFailing (capture s 0x0C 0 c true snap note) c
      then capture s 0x0C 0 c true snap note else railCause (capture s 0x0C 0 c true snap note) c (railMask s c))
      c fun _ => RailTry.idle) c fun x => { x with phase := .off } := by
  cases c <;> exact ⟨_, rfl⟩

theorem attemptFails_more {s : State} {c : Chan} (snap : Snap) (left : (railTry s c).retries < (polOf s).retry) :
    attemptFails s c snap =
      modChan (modTry s c fun y => { y with gap := true }) c fun x => { x with phase := .waiting .gap } := if_pos left

theorem attemptFails_last {s : State} {c : Chan} (snap : Snap) (last : (polOf s).retry ≤ (railTry s c).retries) :
    attemptFails s c snap = railFails s c snap := if_neg (Nat.not_lt.mpr last)

theorem attemptFails_on (s : State) (c : Chan) (snap : Snap) (d : Nat) : isOn (attemptFails s c snap) d = isOn s d := by
  unfold attemptFails
  split
  · rw [isOn_modChan, isOn_modTry]
  · obtain ⟨note, eq⟩ := railFails_eq s c snap
    rw [eq, isOn_modChan, isOn_modTry]
    split
    · exact capture_on ..
    · exact (isOn_of_bridle ((railCause_only ..).same .bridle rfl) d).trans (capture_on ..)

theorem exec_railAttemptFail {s : State} {c : Chan} (snap : Snap) (on : isOn s (chanDom c) = true)
    (running : (railTry s c).running = true) (noGap : (railTry s c).gap = false) (noPgood : (chan s c).pgood = false) :
    exec (.railAttemptFail c snap) s = .next (attemptFails (domLeaves s (chanDom c) .off true) c snap) :=
  congrArg Host.Outcome.next (if_pos (by rw [on, running, noGap, noPgood]; rfl))

/-! ### A request to come to on -/

theorem advance_rise {s : State} {d : Nat} {q : Req} {rest : List Req} (fuel : Nat) (idle : (dom s d).cur = none)
    (head : (dom s d).reqs = q :: rest) (allowed : refusal (modDom s d fun m => { m with reqs := rest }) d q = none)
    (off : (dom s d).st ≠ .on) (rises : q.target = .on) :
    advance s d (fuel + 1) = modDom s d fun m => { m with reqs := rest, cur := some (q, .rising) } := by
  rw [advance]
  simp only [idle, head, allowed, off, rises, if_false, if_true, modDom_modDom]

/-- A request that Bridle does not refuse, for a domain that is not on and has no other, begins its rise. -/
theorem request_rise {s : State} {d : Fin 20} {q : Req} (free : outstanding s d = false) (allowed : refusal s d q = none)
    (off : domSt s d ≠ .on) (rises : q.target = .on) :
    request s d q = askRequired (modDom s d fun m => { m with cur := some (q, .rising) }) d := by
  obtain ⟨idle, empty⟩ := outstanding_eq_false.mp free
  have joined := dom_modDom_same s d fun m => { m with reqs := [q] }
  have emptied : modDom (modDom s d fun m => { m with reqs := [q] }) d (fun m => { m with reqs := [] }) = s := by
    rw [modDom_modDom]
    exact modDom_self (by rw [← empty])
  have taken : takeOrder (enqueue s d q) d = modDom s d fun m => { m with cur := some (q, .rising) } := by
    rw [takeOrder, enqueue_of_not_outstanding q free, congrArg Dom.reqs joined]
    refine (advance_rise 0 ?_ (congrArg Dom.reqs joined) ?_ ?_ rises).trans ?_
    · rw [joined]; exact idle
    · rw [emptied]; exact allowed
    · rw [joined]; exact off
    · rw [modDom_modDom]
      exact modDom_congr (by rw [← empty])
  rw [request, settle, taken]

/-- A rail's domain requires no other. -/
theorem required_rail (s : State) (c : Chan) : required s (chanDom c) = [] := by cases c <;> rfl

theorem request_rise_rail {s : State} {c : Chan} {q : Req} (free : outstanding s (chanDom c) = false)
    (allowed : refusal s (chanDom c) q = none) (off : domSt s (chanDom c) ≠ .on) (rises : q.target = .on) :
    request s (chanDom c) q = modDom s (chanDom c) fun m => { m with cur := some (q, .rising) } := by
  have isDom : chanDom c < 20 := by cases c <;> decide
  have rise := request_rise (d := ⟨chanDom c, isDom⟩) free allowed off rises
  refine rise.trans ?_
  have rising : (dom (modDom s (chanDom c) fun m => { m with cur := some (q, .rising) }) (chanDom c)).cur =
      some (q, .rising) := congrArg Dom.cur (dom_modDom_same s ⟨chanDom c, isDom⟩ _)
  change askRequired (modDom s (chanDom c) fun m => { m with cur := some (q, .rising) }) (chanDom c) = _
  rw [askRequired, rising]
  dsimp only
  rw [required_rail]
  rfl

/-- The state in which a retry asks for its domain. -/
def retryBegun (s : State) (c : Chan) : State :=
  modChan (modTry s c fun y => { y with gap := false, retries := y.retries + 1 }) c fun x => { x with phase := .off }

theorem refusal_retryBegun (s : State) (c : Chan) (d : Nat) (q : Req) : refusal (retryBegun s c) d q = refusal s d q := by
  cases c <;> rfl

/-- Settles O37: the failing attempt through `attemptFails`, the retry through its request. -/
theorem railAttempts : Obligations.RailAttempts := by
  unfold Obligations.RailAttempts
  refine ⟨fun c snap s on running noGap noPgood => ?_, fun c s gap allowed fresh may => ?_, fun c s held => ?_⟩
  · refine ⟨_, exec_railAttemptFail snap on running noGap noPgood, ?_⟩
    have isDom : chanDom c < 20 := by cases c <;> decide
    have off := domLeaves_off s isDom (x := .off) true (by decide)
    have frame := domLeaves_rail_only s c .off true
    have records := domLeaves_recordsStay s (chanDom c) .off true
    have pol := domLeaves_rail_pol s c .off true
    generalize domLeaves s (chanDom c) .off true = u at off frame records pol
    have act : u.act = s.act := frame.same .act rfl
    have tries : railTry u c = railTry s c := railTry_of_act act c
    refine ⟨(attemptFails_on ..).trans off, fun left => ?_, fun last => ?_⟩
    · rw [attemptFails_more snap (by rw [tries, pol]; exact left), railTry_modChan, railTry_modTry, chan_modChan_same, tries]
      exact ⟨rfl, rfl, rfl⟩
    · obtain ⟨note, eq⟩ := railFails_eq u c snap
      obtain ⟨kept, full⟩ := capture_latch u 0x0C 0 c true snap note
      rw [attemptFails_last snap (by rw [tries, pol]; exact last), eq]
      refine ⟨?_, ?_, fun room => ?_, fun main noRoom calm k waits => ?_⟩
      · rw [railTry_modChan, railTry_modTry]
      · rw [chan_modChan_same]
      · rw [modChan_prot, modTry_prot]
        have record := kept (by rw [records.length]; exact room)
        split
        · exact record
        · rw [show (railCause _ _ _).prot = _ from (railCause_only ..).same .prot rfl]
          exact record
      · subst main
        have latch := full (by rw [records.length]; exact noRoom)
        have notFailing : railFailing (capture u 0x0C 0 .main true snap note) .main = false := by
          have same : railFailing (capture u 0x0C 0 .main true snap note) .main = railFailing u .main := by
            unfold railFailing
            rw [latch]
          rw [same, records.railFailing]
          exact calm
        have named : (railMask u .main).getLsbD k = true := by
          have main : (railTry u .main).mask = s.act.main.mask := by rw [tries]; rfl
          unfold railMask
          dsimp only
          rw [BitVec.getLsbD_or, main, waits, Bool.true_or]
        rw [if_neg (Bool.eq_false_iff.mp notFailing), modChan_act]
        exact railCause_main_word _ _ named
  · have begun : dom (retryBegun s c) (chanDom c) = { Dom.zero with st := .off } := by
      rw [dom_of_bridle (s := s) (by cases c <;> rfl)]
      exact fresh
    have asks := request_rise_rail (s := retryBegun s c) (q := devReq .on)
      (outstanding_eq_false.mpr (by rw [begun]; exact ⟨rfl, rfl⟩)) (by rw [refusal_retryBegun]; exact allowed)
      (by unfold domSt; rw [begun]; decide) rfl
    have run : exec (.railRetry c) s = .next (request (retryBegun s c) (chanDom c) (devReq .on)) := by
      refine congrArg Host.Outcome.next ((if_neg ?_).trans (if_neg ?_))
      · rcases may with calm | undo
        · simp [gap, calm]
        · rw [gap, undo]; simp
      · change ¬ (refusal (retryBegun s c) (chanDom c) (devReq .on)).isSome
        rw [refusal_retryBegun, allowed]
        decide
    rw [asks] at run
    refine ⟨_, run, ?_, ?_, ?_⟩
    · cases c <;> rfl
    · cases c <;> rfl
    · have isDom : chanDom c < 20 := by cases c <;> decide
      exact congrArg Dom.cur (dom_modDom_same (retryBegun s c) ⟨chanDom c, isDom⟩ _)
  · refine congrArg Host.Outcome.next (if_pos ?_)
    rcases held with h | ⟨outage, undo⟩
    · rw [h]; rfl
    · rw [outage]; simp [undo]

end Sys2Proof.Proofs

/-! ## The directory, the caches and the scan (file 07) -/

namespace Sys2Proof.Proofs

open Sys2Proof Sys2Proof.Machine

/-! ### The association lists and ordered sets of the tables -/

@[simp] theorem assoc_cons {β : Type} (a : Nat) (x : β) (l : List (Nat × β)) (k : Nat) :
    assoc ((a, x) :: l) k = if a = k then some x else assoc l k := by
  unfold assoc
  by_cases h : a = k <;> simp [h]

theorem assoc_assocPut {β : Type} (l : List (Nat × β)) (k : Nat) (v : β) (j : Nat) :
    assoc (assocPut l k v) j = if k = j then some v else assoc l j := by
  induction l with
  | nil => exact assoc_cons ..
  | cons p rest ih =>
    obtain ⟨a, x⟩ := p
    unfold assocPut
    split
    · exact assoc_cons ..
    · split
      · next same =>
        subst same
        simp only [assoc_cons]
        split <;> rfl
      · next below other =>
        rw [assoc_cons, ih, assoc_cons]
        by_cases here : a = j
        · subst here
          rw [if_pos rfl, if_neg other, if_pos rfl]
        · rw [if_neg here, if_neg here]

@[simp] theorem assoc_assocPut_same {β : Type} (l : List (Nat × β)) (k : Nat) (v : β) : assoc (assocPut l k v) k = some v :=
  (assoc_assocPut ..).trans (if_pos rfl)

theorem assoc_assocPut_ne {β : Type} (l : List (Nat × β)) {k j : Nat} (v : β) (other : j ≠ k) :
    assoc (assocPut l k v) j = assoc l j := (assoc_assocPut ..).trans (if_neg other.symm)

theorem assoc_assocDel_same {β : Type} (l : List (Nat × β)) (k : Nat) : assoc (assocDel l k) k = none := by
  unfold assoc assocDel
  rw [List.find?_eq_none.mpr]
  · rfl
  · intro p mem
    simpa using (List.mem_filter.mp mem).2

theorem mem_insNat {l : List Nat} {k a : Nat} : a ∈ insNat l k ↔ a = k ∨ a ∈ l := by
  induction l with
  | nil => simp [insNat]
  | cons b rest ih =>
    unfold insNat
    split
    · simp
    · split
      · next same => subst same; simp
      · rw [List.mem_cons, ih, List.mem_cons]
        exact or_left_comm

/-! ### Parity errors -/

theorem markLost_incidental (s : State) (line place sub : Nat) :
    Incidental { s with rules.lost := insNat s.rules.lost place } (markLost s line place sub) :=
  (addAlert_incidental ..).trans (addEntry_incidental ..)

theorem repairPlace_win (s : State) (p : Nat) : (repairPlace s p).win.epar = s.win.epar := by
  unfold repairPlace
  split
  · exact (apply_ite (fun t : State => t.win.epar) ..).trans
      ((congrArg (ite _ _) (congrArg Window.epar (markLost_incidental ..).win)).trans (ite_self _))
  · split
    · exact (congrArg Window.epar (demand_incidental ..).win :)
    · rfl

theorem repairPlace_scan (s : State) (p : Nat) : (repairPlace s p).rules.scan = s.rules.scan := by
  unfold repairPlace
  split
  · exact (apply_ite (fun t : State => t.rules.scan) ..).trans
      ((congrArg (ite _ _) (congrArg RuleMem.scan (markLost_incidental ..).rules)).trans (ite_self _))
  · split
    · exact (congrArg RuleMem.scan (demand_incidental ..).rules :)
    · rfl

theorem repairPlace_flash (s : State) (p : Nat) : (repairPlace s p).flash = s.flash := (repairPlace_only s p).same .flash rfl

/-- A parity error of a fill counts once in W27. -/
theorem fillFails_epar (s : State) (e line epoch : Nat) :
    (fillFails s e line epoch).win.epar = min 0xFFFF (s.win.epar + 1) := by
  unfold fillFails
  extract_lets p s2
  have counted : s2.win.epar = min 0xFFFF (s.win.epar + 1) := by
    unfold s2
    split
    · rfl
    · next x _ => cases x.stopped <;> rfl
  clear_value s2
  change (match p with | some p => repairPlace s2 p | none => s2).win.epar = _
  cases p with
  | some p => exact (repairPlace_win ..).trans counted
  | none => exact counted

/-! ### The cache of an engine -/

/-- A line that enters a cache with room is in it. -/
theorem mem_cacheAdd {c : List CacheLine} (x : CacheLine) (room : c.length < 256) : x ∈ cacheAdd c x := by
  unfold cacheAdd
  dsimp only
  rw [if_pos (Nat.lt_of_le_of_lt (List.length_filter_le ..) room)]
  exact List.mem_append_right _ (List.mem_singleton_self x)

theorem eng_modEng_same (s : State) (e : Fin 4) (f : Engine → Engine) : eng (modEng s e f) e = f (eng s e) :=
  (eng_modEng ..).trans (if_pos ⟨rfl, e.isLt⟩)

theorem eng_modEng_ne (s : State) (e : Nat) {k : Nat} (f : Engine → Engine) (other : k ≠ e) :
    eng (modEng s e f) k = eng s k := (eng_modEng ..).trans (if_neg fun h => other h.1.symm)

/-! ### DIRECTORY_DATA, its branches -/

/-- The line fetched is a version that the current epoch does not have. -/
def fetchedOld (s : State) (line ep : Nat) : Bool :=
  ep != s.rules.cur.epoch && placeOf s.rules (tablesAt s.rules ep) line != placeOf s.rules s.rules.cur line

/-- The copy that DIRECTORY_DATA puts in the cache of an engine. -/
def fetchedCopy (s : State) (e line ep : Nat) : CacheLine where
  line := line
  st := if fetchedOld s line ep then .old else .current
  pinned := if fetchedOld s line ep then streamsOf s e ep else []
  data := memLine (lineAt s.rules (tablesAt s.rules ep) line)

/-- A fill that is no longer waited for. -/
def fillEnded (s : State) (e : Fin 4) (line ep : Nat) : State :=
  { s with engs.trans := s.engs.trans.erase (.fill e line ep) }

theorem exec_directoryData_waits {s : State} {e : Fin 4} {line : BitVec 15} {ep : Nat} (k : Bool)
    (asked : fillOf s e line.toNat = some ep) (waits : behind s.engs.trans (.fill e line.toNat ep) line.toNat = true) :
    exec (.directoryData e line k) s = .next s := by
  change execDirectoryData e line k s = _
  unfold execDirectoryData
  simp only [asked, waits, if_true, ite_self]

theorem exec_directoryData_ends {s : State} {e : Fin 4} {line : BitVec 15} {ep : Nat} (k : Bool)
    (ready : engineReady s e = true) (asked : fillOf s e line.toNat = some ep)
    (free : behind s.engs.trans (.fill e line.toNat ep) line.toNat = false) :
    exec (.directoryData e line k) s = .next
      (if k then modEng (fillEnded s e line.toNat ep) e fun g =>
        { g with cache := cacheAdd g.cache (fetchedCopy (fillEnded s e line.toNat ep) e line.toNat ep) }
      else fillFails (fillEnded s e line.toNat ep) e line.toNat ep) := by
  change execDirectoryData e line k s = _
  unfold execDirectoryData
  simp only [ready, asked, free, Bool.not_true, Bool.false_eq_true, if_false]
  cases k <;> rfl

/-- Settles O28: the directory keeps its order, and no copy of an evicted or snooped line stays current. -/
theorem directoryAndCaches : Obligations.DirectoryAndCaches := by
  intro e line s
  refine ⟨fun ready isLine => ?_, fun ep ready asked free => ⟨fun room => ?_, ?_⟩,
    fun ep k asked waits => exec_directoryData_waits k asked waits, ?_, fun snooped => ?_, ?_, rfl⟩
  · refine ⟨_, congrArg Host.Outcome.next (if_neg ?_), ?_, ?_, ?_⟩
    · have other : line.toNat ≠ 0x7FFF := fun h => isLine (BitVec.eq_of_toNat_eq h)
      simp [ready, other]
    · exact (mem_addNew ..).mpr (.inl rfl)
    · exact (mem_addNew ..).mpr (.inl rfl)
    · exact Only.set_engs (Only.refl _ _) _ rfl
  · refine ⟨_, exec_directoryData_ends true ready asked free, ?_, rfl, ?_⟩
    · refine ⟨fetchedCopy (fillEnded s e line.toNat ep) e line.toNat ep, ?_, rfl, ?_, rfl⟩
      · rw [if_pos rfl, eng_modEng_same]
        exact mem_cacheAdd _ room
      · unfold fetchedCopy
        dsimp only
        split <;> decide
    · exact Only.set_engs (Only.refl _ _) _ rfl
  · exact ⟨_, exec_directoryData_ends false ready asked free, fillFails_epar ..⟩
  · refine ⟨_, rfl, fun c mem => ?_, fun mem => ?_, fun c mem held => ?_, ?_⟩
    · have kept : c ∈ (eng s e).cache.filter fun c => c.line != line.toNat :=
        (congrArg (c ∈ ·.cache) (eng_modEng_same s e fun g =>
          { g with cache := g.cache.filter fun c => c.line != line.toNat })).mp mem
      simpa using (List.mem_filter.mp kept).2
    · simpa using (List.mem_filter.mp mem).2
    · obtain ⟨c', _, rfl⟩ := List.mem_map.mp mem
      simpa using (List.mem_filter.mp held).2
    · exact Only.set_engs (Only.set_rules (Only.refl _ _) _ rfl) _ rfl
  · refine ⟨_, congrArg Host.Outcome.next (if_pos ?_), fun c mem => ?_, Only.set_engs (Only.refl _ _) _ rfl⟩
    · obtain ⟨c, mem, held, free⟩ := snooped
      exact List.any_eq_true.mpr ⟨c, mem, by simp [held, free]⟩
    · rw [eng_modEng_same] at mem
      obtain ⟨c', _, rfl⟩ := List.mem_map.mp mem
      intro here
      by_cases now : c'.line = line.toNat && c'.st == .current
      · rw [if_pos now]
        split <;> nofun
      · rw [if_neg now] at here ⊢
        simpa [here] using now
  · refine ⟨_, rfl, fun c mem held => ?_, Only.set_rules (Only.refl _ _) _ rfl⟩
    obtain ⟨c', _, rfl⟩ := List.mem_map.mp mem
    simpa using (List.mem_filter.mp held).2

/-! ### The scan -/

/-- Settles O29: a bad read counts once, and only the place that was read again is cleared. -/
theorem scanReadsEveryPlace : Obligations.ScanReadsEveryPlace := by
  intro s on ready
  have scans : ∀ k, exec (.scanRead k) s = .next (if k then { s with rules.scan := (s.rules.scan + 1) % 32768 }
      else repairPlace (countParity { s with rules.scan := (s.rules.scan + 1) % 32768 }) s.rules.scan) :=
    fun k => congrArg Host.Outcome.next (if_neg (by simp [on, ready]))
  refine ⟨scans true, ⟨_, scans false, ?_, ?_, ?_⟩, fun p due flashOn free => ?_⟩
  · exact repairPlace_scan ..
  · exact repairPlace_win ..
  · exact repairPlace_flash ..
  · have run : exec .scanRepairDone s = .next { s with
        rules := { s.rules with
          places := if loadedAt s.rules p then
              (flashLine s p).elim s.rules.places fun b => assocPut s.rules.places p (memLine b)
            else s.rules.places
          badPlaces := s.rules.badPlaces.filter (· != p)
          repair := (s.rules.badPlaces.filter (· != p)).head? }
        engs.trans := s.engs.trans.filter (· != .repair p) } := by
      change execScanRepairDone s = _
      unfold execScanRepairDone
      rw [due]
      simp only [flashOn, on, free, Bool.not_true, Bool.or_self, Bool.false_eq_true, if_false]
      cases flashLine s p <;> rfl
    refine ⟨_, run, ?_, ?_, fun q mem other => ?_, fun b loaded read => ?_, fun notLoaded => ?_, ?_⟩
    · simp
    · simp
    · exact List.mem_filter.mpr ⟨mem, by simpa using other⟩
    · dsimp only
      rw [loaded, read]
      exact assoc_assocPut_same ..
    · dsimp only
      rw [notLoaded]
      rfl
    · exact execScanRepairDone_only s _ run

end Sys2Proof.Proofs

/-! ## The epoch switch and the reload of the rule memory (files 07 and 08) -/

namespace Sys2Proof.Proofs

open Sys2Proof Sys2Proof.Machine

/-! ### The banks of a domain that is on -/

/-- A domain that is on stays on and keeps the banks that hold their contents. -/
structure BanksStay (s t : State) : Prop where
  on : ∀ d, isOn t d = isOn s d
  banks : ∀ d, isOn s d = true → (dom t d).banks = (dom s d).banks

theorem BanksStay.refl (s : State) : BanksStay s s := ⟨fun _ => rfl, fun _ _ => rfl⟩

theorem BanksStay.trans {s t u : State} (h : BanksStay s t) (k : BanksStay t u) : BanksStay s u :=
  ⟨fun d => (k.on d).trans (h.on d), fun d up => (k.banks d ((h.on d).trans up)).trans (h.banks d up)⟩

theorem BanksStay.ite {c : Prop} [Decidable c] {s t u : State} (h : BanksStay s t) (k : BanksStay s u) :
    BanksStay s (if c then t else u) := by
  split
  · exact h
  · exact k

theorem BanksStay.foldl {α : Type} {g : State → α → State} (step : ∀ t x, BanksStay t (g t x)) (l : List α)
    {s t : State} (h : BanksStay s t) : BanksStay s (l.foldl g t) := by
  induction l generalizing t with
  | nil => exact h
  | cons x rest ih => exact ih (h.trans (step t x))

theorem BanksStay.of_doms {s t : State} (doms : t.bridle.doms = s.bridle.doms) : BanksStay s t := by
  have same : ∀ d, dom t d = dom s d := fun d => by unfold dom; rw [doms]
  exact ⟨fun d => congrArg (·.st == .on) (same d), fun d _ => congrArg Dom.banks (same d)⟩

theorem BanksStay.of_only {ps : List Part} {s t : State} (h : Only ps s t) (apart : ps.contains .bridle = false) :
    BanksStay s t := .of_doms (congrArg Bridle.doms (h.same .bridle apart))

theorem modDom_banksStay {s : State} {d : Nat} {f : Dom → Dom} (on : ((f (dom s d)).st == .on) = isOn s d)
    (banks : isOn s d = true → (f (dom s d)).banks = (dom s d).banks) : BanksStay s (modDom s d f) := by
  have at_ : ∀ e, dom (modDom s d f) e = dom s e ∨ e = d ∧ dom (modDom s d f) e = f (dom s d) := fun e => by
    rw [dom_modDom]
    split
    · next here => exact .inr ⟨here.1.symm, by rw [here.1]⟩
    · exact .inl rfl
  refine ⟨fun e => ?_, fun e up => ?_⟩
  · rcases at_ e with same | ⟨rfl, moved⟩
    · exact congrArg (·.st == .on) same
    · exact (congrArg (·.st == .on) moved).trans on
  · rcases at_ e with same | ⟨rfl, moved⟩
    · exact congrArg Dom.banks same
    · exact (congrArg Dom.banks moved).trans (banks up)

/-- A change of a domain that leaves its state and its banks. -/
theorem modDom_banksStay_of_mark {s : State} {d : Nat} {f : Dom → Dom} (st : ∀ m, (f m).st = m.st)
    (banks : ∀ m, (f m).banks = m.banks) : BanksStay s (modDom s d f) :=
  modDom_banksStay (congrArg (· == DS.on) (st _)) fun _ => banks _

theorem w0bEntry_banksStay (s : State) (sel : BitVec 5) (o : Origin) (r : ReqResult) (reason : BitVec 4) (alert : Bool) :
    BanksStay s (w0bEntry s sel o r reason alert) := .of_doms <| by
  unfold w0bEntry
  dsimp only
  split <;> rfl

theorem recordW2E_banksStay (s : State) (item : BitVec 4) (reason : Byte) (id : Half) :
    BanksStay s (recordW2E s item reason id) := .of_only (recordW2E_only ..) rfl

theorem jobComplete_banksStay (s : State) (j : Job) : BanksStay s (jobComplete s j) := by
  unfold jobComplete
  extract_lets r sel id reason s1 s2 s3
  have h1 : BanksStay s s1 := .ite (recordW2E_banksStay ..) (.ite (recordW2E_banksStay ..) (.refl _))
  have h2 : BanksStay s s2 := .ite (h1.trans (w0bEntry_banksStay ..)) h1
  have h3 : BanksStay s s3 := .ite h2 (h2.trans (.of_only (releasePins_only ..) rfl))
  have pins : ∀ (t : State) a, BanksStay t { t with act := a } := fun _ _ => .of_doms rfl
  exact .ite h3 ((h3.trans (pins ..)).trans (.of_only (record83_only ..) rfl))

theorem jobTarget_banksStay (s : State) (id : Nat) (r : ReqResult) (reason : BitVec 4) :
    BanksStay s (jobTarget s id r reason) := by
  have jobs : ∀ l : List Job, BanksStay s { s with bridle.jobs := l } := fun _ => .of_doms rfl
  unfold jobTarget
  split
  · exact .refl _
  · exact .ite ((jobs _).trans (jobComplete_banksStay ..)) (jobs _)

theorem resolve_banksStay (s : State) (d : Nat) (q : Req) (r : ReqResult) (reason : BitVec 4) :
    BanksStay s (resolve s d q r reason) := by
  unfold resolve
  extract_lets sel s0 s1 s2
  have h0 : BanksStay s s0 := .ite (recordW2E_banksStay ..) (.refl _)
  have h1 : BanksStay s s1 := .ite (h0.trans (w0bEntry_banksStay ..)) <| .ite (.refl _) <|
    .ite (.ite (.refl _) ((w0bEntry_banksStay ..).trans (modDom_banksStay_of_mark (fun _ => rfl) fun _ => rfl)))
      (w0bEntry_banksStay ..)
  have h2 : BanksStay s s2 := .ite (h1.trans (modDom_banksStay_of_mark (fun _ => rfl) fun _ => rfl)) h1
  exact .ite h2 (h2.trans (jobTarget_banksStay ..))

theorem recordLoss_banksStay (s : State) (d bank : Nat) : BanksStay s (recordLoss s d bank) :=
  .of_only (recordLoss_only ..) rfl

theorem loseBanks_banksStay {s : State} {d : Nat} (keep : BitVec 16) (down : isOn s d = false) :
    BanksStay s (loseBanks s d keep) := by
  unfold loseBanks
  extract_lets held lost
  have lose : BanksStay s (if d = 7 then s else lost.foldl (fun t b => recordLoss t d b) s) :=
    .ite (.refl _) (.foldl (fun t b => recordLoss_banksStay ..) _ (.refl _))
  refine lose.trans (modDom_banksStay rfl fun up => ?_)
  exact Bool.noConfusion (up.symm.trans ((lose.on d).trans down))

theorem enqueue_banksStay (s : State) (d : Nat) (q : Req) : BanksStay s (enqueue s d q) := by
  refine modDom_banksStay_of_mark (fun m => ?_) fun m => ?_ <;> (dsimp only; split <;> rfl)

theorem advance_banksStay (s : State) (d fuel : Nat) : BanksStay s (advance s d fuel) := by
  induction fuel generalizing s with
  | zero => exact .refl _
  | succ fuel ih =>
    unfold advance
    extract_lets m
    split
    · exact .refl _
    · exact .refl _
    next q rest _ _ =>
    extract_lets s1 s2
    have h1 : BanksStay s s1 := modDom_banksStay_of_mark (fun _ => rfl) fun _ => rfl
    split
    · exact h1.trans ((resolve_banksStay ..).trans (ih _))
    split
    · exact h1.trans ((resolve_banksStay ..).trans (ih _))
    split
    · exact h1.trans (modDom_banksStay_of_mark (fun _ => rfl) fun _ => rfl)
    next notOn =>
    split
    · exact h1.trans (modDom_banksStay_of_mark (fun _ => rfl) fun _ => rfl)
    next notUp =>
    have down : isOn s1 d = false := (h1.on d).trans (beq_eq_false_iff_ne.mpr notOn)
    have h2 : BanksStay s1 s2 :=
      .ite ((loseBanks_banksStay 0 down).trans (.of_only (forgetRules_only ..) rfl)) (.refl _)
    have off : isOn s2 d = false := (h2.on d).trans down
    have moved : BanksStay s2 (modDom s2 d fun x => { x with st := q.target }) :=
      modDom_banksStay ((beq_eq_false_iff_ne.mpr notUp).trans off.symm) fun _ => rfl
    exact h1.trans (h2.trans (moved.trans ((resolve_banksStay ..).trans (ih _))))

theorem askRequired_banksStay (s : State) (d : Nat) : BanksStay s (askRequired s d) := by
  have ask : ∀ t : State, ∀ r, BanksStay t
      (if isOn t r || risesLater t r || leaving t r then t else takeOrder (enqueue t r (devReq .on)) r) := fun t r =>
    .ite (.refl _) ((enqueue_banksStay ..).trans (advance_banksStay ..))
  unfold askRequired
  split
  · exact .foldl ask _ (.refl _)
  · exact .foldl ask _ (.refl _)
  · exact .refl _

theorem request_banksStay (s : State) (d : Nat) (q : Req) : BanksStay s (request s d q) :=
  (enqueue_banksStay ..).trans ((advance_banksStay ..).trans (askRequired_banksStay ..))

theorem demand_banksStay (s : State) (d : Nat) : BanksStay s (demand s d) := .ite (.refl _) (request_banksStay ..)

theorem closeNotice_banksStay (s : State) : BanksStay s (closeNotice s) :=
  .ite (.refl _) <| .ite (.foldl (fun _ _ => .ite (demand_banksStay ..) (.refl _)) _ (.refl _)) (.of_doms rfl)

theorem askMemory_banksStay (s : State) : BanksStay s (askMemory s) := by
  unfold askMemory
  split
  · exact .refl _
  split
  · exact demand_banksStay ..
  · exact .refl _

theorem addEntry_banksStay (s : State) (e : List Byte) : BanksStay s (addEntry s e) := by
  unfold addEntry
  extract_lets s' q0 s1 more q1 s2
  have h0 : BanksStay s s' := .ite (recordW2E_banksStay ..) (.refl _)
  have h1 : BanksStay s s1 := h0.trans (.ite (closeNotice_banksStay ..) (.refl _))
  have queue : ∀ (t : State) q, BanksStay t { t with queues := q } := fun _ _ => .of_doms rfl
  have h2 : BanksStay s s2 := h1.trans (queue ..)
  split
  · exact h0
  split
  · exact h0
  split
  · exact h0.trans (queue ..)
  split
  · exact .ite (h0.trans (queue ..)) (h0.trans (queue ..))
  split
  · exact .ite (h2.trans (closeNotice_banksStay ..)) h2
  · exact h1.trans ((queue ..).trans (askMemory_banksStay ..))

theorem addEntries_banksStay (s : State) (es : List (List Byte)) : BanksStay s (addEntries s es) :=
  .foldl addEntry_banksStay _ (.ite (.refl _) (.ite (closeNotice_banksStay ..) (.refl _)))

/-! ### EPOCH_SWITCH -/

/-- The oldest set that waits becomes current, the tables before it being kept for the streams that use them. -/
def epochSwitched (s : State) (c : CommitWait) (rest : List CommitWait) : State :=
  { s with
    rules.commits := rest
    rules.cur := c.tables
    rules.prev := some s.rules.cur
    rules.changed := c.changed.foldl insNat s.rules.changed
    engs.trans := s.engs.trans.filter (· != Trans.commit c.setno c.changed) }

theorem exec_epochSwitch {s : State} {c : CommitWait} {rest : List CommitWait} (waits : s.rules.commits = c :: rest) :
    exec .epochSwitch s = .next
      (if !c.snoops.isEmpty || s.rules.prev.isSome || !isOn s 7 ||
          c.changed.any (behind s.engs.trans (.commit c.setno c.changed)) then s
      else endEpoch (addEntry (epochSwitched s c rest) (entryPlain 0x30 (setDetail c.setno 0)))) := by
  change execEpochSwitch s = _
  unfold execEpochSwitch
  rw [waits] <;> rfl

theorem mem_foldl_insNat {l : List Nat} {x : Nat} (acc : List Nat) (mem : x ∈ acc ∨ x ∈ l) : x ∈ l.foldl insNat acc := by
  induction l generalizing acc with
  | nil => exact mem.resolve_right List.not_mem_nil
  | cons y rest ih =>
    refine ih _ ?_
    rcases mem with old | new
    · exact .inl (mem_insNat.mpr (.inr old))
    · rcases List.mem_cons.mp new with rfl | late
      · exact .inl (mem_insNat.mpr (.inl rfl))
      · exact .inr late

/-- The end of an epoch forgets the tables before it, once no stream uses them, and nothing else of the tables. -/
theorem endEpoch_rules (s : State) : (endEpoch s).rules.cur = s.rules.cur ∧ (endEpoch s).rules.commits = s.rules.commits ∧
    (endEpoch s).rules.changed = s.rules.changed := by
  unfold endEpoch
  split
  · split <;> exact ⟨rfl, rfl, rfl⟩
  · exact ⟨rfl, rfl, rfl⟩

theorem endEpoch_prev {s : State} {t : Tables} (before : s.rules.prev = some t) :
    (endEpoch s).rules.prev = some t ∨
      (endEpoch s).rules.prev = none ∧ ∀ x ∈ allStreams s, x.epoch ≠ t.epoch := by
  unfold endEpoch
  rw [before]
  dsimp only
  split
  · exact .inl before
  · next unused =>
    refine .inr ⟨rfl, fun x mem same => unused ?_⟩
    exact List.any_eq_true.mpr ⟨x, mem, by simpa using same⟩

/-! ### RULE_MEMORY_RELOAD_DONE -/

/-- Every bank of the rule memory holds its contents. -/
def banksFilled (s : State) : State := modDom s 7 fun d => { d with banks := allBanks 7 }

/-- The rule memory as the running slot loads it. -/
def loadedRules (s : State) : RuleMem :=
  match s.reel with
  | none => RuleMem.zero
  | some r =>
    match slotHeader s r.slot with
    | none => RuleMem.zero
    | some h => loadRules (sectBytes s r.slot h 0x51) (sectBytes s r.slot h 0x50) (sectBytes s r.slot h 0x52)

/-- The rule memory once the unchanged lines of the lost banks are read again: the changed ones among them are lost. -/
def rereadRules (s : State) : RuleMem :=
  let ls := lostPlaces s
  let bad := ls.filter fun x => !(updatedAt s.rules x.2).isEmpty && !s.rules.lost.contains x.2
  let good := ls.filter fun x => (updatedAt s.rules x.2).isEmpty
  { s.rules with
    places := good.foldl (fun m x => match flashLine s x.1 with | some b => assocPut m x.2 (memLine b) | none => m)
      s.rules.places
    reloading := false
    lost := (bad.map (·.2)).foldl insNat s.rules.lost }

theorem loadRules_idle (au ru as : List Byte) : (loadRules au ru as).reloading = false ∧
    (loadRules au ru as).openSet = none ∧ (loadRules au ru as).commits = [] := by
  unfold loadRules
  split <;> exact ⟨rfl, rfl, rfl⟩

theorem loadedRules_idle (s : State) : (loadedRules s).reloading = false ∧ (loadedRules s).openSet = none ∧
    (loadedRules s).commits = [] := by
  unfold loadedRules
  split
  · exact ⟨rfl, rfl, rfl⟩
  · split
    · exact ⟨rfl, rfl, rfl⟩
    · exact loadRules_idle ..

/-- What a reload leaves: every bank filled, the reload ended, no set open or waiting where all lines were read, and
beside that entries and alerts. -/
theorem exec_ruleMemoryReloadDone {s : State} (due : s.rules.reloading = true) (on : isOn s 7 = true)
    (flashOn : isOn s 15 = true) : ∃ r t, exec .ruleMemoryReloadDone s = .next t ∧ r.reloading = false ∧
      (s.rules.reloadAll = true → r.openSet = none ∧ r.commits = []) ∧
      Incidental (banksFilled { s with rules := r }) t ∧ BanksStay (banksFilled { s with rules := r }) t := by
  have entry : ∀ (u : State) e, Incidental u (addEntry u e) ∧ BanksStay u (addEntry u e) := fun u e =>
    ⟨addEntry_incidental .., addEntry_banksStay ..⟩
  have none_ : ∀ u : State, Incidental u u ∧ BanksStay u u := fun u => ⟨.refl _, .refl _⟩
  have run : exec .ruleMemoryReloadDone s = execRuleMemoryReloadDone s := rfl
  unfold execRuleMemoryReloadDone at run
  rw [if_neg (by simp [due, on, flashOn])] at run
  by_cases all : s.rules.reloadAll = true
  · obtain ⟨idle, unopened, noWait⟩ := loadedRules_idle s
    refine ⟨{ loadedRules s with refused := s.rules.refused, scan := s.rules.scan }, _, run, idle, fun _ => ⟨unopened, noWait⟩, ?_⟩
    rw [if_pos all]
    dsimp only
    split
    · split
      · exact none_ _
      · exact entry ..
    · exact none_ _
  · refine ⟨rereadRules s, _, run, rfl, fun h => absurd h all, ?_⟩
    rw [if_neg all]
    dsimp only
    split
    · exact none_ _
    · exact ⟨(addAlert_incidental ..).trans (addEntries_incidental ..),
        (BanksStay.of_only (addAlert_only ..) rfl).trans (addEntries_banksStay ..)⟩

/-- Settles O33: the tables of the oldest set replace the current ones, which stay while a stream uses them. -/
theorem epochSwitchAndReload : Obligations.EpochSwitchAndReload := by
  refine ⟨fun c rest s waits => ⟨fun acked alone on free => ?_, fun held => ?_⟩, fun s due on flashOn => ?_⟩
  · refine ⟨_, (exec_epochSwitch waits).trans (congrArg Host.Outcome.next (if_neg ?_)), ?_⟩
    · simp [acked, alone, on, free]
    · have entry := addEntry_incidental (epochSwitched s c rest) (entryPlain 0x30 (setDetail c.setno 0))
      have engs : (addEntry (epochSwitched s c rest) (entryPlain 0x30 (setDetail c.setno 0))).engs =
        (epochSwitched s c rest).engs := entry.only.same .engs rfl
      generalize addEntry (epochSwitched s c rest) (entryPlain 0x30 (setDetail c.setno 0)) = u at entry engs
      obtain ⟨cur, commits, changed⟩ := endEpoch_rules u
      refine ⟨cur.trans (congrArg RuleMem.cur entry.rules), commits.trans (congrArg RuleMem.commits entry.rules),
        fun l mem => ?_, ?_, ?_⟩
      · rw [changed, entry.rules]
        exact mem_foldl_insNat _ (.inr mem)
      · rw [endEpoch_engs, engs]
        intro mem
        simpa using (List.mem_filter.mp mem).2
      · rcases endEpoch_prev (s := u) (congrArg RuleMem.prev entry.rules) with kept | ⟨gone, unused⟩
        · exact .inl kept
        · refine .inr ⟨gone, fun x mem => unused x ?_⟩
          unfold allStreams
          rw [engs]
          exact mem
  · refine (exec_epochSwitch waits).trans (congrArg Host.Outcome.next (if_pos ?_))
    rcases held with snooped | before
    · simp [snooped]
    · simp [Option.isSome_iff_ne_none.mpr before]
  · obtain ⟨r, t, run, idle, all, entry, banks⟩ := exec_ruleMemoryReloadDone due on flashOn
    have filled : dom (banksFilled { s with rules := r }) 7 = { dom s 7 with banks := allBanks 7 } :=
      dom_modDom_same { s with rules := r } (7 : Fin 20) _
    have up : isOn (banksFilled { s with rules := r }) 7 = true := (congrArg (·.st == DS.on) filled).trans on
    refine ⟨t, run, (congrArg RuleMem.reloading entry.rules).trans idle,
      (banks.banks 7 up).trans (congrArg Dom.banks filled), fun h => ?_, entry.only.same .engs rfl, entry.only.same .flash rfl⟩
    rw [entry.rules]
    exact all h

end Sys2Proof.Proofs

/-! ## Update words: staging, commits and refused sets (files 07 and 08) -/

namespace Sys2Proof.Proofs

open Sys2Proof Sys2Proof.Machine

/-! ### A word that is taken -/

/-- The state with a word staged in its set. -/
def wordStaged (s : State) (p : Port) (w : List Byte) : State :=
  { s with rules :=
    { (stageWord (wordRules s) (Machine.setOf s p (wSetno w)) w).1 with
      openSet := some (stageWord (wordRules s) (Machine.setOf s p (wSetno w)) w).2 } }

theorem updateWord_of_taken {s : State} {p : Port} {src dst : Byte} {w : List Byte}
    (taken : wordTaken s p src dst w = true) : updateWord s p src dst w =
      if wCommit w then acceptCommit (wordStaged s p w) (stageWord (wordRules s) (Machine.setOf s p (wSetno w)) w).2
      else wordStaged s p w := by
  unfold wordTaken at taken
  simp only [Bool.and_eq_true, Option.isNone_iff_eq_none, bne_iff_ne] at taken
  obtain ⟨⟨⟨⟨⟨⟨takes, fresh⟩, follows⟩, notClosed⟩, mac⟩, valid⟩, fits⟩ := taken
  have next : (match s.rules.openSet with
      | some o => if o.setno = wSetno w then s else refuseSet s o.setno 7
      | none => s) = s := by
    cases h : s.rules.openSet with
    | none => rfl
    | some o =>
      rw [h] at follows
      exact if_pos (by simpa using follows)
  have starts : (s.rules.openSet.isNone && !setnoOk s (wSetno w)) = false := by
    cases h : s.rules.openSet with
    | none =>
      rw [h] at follows
      simp only at follows
      simp [follows]
    | some o => rfl
  unfold updateWord
  extract_lets n s1 r0 s2 o
  rw [if_neg (by simp [takes]), if_neg fresh]
  have same : s1 = s := next
  have sameSet : s2 = { s with rules := wordRules s } := by unfold s2 r0; rw [same]; rfl
  clear_value s2
  subst sameSet
  have closed : updatesClosed { s with rules := wordRules s } = none := notClosed
  have signed : wMacOk { s with rules := wordRules s } dst w = true := mac
  have starts' : (Option.isNone (wordRules s).openSet && !setnoOk { s with rules := wordRules s } n) = false := starts
  rw [closed]
  dsimp only
  rw [if_neg (by simp [signed]), if_neg (by simp [starts']), if_neg (by simp [valid])]
  have fits' : setTooBig (wordRules s) (stageWord (wordRules s) { o with port := p } w).2 = none := fits
  rw [fits']
  rfl

/-- A word that is taken with COMMIT clear is staged. -/
theorem plainWord_of_taken {s : State} {p : Port} {src dst : Byte} {w : Vector Byte 80} {ops : Nat → Bool}
    (taken : wordTaken s p src dst w.toList = true) (more : wCommit w.toList = false) (op : ops (wOp w.toList) = true) :
    plainWord s p src dst w ops = wordStaged s p w.toList := by
  unfold plainWord
  dsimp only
  rw [if_pos (by simp [more, op]), updateWord_of_taken taken, if_neg (by simp [more])]

/-! ### A line that is staged -/

/-- A set with a line staged in a place. -/
def OpenSet.withLine (o : OpenSet) (line p : Nat) : OpenSet :=
  { o with lines := assocPut o.lines line p, frees := o.frees.filter (· != line) }

/-- A set with a line freed. -/
def OpenSet.withFreed (o : OpenSet) (line : Nat) : OpenSet :=
  { o with lines := assocDel o.lines line, frees := insNat o.frees line }

/-- A set with the start line of a kind of stream staged. -/
def OpenSet.withStart (o : OpenSet) (kind line : Nat) : OpenSet := { o with starts := assocPut o.starts kind line }

/-- The place that a staged line goes into: its own, else the lowest free one. -/
def stagePlace (r : RuleMem) (o : OpenSet) (line : Nat) : Option Nat :=
  match assoc o.lines line with
  | some p => some p
  | none => (freePlaces r (o.lines.map (·.2)) 32768 0 1).head?

theorem stageLine_placed {r : RuleMem} {o : OpenSet} {line p : Nat} (b : List Byte) (place : stagePlace r o line = some p) :
    stageLine r o line b =
      (writePlace r p b, OpenSet.withLine o line p) := by
  have unfolded : stageLine r o line b =
      (stagePlace r o line).elim (r, { o with frees := insNat o.frees line }) fun p =>
        (writePlace r p b, OpenSet.withLine o line p) := by
    unfold stageLine stagePlace
    cases assoc o.lines line with
    | some p => rfl
    | none => cases (freePlaces r (o.lines.map (·.2)) 32768 0 1).head? <;> rfl
  rw [unfolded, place] <;> rfl

theorem stageLine_unplaced {r : RuleMem} {o : OpenSet} {line : Nat} (b : List Byte) (place : stagePlace r o line = none) :
    stageLine r o line b = (r, { o with frees := insNat o.frees line }) := by
  have none_ : assoc o.lines line = none := by
    unfold stagePlace at place
    cases h : assoc o.lines line with
    | none => rfl
    | some p => rw [h] at place; cases place
  have full : (freePlaces r (o.lines.map (·.2)) 32768 0 1).head? = none := by
    unfold stagePlace at place
    rw [none_] at place
    exact place
  unfold stageLine
  rw [none_, full]

theorem stagePlace_of {r : RuleMem} {o : OpenSet} {line p : Nat}
    (h : assoc o.lines line = some p ∨
      (assoc o.lines line = none ∧ (freePlaces r (o.lines.map (·.2)) 32768 0 1).head? = some p)) :
    stagePlace r o line = some p := by
  unfold stagePlace
  rcases h with own | ⟨none_, free⟩
  · rw [own]
  · rw [none_]; exact free

theorem stageWord_line {r : RuleMem} {o : OpenSet} {w : List Byte} (op : wOp w = 1) :
    stageWord r o w = stageLine r o (wTarget w) (wData w) := by
  unfold stageWord
  rw [op] <;> rfl

theorem stageWord_freed {r : RuleMem} {o : OpenSet} {w : List Byte} (op : wOp w = 4) :
    stageWord r o w = (r, OpenSet.withFreed o (wTarget w)) := by
  unfold stageWord
  rw [op] <;> rfl

theorem stageWord_start {r : RuleMem} {o : OpenSet} {w : List Byte} (op : wOp w = 5) :
    stageWord r o w = (r, OpenSet.withStart o (wTarget w) (field (wData w) 0 2)) := by
  unfold stageWord
  rw [op] <;> rfl

theorem wordStaged_of {s : State} {p : Port} {w : List Byte} {r : RuleMem} {o : OpenSet}
    (staged : stageWord (wordRules s) (Machine.setOf s p (wSetno w)) w = (r, o)) :
    wordStaged s p w = { s with rules := { r with openSet := some o } } := by
  unfold wordStaged
  rw [staged]

/-- Settles O30: each OP stages what it says in the open set, and a line in the place that it takes. -/
theorem updateWordsAreStaged : Obligations.UpdateWordsAreStaged := by
  intro p src dst w s taken more o same g target
  subst same target
  have stages : ∀ {ops : Nat → Bool} {r o}, ops (wOp w.toList) = true →
      stageWord (wordRules s) (Machine.setOf s p (wSetno w.toList)) w.toList = (r, o) →
      plainWord s p src dst w ops = { s with rules := { r with openSet := some o } } := fun op staged =>
    (plainWord_of_taken taken more op).trans (wordStaged_of staged)
  refine ⟨fun pl op place => ?_, fun r' o' op entry => ?_, fun r' o' op entry => ?_, fun op => ?_, fun op => ?_, fun op => ?_⟩
  · have line := (stageWord_line op).trans (stageLine_placed (wData w.toList) (stagePlace_of place))
    refine ⟨_, OpenSet.withLine (Machine.setOf s p (wSetno w.toList)) (wTarget w.toList) pl,
      congrArg Host.Outcome.next (stages (by simp [op]) line), rfl, rfl, assoc_assocPut_same .., ?_,
      fun l other => assoc_assocPut_ne _ _ other, rfl, assoc_assocPut_same .., fun q other => assoc_assocPut_ne _ _ other,
      ?_, rfl, rfl, rfl, rfl, Only.set_rules (Only.refl _ s) _ rfl⟩
    · intro mem
      simpa using (List.mem_filter.mp mem).2
    · intro mem
      simpa using (List.mem_filter.mp mem).2
  · refine congrArg Host.Outcome.next (stages (by simp [op]) ?_)
    rw [← entry]
    unfold stageWord
    rw [op] <;> rfl
  · refine congrArg Host.Outcome.next (stages (by simp [op]) ?_)
    rw [← entry]
    unfold stageWord
    rw [op] <;> rfl
  · exact ⟨_, congrArg Host.Outcome.next (stages (by simp [op]) (stageWord_freed op)), mem_insNat.mpr (.inl rfl),
      assoc_assocDel_same .., rfl⟩
  · exact ⟨_, congrArg Host.Outcome.next (stages (by simp [op]) (stageWord_start op)), rfl, rfl, assoc_assocPut_same ..⟩
  · have staged : stageWord (wordRules s) (Machine.setOf s p (wSetno w.toList)) w.toList =
        (wordRules s, Machine.setOf s p (wSetno w.toList)) := by
      unfold stageWord
      rw [op] <;> rfl
    exact congrArg Host.Outcome.next (stages (ops := fun k => k == 0 || 6 ≤ k) (by simp [op]) staged)

end Sys2Proof.Proofs

/-! ## Commits of an update and sets that are refused (files 07 and 08) -/

namespace Sys2Proof.Proofs

open Sys2Proof Sys2Proof.Machine

/-! ### What staging a word changes -/

theorem mem_assocPut {β : Type} {l : List (Nat × β)} {k : Nat} {v : β} {x : Nat × β} (mem : x ∈ assocPut l k v) :
    x = (k, v) ∨ x ∈ l := by
  induction l with
  | nil => exact .inl (List.mem_singleton.mp mem)
  | cons p rest ih =>
    unfold assocPut at mem
    split at mem
    · exact List.mem_cons.mp mem
    split at mem
    · exact (List.mem_cons.mp mem).imp_right (List.mem_cons_of_mem _)
    · rcases List.mem_cons.mp mem with rfl | late
      · exact .inr List.mem_cons_self
      · exact (ih late).imp_right (List.mem_cons_of_mem _)

/-- A place found free is held by no version of the tables. -/
theorem freePlaces_free {r : RuleMem} {taken : List Nat} {fuel p n q : Nat} (mem : q ∈ freePlaces r taken fuel p n) :
    placeHeld r q = false := by
  induction fuel generalizing p n with
  | zero => cases mem
  | succ fuel ih =>
    unfold freePlaces at mem
    split at mem
    · cases mem
    split at mem
    · exact ih mem
    · next free =>
      rcases List.mem_cons.mp mem with rfl | late
      · simp only [Bool.or_eq_true, not_or, Bool.not_eq_true] at free
        exact free.2
      · exact ih late

/-- Staging leaves the tables and the sets that wait as they are, and a line goes into a place of the set's own or into
one that no version of the tables holds. -/
structure Staged (r : RuleMem) (o : OpenSet) (x : RuleMem × OpenSet) : Prop where
  rules : x.1 = { r with places := x.1.places, lost := x.1.lost, badPlaces := x.1.badPlaces, repair := x.1.repair }
  setno : x.2.setno = o.setno
  lines : ∀ y ∈ x.2.lines, y ∈ o.lines ∨ placeHeld r y.2 = false

theorem stageLine_staged (r : RuleMem) (o : OpenSet) (line : Nat) (b : List Byte) : Staged r o (stageLine r o line b) := by
  cases place : stagePlace r o line with
  | none =>
    rw [stageLine_unplaced b place]
    exact ⟨rfl, rfl, fun y mem => .inl mem⟩
  | some p =>
    rw [stageLine_placed b place]
    refine ⟨rfl, rfl, fun y mem => ?_⟩
    rcases mem_assocPut mem with rfl | old
    · unfold stagePlace at place
      cases own : assoc o.lines line with
      | some q =>
        rw [own] at place
        refine .inl ?_
        unfold assoc at own
        obtain ⟨z, found, rfl⟩ := Option.map_eq_some_iff.mp own
        have here : z.1 = line := by simpa using List.find?_some found
        cases place
        rw [← here]
        exact List.mem_of_find?_eq_some found
      | none =>
        rw [own] at place
        exact .inr (freePlaces_free (List.mem_of_mem_head? place))
    · exact .inl old

theorem stageWord_staged (r : RuleMem) (o : OpenSet) (w : List Byte) : Staged r o (stageWord r o w) := by
  unfold stageWord
  dsimp only
  split
  · exact stageLine_staged ..
  · exact stageLine_staged ..
  · exact stageLine_staged ..
  · exact ⟨rfl, rfl, fun y mem => .inl (List.mem_filter.mp mem).1⟩
  · exact ⟨rfl, rfl, fun y mem => .inl mem⟩
  · exact ⟨rfl, rfl, fun y mem => .inl mem⟩

/-! ### UPDATE_COMMIT -/

/-- The set that waits once it is committed. -/
def committed (s : State) (o : OpenSet) : CommitWait where
  setno := o.setno
  tables := setTables s.rules o
  places := o.lines.map (·.2)
  changed := changedLines o
  snoops := s.engs.holders.filter fun h => (changedLines o).contains h.2 && working s h.1.val && isOn s (3 + h.1.val)

/-- The one line of a new set is all that its tables change. -/
theorem placeOf_setTables_line (r k : RuleMem) (n : Half) (p : Port) (line pl : Nat) :
    placeOf k (setTables r (OpenSet.withLine ⟨n, p, [], [], []⟩ line pl)) line = some pl := by
  unfold placeOf
  rw [show assoc (setTables r (OpenSet.withLine ⟨n, p, [], [], []⟩ line pl)).remap line = some pl from
    assoc_assocPut_same ..]

theorem exec_updateCommit_of_taken {s : State} {p : Port} {src dst : Byte} {w : Vector Byte 80}
    (taken : wordTaken s p src dst w.toList = true) (last : wCommit w.toList = true) :
    exec (.updateCommit p src dst w) s = .next (acceptCommit (wordStaged s p w.toList)
      (stageWord (wordRules s) (Machine.setOf s p (wSetno w.toList)) w.toList).2) :=
  congrArg Host.Outcome.next ((if_pos last).trans ((updateWord_of_taken taken).trans (if_pos last)))

/-- Settles O31: the set waits for the snoops of its lines, and the tables in force stay. -/
theorem commitWaitsForSnoops : Obligations.CommitWaitsForSnoops := by
  intro p src dst w s taken last own
  have staged := stageWord_staged (wordRules s) (Machine.setOf s p (wSetno w.toList)) w.toList
  refine ⟨_, committed (wordStaged s p w.toList) (stageWord (wordRules s) (Machine.setOf s p (wSetno w.toList)) w.toList).2,
    exec_updateCommit_of_taken taken last, rfl, ?_, ?_, rfl, ?_, ?_, ?_, fun e l => ?_, fun q mem => ?_, ?_,
    fun pl new op free => ?_⟩
  · exact congrArg (· ++ [_]) (congrArg RuleMem.commits staged.rules :)
  · exact staged.setno
  · exact (congrArg RuleMem.cur staged.rules :)
  · exact (congrArg RuleMem.prev staged.rules :)
  · exact List.mem_append_right _ (List.mem_singleton_self _)
  · refine List.mem_filter.trans ?_
    simp only [Bool.and_eq_true, List.contains_iff_mem, and_assoc]
    exact Iff.rfl
  · obtain ⟨y, line, rfl⟩ := List.mem_map.mp mem
    exact (staged.lines y line).elim (own y) id
  · exact (Only.set_rules (ps := [.front, .rules, .engs]) (Only.refl _ s) _ rfl).post (acceptCommit_only ..) rfl
  · have set : Machine.setOf s p (wSetno w.toList) = ⟨wSetno w.toList, p, [], [], []⟩ := by
      unfold Machine.setOf
      rw [new] <;> rfl
    have line : stageWord (wordRules s) (Machine.setOf s p (wSetno w.toList)) w.toList =
        (writePlace (wordRules s) pl (wData w.toList),
          OpenSet.withLine ⟨wSetno w.toList, p, [], [], []⟩ (wTarget w.toList) pl) := by
      rw [set]
      exact (stageWord_line op).trans (stageLine_placed _ (stagePlace_of (.inr ⟨rfl, free⟩)))
    have rules : (acceptCommit (wordStaged s p w.toList)
        (stageWord (wordRules s) (Machine.setOf s p (wSetno w.toList)) w.toList).2).rules.places =
        assocPut s.rules.places pl (memLine (wData w.toList)) :=
      congrArg (fun x : RuleMem × OpenSet => x.1.places) line
    generalize acceptCommit (wordStaged s p w.toList)
        (stageWord (wordRules s) (Machine.setOf s p (wSetno w.toList)) w.toList).2 = t at rules
    have placed : placeOf t.rules (committed (wordStaged s p w.toList)
        (stageWord (wordRules s) (Machine.setOf s p (wSetno w.toList)) w.toList).2).tables (wTarget w.toList) = some pl := by
      unfold committed
      rw [line]
      exact placeOf_setTables_line ..
    refine ⟨?_, ?_, placed, ?_⟩
    · unfold committed
      rw [line]
      rfl
    · unfold committed
      rw [line]
      rfl
    · unfold lineAt
      rw [placed]
      change ((assoc t.rules.places pl).map MemLine.bytes).getD _ = _
      rw [rules, assoc_assocPut_same]
      rfl

/-! ### Sets that are refused -/

theorem refuseSet_incidental (s : State) (n : Half) (sub : Nat) :
    Incidental { s with rules.openSet := none, rules.refused := some n } (refuseSet s n sub) := addEntry_incidental ..

/-- A refused set leaves the tables, the sets that wait and the places as they were. -/
theorem refuseSet_leaves (s : State) (n : Half) (sub : Nat) :
    (refuseSet s n sub).rules.openSet = none ∧ (refuseSet s n sub).rules.refused = some n ∧
      (refuseSet s n sub).rules.cur = s.rules.cur ∧ (refuseSet s n sub).rules.commits = s.rules.commits ∧
      (refuseSet s n sub).rules.places = s.rules.places ∧ (refuseSet s n sub).front.lastSetno = s.front.lastSetno := by
  have entry := refuseSet_incidental s n sub
  have front : (refuseSet s n sub).front = s.front := entry.only.same .front rfl
  rw [entry.rules, front]
  exact ⟨rfl, rfl, rfl, rfl, rfl, rfl⟩

theorem updateWord_of_badMac {s : State} {p : Port} {src dst : Byte} {w : List Byte}
    (takes : takesWords s p src dst = true) (fresh : s.rules.refused ≠ some (wSetno w))
    (opens : updatesClosed s = none) (noSet : s.rules.openSet = none) (mac : wMacOk s dst w = false) :
    updateWord s p src dst w = refuseSet { s with rules := wordRules s } (wSetno w) 3 := by
  unfold updateWord
  extract_lets n s1 r0 s2 o
  rw [if_neg (by simp [takes]), if_neg fresh]
  have same : s1 = s := by unfold s1; rw [noSet]
  have sameSet : s2 = { s with rules := wordRules s } := by unfold s2 r0; rw [same]; rfl
  clear_value s2
  subst sameSet
  have opens' : updatesClosed { s with rules := wordRules s } = none := opens
  have mac' : wMacOk { s with rules := wordRules s } dst w = false := mac
  rw [opens']
  dsimp only
  rw [if_pos (by simp [mac'])]

theorem updateWord_untaken {s : State} {p : Port} {src dst : Byte} (w : List Byte)
    (foreign : takesWords s p src dst = false) : updateWord s p src dst w = s := if_pos (by simp [foreign])

/-- Settles O32: a refused set changes no table. -/
theorem refusedSetLeavesTables : Obligations.RefusedSetLeavesTables := by
  refine ⟨fun p src dst w s takes fresh opens noSet mac last => ?_, fun o s held => ?_, fun p src dst w s foreign => ?_⟩
  · refine ⟨_, congrArg Host.Outcome.next ((if_pos last).trans (updateWord_of_badMac takes fresh opens noSet mac)), ?_⟩
    exact refuseSet_leaves { s with rules := wordRules s } _ _
  · refine ⟨refuseSet s o.setno 4, ?_, refuseSet_leaves ..⟩
    change execUpdateSetTimeout s = _
    unfold execUpdateSetTimeout
    rw [held]
  · have plain : ∀ ops, plainWord s p src dst w ops = s := fun ops =>
      (congrArg (ite _ · s) (updateWord_untaken _ foreign)).trans (ite_self _)
    exact ⟨congrArg _ (plain _), congrArg _ (plain _), congrArg _ (plain _), congrArg _ (plain _), congrArg _ (plain _),
      congrArg _ (plain _), congrArg _ ((congrArg (ite _ · s) (updateWord_untaken _ foreign)).trans (ite_self _))⟩

end Sys2Proof.Proofs

/-! ## Streams: how they start and how their bytes are taken (file 07) -/

namespace Sys2Proof.Proofs

open Sys2Proof Sys2Proof.Machine

/-! ### A stream that starts -/

theorem barred_free {s : State} {d : Nat} (free : holding s d = false) : barred s d = (false, s) := if_neg (by simp [free])

theorem joinEngine_idle {g : Engine} (x : Stream) (idle : g.run = none) : joinEngine g x = { g with run := some x } := by
  unfold joinEngine
  rw [idle]

theorem gather_all (x : Stream) (n : Nat) : (gather x n).fifo ++ (gather x n).bytes = x.fifo ++ x.bytes := by
  change (x.fifo ++ x.bytes.take n) ++ x.bytes.drop n = _
  rw [List.append_assoc, List.take_append_drop]

theorem newStream_bytes (s : State) (k : StreamKind) (key : Key48) (b : List Byte) (name : Option FrameName)
    (item : Option SlowItem) : (newStream s k key b name item).fifo ++ (newStream s k key b name item).bytes = b :=
  (gather_all ..).trans (List.nil_append b)

theorem newStream_fifo_length (s : State) (k : StreamKind) (key : Key48) (b : List Byte) (name : Option FrameName)
    (item : Option SlowItem) : (newStream s k key b name item).fifo.length = min 16 b.length := by
  change ([] ++ b.take 16).length = _
  rw [List.nil_append, List.length_take]

/-- The stream of a frame on a port or of the host's frame, before its first byte. -/
def frameStream (s : State) (k : StreamKind) (b : List Byte) : Stream :=
  newStream s k (frameKey s k b) (b.take (16 + fLen b))
    (some { nameOf b (fQtag b) with fsrc := match k with | .host => ownAddr s | _ => fSrc b }) none

/-- An engine that is idle runs a new stream. -/
theorem eng_started {s : State} {e : Fin 4} (x : Stream) (idle : (eng s e).run = none) :
    (eng (modEng s e fun g => joinEngine g x) e).run = some x := by
  rw [eng_modEng_same, joinEngine_idle x idle]

section
variable {e : Fin 4} {s : State} (running : isRunning s = true) (matches_ : matching s = true)
  (ready : engineReady s e = true) (loaded : s.rules.reloading = false) (free : holding s (3 + e) = false)
include running matches_ ready loaded free

theorem startFrame_started {k : StreamKind} (b : List Byte) (has : engineFor s.engs.assign k = some e)
    (idleKind : kindBusy s k = false) :
    startFrame s k b = modEng s e fun g => joinEngine g (frameStream s k b) := by
  unfold startFrame
  rw [has]
  dsimp only
  rw [barred_free free]
  dsimp only
  rw [if_neg (by simp [running, matches_, idleKind]), if_neg (by simp [ready, loaded])]
  rfl

theorem startSlow_started {i : SlowItem} {rest : List SlowItem} (has : s.engs.assign.slow = some e)
    (waits : s.engs.slowQ = i :: rest) (idleKind : kindBusy s .event = false) (fits : slowFits (eng s e) = true) :
    startSlow s = modEng { s with engs.slowQ := rest } e fun g =>
      joinEngine g (newStream s (slowStream s i).1 (slowStream s i).2.2 (slowStream s i).2.1 none (some i)) := by
  unfold startSlow
  rw [has, waits]
  dsimp only
  rw [if_neg (by simp [running, matches_, idleKind]), if_neg (by simp [ready]), if_neg (by simp [loaded, fits]),
    barred_free free]
  dsimp only
  rw [if_neg Bool.false_ne_true]

end

/-- Settles O24: a stream starts on its idle engine under the current epoch, with no byte taken. -/
theorem streamStartsOnItsEngine : Obligations.StreamStartsOnItsEngine := by
  intro e s running matches_ ready loaded idle free
  refine ⟨fun p b has up checked shown idleKind => ?_, fun b rest c has waits undecided idleKind => ?_,
    fun i rest c has waits idleKind fits => ?_⟩
  · have starts := startFrame_started running matches_ ready loaded free b has idleKind
    refine ⟨_, _, Eq.trans (b := .next (startFrame s (.frame p) b)) ?_ (congrArg _ starts), eng_started _ idle, rfl,
      newStream_bytes .., newStream_fifo_length .., rfl, rfl, rfl, rfl, rfl, Only.set_engs (Only.refl _ s) _ rfl⟩
    cases p
    · exact congrArg Host.Outcome.next (if_pos (by rcases up with h | h <;> simp [h, checked, shown]))
    · exact congrArg Host.Outcome.next (if_pos (by rcases up with h | h <;> simp [h, checked, shown]))
  · refine ⟨_, frameStream s .host b, ?_, eng_started _ idle, rfl, newStream_bytes .., rfl, rfl,
      Only.set_engs (Only.refl _ s) _ rfl⟩
    rw [← startFrame_started running matches_ ready loaded free b has idleKind]
    change execStreamStart .host c s = _
    unfold execStreamStart
    dsimp only
    rw [waits]
    dsimp only
    rw [if_pos (by simp [undecided])]
  · refine ⟨_, _, congrArg Host.Outcome.next
      (startSlow_started running matches_ ready loaded free has waits idleKind fits), eng_started (s := { s with engs.slowQ := rest }) _ idle,
      newStream_bytes .., rfl, rfl, rfl, Only.set_engs (Only.refl _ s) _ rfl⟩

/-! ### Stopping -/

/-- A stream that is matched no more. -/
def stopped (x : Stream) : Stream := { x with stopped := true, collected := [] }

theorem stopStream_eq (s : State) (x : Stream) (start : Nat) :
    stopStream s x start = (recordW2D s (kindPort x.kind) 2 start, stopped x) := rfl

theorem addAlert_asserts (s : State) (a : Alarm) : alertAsserted (addAlert s a) = true := by
  have there : a ∈ (addAlert s a).prot.alerts := (mem_addNew ..).mpr (.inl rfl)
  unfold alertAsserted
  cases h : (addAlert s a).prot.alerts with
  | nil => rw [h] at there; cases there
  | cons b rest => rfl

theorem alertAsserted_of_mem {s : State} {a : Alarm} (there : a ∈ s.prot.alerts) : alertAsserted s = true := by
  unfold alertAsserted
  cases h : s.prot.alerts with
  | nil => rw [h] at there; cases there
  | cons b rest => rfl

/-! ### One byte -/

theorem lineLost_none {r : RuleMem} (t : Tables) (line : Nat) (whole : r.lost = []) : lineLost r t line = false := by
  unfold lineLost
  split
  · rw [whole]; rfl
  · rfl

/-- What taking a byte leaves of a stream, the byte's effects on its results apart. -/
structure TookByte (r : RuleMem) (x y : Stream) (b : Byte) (rest : List Byte) : Prop where
  all : y.fifo ++ y.bytes = rest ++ x.bytes
  bytes : y.bytes = x.bytes.drop 1
  taken : y.taken = x.taken + 1
  stopped : y.stopped = false
  epoch : y.epoch = x.epoch
  st : y.st = match x.st with | none => none | some st => (nextState r (tablesAt r x.epoch) st b).1

/-- While no line is lost, a byte that is taken moves the automaton as its tables say. -/
theorem stepByte_tookByte {s : State} (e : Fin 4) {x : Stream} {b : Byte} {rest : List Byte} (fifo : x.fifo = b :: rest)
    (runs : x.stopped = false) (whole : s.rules.lost = []) : TookByte s.rules x (stepByte s e x).2 b rest := by
  unfold stepByte
  rw [fifo]
  extract_lets t ls mark
  have marked : ∀ {y}, TookByte s.rules x y b rest → TookByte s.rules x (mark y) b rest := fun took => by
    unfold mark
    split
    · exact ⟨took.all, took.bytes, took.taken, took.stopped, took.epoch, took.st⟩
    · exact took
  dsimp only
  rw [if_neg (by simp [runs])]
  split
  · next dead => exact marked ⟨gather_all .., rfl, rfl, runs, rfl, dead.trans (by rw [dead])⟩
  next st at_ =>
  have noLoss : ls.any (lineLost s.rules t) = false := by
    rw [List.any_eq_false]
    exact fun l _ => by simp [lineLost_none t l whole]
  rw [noLoss, if_neg Bool.false_ne_true]
  split
  · next dies => exact marked ⟨gather_all .., rfl, rfl, runs, rfl, by rw [at_]; exact dies.symm⟩
  next m moves =>
  split
  · exact marked ⟨gather_all .., rfl, rfl, runs, rfl, by rw [at_]; exact moves.symm⟩
  next w _ =>
  rw [lineLost_none t _ whole, if_neg Bool.false_ne_true]
  exact marked ⟨gather_all .., rfl, rfl, runs, rfl, by rw [at_]; exact moves.symm⟩

/-! ### ENGINE_STEP, its branches -/

section
variable {e : Fin 4} {x : Stream} {s : State} (ready : engineReady s e = true) (runs : (eng s e).run = some x)
  (live : x.stopped = false)
include ready runs

theorem exec_engineStep_byte (free : resultWaits s e = false) :
    exec (.engineStep e .byte) s = .next (modEng (stepByte s e x).1 e fun g =>
      afterByte g (stepByte s e x).2 (stepReads s.rules (tablesAt s.rules x.epoch) x)) := by
  change execEngineStep e .byte s = _
  unfold execEngineStep
  rw [runs]
  dsimp only
  rw [if_neg (by simp [ready]), if_neg (by simp [free])]

theorem exec_engineStep_fifoFull : exec (.engineStep e .fifoFull) s = .next (if mayFill x then fifoFills s e x else s) := by
  change execEngineStep e .fifoFull s = _
  unfold execEngineStep
  rw [runs]
  dsimp only
  rw [if_neg (by simp [ready])]

include live

theorem exec_engineStep_waits (waits : resultWaits s e = true) (room : mayFill x = false) :
    exec (.engineStep e .byte) s = .next (modEng s e fun g =>
      { g with run := some (if x.fifo.length < 32 then gather x 1 else x) }) := by
  change execEngineStep e .byte s = _
  unfold execEngineStep
  rw [runs]
  dsimp only
  rw [if_neg (by simp [ready]), if_pos (by simp [waits, live]), if_neg (by simp [room])]

theorem exec_engineStep_fillParity {l : Nat} (at_ : x.st = some l) :
    exec (.engineStep e .fillParity) s = .next (fillFails s e l x.epoch) := by
  change execEngineStep e .fillParity s = _
  unfold execEngineStep
  rw [runs]
  dsimp only
  rw [if_neg (by simp [ready]), at_]
  dsimp only
  rw [if_neg (by simp [live])]

end

/-! ### A full FIFO and a parity error of a fill -/

/-- The stream whose copy FIFO has filled with 32 bytes. -/
def filled (x : Stream) : Stream := stopped (gather x (32 - x.fifo.length))

theorem fifoFills_eq (s : State) (e : Fin 4) (x : Stream) :
    fifoFills s e x = addAlert (modEng (recordW2D s (kindPort x.kind) 2 x.taken) e fun g => { g with run := some (filled x) })
      .lostMatch := rfl

theorem filled_length {x : Stream} (fills : mayFill x = true) (small : x.fifo.length ≤ 32) : (filled x).fifo.length = 32 := by
  have enough : 32 ≤ x.fifo.length + x.bytes.length := by
    unfold mayFill at fills
    simp only [Bool.and_eq_true, decide_eq_true_eq] at fills
    exact fills.2
  change (x.fifo ++ x.bytes.take (32 - x.fifo.length)).length = 32
  rw [List.length_append, List.length_take]
  omega

theorem repairPlace_eng (s : State) (p k : Nat) : eng (repairPlace s p) k = eng s k := by
  unfold repairPlace
  split
  · split
    · rfl
    · exact eng_of_only (markLost_incidental ..).only rfl k
  · split
    · exact eng_of_only (demand_incidental ..).only rfl k
    · rfl

theorem repairPlace_alerts (s : State) (p : Nat) {a : Alarm} (mem : a ∈ s.prot.alerts) : a ∈ (repairPlace s p).prot.alerts := by
  unfold repairPlace
  split
  · split
    · exact mem
    · exact (markLost_incidental ..).alerts a mem
  · split
    · exact (demand_incidental ..).alerts a mem
    · exact mem

/-- A parity error of a fill stops the stream that waits for it, with an alert. -/
theorem fillFails_stops {s : State} {e : Fin 4} {x : Stream} (line epoch : Nat) (runs : (eng s e).run = some x)
    (live : x.stopped = false) : (eng (fillFails s e line epoch) e).run = some (stopped x) ∧
      alertAsserted (fillFails s e line epoch) = true := by
  have stops : fillFails s e line epoch = (match placeOf s.rules (tablesAt s.rules epoch) line with
      | some p => repairPlace (addAlert (countParity (modEng (recordW2D s (kindPort x.kind) 2 x.taken) e fun g =>
          { g with run := some (stopped x) })) .lostMatch) p
      | none => addAlert (countParity (modEng (recordW2D s (kindPort x.kind) 2 x.taken) e fun g =>
          { g with run := some (stopped x) })) .lostMatch) := by
    unfold fillFails
    rw [runs]
    dsimp only
    rw [if_neg (by simp [live])]
    cases placeOf s.rules (tablesAt s.rules epoch) line <;> rfl
  have there : Alarm.lostMatch ∈ (addAlert (countParity (modEng (recordW2D s (kindPort x.kind) 2 x.taken) e fun g =>
    { g with run := some (stopped x) })) .lostMatch).prot.alerts := (mem_addNew ..).mpr (.inl rfl)
  have holds : eng (addAlert (countParity (modEng (recordW2D s (kindPort x.kind) 2 x.taken) e fun g =>
      { g with run := some (stopped x) })) .lostMatch) e = { eng s e with run := some (stopped x) } :=
    eng_modEng_same (recordW2D s (kindPort x.kind) 2 x.taken) e _
  generalize addAlert (countParity (modEng (recordW2D s (kindPort x.kind) 2 x.taken) e fun g =>
      { g with run := some (stopped x) })) .lostMatch = u at stops there holds
  rw [stops]
  split
  · exact ⟨(congrArg Engine.run (repairPlace_eng ..)).trans (congrArg Engine.run holds),
      alertAsserted_of_mem (repairPlace_alerts _ _ there)⟩
  · exact ⟨congrArg Engine.run holds, alertAsserted_of_mem there⟩

/-- Settles O25: one byte is taken for one that reaches the FIFO, and a full FIFO or a parity error stops the matching. -/
theorem engineStepTakesOneByte : Obligations.EngineStepTakesOneByte := by
  intro e x s ready runs live
  refine ⟨fun b rest fifo whole free => ?_, fun waits room => ?_, fun fills => ?_, fun room => ?_, fun l at_ => ?_⟩
  · have took := stepByte_tookByte e fifo live whole
    refine ⟨_, _, exec_engineStep_byte ready runs free, congrArg Engine.run (eng_modEng_same ..), took.all, took.bytes,
      took.taken, took.stopped, took.epoch, took.st.trans ?_⟩
    cases x.st <;> rfl
  · refine ⟨_, _, exec_engineStep_waits ready runs live waits room, congrArg Engine.run (eng_modEng_same ..), ?_, ?_, ?_, ?_,
      Only.set_engs (Only.refl _ s) _ rfl⟩
    · split
      · exact gather_all ..
      · rfl
    · split <;> rfl
    · split <;> rfl
    · split <;> exact live
  · refine ⟨_, filled x, (exec_engineStep_fifoFull ready runs).trans (congrArg _ (if_pos fills)), ?_, rfl, rfl, gather_all ..,
      filled_length fills, ?_, ?_⟩
    · rw [fifoFills_eq]
      exact congrArg Engine.run (eng_modEng_same (recordW2D s (kindPort x.kind) 2 x.taken) e _)
    · rw [fifoFills_eq]
      exact addAlert_asserts ..
    · rw [fifoFills_eq]
      rfl
  · exact (exec_engineStep_fifoFull ready runs).trans (congrArg _ (if_neg (by simp [room])))
  · obtain ⟨stops, alert⟩ := fillFails_stops l x.epoch runs live
    exact ⟨_, stopped x, exec_engineStep_fillParity ready runs live at_, stops, rfl, rfl, alert, fillFails_epar ..⟩

end Sys2Proof.Proofs

/-! ## The end of a stream (file 07) -/

namespace Sys2Proof.Proofs

open Sys2Proof Sys2Proof.Machine

/-! ### What a decision changes -/

theorem leaveDecision_only (s : State) (k : StreamKind) (d : Decision) : Only [.engs] s (leaveDecision s k d) := by
  unfold leaveDecision
  split
  · exact Only.set_engs (Only.refl _ s) _ rfl
  · exact Only.set_engs (Only.refl _ s) _ rfl
  · exact Only.set_engs (Only.refl _ s) _ rfl
  · exact Only.refl _ s

theorem leaveDecision_eng (s : State) (k : StreamKind) (d : Decision) (e : Nat) : eng (leaveDecision s k d) e = eng s e := by
  unfold leaveDecision
  split <;> rfl

/-- What a stream without a winner leaves: the default decision of a host frame, else nothing. -/
def noDecision (s : State) (k : StreamKind) : State :=
  match k with
  | .host => leaveDecision s .host ⟨.dflt, none⟩
  | _ => s

theorem noDecision_act (s : State) (k : StreamKind) : (noDecision s k).act = s.act := by
  unfold noDecision
  split <;> rfl

theorem noDecision_eng (s : State) (k : StreamKind) (e : Nat) : eng (noDecision s k) e = eng s e := by
  unfold noDecision
  split <;> rfl

theorem noDecision_line (s : State) {k : StreamKind} (line : isLine k = true) : noDecision s k = s := by
  unfold noDecision
  split
  · cases line
  · rfl

/-- What a winner decides for its frame. -/
def decisionOf (a : Assoc) : Decision := ⟨a.disp, if a.qovr then some a.qtag else none⟩

/-- The winner's result and disposition. -/
def decided (s : State) (e : Fin 4) (x : Stream) (w : Nat) : State :=
  leaveDecision (passResult s e (tablesAt s.rules x.epoch) x w true) x.kind
    (decisionOf (assocOf s.rules (tablesAt s.rules x.epoch) w))

theorem endDecision_of_none {s : State} (e : Fin 4) {x : Stream} {crcOk : Bool}
    (none_ : (x.stopped || x.late || (isLine x.kind && !crcOk)) = true ∨
      bestRule s.rules (tablesAt s.rules x.epoch) x.collected = none) :
    endDecision s e x crcOk = noDecision s x.kind := by
  have same : endDecision s e x crcOk = if x.stopped || x.late || (isLine x.kind && !crcOk) then noDecision s x.kind else
      match bestRule s.rules (tablesAt s.rules x.epoch) x.collected with
      | none => noDecision s x.kind
      | some w =>
        if lineLost s.rules (tablesAt s.rules x.epoch) (assocEntryLine s.rules w) then
          recordW2D (noDecision s x.kind) (kindPort x.kind) 2 x.taken
        else decided s e x w := rfl
  rw [same]
  rcases none_ with out | none_
  · exact if_pos out
  · rw [none_]
    exact ite_self _

theorem endDecision_of_winner {s : State} (e : Fin 4) {x : Stream} {crcOk : Bool} {w : Nat} (live : x.stopped = false)
    (timely : x.late = false) (whole : isLine x.kind = false ∨ crcOk = true)
    (wins : bestRule s.rules (tablesAt s.rules x.epoch) x.collected = some w)
    (kept : lineLost s.rules (tablesAt s.rules x.epoch) (assocEntryLine s.rules w) = false) :
    endDecision s e x crcOk = decided s e x w := by
  have checks : ¬ (x.stopped || x.late || (isLine x.kind && !crcOk)) = true := by
    rcases whole with h | h <;> simp [live, timely, h]
  unfold endDecision
  dsimp only
  rw [if_neg checks, wins]
  dsimp only
  rw [if_neg (by simp [kept])]
  rfl

theorem pushFrom_act (s : State) (e : Fin 4) (r : Result) :
    if s.act.queue.length < 64 && s.act.late.isEmpty then
      (pushFrom s e r).act.queue = s.act.queue ++ [r] ∧ (pushFrom s e r).act.late = s.act.late
    else (pushFrom s e r).act.queue = s.act.queue ∧ (pushFrom s e r).act.late = s.act.late ++ [(e, r)] := by
  unfold pushFrom
  split
  · exact ⟨rfl, rfl⟩
  · exact ⟨rfl, rfl⟩

/-- A result enters the queue, or its engine holds it back. -/
theorem passResult_queues (s : State) (e : Fin 4) (t : Tables) (x : Stream) (n : Nat) (isEnd : Bool) :
    ∃ name, if s.act.queue.length < 64 && s.act.late.isEmpty then
      (passResult s e t x n isEnd).act.queue = s.act.queue ++ [.rule n (assocOf s.rules t n) x.kind isEnd name] ∧
        (passResult s e t x n isEnd).act.late = s.act.late
    else (passResult s e t x n isEnd).act.queue = s.act.queue ∧
      (passResult s e t x n isEnd).act.late = s.act.late ++ [(e, .rule n (assocOf s.rules t n) x.kind isEnd name)] :=
  ⟨_, pushFrom_act ..⟩

theorem decided_act (s : State) (e : Fin 4) (x : Stream) (w : Nat) :
    (decided s e x w).act = (passResult s e (tablesAt s.rules x.epoch) x w true).act := (leaveDecision_only ..).same .act rfl

/-- A stream that collected nothing adds no result. -/
theorem endDecision_act_of_nil {s : State} (e : Fin 4) {x : Stream} (crcOk : Bool) (nothing : x.collected = []) :
    (endDecision s e x crcOk).act = s.act := by
  rw [endDecision_of_none e (.inr (by rw [nothing]; rfl)), noDecision_act]

theorem endDecision_eng (s : State) (e : Fin 4) (x : Stream) (crcOk : Bool) (k : Nat) :
    eng (endDecision s e x crcOk) k = eng s k := by
  unfold endDecision
  extract_lets t none_
  have idle : eng none_ k = eng s k := noDecision_eng s x.kind k
  split
  · exact idle
  split
  · exact idle
  split
  · exact idle
  · exact (leaveDecision_eng ..).trans (eng_of_only (passResult_only ..) rfl k)

/-! ### The engine after a stream -/

/-- An engine whose stream in progress has ended, its next stream taken up. -/
def afterStream (g : Engine) (k : StreamKind) : Engine :=
  let n := (g.since + 1) % 4096
  resumeNext { g with run := none, since := n, checkDue := g.checkDue || n = 0, cache := unpin g.cache k }

theorem closeStream_engs (s : State) (e : Nat) (k : StreamKind) :
    (closeStream s e k).engs = (modEng s e fun g => afterStream g k).engs := endEpoch_engs _

theorem eng_closeStream (s : State) (e : Fin 4) (k : StreamKind) :
    eng (closeStream s e k) e = afterStream (eng s e) k := by
  unfold eng
  rw [closeStream_engs]
  exact eng_modEng_same s e fun g => afterStream g k

theorem afterStream_run_none {g : Engine} (k : StreamKind) (none_ : g.paused = []) : (afterStream g k).run = none := by
  unfold afterStream resumeNext
  dsimp only
  rw [none_] <;> rfl

theorem exec_streamEnd {s : State} {e : Fin 4} {x : Stream} (crcOk : Bool) (runs : (eng s e).run = some x) :
    exec (.streamEnd e crcOk) s = .next
      (if !(x.fifo.isEmpty && x.bytes.isEmpty) && !x.stopped && !x.late && (crcOk || !isLine x.kind) then s
      else closeStream (endDecision s e x crcOk) e x.kind) := by
  change execStreamEnd e crcOk s = _
  unfold execStreamEnd
  rw [runs] <;> rfl

/-- A stream in progress on an engine is one that runs. -/
theorem streamRuns_of_run {s : State} {e : Fin 4} {x : Stream} (runs : (eng s e).run = some x) :
    streamRuns s x.kind = true := by
  have there : eng s e ∈ s.engs.eng.toList := by
    unfold eng
    rw [vget_eq_getElem]
    exact Vector.mem_toList_iff.mpr (Vector.getElem_mem _)
  unfold streamRuns
  refine List.any_eq_true.mpr ⟨_, there, ?_⟩
  rw [runs]
  simp

/-! ### HOST_STREAM_ABANDON -/

/-- The host's stream taken from an engine that pauses it. -/
def hostDropped (s : State) (e : Nat) : State :=
  modEng s e fun g => { g with paused := g.paused.filter fun x => x.kind != .host, cache := unpin g.cache .host }

theorem exec_hostStreamAbandon {s : State} {e : Fin 4} {x : Stream} (runs : (eng s e).run = some x) (host : x.kind = .host)
    (has : s.engs.assign.host = some e) (shared : s.engs.assign.slow = some e) :
    exec .hostStreamAbandon s = .next (endEpoch (leaveDecision
      (recordW2D (hostDropped (closeStream s e .host) e) 2 3 0) .host ⟨.dflt, none⟩)) := by
  change execHostStreamAbandon s = _
  unfold execHostStreamAbandon
  rw [has]
  dsimp only
  have inProgress : streamRuns s .host = true := host ▸ streamRuns_of_run runs
  rw [if_neg (by simp [shared, inProgress]), runs]
  dsimp only
  rw [if_pos host]
  rfl

/-- Settles O26: the winner's result enters the queue or is held back, and its disposition is left for the frame. -/
theorem streamEndDecides : Obligations.StreamEndDecides := by
  intro e x s runs
  refine ⟨fun fifo bytes => ?_, fun line => ?_, fun more live timely => ?_, fun host has shared => ?_⟩
  · have frame := closeStream_only (endDecision s e x true) e x.kind
    have act : (closeStream (endDecision s e x true) e x.kind).act = (endDecision s e x true).act := frame.same .act rfl
    refine ⟨closeStream (endDecision s e x true) e x.kind,
      (exec_streamEnd true runs).trans (congrArg _ (if_neg (by simp [fifo, bytes]))), fun idle => ?_,
      ((endDecision_only s e x true).mono rfl).post frame rfl, fun p w kind live timely wins kept => ?_, fun nothing => ?_⟩
    · rw [eng_closeStream, endDecision_eng]
      exact afterStream_run_none _ idle
    · have decides := endDecision_of_winner (crcOk := true) e live timely (.inr rfl) wins kept
      obtain ⟨name, queued⟩ := passResult_queues s e (tablesAt s.rules x.epoch) x w true
      rw [← decided_act, ← decides, ← act] at queued
      refine ⟨⟨name, _, rfl, queued⟩, decisionOf (assocOf s.rules (tablesAt s.rules x.epoch) w), ?_, rfl⟩
      rw [closeStream_engs, decides]
      unfold decided
      rw [kind]
      cases p <;> rfl
    · exact act.trans (endDecision_act_of_nil e true nothing)
  · have none_ : endDecision s e x false = s :=
      (endDecision_of_none e (.inl (by simp [line]))).trans (noDecision_line s line)
    refine ⟨closeStream s e x.kind, ?_, (closeStream_only ..).same .act rfl, ?_, ?_⟩
    · rw [exec_streamEnd false runs, none_]
      exact congrArg _ (if_neg (by simp [line]))
    · rw [closeStream_engs]; rfl
    · rw [closeStream_engs]; rfl
  · refine (exec_streamEnd true runs).trans (congrArg _ (if_pos ?_))
    rcases more with h | h <;> simp [h, live, timely]
  · refine ⟨_, exec_hostStreamAbandon runs host has shared, ?_, ?_, fun y mem => ?_⟩
    · rw [endEpoch_engs]; rfl
    · exact ((endEpoch_only ..).same .act rfl).trans ((closeStream_only ..).same .act rfl)
    · have paused : (eng (endEpoch (leaveDecision (recordW2D (hostDropped (closeStream s e .host) e) 2 3 0) .host
          ⟨.dflt, none⟩)) e).paused = (eng (closeStream s e .host) e).paused.filter fun x => x.kind != .host := by
        unfold eng
        rw [endEpoch_engs]
        exact congrArg Engine.paused (eng_modEng_same (closeStream s e .host) e _)
      rw [paused] at mem
      simpa using (List.mem_filter.mp mem).2

end Sys2Proof.Proofs

/-! ## References, setpoints and PGOOD of a channel (file 11) -/

namespace Sys2Proof.Proofs

open Sys2Proof Sys2Proof.Machine

/-! ### A reference that moves -/

/-- A channel whose reference stands elsewhere. -/
def setRef (s : State) (c : Chan) (own ref : Nat) (high : Bool) : State :=
  modChan s c fun x => { x with own := own, ref := ref, high := high }

/-- The reference in force for a value of a channel's own rules (R435). -/
def refFor (s : State) (c : Chan) (v : Nat) : Nat :=
  match c with | .main => v | .aux => if tracks s then min v s.reg.vtrk else v

theorem refFor_le (s : State) (c : Chan) (v : Nat) : refFor s c v ≤ v := by
  cases c
  · exact Nat.le_refl v
  · change (if tracks s then min v s.reg.vtrk else v) ≤ v
    split
    · exact Nat.min_le_left ..
    · exact Nat.le_refl v

theorem refFor_of_untracked {s : State} {c : Chan} (v : Nat) (free : c = .main ∨ tracks s = false) : refFor s c v = v := by
  cases c
  · rfl
  · exact if_neg (by simpa using free)

theorem settleRef_eq (s : State) (c : Chan) :
    settleRef s c = setRef s c (chan s c).own (refFor s c (chan s c).own) (chan s c).high := by cases c <;> rfl

theorem placeRef_eq (s : State) (c : Chan) (v : Nat) (high : Bool) :
    placeRef s c v high = setRef s c v (refFor s c v) high := by cases c <;> rfl

theorem refStep_eq (x : ChanSt) : ∃ own high, refStep x = { x with own := own, high := high } := by
  unfold refStep
  split
  · exact ⟨_, x.high, rfl⟩
  · split
    · exact ⟨x.own, _, rfl⟩
    · exact ⟨_, x.high, rfl⟩

theorem refSteps_eq (n : Nat) (x : ChanSt) : ∃ own high, refSteps n x = { x with own := own, high := high } := by
  induction n generalizing x with
  | zero => exact ⟨x.own, x.high, rfl⟩
  | succ n ih =>
    obtain ⟨own, high, step⟩ := refStep_eq x
    obtain ⟨own', high', steps⟩ := ih (refStep x)
    exact ⟨own', high', steps.trans (by rw [step])⟩

/-- When a reference is looked at it may move, and no other field of a channel does. -/
theorem moveRef_eq (s : State) (c : Chan) : ∃ own ref high n, moveRef s c = { setRef s c own ref high with free := n } := by
  have moved : ∀ f : ChanSt → ChanSt, (∃ own high, f (chan s c) = { chan s c with own := own, high := high }) →
      ∃ own ref high n, settleRef (modChan (takeFree s).2 c f) c = { setRef s c own ref high with free := n } := by
    rintro f ⟨own, high, at_⟩
    refine ⟨own, refFor s c own, high, s.free + 1, (settleRef_eq ..).trans ?_⟩
    have after : chan (modChan (takeFree s).2 c f) c = { chan s c with own := own, high := high } :=
      (chan_modChan_same ..).trans (Eq.trans (by cases c <;> rfl) at_)
    rw [after]
    cases c
    · exact congrArg (fun x : ChanSt => { s with
        free := s.free + 1, reg.main := { x with own := own, ref := refFor s .main own, high := high } }) at_
    · exact congrArg (fun x : ChanSt => { s with
        free := s.free + 1, reg.aux := { x with own := own, ref := refFor s .aux own, high := high } }) at_
  unfold moveRef
  split
  · exact moved _ (refSteps_eq ..)
  · exact moved _ (refSteps_eq ..)
  · exact moved _ ⟨_, (chan s c).high, rfl⟩
  · exact ⟨(chan s c).own, (chan s c).ref, (chan s c).high, s.free, by cases c <;> rfl⟩

/-- A reference moves only in a ramp, a slew or a stop. -/
theorem moveRef_still {s : State} {c : Chan} (still : (chan s c).phase ≠ .ramp ∧ (chan s c).phase ≠ .slewing ∧
    (chan s c).phase ≠ .stopping) : moveRef s c = s := by
  obtain ⟨noRamp, noSlew, noStop⟩ := still
  unfold moveRef
  split
  · next h => exact absurd h noSlew
  · next h => exact absurd h noStop
  · next h => exact absurd h noRamp
  · rfl

theorem chan_setRef (s : State) (c : Chan) (own ref : Nat) (high : Bool) :
    chan (setRef s c own ref high) c = { chan s c with own := own, ref := ref, high := high } := chan_modChan_same ..

/-! ### PGOOD -/

/-- PGOOD falls where the channel is not at its setpoint. -/
theorem goodAtSetpoint_eq (s : State) (c : Chan) : ∃ since r u, goodAtSetpoint s c = modChan s c fun x =>
    { x with pgood := x.pgood && atSetpoint s c, goodSince := since, run := r, runUv := u } := by
  unfold goodAtSetpoint
  split
  · next at_ =>
    refine ⟨(chan s c).goodSince, (chan s c).run, (chan s c).runUv, ?_⟩
    rw [at_]
    cases c <;> simp [modChan, chan]
  · next off =>
    refine ⟨none, (chan (dropPgood s c) c).run, (chan (dropPgood s c) c).runUv, ?_⟩
    simp only [Bool.eq_false_iff.mpr off, Bool.and_false]
    cases c <;> rfl

theorem atSetpoint_modChan {s : State} {c : Chan} {f : ChanSt → ChanSt} (ref : (f (chan s c)).ref = (chan s c).ref)
    (idx : (f (chan s c)).idx = (chan s c).idx) (target : (f (chan s c)).target = (chan s c).target) :
    atSetpoint (modChan s c f) c = atSetpoint s c := by
  cases c
  · rfl
  · have set : vAset (modChan s .aux f) = vAset s := by
      unfold vAset
      change (match s.reel with
        | some _ => spMicro (setpointOf s .aux (f (chan s .aux)).idx)
        | none => (f (chan s .aux)).target) = _
      rw [idx, target] <;> rfl
    change ((f (chan s .aux)).ref == vAset _) = _
    rw [ref, set]
    rfl

theorem goodAtSetpoint_chan (s : State) (c : Chan) : ∃ since r u, chan (goodAtSetpoint s c) c =
    { chan s c with pgood := (chan s c).pgood && atSetpoint s c, goodSince := since, run := r, runUv := u } := by
  obtain ⟨since, r, u, eq⟩ := goodAtSetpoint_eq s c
  exact ⟨since, r, u, by rw [eq, chan_modChan_same]⟩

theorem goodAtSetpoint_atSetpoint (s : State) (c : Chan) : atSetpoint (goodAtSetpoint s c) c = atSetpoint s c := by
  obtain ⟨since, r, u, eq⟩ := goodAtSetpoint_eq s c
  rw [eq]
  exact atSetpoint_modChan rfl rfl rfl

/-! ### Slews -/

/-- A change of a channel makes the balance of the main phases skip an interval (R475). -/
def skipIfMain (s : State) (c : Chan) : State := if c = .main then { s with reg.skip := true } else s

theorem chan_skipIfMain (s : State) (c k : Chan) : chan (skipIfMain s c) k = chan s k := by
  unfold skipIfMain
  split <;> cases k <;> rfl

/-- A channel that has reached its target regulates there. -/
def arrived (s : State) (c : Chan) (f : ChanSt → ChanSt) : State :=
  skipIfMain (placeRef (modChan s c f) c (chan s c).target (chan s c).targetHigh) c

theorem arrived_chan (s : State) (c : Chan) (f : ChanSt → ChanSt) : chan (arrived s c f) c =
    { f (chan s c) with
      own := (chan s c).target, ref := refFor s c (chan s c).target, high := (chan s c).targetHigh } := by
  unfold arrived
  rw [chan_skipIfMain, placeRef_eq, chan_setRef, chan_modChan_same]
  cases c <;> rfl

theorem endSlew_eq (s : State) (c : Chan) :
    endSlew s c = goodAtSetpoint (arrived s c fun y => { y with phase := .regulating }) c := rfl

/-- A slew that has ended, with PGOOD while the channel is at its setpoint. -/
theorem endSlew_chan (s : State) (c : Chan) : ∃ since r u, chan (endSlew s c) c =
    { chan s c with
      phase := .regulating, own := (chan s c).target, ref := refFor s c (chan s c).target
      high := (chan s c).targetHigh, pgood := (chan s c).pgood && atSetpoint (endSlew s c) c
      goodSince := since, run := r, runUv := u } := by
  obtain ⟨since, r, u, eq⟩ := goodAtSetpoint_chan (arrived s c fun y => { y with phase := .regulating }) c
  refine ⟨since, r, u, ?_⟩
  rw [endSlew_eq, goodAtSetpoint_atSetpoint, eq, arrived_chan]

/-- A slew leads to the selected index, and leaves diode emulation as it was. -/
theorem startSlew_chan (s : State) (c : Chan) (k : Fin 8) : (chan (startSlew s c k) c).idx = k ∧
    (chan (startSlew s c k) c).sel = k ∧ (chan (startSlew s c k) c).diode = (chan s c).diode := by
  obtain ⟨own, ref, high, n, moved⟩ := moveRef_eq s c
  have still : chan (moveRef s c) c = { chan s c with own := own, ref := ref, high := high } := by
    rw [moved]
    exact (by cases c <;> rfl : _ = chan (setRef s c own ref high) c).trans (chan_setRef ..)
  unfold startSlew
  extract_lets s1 sp r s2 g2 s3
  have begun : (chan s2 c).idx = k ∧ (chan s2 c).sel = k ∧ (chan s2 c).diode = (chan s c).diode := by
    unfold s2
    rw [chan_modChan_same]
    exact ⟨rfl, rfl, (congrArg ChanSt.diode still :)⟩
  have good : (chan s3 c).idx = k ∧ (chan s3 c).sel = k ∧ (chan s3 c).diode = (chan s c).diode := by
    obtain ⟨since, r, u, eq⟩ := goodAtSetpoint_chan (skipIfMain s2 c) c
    have same : chan s3 c = _ := eq
    rw [same, chan_skipIfMain]
    exact begun
  split
  · obtain ⟨since, r, u, eq⟩ := endSlew_chan s3 c
    rw [eq]
    exact good
  · exact good

/-! ### The other channel -/

theorem goodAtSetpoint_ne (s : State) {c k : Chan} (other : k ≠ c) : chan (goodAtSetpoint s c) k = chan s k := by
  obtain ⟨since, r, u, eq⟩ := goodAtSetpoint_eq s c
  rw [eq, chan_modChan_ne _ _ _ _ other]

theorem endSlew_ne (s : State) {c k : Chan} (other : k ≠ c) : chan (endSlew s c) k = chan s k := by
  rw [endSlew_eq, goodAtSetpoint_ne _ other, arrived, chan_skipIfMain, placeRef_eq, setRef,
    chan_modChan_ne _ _ _ _ other, chan_modChan_ne _ _ _ _ other]

theorem startSlew_ne (s : State) {c k : Chan} (i : Fin 8) (other : k ≠ c) : chan (startSlew s c i) k = chan s k := by
  unfold startSlew
  extract_lets s1 sp r s2 g2 s3
  have h2 : chan s2 k = chan s k := (chan_modChan_ne _ _ _ _ other).trans (moveRef_ne _ other)
  have h3 : chan s3 k = chan s k :=
    (goodAtSetpoint_ne (skipIfMain s2 c) other).trans ((chan_skipIfMain ..).trans h2)
  split
  · exact (endSlew_ne _ other).trans h3
  · exact h3

end Sys2Proof.Proofs

/-! ## The start of a channel (Sequence RGS-1, file 11) -/

namespace Sys2Proof.Proofs

open Sys2Proof Sys2Proof.Machine

theorem roundFree_state (s : State) (n d : Int) : ∃ k, (roundFree s n d).2 = { s with free := k } := by
  unfold roundFree
  split
  · exact ⟨s.free, rfl⟩
  · exact ⟨s.free + 1, rfl⟩

theorem dutyFf_state (s : State) (c : Chan) (ref vin : Nat) : ∃ k, (dutyFf s c ref vin).2 = { s with free := k } := by
  unfold dutyFf
  dsimp only
  split
  · exact ⟨s.free, rfl⟩
  · exact roundFree_state ..

theorem endAlarms_reg (s : State) (codes : List (BitVec 5)) (aux : Bool) : (endAlarms s codes aux).reg = s.reg := rfl

/-- A channel at the first LSB above its feedback, with histories at 0 and balls in MID, every available phase active. -/
structure RampBegun (s u : State) (c : Chan) (sp : Setpoint) (v : Nat) : Prop where
  phase : (chan u c).phase = .ramp
  diode : (chan u c).diode = true
  target : (chan u c).target = spMicro sp
  idx : (chan u c).idx = (chan s c).sel
  sel : (chan u c).sel = (chan s c).sel
  vloc : (chan u c).vloc = (chan s c).vloc
  e : (chan u c).e = Vector.replicate 3 0
  y : (chan u c).y = Vector.replicate 3 0
  own : (chan u c).own = v
  ref : (chan u c).ref = refFor u c v
  tracks : tracks u = tracks s
  main : c = .main → u.reg.active = ringFrom s ∧ u.reg.pwm = Vector.replicate 6 .mid
  aux : c = .aux → u.reg.pwmA = .mid

/-- Where a ramp begins: the first LSB above the feedback, at most the setpoint. -/
def rampStart (sp : Setpoint) (fb : Nat) : Nat := min (spMicro sp) ((fb / lsbOf sp.high + 1) * lsbOf sp.high)

/-- The feedback that a start is measured on. -/
def startFeedback (s : State) (c : Chan) (m : StartReading) : Nat :=
  if c == .main && (chan s c).vloc then m.vloc else m.feedback

/-- The fields of a channel as its ramp begins, before its reference. -/
def rampFields (s : State) (c : Chan) (x : ChanSt) : ChanSt :=
  { x with
    phase := .ramp, target := spMicro (setpointOf s c (chan s c).sel), targetHigh := (setpointOf s c (chan s c).sel).high
    idx := x.sel, coef := coefOf s c x.sel, e := Vector.replicate 3 0, y := Vector.replicate 3 0, diode := true
    heldLow := false }

/-- The phases and counts of a channel as its ramp begins. -/
def rampPhases (s : State) (c : Chan) (vloc : Bool) : State :=
  match c with
  | .main =>
    let s0 := { s with
      reg.active := [], reg.underCount := 0
      reg.trunc := vgen 7 fun k => if k < 6 then 0 else vget s.reg.trunc 0 k
      reg.pulse := { s.reg.pulse with slots := [], pos := 0 } }
    let s0 := setSet s0 (ringFrom s0)
    if vloc then s0 else endAlarms s0 [5] false
  | .aux =>
    let s0 := { s with reg.trunc := vset s.reg.trunc 6 0, reg.pulse.auxIn := none }
    { s0 with reg.vtrk := trackTarget s0 }

/-- A channel whose reference stands where the ramp begins. -/
def rampPlaced (s : State) (c : Chan) (v : Nat) : State :=
  placeRef (rampPhases (modChan s c (rampFields s c)) c (chan s c).vloc) c v (setpointOf s c (chan s c).sel).high

/-- D of a channel as its ramp begins, its balls in MID. -/
def rampDuty (s : State) (c : Chan) (d : Nat) : State :=
  setPwm (endPulses (modChan s c fun y => { y with d := d, dOld := d, withheld := tripped s c }) c) c .mid

theorem rampPhases_chan (s : State) (c : Chan) (vloc : Bool) : chan (rampPhases s c vloc) c = chan s c := by
  cases c
  · unfold rampPhases
    dsimp only
    split <;> rfl
  · rfl

theorem rampPhases_main (s : State) (vloc : Bool) : (rampPhases s .main vloc).reg.active = ringFrom s := by
  unfold rampPhases
  dsimp only
  split <;> rfl

theorem rampPhases_tracks (s : State) (c : Chan) (vloc : Bool) : tracks (rampPhases s c vloc) = tracks s := by
  cases c
  · unfold rampPhases
    dsimp only
    split <;> rfl
  · rfl

theorem rampPlaced_chan (s : State) (c : Chan) (v : Nat) : chan (rampPlaced s c v) c =
    { rampFields s c (chan s c) with
      own := v, ref := refFor (rampPlaced s c v) c v, high := (setpointOf s c (chan s c).sel).high } := by
  have same : refFor (rampPlaced s c v) c v =
      refFor (rampPhases (modChan s c (rampFields s c)) c (chan s c).vloc) c v := by
    unfold rampPlaced
    rw [placeRef_eq]
    cases c <;> rfl
  rw [same]
  unfold rampPlaced
  rw [placeRef_eq, chan_setRef, rampPhases_chan, chan_modChan_same]

theorem beginRamp_eq (s : State) (c : Chan) (m : StartReading) : ∃ n d, beginRamp s c m =
    if spMicro (setpointOf s c (chan s c).sel) ≤ startFeedback s c m then
      endRamp (rampDuty { rampPlaced s c (rampStart (setpointOf s c (chan s c).sel) (startFeedback s c m)) with free := n } c d) c
    else rampDuty { rampPlaced s c (rampStart (setpointOf s c (chan s c).sel) (startFeedback s c m)) with free := n } c d := by
  obtain ⟨n, duty⟩ := dutyFf_state (rampPlaced s c (rampStart (setpointOf s c (chan s c).sel) (startFeedback s c m))) c
    (chan (rampPlaced s c (rampStart (setpointOf s c (chan s c).sel) (startFeedback s c m))) c).ref m.vin
  have begins : beginRamp s c m =
      match dutyFf (rampPlaced s c (rampStart (setpointOf s c (chan s c).sel) (startFeedback s c m))) c
        (chan (rampPlaced s c (rampStart (setpointOf s c (chan s c).sel) (startFeedback s c m))) c).ref m.vin with
      | (ff, s4) =>
        if spMicro (setpointOf s c (chan s c).sel) ≤ startFeedback s c m then
          endRamp (rampDuty s4 c (clampInt 0 (dMax s4 c) ff).toNat) c
        else rampDuty s4 c (clampInt 0 (dMax s4 c) ff).toNat := rfl
  rw [begins]
  rcases h : dutyFf (rampPlaced s c (rampStart (setpointOf s c (chan s c).sel) (startFeedback s c m))) c
    (chan (rampPlaced s c (rampStart (setpointOf s c (chan s c).sel) (startFeedback s c m))) c).ref m.vin with ⟨ff, s4⟩
  rw [h] at duty
  dsimp only at duty
  subst duty
  exact ⟨n, _, rfl⟩

/-- The state as the ramp begins, its free values and D apart, is as `RampBegun` says. -/
theorem rampDuty_begun (s : State) (c : Chan) (v n d : Nat) :
    RampBegun s (rampDuty { rampPlaced s c v with free := n } c d) c (setpointOf s c (chan s c).sel) v := by
  have at_ : chan (rampDuty { rampPlaced s c v with free := n } c d) c =
      { chan (rampPlaced s c v) c with d := d, dOld := d, withheld := tripped { rampPlaced s c v with free := n } c } := by
    unfold rampDuty
    rw [chan_setPwm, chan_endPulses, chan_modChan_same]
    cases c <;> rfl
  have tracked : tracks (rampDuty { rampPlaced s c v with free := n } c d) = tracks s := by
    have phases := rampPhases_tracks (modChan s c (rampFields s c)) c (chan s c).vloc
    unfold rampPlaced
    rw [placeRef_eq]
    cases c <;> exact phases
  have placed : refFor (rampDuty { rampPlaced s c v with free := n } c d) c v = refFor (rampPlaced s c v) c v := by
    cases c <;> rfl
  rw [rampPlaced_chan] at at_
  refine { phase := ?_, diode := ?_, target := ?_, idx := ?_, sel := ?_, vloc := ?_, e := ?_, y := ?_, own := ?_, ref := ?_,
           tracks := tracked, main := ?_, aux := ?_ }
  · rw [at_]; rfl
  · rw [at_]; rfl
  · rw [at_]; rfl
  · rw [at_]; rfl
  · rw [at_]; rfl
  · rw [at_]; rfl
  · rw [at_]; rfl
  · rw [at_]; rfl
  · rw [at_]
  · rw [at_, placed]
  · rintro rfl
    refine ⟨?_, rfl⟩
    exact (rampPhases_main (modChan s .main (rampFields s .main)) (chan s .main).vloc)
  · rintro rfl
    rfl

theorem beginRamp_begun (s : State) (c : Chan) (m : StartReading) :
    ∃ u, RampBegun s u c (setpointOf s c (chan s c).sel) (rampStart (setpointOf s c (chan s c).sel) (startFeedback s c m)) ∧
      beginRamp s c m = if spMicro (setpointOf s c (chan s c).sel) ≤ startFeedback s c m then endRamp u c else u := by
  obtain ⟨n, d, eq⟩ := beginRamp_eq s c m
  exact ⟨_, rampDuty_begun .., eq⟩

/-! ### The end of a ramp -/

theorem arrived_reg_others (s : State) (c : Chan) (f : ChanSt → ChanSt) : (arrived s c f).reg.active = s.reg.active ∧
    (arrived s c f).reg.pwm = s.reg.pwm ∧ (arrived s c f).reg.pwmA = s.reg.pwmA := by
  unfold arrived skipIfMain
  rw [placeRef_eq]
  cases c <;> exact ⟨rfl, rfl, rfl⟩

/-- A ramp that ends at its setpoint, its selection unchanged. -/
theorem endRamp_of_selected {s : State} {c : Chan} (same : (chan s c).sel = (chan s c).idx) :
    endRamp s c = arrived s c fun x => { x with phase := .regulating, diode := false } := by
  have stays : (chan (arrived s c fun x => { x with phase := .regulating, diode := false }) c).sel =
      (chan (arrived s c fun x => { x with phase := .regulating, diode := false }) c).idx := by
    rw [arrived_chan]
    exact same
  exact if_pos stays

theorem endRamp_of_other {s : State} {c : Chan} (other : (chan s c).sel ≠ (chan s c).idx) :
    endRamp s c = startSlew (arrived s c fun x => { x with phase := .regulating, diode := false }) c (chan s c).sel := by
  have at_ := arrived_chan s c fun x => { x with phase := .regulating, diode := false }
  have moves : (chan (arrived s c fun x => { x with phase := .regulating, diode := false }) c).sel ≠
      (chan (arrived s c fun x => { x with phase := .regulating, diode := false }) c).idx := by
    rw [at_]
    exact other
  refine (if_neg moves).trans ?_
  exact congrArg _ (congrArg ChanSt.sel at_ : _)

/-- A channel started on some feedback: in its ramp below the setpoint, else at it. -/
structure Started (s t : State) (c : Chan) (sp : Setpoint) (fb : Nat) : Prop where
  vloc : (chan t c).vloc = (chan s c).vloc
  idx : (chan t c).idx = (chan s c).sel
  target : (chan t c).target = spMicro sp
  e : (chan t c).e = Vector.replicate 3 0
  y : (chan t c).y = Vector.replicate 3 0
  main : c = .main → t.reg.active = ringFrom s ∧ ∀ k : Fin 6, t.reg.pwm[k] = .mid
  aux : c = .aux → t.reg.pwmA = .mid
  below : fb < spMicro sp → (chan t c).phase = .ramp ∧ (chan t c).diode = true ∧ (chan t c).own = rampStart sp fb
  above : spMicro sp ≤ fb → (chan t c).phase = .regulating ∧ (chan t c).diode = false ∧ (chan t c).own = spMicro sp
  untracked : c = .main ∨ tracks s = false → (chan t c).ref = (chan t c).own
  ref : (chan t c).ref ≤ (chan t c).own

theorem beginRamp_started (s : State) (c : Chan) (m : StartReading) :
    Started s (beginRamp s c m) c (setpointOf s c (chan s c).sel) (startFeedback s c m) := by
  obtain ⟨u, begun, eq⟩ := beginRamp_begun s c m
  have mids : ∀ {t : State}, t.reg.pwm = Vector.replicate 6 .mid → ∀ k : Fin 6, t.reg.pwm[k] = .mid := fun same k => by
    rw [same]
    exact Vector.getElem_replicate _
  have untracked : ∀ {v}, c = .main ∨ tracks s = false → refFor u c v = v := fun free =>
    refFor_of_untracked _ (free.imp_right begun.tracks.trans)
  by_cases high : spMicro (setpointOf s c (chan s c).sel) ≤ startFeedback s c m
  · rw [if_pos high, endRamp_of_selected (begun.sel.trans begun.idx.symm)] at eq
    have at_ := arrived_chan u c fun x => { x with phase := .regulating, diode := false }
    obtain ⟨active, pwm, pwmA⟩ := arrived_reg_others u c fun x => { x with phase := .regulating, diode := false }
    rw [eq]
    exact {
      vloc := by rw [at_]; exact begun.vloc
      idx := by rw [at_]; exact begun.idx
      target := by rw [at_]; exact begun.target
      e := by rw [at_]; exact begun.e
      y := by rw [at_]; exact begun.y
      main := fun h => ⟨active.trans (begun.main h).1, mids (pwm.trans (begun.main h).2)⟩
      aux := fun h => pwmA.trans (begun.aux h)
      below := fun low => absurd high (Nat.not_le.mpr low)
      above := fun _ => by rw [at_]; exact ⟨rfl, rfl, begun.target⟩
      untracked := fun free => by rw [at_]; exact untracked free
      ref := by rw [at_]; exact refFor_le .. }
  · rw [if_neg high] at eq
    rw [eq]
    exact {
      vloc := begun.vloc
      idx := begun.idx
      target := begun.target
      e := begun.e
      y := begun.y
      main := fun h => ⟨(begun.main h).1, mids (begun.main h).2⟩
      aux := begun.aux
      below := fun _ => ⟨begun.phase, begun.diode, begun.own⟩
      above := fun h => absurd h high
      untracked := fun free => begun.ref.trans ((untracked free).trans begun.own.symm)
      ref := by rw [begun.ref, begun.own]; exact refFor_le .. }

end Sys2Proof.Proofs

/-! ## Start, ramp, slew and PGOOD (file 11) -/

namespace Sys2Proof.Proofs

open Sys2Proof Sys2Proof.Machine

theorem moveRef_chan (s : State) (c : Chan) : ∃ own ref high, chan (moveRef s c) c =
    { chan s c with own := own, ref := ref, high := high } := by
  obtain ⟨own, ref, high, n, eq⟩ := moveRef_eq s c
  refine ⟨own, ref, high, ?_⟩
  rw [eq]
  exact (by cases c <;> rfl : _ = chan (setRef s c own ref high) c).trans (chan_setRef ..)

theorem moveRef_phase (s : State) (c : Chan) : (chan (moveRef s c) c).phase = (chan s c).phase := by
  obtain ⟨own, ref, high, at_⟩ := moveRef_chan s c
  rw [at_]

/-- A record of a channel whose reference does not move leaves the regulator. -/
theorem capture_reg_of_still {s : State} {c : Chan} (code : BitVec 5) (phase : Nat) (toFault : Bool) (snap : Snap)
    (still : (chan s c).phase ≠ .ramp ∧ (chan s c).phase ≠ .slewing ∧ (chan s c).phase ≠ .stopping) :
    (capture s code phase c toFault snap []).reg = s.reg := by
  unfold capture
  dsimp only
  split
  · rfl
  · exact (congrArg State.reg (moveRef_still still) :)

/-- CHANNEL_START waits for a channel that may start, which does not switch. -/
theorem startOk_phase {s : State} {c : Chan} (may : startOk s c = true) : (chan s c).phase = .notSwitching := by
  unfold startOk at may
  simp only [Bool.and_eq_true, beq_iff_eq] at may
  exact may.1.1.1.1.1.1.1.1.1.1

/-- A sense loss of a main channel that does not switch moves its feedback to VLOC, and nothing else of the regulator. -/
theorem moveToVloc_reg {s : State} (snap : Snap) (idle : (chan s .main).phase = .notSwitching) :
    (moveToVloc s snap).reg = { s.reg with main := { s.reg.main with vloc := true } } := by
  unfold moveToVloc
  split
  · next h => rw [← h]
  · have reg := capture_reg_of_still (s := s) (c := .main) 0x05 0 false snap (by rw [idle]; decide)
    change { (capture s 0x05 0 .main false snap []).reg with
      main := { (capture s 0x05 0 .main false snap []).reg.main with vloc := true } } = _
    rw [reg]

theorem moveToVloc_reel (s : State) (snap : Snap) : (moveToVloc s snap).reel = s.reel := (moveToVloc_only s snap).same .reel rfl

/-! ### The cases of CHANNEL_START -/

theorem exec_channelStart_feedback {s : State} {c : Chan} (m : StartReading) (snap : Snap) (may : startOk s c = true)
    (inWindow : (c == .main && monEnabled s 3 && !m.wm03In) = false) :
    exec (.channelStart c m snap) s = .next (beginRamp (modChan s c fun x => { x with vloc := false }) c m) :=
  congrArg Host.Outcome.next ((if_neg (by simp [may])).trans (if_neg (by simp [inWindow])))

theorem exec_channelStart_vloc {s : State} {c : Chan} (m : StartReading) (snap : Snap) (may : startOk s c = true)
    (outside : (c == .main && monEnabled s 3 && !m.wm03In) = true) :
    exec (.channelStart c m snap) s = .next (if m.vlocOk then beginRamp (moveToVloc s snap) c m
      else modChan (capture (moveToVloc s snap) 0x06 0 .main true snap []) .main fun x => { x with phase := .latched }) :=
  congrArg Host.Outcome.next ((if_neg (by simp [may])).trans (if_pos outside))

theorem startFeedback_vloc {s : State} {c : Chan} (m : StartReading) : startFeedback s c m =
    if (c == .main && (chan s c).vloc) = true then m.vloc else m.feedback := rfl

/-- A start on the sense lines. -/
theorem started_on_feedback (s : State) (c : Chan) (m : StartReading) :
    Started (modChan s c fun x => { x with vloc := false })
      (beginRamp (modChan s c fun x => { x with vloc := false }) c m) c (setpointOf s c (chan s c).sel) m.feedback := by
  have start := beginRamp_started (modChan s c fun x => { x with vloc := false }) c m
  have fb : startFeedback (modChan s c fun x => { x with vloc := false }) c m = m.feedback :=
    if_neg (by rw [chan_modChan_same]; simp)
  rw [fb] at start
  cases c <;> exact start

/-- A start on VLOC. -/
theorem started_on_vloc {s : State} (m : StartReading) (snap : Snap) (idle : (chan s .main).phase = .notSwitching) :
    Started (moveToVloc s snap) (beginRamp (moveToVloc s snap) .main m) .main (setpointOf s .main (chan s .main).sel)
      m.vloc := by
  have start := beginRamp_started (moveToVloc s snap) .main m
  have reg := moveToVloc_reg snap idle
  have sel : (chan (moveToVloc s snap) .main).sel = (chan s .main).sel :=
    (congrArg (fun r : Reg => r.main.sel) reg :)
  have vloc : (chan (moveToVloc s snap) .main).vloc = true :=
    (congrArg (fun r : Reg => r.main.vloc) reg :)
  have fb : startFeedback (moveToVloc s snap) .main m = m.vloc := if_pos (by rw [vloc]; rfl)
  have set : setpointOf (moveToVloc s snap) .main (chan (moveToVloc s snap) .main).sel =
      setpointOf s .main (chan s .main).sel := by
    unfold setpointOf
    rw [moveToVloc_reel, sel]
  rw [fb, set] at start
  exact start

/-- What a start says of the state before it holds where only the feedback moved. -/
theorem Started.of_vloc {s u t : State} {c : Chan} {sp : Setpoint} {fb : Nat} (h : Started u t c sp fb)
    (sel : (chan u c).sel = (chan s c).sel) (ring_ : c = .main → ringFrom u = ringFrom s) (tracked : tracks u = tracks s)
    {vl : Bool} (vloc : (chan u c).vloc = vl) :
    (chan t c).vloc = vl ∧ (chan t c).idx = (chan s c).sel ∧ (chan t c).target = spMicro sp ∧
      (chan t c).e = Vector.replicate 3 0 ∧ (chan t c).y = Vector.replicate 3 0 ∧
      (c = .main → t.reg.active = ringFrom s ∧ ∀ k : Fin 6, t.reg.pwm[k] = .mid) ∧ (c = .aux → t.reg.pwmA = .mid) ∧
      (fb < spMicro sp → (chan t c).phase = .ramp ∧ (chan t c).diode = true ∧
        (chan t c).own = min (spMicro sp) ((fb / lsbOf sp.high + 1) * lsbOf sp.high)) ∧
      (spMicro sp ≤ fb → (chan t c).phase = .regulating ∧ (chan t c).diode = false ∧ (chan t c).own = spMicro sp) ∧
      (c = .main ∨ tracks s = false → (chan t c).ref = (chan t c).own) ∧ (chan t c).ref ≤ (chan t c).own :=
  ⟨h.vloc.trans vloc, h.idx.trans sel, h.target, h.e, h.y, fun m => ⟨(h.main m).1.trans (ring_ m), (h.main m).2⟩, h.aux,
    h.below, h.above, fun free => h.untracked (free.imp_right tracked.trans), h.ref⟩

/-! ### PGOOD -/

/-- PGOOD of a channel that is inside its rail window. -/
def pgoodRises (s : State) (c : Chan) : State :=
  let s1 := modChan s c fun y => { y with pgood := true, goodSince := some s.now, hiccupArmed := true }
  let s2 := match c with
    | .main => { s1 with act.main := RailTry.idle }
    | .aux => { s1 with act.aux := RailTry.idle }
  endAlarms s2 [1, 2, 3] (c == .aux)

theorem exec_pgoodAssert (s : State) (c : Chan) (fb : Nat) : exec (.pgoodAssert c fb) s = .next
    (if !(chan (moveRef s c) c).pgood &&
        ((chan (moveRef s c) c).phase = .regulating || (chan (moveRef s c) c).phase = .slewing) &&
        atSetpoint (moveRef s c) c && inWindow (moveRef s c) c fb then pgoodRises (moveRef s c) c
      else moveRef s c) := rfl

theorem exec_pgoodDeassert (s : State) (c : Chan) (fb : Nat) : exec (.pgoodDeassert c fb) s = .next
    (if (chan (moveRef s c) c).pgood && !inWindow (moveRef s c) c fb then dropPgood (moveRef s c) c
      else moveRef s c) := rfl

theorem pgoodRises_only (s : State) (c : Chan) : Only [.act, .reg, .prot] s (pgoodRises s c) := by
  unfold pgoodRises
  extract_lets s1 a2 s2
  have h1 : Only [.act, .reg, .prot] s s1 := (modChan_only ..).mono rfl
  have h2 : Only [.act, .reg, .prot] s s2 := by
    unfold s2
    split
    · exact Only.set_act h1 _ rfl
    · exact Only.set_act h1 _ rfl
  exact h2.post (endAlarms_only ..) rfl

/-- PGOOD rises in a channel that regulates or slews, and only at its setpoint and inside its window. -/
theorem pgoodAssert_effect {s : State} (c : Chan) (fb : Nat) (low : (chan s c).pgood = false)
    (runs : (chan s c).phase = .regulating ∨ (chan s c).phase = .slewing) :
    ∃ t, exec (.pgoodAssert c fb) s = .next t ∧
      (chan t c).pgood = (atSetpoint (moveRef s c) c && inWindow (moveRef s c) c fb) ∧
      atSetpoint t c = atSetpoint (moveRef s c) c ∧ inWindow t c fb = inWindow (moveRef s c) c fb ∧
      ((chan t c).pgood = true → railTry t c = RailTry.idle) ∧ (chan t c).phase = (chan s c).phase ∧
      Only [.free, .act, .reg, .prot] s t := by
  have pgood : (chan (moveRef s c) c).pgood = false := (moveRef_pgood s c).trans low
  have phase : (chan (moveRef s c) c).phase = (chan s c).phase := moveRef_phase s c
  have moves : Only [.free, .act, .reg, .prot] s (moveRef s c) := (moveRef_only s c).mono rfl
  refine ⟨_, exec_pgoodAssert s c fb, ?_⟩
  by_cases good : (atSetpoint (moveRef s c) c && inWindow (moveRef s c) c fb) = true
  · have fires : (!(chan (moveRef s c) c).pgood &&
        ((chan (moveRef s c) c).phase = .regulating || (chan (moveRef s c) c).phase = .slewing) &&
        atSetpoint (moveRef s c) c && inWindow (moveRef s c) c fb) = true := by
      obtain ⟨set, win⟩ := Bool.and_eq_true_iff.mp good
      rcases runs with h | h <;> simp [pgood, phase, h, set, win]
    rw [if_pos fires, good]
    refine ⟨by cases c <;> rfl, by cases c <;> rfl, by cases c <;> rfl, fun _ => by cases c <;> rfl, ?_,
      moves.post (pgoodRises_only ..) rfl⟩
    rw [← phase]
    cases c <;> rfl
  · have fails : ¬ (!(chan (moveRef s c) c).pgood &&
        ((chan (moveRef s c) c).phase = .regulating || (chan (moveRef s c) c).phase = .slewing) &&
        atSetpoint (moveRef s c) c && inWindow (moveRef s c) c fb) = true := fun h => good (by
      simp only [Bool.and_eq_true] at h ⊢
      exact ⟨h.1.2, h.2⟩)
    rw [if_neg fails, pgood, Bool.eq_false_iff.mpr good]
    exact ⟨rfl, rfl, rfl, Bool.noConfusion, phase, moves⟩

/-- PGOOD of a channel that leaves its window. -/
theorem pgoodDeassert_effect {s : State} (c : Chan) (fb : Nat) (good : (chan s c).pgood = true) :
    ∃ t, exec (.pgoodDeassert c fb) s = .next t ∧ (chan t c).pgood = inWindow (moveRef s c) c fb ∧
      inWindow t c fb = inWindow (moveRef s c) c fb ∧ (chan t c).phase = (chan s c).phase ∧ Only [.free, .reg] s t := by
  have pgood : (chan (moveRef s c) c).pgood = true := (moveRef_pgood s c).trans good
  have phase : (chan (moveRef s c) c).phase = (chan s c).phase := moveRef_phase s c
  refine ⟨_, exec_pgoodDeassert s c fb, ?_⟩
  cases win : inWindow (moveRef s c) c fb with
  | true =>
    rw [if_neg (by simp)]
    exact ⟨pgood, win, phase, moveRef_only s c⟩
  | false =>
    rw [if_pos (by simp [pgood]), ← win]
    refine ⟨?_, by cases c <;> rfl, ?_, (moveRef_only s c).post (dropPgood_only ..) rfl⟩
    · rw [win, dropPgood, chan_modChan_same]
    · rw [dropPgood, chan_modChan_same]
      exact phase

theorem pgoodAssert_idle {s : State} {c : Chan} (fb : Nat) (noRun : (chan s c).phase ≠ .regulating)
    (noSlew : (chan s c).phase ≠ .slewing) : exec (.pgoodAssert c fb) s = .next (moveRef s c) := by
  have phase : (chan (moveRef s c) c).phase = (chan s c).phase := moveRef_phase s c
  exact (exec_pgoodAssert s c fb).trans (congrArg _ (if_neg (by simp [phase, noRun, noSlew])))

/-- Settles O44: the start of a channel from its first LSB to PGOOD. -/
theorem channelStartsAndRegulates : Obligations.ChannelStartsAndRegulates := by
  intro c s
  refine ⟨fun m snap sp vl fb may isVl isSp isFb => ⟨fun ok => ?_, fun lost bad => ?_⟩, fun m snap may => ?_, fun ramps => ?_,
    fun slews => ?_, fun fb => ⟨fun low runs => ?_, fun good => ?_, fun noRun noSlew => ?_⟩⟩
  · subst isSp
    cases vl with
    | false =>
      refine ⟨_, exec_channelStart_feedback m snap may isVl.symm, ?_⟩
      have start := started_on_feedback s c m
      rw [isFb]
      exact start.of_vloc (by rw [chan_modChan_same]) (by rintro rfl; rfl) (by cases c <;> rfl) (by rw [chan_modChan_same])
    | true =>
      have main : c = .main := by
        cases c
        · rfl
        · cases isVl
      subst main
      have idle := startOk_phase may
      have reg := moveToVloc_reg snap idle
      refine ⟨_, (exec_channelStart_vloc m snap may isVl.symm).trans (congrArg _ (if_pos (ok.resolve_left (by decide)))), ?_⟩
      rw [isFb]
      refine (started_on_vloc m snap idle).of_vloc (congrArg (fun r : Reg => r.main.sel) reg :) (fun _ => ?_) ?_
        (congrArg (fun r : Reg => r.main.vloc) reg :)
      · unfold ringFrom ring
        rw [reg]
      · unfold tracks
        rw [reg]
  · subst lost
    have main : c = .main := by
      cases c
      · rfl
      · cases isVl
    subst main
    refine ⟨_, (exec_channelStart_vloc m snap may isVl.symm).trans (congrArg _ (if_neg (by simp [bad]))), ?_⟩
    rw [chan_modChan_same]
  · exact congrArg Host.Outcome.next (if_pos (by simp [may]))
  · refine ⟨_, congrArg Host.Outcome.next (if_pos ramps), ?_⟩
    by_cases same : (chan s c).sel = (chan s c).idx
    · rw [endRamp_of_selected same, arrived_chan]
      exact ⟨rfl, same.symm, fun _ => ⟨rfl, rfl, rfl, fun main => refFor_of_untracked _ (.inl main)⟩⟩
    · rw [endRamp_of_other same]
      obtain ⟨idx, _, diode⟩ := startSlew_chan (arrived s c fun x => { x with phase := .regulating, diode := false }) c
        (chan s c).sel
      refine ⟨diode.trans ?_, idx, fun h => absurd h same⟩
      rw [arrived_chan]
  · refine ⟨_, congrArg Host.Outcome.next (if_pos slews), ?_⟩
    obtain ⟨since, r, u, at_⟩ := endSlew_chan s c
    rw [at_]
    exact ⟨rfl, rfl, fun main => refFor_of_untracked _ (.inl main), rfl⟩
  · obtain ⟨t, run, pgood, set, win, tries, phase, frame⟩ := pgoodAssert_effect c fb low runs
    refine ⟨t, run, by rw [set, win]; exact pgood, tries, phase, fun regulates => ?_, frame⟩
    rw [pgood, moveRef_still (by rw [regulates]; decide)]
  · obtain ⟨t, run, pgood, win, phase, frame⟩ := pgoodDeassert_effect c fb good
    refine ⟨t, run, pgood.trans win.symm, phase, fun regulates => ?_, frame⟩
    rw [pgood, moveRef_still (by rw [regulates]; decide)]
  · exact ⟨_, pgoodAssert_idle fb noRun noSlew, moveRef_pgood s c, moveRef_only s c⟩

end Sys2Proof.Proofs

/-! ## Selections, enables, the clock and tracking (file 11) -/

namespace Sys2Proof.Proofs

open Sys2Proof Sys2Proof.Machine

/-! ### Selections -/

theorem selectIndex_ne (s : State) {c k : Chan} (i : Fin 8) (other : k ≠ c) : chan (selectIndex s c i) k = chan s k := by
  have marked : chan (modChan s c fun y => { y with sel := i }) k = chan s k := chan_modChan_ne _ _ _ _ other
  have slews : chan (if i = (chan s c).sel || !spValid (setpointOf s c i) then s else startSlew s c i) k = chan s k := by
    split
    · rfl
    · exact startSlew_ne _ _ other
  unfold selectIndex
  dsimp only
  split
  · rfl
  split
  · exact slews
  · exact slews
  · split
    · exact marked
    · rfl
  · exact marked

theorem selectIndex_warm {s : State} {c : Chan} (i : Fin 8) (warm : (chan s c).warm = true) : selectIndex s c i = s :=
  if_pos warm

/-- A valid selection is taken. -/
theorem selectIndex_valid {s : State} {c : Chan} {i : Fin 8} (cold : (chan s c).warm = false)
    (valid : spValid (setpointOf s c i) = true) : (chan (selectIndex s c i) c).sel = i := by
  have slews : (chan (if i = (chan s c).sel || !spValid (setpointOf s c i) then s else startSlew s c i) c).sel = i := by
    by_cases same : i = (chan s c).sel
    · rw [if_pos (by simp [← same])]
      exact same.symm
    · rw [if_neg (by simp [same, valid])]
      exact (startSlew_chan s c i).2.1
  unfold selectIndex
  dsimp only
  rw [if_neg (by simp [cold])]
  split
  · exact slews
  · exact slews
  · rw [if_pos valid, chan_modChan_same]
  · rw [chan_modChan_same]

/-- An invalid selection leaves a channel that runs, and is recorded in one that does not. -/
theorem selectIndex_invalid {s : State} {c : Chan} {i : Fin 8} (cold : (chan s c).warm = false)
    (invalid : spValid (setpointOf s c i) = false) : chan (selectIndex s c i) c =
      if (chan s c).phase = .regulating ∨ (chan s c).phase = .slewing ∨ (chan s c).phase = .ramp then chan s c
      else { chan s c with sel := i } := by
  unfold selectIndex
  dsimp only
  rw [if_neg (by simp [cold])]
  split
  · next h => rw [if_pos (by simp [invalid]), if_pos (.inl h)]
  · next h => rw [if_pos (by simp [invalid]), if_pos (.inr (.inl h))]
  · next h => rw [if_neg (by simp [invalid]), if_pos (.inr (.inr h))]
  · next noRun noSlew noRamp =>
    rw [chan_modChan_same, if_neg]
    rintro (h | h | h)
    · exact noRun h
    · exact noSlew h
    · exact noRamp h

theorem exec_vselChange (v : Fin 8) (s : State) : exec (.vselChange v) s = .next (selectIndex
    (selectIndex { s with pins.vsel := v } .main (wantedIndex { s with pins.vsel := v } .main)) .aux
    (wantedIndex { s with pins.vsel := v } .aux)) := rfl

/-- How a channel takes an index that is wanted. -/
structure TakesIndex (s t : State) (c : Chan) (k : Fin 8) : Prop where
  warm : (chan s c).warm = true → chan t c = chan s c
  valid : (chan s c).warm = false → spValid (setpointOf s c k) = true → (chan t c).sel = k
  invalid : (chan s c).warm = false → spValid (setpointOf s c k) = false → chan t c =
    if (chan s c).phase = .regulating ∨ (chan s c).phase = .slewing ∨ (chan s c).phase = .ramp then chan s c
    else { chan s c with sel := k }

theorem selectIndex_takes (s : State) (c : Chan) (k : Fin 8) : TakesIndex s (selectIndex s c k) c k :=
  ⟨fun warm => by rw [selectIndex_warm k warm], selectIndex_valid, selectIndex_invalid⟩

theorem TakesIndex.of_same {s u t : State} {c : Chan} {k : Fin 8} (h : TakesIndex u t c k) (same : chan u c = chan s c)
    (reel : u.reel = s.reel) : TakesIndex s t c k := by
  have set : setpointOf u c k = setpointOf s c k := by unfold setpointOf; rw [reel]
  obtain ⟨warm, valid, invalid⟩ := h
  rw [same] at warm valid invalid
  rw [set] at valid invalid
  exact ⟨warm, valid, invalid⟩

/-- Each channel takes its own wanted index. -/
theorem vselChange_takes (v : Fin 8) (s : State) (c : Chan) : TakesIndex { s with pins.vsel := v }
    (selectIndex (selectIndex { s with pins.vsel := v } .main (wantedIndex { s with pins.vsel := v } .main)) .aux
      (wantedIndex { s with pins.vsel := v } .aux)) c (wantedIndex { s with pins.vsel := v } c) := by
  have main := selectIndex_takes { s with pins.vsel := v } .main (wantedIndex { s with pins.vsel := v } .main)
  have aux := selectIndex_takes (selectIndex { s with pins.vsel := v } .main (wantedIndex { s with pins.vsel := v } .main))
    .aux (wantedIndex { s with pins.vsel := v } .aux)
  have kept : chan (selectIndex { s with pins.vsel := v } .main (wantedIndex { s with pins.vsel := v } .main)) .aux =
      chan { s with pins.vsel := v } .aux := selectIndex_ne _ _ (by decide)
  cases c
  · have same := selectIndex_ne (selectIndex { s with pins.vsel := v } .main (wantedIndex { s with pins.vsel := v } .main))
      (c := .aux) (k := .main) (wantedIndex { s with pins.vsel := v } .aux) (by decide)
    exact ⟨fun warm => same.trans (main.warm warm), fun cold ok => (congrArg ChanSt.sel same).trans (main.valid cold ok),
      fun cold bad => same.trans (main.invalid cold bad)⟩
  · exact aux.of_same kept ((selectIndex_only ..).same .reel rfl)

/-! ### ENABLE_LOW -/

/-- The ball of a channel's enable is Low. -/
def enableFell (s : State) (c : Chan) : State :=
  match c with
  | .main => { s with pins.enM := false }
  | .aux => { s with pins.enA := false }

theorem exec_enableLow (s : State) (c : Chan) : exec (.enableLow c) s = .next
    (if switching (chan (enableFell s c) c) then
      modChan (stopChan (enableFell s c) c .notSwitching) c fun y => { y with warm := false }
    else if (chan (enableFell s c) c).phase = .latched then
      endLatch (modChan (enableFell s c) c fun y => { y with phase := .notSwitching, warm := false }) c
    else enableFell s c) := rfl

theorem enabled_of_pins {s t : State} (same : t.pins = s.pins) (c : Chan) : enabled t c = enabled s c := by
  unfold enabled
  rw [same]

theorem chan_enableFell (s : State) (c k : Chan) : chan (enableFell s c) k = chan s k := by cases c <;> cases k <;> rfl

theorem enableFell_low (s : State) (c : Chan) : enabled (enableFell s c) c = false := by cases c <;> rfl

/-- A channel that has stopped has its balls in MID, and the main one no active phase. -/
theorem stopChan_balls (s : State) (c : Chan) (ph : ChPhase) :
    (c = .main → (stopChan s c ph).reg.active = [] ∧ (stopChan s c ph).reg.pwm = Vector.replicate 6 .mid) ∧
      (c = .aux → (stopChan s c ph).reg.pwmA = .mid) := by
  refine ⟨?_, ?_⟩
  · rintro rfl
    exact ⟨rfl, rfl⟩
  · rintro rfl
    rfl

/-! ### The switching clock -/

theorem syncEdge_first {s : State} (x : Nat) (none_ : s.reg.clk.gap = none) :
    syncEdge s x = { s with reg.clk.edges := 1, reg.clk.gap := some 0 } := by
  unfold syncEdge
  rw [none_]

theorem syncEdge_accepted {s : State} {x g : Nat} (gap : s.reg.clk.gap = some g) (ok : edgeAccepted s (g + x) = true) :
    syncEdge s x = { s with reg.clk.edges := min 8 (s.reg.clk.edges + 1), reg.clk.gap := some 0 } := by
  unfold syncEdge
  rw [gap]
  exact if_pos ok

theorem syncEdge_refused {s : State} {x g : Nat} (gap : s.reg.clk.gap = some g) (bad : edgeAccepted s (g + x) = false) :
    syncEdge s x = { s with reg.clk.edges := 0, reg.clk.gap := some (g + x) } := by
  unfold syncEdge
  rw [gap]
  exact if_neg (by simp [bad])

/-- A run of accepted edges is counted to eight. -/
theorem syncEdges_accepted {l : List Nat} {s : State} (gap : s.reg.clk.gap = some 0) (few : s.reg.clk.edges ≤ 8)
    (ok : ∀ y ∈ l, edgeAccepted s y = true) :
    l.foldl syncEdge s = { s with reg.clk.edges := min 8 (s.reg.clk.edges + l.length), reg.clk.gap := some 0 } := by
  induction l generalizing s with
  | nil =>
    rw [List.length_nil, Nat.add_zero, Nat.min_eq_right few, ← gap]
    rfl
  | cons y rest ih =>
    have first := syncEdge_accepted gap (by rw [Nat.zero_add]; exact ok y List.mem_cons_self)
    rw [List.foldl_cons, first]
    refine (ih (s := { s with reg.clk.edges := min 8 (s.reg.clk.edges + 1), reg.clk.gap := some 0 }) rfl
      (Nat.min_le_left ..) fun z mem => ok z (List.mem_cons_of_mem _ mem)).trans ?_
    have count : min 8 (min 8 (s.reg.clk.edges + 1) + rest.length) = min 8 (s.reg.clk.edges + (y :: rest).length) := by
      rw [List.length_cons]
      omega
    exact congrArg (fun n => { s with reg.clk.edges := n, reg.clk.gap := some 0 }) count

theorem exec_syncLock {s : State} (l : List Nat) (ext : syncExternal (clockStraps s) = true) (runs : clockRuns s = true) :
    exec (.syncLock l) s = .next (if 8 ≤ (l.foldl syncEdge s).reg.clk.edges then
      match (l.foldl syncEdge s).reg.clock with
      | .internal => { l.foldl syncEdge s with reg.clock := .acquiring, reg.clk.freq := nominalHz (l.foldl syncEdge s) }
      | .gliding => { l.foldl syncEdge s with reg.clock := .acquiring }
      | .acquiring | .locked => l.foldl syncEdge s
    else l.foldl syncEdge s) :=
  congrArg Host.Outcome.next ((if_pos (by simp [ext, runs])).trans rfl)

/-! ### Tracking -/

/-- The sampled voltage of TRK. -/
def trkSampled (s : State) (uv : Nat) : State := { s with reg.trk := min uv 1650000 }

/-- V_trk moved toward what tracking allows, by at most so many LSBs. -/
def trkMoved (s : State) (steps : Nat) : State :=
  { s with reg.vtrk := toward s.reg.vtrk (trackTarget s) (steps * lsbOf s.reg.aux.high) }

theorem exec_trkChange {s : State} (uv steps : Nat) (has : present s 18 = true) (follows : tracks s = true) :
    exec (.trkChange uv steps) s = .next
      (if switching (trkMoved (moveRef (trkSampled s uv) .aux) steps).reg.aux then
        goodAtSetpoint (settleRef (trkMoved (moveRef (trkSampled s uv) .aux) steps) .aux) .aux
      else trkMoved (moveRef (trkSampled s uv) .aux) steps) :=
  congrArg Host.Outcome.next (if_neg (by simp [has, follows]))

/-- What a sample of TRK leaves of V_trk and of the auxiliary channel. -/
theorem trkChange_effect (s : State) (uv steps : Nat) (follows : tracks s = true) (t : State)
    (eq : t = if switching (trkMoved (moveRef (trkSampled s uv) .aux) steps).reg.aux then
        goodAtSetpoint (settleRef (trkMoved (moveRef (trkSampled s uv) .aux) steps) .aux) .aux
      else trkMoved (moveRef (trkSampled s uv) .aux) steps) :
    t.reg.trk = min uv 1650000 ∧
      t.reg.vtrk = toward s.reg.vtrk (trackTarget (trkSampled s uv)) (steps * lsbOf t.reg.aux.high) ∧
      (s.reg.aux.phase = .regulating → t.reg.aux.ref = min s.reg.aux.own t.reg.vtrk ∧ t.reg.aux.own = s.reg.aux.own ∧
        t.reg.aux.pgood = (s.reg.aux.pgood && atSetpoint t .aux)) := by
  have still : s.reg.aux.phase = .regulating → moveRef (trkSampled s uv) .aux = trkSampled s uv := fun h =>
    moveRef_still (c := .aux) (by change s.reg.aux.phase ≠ _ ∧ s.reg.aux.phase ≠ _ ∧ s.reg.aux.phase ≠ _; rw [h]; decide)
  obtain ⟨own, ref, high, n, moved⟩ := moveRef_eq (trkSampled s uv) .aux
  have trk : (moveRef (trkSampled s uv) .aux).reg.trk = min uv 1650000 ∧
      (moveRef (trkSampled s uv) .aux).reg.vtrk = s.reg.vtrk ∧
      trackTarget (moveRef (trkSampled s uv) .aux) = trackTarget (trkSampled s uv) := by
    rw [moved]
    exact ⟨rfl, rfl, rfl⟩
  obtain ⟨isTrk, isVtrk, target⟩ := trk
  by_cases runs : switching (trkMoved (moveRef (trkSampled s uv) .aux) steps).reg.aux = true
  · rw [if_pos runs] at eq
    have good := goodAtSetpoint_atSetpoint (settleRef (trkMoved (moveRef (trkSampled s uv) .aux) steps) .aux) .aux
    obtain ⟨since, r, u, falls⟩ := goodAtSetpoint_eq (settleRef (trkMoved (moveRef (trkSampled s uv) .aux) steps) .aux) .aux
    rw [← eq] at good falls
    have vtrk : t.reg.vtrk = (trkMoved (moveRef (trkSampled s uv) .aux) steps).reg.vtrk := by rw [falls]; rfl
    have isHigh : t.reg.aux.high = (moveRef (trkSampled s uv) .aux).reg.aux.high := by rw [falls]; rfl
    refine ⟨by rw [falls]; exact isTrk, ?_, fun regulates => ?_⟩
    · rw [vtrk, isHigh, ← isVtrk, ← target]
      rfl
    · rw [good, vtrk]
      have pgood : t.reg.aux.pgood = ((moveRef (trkSampled s uv) .aux).reg.aux.pgood &&
        atSetpoint (settleRef (trkMoved (moveRef (trkSampled s uv) .aux) steps) .aux) .aux) := by rw [falls]; rfl
      have isOwn : t.reg.aux.own = (moveRef (trkSampled s uv) .aux).reg.aux.own := by rw [falls]; rfl
      have isRef : t.reg.aux.ref =
        refFor (trkMoved (moveRef (trkSampled s uv) .aux) steps) .aux (moveRef (trkSampled s uv) .aux).reg.aux.own := by
        rw [falls]; rfl
      rw [pgood, isOwn, isRef, still regulates]
      exact ⟨if_pos follows, rfl, rfl⟩
  · rw [if_neg runs] at eq
    refine ⟨by rw [eq]; exact isTrk, ?_, fun regulates => absurd ?_ runs⟩
    · rw [eq, ← isVtrk, ← target]
      rfl
    · rw [still regulates]
      change switching s.reg.aux = true
      unfold switching
      rw [regulates]

/-- Settles O45: selections, the enables, the clock's edges and tracking. -/
theorem selectionEnablesClockTracking : Obligations.SelectionEnablesClockTracking := by
  refine ⟨fun v c s => ?_, fun c s => ?_, fun s => ⟨rfl, rfl⟩, fun first l s ext runs noGap seven ok calm => ?_,
    fun x g s ext runs gap bad => ?_, fun l s off => ?_, fun s => ?_, fun uv steps s has follows => ?_,
    fun uv steps s out => congrArg Host.Outcome.next (if_pos (by rcases out with h | h <;> simp [h]))⟩
  · obtain ⟨warm, valid, invalid⟩ := vselChange_takes v s c
    have pins := ((selectIndex_only { s with pins.vsel := v } .main (wantedIndex { s with pins.vsel := v } .main)).post
      (selectIndex_only _ .aux (wantedIndex { s with pins.vsel := v } .aux)) rfl).same .pins rfl
    refine ⟨_, exec_vselChange v s, pins, warm, ?_⟩
    rintro k rfl cold
    refine ⟨valid cold, fun bad => ⟨fun runs => ?_, fun noRun noSlew noRamp => ?_⟩⟩
    · exact (invalid cold bad).trans (if_pos runs)
    · refine (invalid cold bad).trans (if_neg ?_)
      rintro (h | h | h)
      · exact noRun h
      · exact noSlew h
      · exact noRamp h
  · refine ⟨_, exec_enableLow s c, ?_, fun switches => ?_, fun latched => ?_⟩
    · refine (enabled_of_pins ?_ c).trans (enableFell_low s c)
      split
      · exact ((stopChan_only ..).post (modChan_only ..) rfl).same .pins rfl
      · split
        · exact ((endLatch_only ..).same .pins rfl).trans ((modChan_only ..).same .pins rfl)
        · rfl
    · rw [if_pos (by rw [chan_enableFell]; exact switches), chan_modChan_same]
      obtain ⟨phase, pgood, _⟩ := stopChan_same (enableFell s c) c .notSwitching
      obtain ⟨main, aux⟩ := stopChan_balls (enableFell s c) c .notSwitching
      refine ⟨phase, pgood, rfl, ?_, ?_⟩
      · rintro rfl
        obtain ⟨active, pwm⟩ := main rfl
        exact ⟨active, fun k => (congrArg (·[k]) pwm).trans (Vector.getElem_replicate _)⟩
      · rintro rfl
        exact aux rfl
    · have idle : switching (chan (enableFell s c) c) = false := by
        rw [chan_enableFell]
        unfold switching
        rw [latched]
      rw [if_neg (by simp [idle]), if_pos (by rw [chan_enableFell]; exact latched)]
      exact (congrArg ChanSt.phase (by cases c <;> rfl : _ = chan (modChan (enableFell s c) c fun y =>
        { y with phase := .notSwitching, warm := false }) c)).trans (by rw [chan_modChan_same])
  · have counted : (first :: l).foldl syncEdge s = { s with reg.clk.edges := 8, reg.clk.gap := some 0 } := by
      rw [List.foldl_cons, syncEdge_first first noGap]
      refine (syncEdges_accepted (s := { s with reg.clk.edges := 1, reg.clk.gap := some 0 }) rfl (by change 1 ≤ 8; decide) ok).trans ?_
      rw [seven]
      rfl
    have run := exec_syncLock (first :: l) ext runs
    rw [counted, if_pos (Nat.le_refl 8)] at run
    rcases calm with internal | gliding
    · refine ⟨_, run.trans (by dsimp only; rw [internal] <;> rfl), rfl, rfl, Only.set_reg (Only.refl _ s) _ rfl, fun _ => rfl,
        fun h => absurd (internal.symm.trans h) (by decide)⟩
    · refine ⟨{ s with reg.clock := .acquiring, reg.clk.edges := 8, reg.clk.gap := some 0 },
        run.trans (by dsimp only; rw [gliding] <;> rfl), rfl, rfl, Only.set_reg (Only.refl _ s) _ rfl,
        fun h => absurd (gliding.symm.trans h) (by decide), fun _ => rfl⟩
  · have run := exec_syncLock [x] ext runs
    rw [List.foldl_cons, List.foldl_nil, syncEdge_refused gap bad] at run
    exact run
  · exact congrArg Host.Outcome.next (if_neg (by rcases off with h | h <;> simp [h]))
  · refine congrArg Host.Outcome.next ?_
    by_cases h : s.reg.clock = .locked ∨ s.reg.clock = .acquiring
    · rw [if_pos h, if_pos (by simpa using h)]
    · rw [if_neg h, if_neg (by simpa using h)]
  · obtain ⟨trk, vtrk, regulates⟩ := trkChange_effect s uv steps follows _ rfl
    refine ⟨_, exec_trkChange uv steps has follows, trk, ?_, vtrk, regulates⟩
    exact execTrkChange_only uv steps s _ (exec_trkChange uv steps has follows)

end Sys2Proof.Proofs

/-! ## The compensator's samples, the restore and diode emulation (file 12) -/

namespace Sys2Proof.Proofs

open Sys2Proof Sys2Proof.Machine

/-! ### Pulses run on -/

/-- Only the pulses, the balls and the count of free values have moved. -/
def PulsesMoved (s t : State) : Prop :=
  t = { s with free := t.free, reg := { s.reg with pwm := t.reg.pwm, pwmA := t.reg.pwmA, pulse := t.reg.pulse } }

theorem PulsesMoved.refl (s : State) : PulsesMoved s s := rfl

theorem PulsesMoved.trans {s t u : State} (h : PulsesMoved s t) (k : PulsesMoved t u) : PulsesMoved s u :=
  Eq.trans k (by rw [h])

theorem PulsesMoved.ite {p : Prop} [Decidable p] {s t u : State} (h : PulsesMoved s t) (k : PulsesMoved s u) :
    PulsesMoved s (if p then t else u) := by
  split
  · exact h
  · exact k

theorem PulsesMoved.foldl {α : Type} {g : State → α → State} (step : ∀ t x, PulsesMoved t (g t x)) (l : List α)
    {s t : State} (h : PulsesMoved s t) : PulsesMoved s (l.foldl g t) := by
  induction l generalizing t with
  | nil => exact h
  | cons x rest ih => exact ih (h.trans (step t x))

theorem putPwm_moved (s : State) (k : Nat) (v : Pwm) : PulsesMoved s (putPwm s k v) := .ite rfl rfl

theorem pulse_moved (s : State) (p : Pulses) : PulsesMoved s { s with reg.pulse := p } := rfl

theorem latchedDuty_moved (s : State) (c : Chan) (since : Nat) : PulsesMoved s (latchedDuty s c since).2 := by
  unfold latchedDuty
  dsimp only
  split
  · exact rfl
  · exact rfl

theorem risePhase_moved (s : State) (c : Chan) (k since ago : Nat) : PulsesMoved s (risePhase s c k since ago) := by
  have latched := latchedDuty_moved s c since
  unfold risePhase
  rcases h : latchedDuty s c since with ⟨d, s1⟩
  rw [h] at latched
  have pulsed : ∀ p : Pulses, PulsesMoved s { s1 with reg.pulse := p } := fun p => latched.trans rfl
  dsimp only
  split
  · split
    · exact pulsed _
    · exact (pulsed _).trans (putPwm_moved ..)
  · exact (pulsed _).trans (putPwm_moved ..)

theorem runPulse_moved (s : State) (k time : Nat) : PulsesMoved s (runPulse s k time) :=
  .ite ((pulse_moved ..).trans (putPwm_moved ..)) (pulse_moved ..)

theorem runPhase_moved (s : State) (from_ to_ k : Nat) : PulsesMoved s (runPhase s from_ to_ k) := by
  unfold runPhase
  extract_lets e s1
  have h1 : PulsesMoved s s1 := runPulse_moved ..
  split
  · exact h1
  · exact .ite (h1.trans (risePhase_moved ..)) h1

theorem runPhases_moved (s : State) (from_ to_ : Nat) : PulsesMoved s (runPhases s from_ to_) :=
  .foldl (fun t k => runPhase_moved t from_ to_ k) _ (.refl s)

theorem runToSample_moved (s : State) : PulsesMoved s (runToSample s) :=
  .ite (.refl s) ((runPhases_moved ..).trans (pulse_moved ..))

theorem runAuxToSample_moved (s : State) : PulsesMoved s (runAuxToSample s) := by
  unfold runAuxToSample
  extract_lets e s1
  have h1 : PulsesMoved s s1 := runPulse_moved ..
  split
  · exact h1
  · exact h1.trans (pulse_moved ..)
  · exact .ite ((h1.trans (pulse_moved ..)).trans (risePhase_moved ..)) (h1.trans (pulse_moved ..))

/-- The pulses of a channel come to the sample's place. -/
def toSample (s : State) (c : Chan) : State := match c with | .main => runToSample s | .aux => runAuxToSample s

theorem toSample_moved (s : State) (c : Chan) : PulsesMoved s (toSample s c) := by
  cases c
  · exact runToSample_moved s
  · exact runAuxToSample_moved s

/-! ### The state at a sample -/

theorem PulsesMoved.chan {s t : State} (h : PulsesMoved s t) (c : Chan) : chan t c = Machine.chan s c := by
  rw [h]
  cases c <;> rfl

theorem PulsesMoved.dMax {s t : State} (h : PulsesMoved s t) (c : Chan) : dMax t c = Machine.dMax s c := by
  rw [h]
  cases c <;> rfl

/-- The state at a sample, its reference looked at and its free values drawn. -/
def atSample (s : State) (c : Chan) (n : Nat) : State := { moveRef (toSample s c) c with free := n }

theorem atSample_chan (s : State) (c : Chan) (n : Nat) : ∃ own ref high, chan (atSample s c n) c =
    { chan s c with own := own, ref := ref, high := high } := by
  obtain ⟨own, ref, high, at_⟩ := moveRef_chan (toSample s c) c
  refine ⟨own, ref, high, ?_⟩
  rw [(toSample_moved s c).chan c] at at_
  rw [← at_]
  cases c <;> rfl

theorem atSample_dMax (s : State) (c : Chan) (n : Nat) : dMax (atSample s c n) c = dMax s c := by
  obtain ⟨own, ref, high, k, eq⟩ := moveRef_eq (toSample s c) c
  rw [← (toSample_moved s c).dMax c]
  unfold atSample
  rw [eq]
  cases c <;> rfl

theorem atSample_underCount (s : State) (c : Chan) (n : Nat) : (atSample s c n).reg.underCount = s.reg.underCount := by
  obtain ⟨own, ref, high, k, eq⟩ := moveRef_eq (toSample s c) c
  have same : (toSample s c).reg.underCount = s.reg.underCount := by rw [toSample_moved s c]
  rw [← same]
  unfold atSample
  rw [eq]
  cases c <;> rfl

theorem atSample_ref_still {s : State} {c : Chan} (n : Nat) (regulates : (chan s c).phase = .regulating) :
    (chan (atSample s c n) c).ref = (chan s c).ref := by
  have same := (toSample_moved s c).chan c
  have still : moveRef (toSample s c) c = toSample s c := moveRef_still (by rw [same, regulates]; decide)
  unfold atSample
  rw [still]
  exact (congrArg ChanSt.ref same :) ▸ (by cases c <;> rfl)

/-! ### One sample -/

/-- The histories and D of a channel after a sample. -/
def sampledFields (x : ChanSt) (e0 yc dc : Int) (z : ChanSt) : ChanSt :=
  { z with d := dc.toNat, dOld := z.d, e := #v[e0, x.e[0], x.e[1]], y := #v[yc, x.y[0], x.y[1]] }

/-- The count of undershoots of the main channel in a row. -/
def underCounted (s : State) (c : Chan) (ref : Nat) (e0 : Int) : State :=
  if c = .main then { s with reg.underCount := if undershoots ref e0 then satur 2 (s.reg.underCount + 1) else 0 } else s

/-- The error code is the exact one where the error is a whole number of steps. -/
theorem roundFree_exact {s : State} {n d : Int} (whole : n % d = 0) : (roundFree s n d).1 = n / d := by
  unfold roundFree
  rw [if_pos whole]

/-- The state after a sample of a channel that switches: from an error code q, a D of d and a y of z where D is clamped. -/
def sampled (s : State) (c : Chan) (n : Nat) (q d z : Int) : State :=
  let x := chan s c
  let e0 := clampInt (-128) 127 q
  let dc := clampInt 0 (if x.withheld then 0 else dMax s c) d
  let yc := if d = dc then compSum x.coef e0 x.e x.y else z
  underCounted (modChan (atSample s c n) c (sampledFields x e0 yc dc)) c (chan (atSample s c n) c).ref e0

/-- COMPENSATOR_SAMPLE of a channel that switches, its draws of free values in order. -/
theorem exec_compensatorSample_draws {s : State} {c : Chan} (feedback vloc vin : Nat) (switches : switching (chan s c) = true) :
    exec (.compensatorSample c feedback vloc vin) s = .next
      (match errorCode (moveRef (toSample s c) c) (chan (moveRef (toSample s c) c) c).ref (feedbackOf s c feedback vloc) with
      | (e0, s2) => match dutyFf s2 c (chan (moveRef (toSample s c) c) c).ref vin with
        | (ff, s3) => match roundFree s3 (2 * compSum (chan s c).coef e0 (chan s c).e (chan s c).y)
            (2 ^ shOf (chan s c).coef.k : Nat) with
          | (u, s4) =>
            let dc := clampInt 0 (if (chan s c).withheld then 0 else dMax s4 c) (ff + u)
            let yc := if ff + u = dc then compSum (chan s c).coef e0 (chan s c).e (chan s c).y
              else clampedY (ff + u) dc ff (2 ^ shOf (chan s c).coef.k : Nat)
            underCounted (modChan s4 c (sampledFields (chan s c) e0 yc dc)) c (chan (moveRef (toSample s c) c) c).ref e0) :=
  congrArg Host.Outcome.next (if_neg (by simp [switches]))

/-- A sample's error code is exact where the error is a whole number of steps. -/
theorem exec_compensatorSample {s : State} {c : Chan} (feedback vloc vin : Nat) (switches : switching (chan s c) = true) :
    ∃ n q d z, exec (.compensatorSample c feedback vloc vin) s = .next (sampled s c n q d z) ∧
      ((((chan (atSample s c n) c).ref : Int) - feedbackOf s c feedback vloc) % 625 = 0 →
        q = (((chan (atSample s c n) c).ref : Int) - feedbackOf s c feedback vloc) / 625) := by
  have refs : ∀ n, (chan (atSample s c n) c).ref = (chan (moveRef (toSample s c) c) c).ref := fun n => by
    unfold atSample
    cases c <;> rfl
  -- the two roundings and the feed-forward draw free values
  rcases h1 : roundFree (moveRef (toSample s c) c)
    ((chan (moveRef (toSample s c) c) c).ref - feedbackOf s c feedback vloc : Int) 625 with ⟨q, s1⟩
  rcases h2 : dutyFf s1 c (chan (moveRef (toSample s c) c) c).ref vin with ⟨ff, s2⟩
  rcases h3 : roundFree s2 (2 * compSum (chan s c).coef (clampInt (-128) 127 q) (chan s c).e (chan s c).y)
    (2 ^ shOf (chan s c).coef.k : Nat) with ⟨u, s3⟩
  obtain ⟨n1, free1⟩ := roundFree_state (moveRef (toSample s c) c)
    ((chan (moveRef (toSample s c) c) c).ref - feedbackOf s c feedback vloc : Int) 625
  obtain ⟨n2, free2⟩ := dutyFf_state s1 c (chan (moveRef (toSample s c) c) c).ref vin
  obtain ⟨n3, free3⟩ := roundFree_state s2 (2 * compSum (chan s c).coef (clampInt (-128) 127 q) (chan s c).e (chan s c).y)
    (2 ^ shOf (chan s c).coef.k : Nat)
  rw [h1] at free1
  rw [h2] at free2
  rw [h3] at free3
  have drawn : s3 = atSample s c n3 := by
    dsimp only at free1 free2 free3
    rw [free3, free2, free1] <;> rfl
  refine ⟨n3, q, ff + u, clampedY (ff + u) (clampInt 0 (if (chan s c).withheld then 0 else dMax s c) (ff + u)) ff
    (2 ^ shOf (chan s c).coef.k : Nat), ?_, fun whole => ?_⟩
  · have code : errorCode (moveRef (toSample s c) c) (chan (moveRef (toSample s c) c) c).ref (feedbackOf s c feedback vloc) =
        (clampInt (-128) 127 q, s1) := by
      unfold errorCode
      rw [h1] <;> rfl
    rw [exec_compensatorSample_draws feedback vloc vin switches, code]
    dsimp only
    rw [h2]
    dsimp only
    rw [h3]
    dsimp only
    rw [drawn, atSample_dMax]
    unfold sampled
    dsimp only
    rw [refs]
  · rw [refs] at whole ⊢
    rw [← roundFree_exact (s := moveRef (toSample s c) c) whole, h1]

theorem clampInt_bounds {lo hi : Int} (v : Int) (order : lo ≤ hi) : lo ≤ clampInt lo hi v ∧ clampInt lo hi v ≤ hi := by
  unfold clampInt
  omega

theorem clampInt_inside {lo hi v : Int} (low : lo ≤ v) (high : v ≤ hi) : clampInt lo hi v = v := by
  unfold clampInt
  omega

/-- A value that the clamp leaves strictly inside its limits is the value itself. -/
theorem clampInt_strict {lo hi v : Int} (low : lo < clampInt lo hi v) (high : clampInt lo hi v < hi) :
    v = clampInt lo hi v := by
  unfold clampInt at *
  omega

theorem underCounted_chan (s : State) (c k : Chan) (ref : Nat) (e0 : Int) : chan (underCounted s c ref e0) k = chan s k := by
  unfold underCounted
  split <;> cases k <;> rfl

theorem sampled_chan (s : State) (c : Chan) (n : Nat) (q d z : Int) : chan (sampled s c n q d z) c =
    sampledFields (chan s c) (clampInt (-128) 127 q)
      (if d = clampInt 0 (if (chan s c).withheld then 0 else dMax s c) d then
        compSum (chan s c).coef (clampInt (-128) 127 q) (chan s c).e (chan s c).y else z)
      (clampInt 0 (if (chan s c).withheld then 0 else dMax s c) d) (chan (atSample s c n) c) :=
  (underCounted_chan ..).trans (chan_modChan_same ..)

/-- What one sample of a channel that switches leaves. -/
theorem compensatorSample_effect {s : State} {c : Chan} (feedback vloc vin : Nat) (switches : switching (chan s c) = true) :
    ∃ t e, exec (.compensatorSample c feedback vloc vin) s = .next t ∧ Only [.free, .reg] s t ∧
      -128 ≤ e ∧ e ≤ 127 ∧ (chan t c).e = #v[e, (chan s c).e[0], (chan s c).e[1]] ∧
      (∀ x : Int, x = ((chan t c).ref : Int) - feedbackOf s c feedback vloc → x % 625 = 0 → -80000 ≤ x → x ≤ 79375 →
        625 * e = x) ∧
      ((chan s c).phase = .regulating → (chan t c).ref = (chan s c).ref) ∧
      (chan t c).d ≤ dMax s c ∧ ((chan s c).withheld = true → (chan t c).d = 0) ∧ (chan t c).dOld = (chan s c).d ∧
      (chan t c).y[1] = (chan s c).y[0] ∧ (chan t c).y[2] = (chan s c).y[1] ∧
      (0 < (chan t c).d → (chan t c).d < dMax s c →
        (chan t c).y[0] = compSum (chan s c).coef e (chan s c).e (chan s c).y) ∧
      (c = .main → t.reg.underCount =
        if undershoots (chan t c).ref e then min 2 (s.reg.underCount + 1) else 0) := by
  obtain ⟨n, q, d, z, run, exact_⟩ := exec_compensatorSample feedback vloc vin switches
  obtain ⟨own, ref, high, at_⟩ := atSample_chan s c n
  have chan_ := sampled_chan s c n q d z
  have isRef : (chan (sampled s c n q d z) c).ref = (chan (atSample s c n) c).ref := by rw [chan_]; rfl
  have duty : (chan (sampled s c n q d z) c).d =
      (clampInt 0 (if (chan s c).withheld then 0 else dMax s c) d).toNat := by rw [chan_]; rfl
  have code := clampInt_bounds (lo := -128) (hi := 127) q (by decide)
  refine ⟨_, clampInt (-128) 127 q, run, execCompensatorSample_only c feedback vloc vin s _ run, code.1, code.2, by rw [chan_]; rfl,
    fun x isX whole low high => ?_, fun regulates => ?_, ?_, fun held => ?_, ?_, by rw [chan_]; rfl, by rw [chan_]; rfl,
    fun pos below => ?_, ?_⟩
  · rw [isRef] at isX
    have quotient := exact_ (by rw [← isX]; exact whole)
    rw [← isX] at quotient
    rw [quotient, clampInt_inside (by omega) (by omega)]
    omega
  · rw [isRef]
    exact atSample_ref_still n regulates
  · rw [duty]
    have most : 0 ≤ (if (chan s c).withheld then 0 else (dMax s c : Int)) ∧
        (if (chan s c).withheld then 0 else (dMax s c : Int)) ≤ dMax s c := by split <;> omega
    have bounds := clampInt_bounds d most.1
    omega
  · rw [duty, held]
    have bounds := clampInt_bounds (lo := 0) (hi := 0) d (Int.le_refl 0)
    simp only [if_true]
    omega
  · rw [chan_, at_]
    rfl
  · have free : (chan s c).withheld = false := by
      rw [← Bool.not_eq_true]
      intro held
      rw [duty, held] at pos
      have bounds := clampInt_bounds (lo := 0) (hi := 0) d (Int.le_refl 0)
      simp only [if_true] at pos
      omega
    rw [duty, free] at pos below
    simp only [Bool.false_eq_true, if_false] at pos below
    have inside : d = clampInt 0 (dMax s c : Int) d := clampInt_strict (by omega) (by omega)
    rw [chan_]
    exact if_pos (by rw [free]; simpa using inside)
  · rintro rfl
    rw [isRef, ← atSample_underCount s .main n]
    rfl

/-- Settles O46: the samples, the restore and diode emulation. -/
theorem compensatorAndRestore : Obligations.CompensatorAndRestore := by
  refine ⟨fun c feedback vloc vin s => ⟨compensatorSample_effect feedback vloc vin, fun idle => ?_⟩, fun s => ⟨fun due may => ?_,
    fun not => ?_⟩, fun k s => ⟨fun runs emulated low => ?_, fun runs emulated low => ?_, fun not => ?_, fun not => ?_⟩⟩
  · exact congrArg Host.Outcome.next (if_pos (by simp [idle]))
  · exact congrArg Host.Outcome.next (if_neg (by simp [may, Nat.not_lt.mpr due]))
  · exact congrArg Host.Outcome.next (if_pos (by rcases not with h | h <;> simp [h]))
  · refine congrArg Host.Outcome.next ((if_pos ?_).trans ?_)
    · change switching s.reg.main && emulates s k.val && s.reg.pwm[k] == .low
      rw [runs, emulated, low] <;> rfl
    · unfold putPwm vset
      rw [if_pos k.isLt, dif_pos k.isLt] <;> rfl
  · refine congrArg Host.Outcome.next ((if_pos ?_).trans rfl)
    change switching s.reg.aux && emulates s 6 && s.reg.pwmA == .low
    rw [runs, emulated, low] <;> rfl
  · refine congrArg Host.Outcome.next (if_neg ?_)
    change ¬ (switching s.reg.main && emulates s k.val && s.reg.pwm[k] == .low) = true
    rw [not]
    simp
  · refine congrArg Host.Outcome.next (if_neg ?_)
    change ¬ (switching s.reg.aux && emulates s 6 && s.reg.pwmA == .low) = true
    rw [not]
    simp

end Sys2Proof.Proofs

/-! ## Balancing, shedding, the hour and the period start (file 12) -/

namespace Sys2Proof.Proofs

open Sys2Proof Sys2Proof.Machine

/-! ### Balancing -/

theorem foldl_fixed {α : Type} {g : State → α → State} {l : List α} {s : State} (fixed : ∀ x ∈ l, g s x = s) :
    l.foldl g s = s := by
  induction l with
  | nil => rfl
  | cons x rest ih =>
    rw [List.foldl_cons, fixed x List.mem_cons_self]
    exact ih fun y mem => fixed y (List.mem_cons_of_mem _ mem)

/-- No phase is failed while no count has reached its limit. -/
theorem failChecks_none {s : State} (snap : Snap) (fine : ∀ k : Fin 6, s.reg.implaus[k] < 4 ∧ s.reg.pinned[k] < 128) :
    failChecks s snap = s := by
  refine foldl_fixed fun k _ => if_neg fun fails => ?_
  obtain ⟨implaus, pinned⟩ := fine k
  simp only [Bool.and_eq_true, Bool.or_eq_true, decide_eq_true_eq] at fails
  omega

/-- Trims and counts after one interval. -/
def balanced (s : State) (i : Vector Half 6) : State :=
  { updateTrims { s with reg.skip := stillSkips s } i with
    reg.implaus := vgen 6 fun k =>
      if implausible s i (Fin.ofNat 6 k) then satur 4 (vget s.reg.implaus 0 k + 1) else 0 }

theorem exec_balanceUpdate (i : Vector Half 6) (snap : Snap) (s : State) : exec (.balanceUpdate i snap) s = .next
    (if s.reg.skip || stillSkips s || s.reg.active.length < 2 then { s with reg.skip := stillSkips s }
      else failChecks (balanced s i) snap) := rfl

theorem getElem_of_vget {α : Type} {n : Nat} (v : Vector α n) (z : α) (k : Fin n) : vget v z k.val = v[k] := vget_eq_getElem v z k

theorem finOfNat_val (k : Fin 6) : Fin.ofNat 6 k.val = k := Fin.ext (Nat.mod_eq_of_lt k.isLt)

theorem any_val_iff_mem {l : List (Fin 6)} {k : Fin 6} : (l.any fun a => a.val == k.val) = true ↔ k ∈ l := by
  rw [List.any_eq_true]
  constructor
  · rintro ⟨a, mem, same⟩
    rwa [← Fin.ext (by simpa using same : a.val = k.val)]
  · exact fun mem => ⟨k, mem, by simp⟩

theorem balanced_trim (s : State) (i : Vector Half 6) (k : Fin 6) :
    (balanced s i).reg.trim[k] = if k ∈ s.reg.active then trimStep s i k else s.reg.trim[k] := by
  have at_ : (balanced s i).reg.trim[k] =
      if s.reg.active.any (fun a => a.val == k.val) then trimStep s i (Fin.ofNat 6 k.val) else vget s.reg.trim 0 k.val :=
    getElem_vgen _ k
  rw [at_, finOfNat_val, getElem_of_vget]
  by_cases mem : k ∈ s.reg.active
  · rw [if_pos (any_val_iff_mem.mpr mem), if_pos mem]
  · rw [if_neg (fun h => mem (any_val_iff_mem.mp h)), if_neg mem]

theorem trimStep_bounds (s : State) (i : Vector Half 6) (k : Fin 6) :
    s.reg.trim[k] - 1 ≤ trimStep s i k ∧ trimStep s i k ≤ s.reg.trim[k] + 1 := by
  unfold trimStep
  dsimp only
  split
  · omega
  · split <;> omega

/-- The counts of R509 grow by one in an interval at most. -/
theorem balanced_counts {s : State} (i : Vector Half 6)
    (fine : ∀ k : Fin 6, s.reg.pinned[k] < 127 ∧ s.reg.implaus[k] < 3) (k : Fin 6) :
    (balanced s i).reg.implaus[k] < 4 ∧ (balanced s i).reg.pinned[k] < 128 := by
  obtain ⟨pinned, implaus⟩ := fine k
  have isImplaus : (balanced s i).reg.implaus[k] =
      if implausible s i (Fin.ofNat 6 k.val) then satur 4 (vget s.reg.implaus 0 k.val + 1) else 0 := getElem_vgen _ k
  have isPinned : ∃ b : Bool, (balanced s i).reg.pinned[k] = if b then satur 128 (vget s.reg.pinned 0 k.val + 1) else 0 :=
    ⟨_, getElem_vgen _ k⟩
  obtain ⟨b, isPinned⟩ := isPinned
  rw [getElem_of_vget] at isImplaus isPinned
  rw [isImplaus, isPinned]
  unfold satur
  constructor
  · split <;> omega
  · split <;> omega

/-! ### Shedding -/

theorem beginSwap_due {s : State} (due : s.reg.swapsDue ≠ 0) (first : s.reg.swapShed = false) (may : shedPaused s = false) :
    (beginSwap s).reg.swapsDue = s.reg.swapsDue - 1 ∧ Only [.reg] s (beginSwap s) ∧
      ∀ k, nextPhase s = some k → (beginSwap s).reg.active = s.reg.active ++ [k] ∧ (beginSwap s).reg.swapShed = true := by
  have begins : beginSwap s = match nextPhase s with
      | none => { s with reg.swapsDue := s.reg.swapsDue - 1 }
      | some k => { setSet { s with reg.swapsDue := s.reg.swapsDue - 1 } (s.reg.active ++ [k]) with reg.swapShed := true } :=
    if_neg (by simp [due, first, may])
  refine ⟨?_, beginSwap_only s, fun k next => ?_⟩
  · rw [begins]
    split <;> rfl
  · rw [begins, next]
    exact ⟨rfl, rfl⟩

theorem exec_shedDecision (i : Vector Half 6) (s : State) : exec (.shedDecision i) s = .next
    (if shedPaused s then s
    else if s.reg.swapsDue ≠ 0 && !s.reg.swapShed then beginSwap s
    else if !(polOf s).shedOn || s.reg.dwell < 200000 then s
    else if wouldAdd s i then addPhase s
    else if wouldShed s i then setSet s s.reg.active.dropLast
    else s) := rfl

theorem noSwap {s : State} (none_ : s.reg.swapsDue = 0 ∨ s.reg.swapShed = true) :
    (s.reg.swapsDue ≠ 0 && !s.reg.swapShed) = false := by
  rcases none_ with h | h <;> simp [h]

/-- The second step of a swap. -/
theorem exec_swapShed (i : Vector Half 6) (s : State) : exec (.swapShed i) s = .next
    (if !s.reg.swapShed || shedPaused s || s.reg.dwell < 200000 then s
    else if (polOf s).shedOn && wouldAdd s i then { s with reg.swapShed := false }
    else setSet { s with reg.swapShed := false } s.reg.active.tail) := rfl

/-! ### The whole hour -/

theorem wholeHour_time (s : State) : (wholeHour s).now = s.now ∧ (wholeHour s).hours = s.hours :=
  ⟨(wholeHour_only s).same .now rfl, (wholeHour_only s).same .hours rfl⟩

theorem beginSwap_r (s : State) : (beginSwap s).reg.r = s.reg.r := by
  unfold beginSwap
  split
  · rfl
  · dsimp only
    split <;> rfl

/-- The ring turns by one place. -/
theorem wholeHour_r {s : State} (turns : (polOf s).rotate = true) (has : ring s ≠ []) :
    (wholeHour s).reg.r = (s.reg.r + 1) % (ring s).length := by
  unfold wholeHour
  dsimp only
  rw [if_neg (by simp [turns, has])]
  split
  · rfl
  split
  · exact beginSwap_r _
  · rfl

/-! ### The period start -/

/-- Only the clock and the count of free values have moved. -/
def ClockMoved (s t : State) : Prop :=
  t = { s with free := t.free, reg := { s.reg with clock := t.reg.clock, clk := t.reg.clk } }

theorem ClockMoved.trans {s t u : State} (h : ClockMoved s t) (k : ClockMoved t u) : ClockMoved s u := Eq.trans k (by rw [h])

theorem freqWithin_moved (s : State) (lo hi : Nat) : ClockMoved s (freqWithin s lo hi) := by
  unfold freqWithin
  split <;> exact rfl

theorem clockSettles_moved (s : State) : ClockMoved s (clockSettles s) := by
  have settles : ∀ k : Clock, ClockMoved s
      (if (takeFree s).1.getLsbD 0 then { (takeFree s).2 with reg.clock := k } else (takeFree s).2) := fun k => by
    split <;> exact rfl
  unfold clockSettles
  dsimp only
  split
  · exact settles _
  · exact settles _
  · exact rfl
  · exact rfl

theorem nextPeriod_moved (s : State) : ClockMoved s (nextPeriod s) := by
  unfold nextPeriod
  split
  · exact rfl
  · dsimp only
    split
    · exact freqWithin_moved ..
    · exact (freqWithin_moved ..).trans (clockSettles_moved _)

/-- A rise leaves the slots and the place in the period. -/
theorem risePhase_places (s : State) (c : Chan) (k since ago : Nat) :
    (risePhase s c k since ago).reg.pulse.slots = s.reg.pulse.slots ∧
      (risePhase s c k since ago).reg.pulse.pos = s.reg.pulse.pos := by
  have latched : (latchedDuty s c since).2.reg.pulse = s.reg.pulse := by
    unfold latchedDuty
    dsimp only
    split <;> rfl
  have put : ∀ (t : State) k v, (putPwm t k v).reg.pulse = t.reg.pulse := fun t k v => by
    unfold putPwm
    split <;> rfl
  unfold risePhase
  rcases h : latchedDuty s c since with ⟨d, s1⟩
  rw [h] at latched
  rw [← latched]
  dsimp only
  split
  · split
    · exact ⟨rfl, rfl⟩
    · rw [put]
      exact ⟨rfl, rfl⟩
  · rw [put]
    exact ⟨rfl, rfl⟩

theorem vget_vgen_lt {α : Type} {n : Nat} (f : Nat → α) (z : α) {k : Nat} (inside : k < n) : vget (vgen n f) z k = f k :=
  vget_vgen f z ⟨k, inside⟩

/-- The clearing of latches leaves the comparators of every monitor. -/
theorem clearLatches_eq (s : State) (f : Nat → Bool) : ∃ m : Vector MonSt 24, clearLatches s f = { s with mons.mon := m } ∧
    ∀ k, k < 24 → ∃ b, vget m MonSt.zero k = { mon s k with latch := b } := by
  refine ⟨vgen 24 fun k => if f k then { mon s k with latch := live s k } else mon s k, rfl, fun k inside => ?_⟩
  rw [vget_vgen_lt _ _ inside]
  split
  · exact ⟨_, rfl⟩
  · exact ⟨(mon s k).latch, rfl⟩

/-- A live output follows its monitor's comparators, its domain and its enable. -/
theorem live_congr {s t : State} {k : Nat} (enables : monEnabled t k = monEnabled s k)
    (on : isOn t (monDom k) = isOn s (monDom k)) (warm : monWarm t k = monWarm s k)
    (settled : (mon t k).settled = (mon s k).settled) (above : (mon t k).above = (mon s k).above)
    (below : (mon t k).below = (mon s k).below) : live t k = live s k := by
  unfold live
  dsimp only
  rw [enables, on, warm, settled, above, below]

theorem live_clearLatches (s : State) (f : Nat → Bool) {k : Nat} (inside : k < 24) :
    live (clearLatches s f) k = live s k := by
  obtain ⟨m, eq, kept⟩ := clearLatches_eq s f
  obtain ⟨b, same⟩ := kept k inside
  rw [eq]
  exact live_congr rfl rfl rfl (congrArg MonSt.settled same :) (congrArg MonSt.above same :)
    (congrArg MonSt.below same :)

/-- The main phases that are active, in ascending order. -/
def slotsOf (s : State) : List (Fin 6) := ([0, 1, 2, 3, 4, 5] : List (Fin 6)).filter fun k => isActive s k.val

/-- The state as phase 1's slot begins: the pulses of the last period have ended, and a restore that is due is done. -/
def slotsGiven (s : State) : State :=
  let t := if s.reg.restoreDue && !live s 0 && mayRestore s then restoreAll s else s
  { t with reg.pulse := { t.reg.pulse with slots := slotsOf t, pos := 0 } }

/-- The slots are given, and the phase of the first one rises. -/
def periodSlots (s : State) : State :=
  match slotsOf (if s.reg.restoreDue && !live s 0 && mayRestore s then restoreAll s else s) with
  | [] => slotsGiven s
  | k :: _ => if mayPulse (slotsGiven s) .main then risePhase (slotsGiven s) .main k.val (periodUnits / 8) 0 else slotsGiven s

/-- The state before the pulses run on to the period's end. -/
def sensesTaken (s : State) (sense : Vector Half 7) : State :=
  { s with
    reg.sense := vgen 7 fun k => BitVec.ofInt 16 (clampInt (-1920) 1920 (vget sense 0 k).toInt)
    reg.dwell := min 200000 (1000000000 / clockHz s + s.reg.dwell)
    reg.pulse.auxOdd := !s.reg.pulse.auxOdd
    reg.pulse.auxIn :=
      if !auxHalf s.reg.strapsA then some 2 else if s.reg.pulse.auxOdd then some 1 else s.reg.pulse.auxIn }

theorem periodStart_eq (s : State) (sense : Vector Half 7) : periodStart s sense =
    periodSlots (runPhases (sensesTaken (nextPeriod s) sense)
      (samplePlace (sensesTaken (nextPeriod s) sense).reg.pulse.pos) 8) := by
  unfold periodStart
  extract_lets s1 r1 p1 s2 s3 s4 l r4 p4 s5
  have before : runPhases (sensesTaken (nextPeriod s) sense)
      (samplePlace (sensesTaken (nextPeriod s) sense).reg.pulse.pos) 8 = s3 := rfl
  rw [before]
  clear_value s3
  have slots : slotsOf s4 = l := rfl
  have given : slotsGiven s3 = s5 := rfl
  unfold periodSlots
  rw [given]
  clear_value s5
  change _ = match slotsOf s4 with | [] => s5 | k :: _ => _
  rw [slots] <;> cases l <;> rfl

theorem periodSlots_cases (s : State) : periodSlots s = slotsGiven s ∨
    ∃ k since ago, periodSlots s = risePhase (slotsGiven s) .main k since ago := by
  unfold periodSlots
  generalize slotsOf (if s.reg.restoreDue && !live s 0 && mayRestore s then restoreAll s else s) = l
  cases l with
  | nil => exact .inl rfl
  | cons k rest =>
    dsimp only
    split
    · exact .inr ⟨k.val, periodUnits / 8, 0, rfl⟩
    · exact .inl rfl

/-- What the period start leaves of the slots, the senses and a restore. -/
structure PeriodBegun (s t : State) (sense : Vector Half 7) : Prop where
  pos : t.reg.pulse.pos = 0
  slots : t.reg.pulse.slots = slotsOf t
  sense : ∀ k : Fin 7, t.reg.sense[k] = BitVec.ofInt 16 (clampInt (-1920) 1920 sense[k].toInt)
  restored : s.reg.restoreDue = true → live s 0 = false → mayRestore s = true →
    t.reg.active = ringFrom s ∧ t.reg.restoreDue = false
  kept : s.reg.restoreDue = false ∨ live s 0 = true ∨ mayRestore s = false →
    t.reg.active = s.reg.active ∧ t.reg.restoreDue = s.reg.restoreDue

theorem slotsGiven_begun {s v : State} {sense : Vector Half 7} (moved : PulsesMoved (sensesTaken s sense) v) :
    PeriodBegun s (slotsGiven v) sense := by
  have due : (v.reg.restoreDue && !live v 0 && mayRestore v) = (s.reg.restoreDue && !live s 0 && mayRestore s) := by
    rw [moved]
    rfl
  have turned : ringFrom v = ringFrom s := by
    rw [moved]
    rfl
  have senses : ∀ k : Fin 7, v.reg.sense[k] = BitVec.ofInt 16 (clampInt (-1920) 1920 sense[k].toInt) := fun k => by
    have at_ : v.reg.sense[k] = BitVec.ofInt 16 (clampInt (-1920) 1920 (vget sense 0 k.val).toInt) := by
      rw [moved]
      exact getElem_vgen _ k
    rw [at_, getElem_of_vget]
  have active : v.reg.active = s.reg.active := by rw [moved]; rfl
  have restoreDue : v.reg.restoreDue = s.reg.restoreDue := by rw [moved]; rfl
  unfold slotsGiven
  rw [due]
  cases h : (s.reg.restoreDue && !live s 0 && mayRestore s) with
  | true =>
    refine ⟨rfl, rfl, senses, fun _ _ _ => ⟨turned, rfl⟩, fun not => ?_⟩
    rcases not with n | n | n <;> simp [n] at h
  | false =>
    refine ⟨rfl, rfl, senses, fun isDue calm may => ?_, fun _ => ⟨active, restoreDue⟩⟩
    simp [isDue, calm, may] at h

theorem periodStart_begun (s : State) (sense : Vector Half 7) : PeriodBegun s (periodStart s sense) sense := by
  have clock := nextPeriod_moved s
  have begun : PeriodBegun (nextPeriod s) (periodStart s sense) sense := by
    rw [periodStart_eq]
    have given := slotsGiven_begun (s := nextPeriod s) (runPhases_moved (sensesTaken (nextPeriod s) sense)
      (samplePlace (sensesTaken (nextPeriod s) sense).reg.pulse.pos) 8)
    rcases periodSlots_cases (runPhases (sensesTaken (nextPeriod s) sense)
      (samplePlace (sensesTaken (nextPeriod s) sense).reg.pulse.pos) 8) with eq | ⟨k, since, ago, eq⟩
    · rw [eq]
      exact given
    · rw [eq]
      generalize slotsGiven (runPhases (sensesTaken (nextPeriod s) sense)
        (samplePlace (sensesTaken (nextPeriod s) sense).reg.pulse.pos) 8) = u at given
      obtain ⟨slots, pos⟩ := risePhase_places u .main k since ago
      have rise := risePhase_moved u .main k since ago
      have active : (risePhase u .main k since ago).reg.active = u.reg.active := by rw [rise]
      have due : (risePhase u .main k since ago).reg.restoreDue = u.reg.restoreDue := by rw [rise]
      have senses : (risePhase u .main k since ago).reg.sense = u.reg.sense := by rw [rise]
      refine ⟨pos.trans given.pos, slots.trans (given.slots.trans ?_), ?_, ?_, ?_⟩
      · unfold slotsOf isActive
        rw [active]
      · rw [senses]
        exact given.sense
      · rw [active, due]
        exact given.restored
      · rw [active, due]
        exact given.kept
  rw [clock] at begun
  exact ⟨begun.pos, begun.slots, begun.sense, begun.restored, begun.kept⟩

/-- Settles O47: one step of a trim, of the active set and of the ring, and the slots of a period. -/
theorem phasesAreBalancedAndShed : Obligations.PhasesAreBalancedAndShed := by
  refine ⟨fun i snap s => ⟨fun skips => ?_, fun runs still two fine => ?_⟩, fun i s => ⟨fun paused => ?_,
    fun may due first => ?_, fun none_ held => ?_, fun may long none_ on => ?_⟩, fun i s => ⟨fun due may long => ?_, fun not => ?_⟩,
    fun s up few => ?_, fun sense s runs => ?_⟩
  · exact (exec_balanceUpdate ..).trans (congrArg _ (if_pos (by rcases skips with h | h <;> simp [h])))
  · have run : exec (.balanceUpdate i snap) s = .next (balanced s i) := by
      rw [exec_balanceUpdate, if_neg (by simp [runs, still, Nat.not_lt.mpr two]),
        failChecks_none snap (balanced_counts i fine)]
    refine ⟨_, run, rfl, Only.set_reg (Only.refl _ s) _ rfl, balanced_trim s i, fun k => ?_⟩
    rw [balanced_trim]
    split
    · exact trimStep_bounds s i k
    · omega
  · exact (exec_shedDecision ..).trans (congrArg _ (if_pos paused))
  · obtain ⟨swaps, frame, adds⟩ := beginSwap_due due first may
    exact ⟨_, (exec_shedDecision ..).trans (congrArg _ ((if_neg (by simp [may])).trans (if_pos (by simp [due, first])))),
      swaps, frame, adds⟩
  · refine (exec_shedDecision ..).trans (congrArg _ ?_)
    split
    · rfl
    · rw [noSwap none_, if_neg Bool.false_ne_true, if_pos (by rcases held with h | h <;> simp [h])]
  · have run : exec (.shedDecision i) s = .next (if wouldAdd s i then addPhase s
        else if wouldShed s i then setSet s s.reg.active.dropLast else s) := by
      rw [exec_shedDecision, if_neg (by simp [may]), noSwap none_, if_neg Bool.false_ne_true,
        if_neg (by simp [on, Nat.not_lt.mpr long])]
    refine ⟨_, run, execShedDecision_only i s _ run, fun k adds next => ?_, fun noAdd sheds => ?_, fun noAdd noShed => ?_⟩
    · rw [if_pos adds]
      unfold addPhase
      rw [next] <;> rfl
    · rw [if_neg (by simp [noAdd]), if_pos sheds]
      rfl
    · rw [if_neg (by simp [noAdd]), if_neg (by simp [noShed])]
  · have run := exec_swapShed i s
    rw [if_neg (by simp [due, may, Nat.not_lt.mpr long])] at run
    refine ⟨_, run, ?_, execSwapShed_only i s _ run, ?_⟩
    · split <;> rfl
    · split <;> rfl
  · exact (exec_swapShed ..).trans (congrArg _ (if_pos (by rcases not with h | h | h <;> simp [h])))
  · have run : exec .hourPass s = .next (wholeHour { s with
        now := 7372800 * (s.now / 7372800 + (16 - s.hours % 16))
        hours := satur 0xFFFFFF ((s.hours / 16 + 1) * 16) }) := congrArg Host.Outcome.next (if_neg up)
    obtain ⟨now, hours⟩ := wholeHour_time { s with
      now := 7372800 * (s.now / 7372800 + (16 - s.hours % 16))
      hours := satur 0xFFFFFF ((s.hours / 16 + 1) * 16) }
    refine ⟨_, run, hours.trans ?_, ?_, ?_, execHourPass_only s _ run, fun turns has => wholeHour_r (s := { s with
      now := 7372800 * (s.now / 7372800 + (16 - s.hours % 16))
      hours := satur 0xFFFFFF ((s.hours / 16 + 1) * 16) }) turns has⟩
    · dsimp only
      unfold satur
      omega
    · rw [now]
      dsimp only
      omega
    · rw [now]
      exact Nat.mul_mod_right ..
  · obtain ⟨m, eq, _⟩ := clearLatches_eq s (clrOf s)
    have run : exec (.latchPeriodClear sense) s = .next (periodStart (clearLatches s (clrOf s)) sense) :=
      congrArg Host.Outcome.next (if_pos (by rw [eq]; exact runs))
    have begun := periodStart_begun (clearLatches s (clrOf s)) sense
    have live_ := live_clearLatches s (clrOf s) (k := 0) (by decide)
    refine ⟨_, run, execLatchPeriodClear_only sense s _ run, begun.pos, begun.slots, begun.sense, fun due calm may => ?_,
      fun not => ?_⟩
    · rw [eq] at begun live_ ⊢
      exact begun.restored due (live_.trans calm) may
    · rw [eq] at begun live_ ⊢
      exact begun.kept (not.imp_right (Or.imp_left live_.trans))

end Sys2Proof.Proofs

/-! ## Current limits, hiccups and retries (file 13) -/

namespace Sys2Proof.Proofs

open Sys2Proof Sys2Proof.Machine

/-! ### What a record and a stop leave of the regulator -/

/-- A record may move the reference of its channel, and nothing else of the regulator. -/
theorem capture_reg (s : State) (code : BitVec 5) (phase : Nat) (c : Chan) (toFault : Bool) (snap : Snap)
    (companion : List Byte) : ∃ own ref high,
      (capture s code phase c toFault snap companion).reg = (setRef s c own ref high).reg := by
  have still : s.reg = (setRef s c (chan s c).own (chan s c).ref (chan s c).high).reg := by cases c <;> rfl
  unfold capture
  dsimp only
  split
  · refine ⟨_, _, _, Eq.trans ?_ still⟩
    split
    · rfl
    · exact ((addEntry_only ..).same .reg rfl).trans rfl
  · obtain ⟨own, ref, high, n, eq⟩ := moveRef_eq s c
    exact ⟨own, ref, high, (congrArg State.reg eq).trans (by cases c <;> rfl)⟩

theorem capture_chan (s : State) (code : BitVec 5) (phase : Nat) (c : Chan) (toFault : Bool) (snap : Snap)
    (companion : List Byte) : ∃ own ref high, chan (capture s code phase c toFault snap companion) c =
      { chan s c with own := own, ref := ref, high := high } := by
  obtain ⟨own, ref, high, eq⟩ := capture_reg s code phase c toFault snap companion
  exact ⟨own, ref, high, (chan_of_reg eq c).trans (chan_setRef ..)⟩

/-- A channel that stops, field by field. -/
theorem stopChan_chan (s : State) (c : Chan) (ph : ChPhase) : ∃ own ref high target targetHigh r u,
    chan (stopChan s c ph) c =
      { chan s c with
        phase := ph, own := own, ref := ref, high := high, target := target, targetHigh := targetHigh, run := r, runUv := u
        pgood := false, goodSince := none, diode := false, withheld := false } ∧
    ((chan s c).goodSince = none → r = (chan s c).run ∧ u = (chan s c).runUv) := by
  obtain ⟨own, ref, high, moved⟩ := moveRef_chan s c
  have stopped : chan (stopChan s c ph) c =
      { chan (dropPgood (freezeRef s c) c) c with phase := ph, diode := false, withheld := false } := by
    unfold stopChan
    extract_lets s1 s2 set r1 p1 r2 p2 s3
    have h2 : chan s2 c = { chan s1 c with phase := ph, diode := false, withheld := false } := by
      unfold s2
      rw [chan_setPwm, chan_endPulses, chan_modChan_same]
    have h3 : chan s3 c = chan s2 c := by
      unfold s3
      cases c <;> rfl
    rw [chan_refreshStraps, h3, h2]
  have frozen : chan (freezeRef s c) c =
      { chan s c with own := own, ref := ref, high := high, target := own, targetHigh := high } := by
    unfold freezeRef
    rw [chan_modChan_same, moved]
  rw [stopped, dropPgood, chan_modChan_same, frozen]
  exact ⟨own, ref, high, own, high, _, _, rfl, fun never => by simp [never]⟩

/-- What a stop leaves of the regulator beside its channel. -/
theorem stopChan_others (s : State) (c : Chan) (ph : ChPhase) : (stopChan s c ph).reg.failed = s.reg.failed ∧
    (stopChan s c ph).reg.der5 = s.reg.der5 ∧ (stopChan s c ph).reg.der6 = s.reg.der6 := by
  obtain ⟨own, ref, high, n, moved⟩ := moveRef_eq s c
  unfold stopChan dropPgood freezeRef
  rw [moved]
  cases c <;> exact ⟨rfl, rfl, rfl⟩

theorem capture_others (s : State) (code : BitVec 5) (phase : Nat) (c : Chan) (toFault : Bool) (snap : Snap)
    (companion : List Byte) : (capture s code phase c toFault snap companion).reg.failed = s.reg.failed ∧
      (capture s code phase c toFault snap companion).reg.der5 = s.reg.der5 ∧
      (capture s code phase c toFault snap companion).reg.der6 = s.reg.der6 ∧
      (capture s code phase c toFault snap companion).reg.active = s.reg.active ∧
      (capture s code phase c toFault snap companion).reg.r = s.reg.r ∧
      ring (capture s code phase c toFault snap companion) = ring s := by
  obtain ⟨own, ref, high, eq⟩ := capture_reg s code phase c toFault snap companion
  unfold ring
  rw [eq]
  cases c <;> exact ⟨rfl, rfl, rfl, rfl, rfl, rfl⟩

theorem stopChan_stops (s : State) (c : Chan) {ph : ChPhase} (off : switching { (chan s c) with phase := ph } = false) :
    switching (chan (stopChan s c ph) c) = false := by
  obtain ⟨phase, _, _⟩ := stopChan_same s c ph
  have same : switching (chan (stopChan s c ph) c) = switching { (chan s c) with phase := ph } := by
    unfold switching
    rw [phase]
  exact same.trans off

/-! ### A trip in the pulse -/

/-- The comparator of a phase has tripped in its pulse: the phase goes Low and its truncated period is counted. -/
def pulseTruncated (s : State) (c : Chan) (k n : Nat) : State :=
  let s1 := { s with reg.trunc := vset s.reg.trunc k (satur 8 n) }
  let s2 := match c with
    | .main => { putPwm s1 k .low with reg.skip := true, reg.offTrip := vset s1.reg.offTrip k false }
    | .aux => putPwm s1 6 .low
  { s2 with reg.pulse.left := vset s2.reg.pulse.left k 0 }

theorem truncate_eq (s : State) (c : Chan) (k : Nat) (succ : Bool) (snap : Snap) : truncate s c k succ snap =
    let n := if succ then vget s.reg.trunc 0 k + 1 else 1
    if 8 ≤ n then hiccup (pulseTruncated s c k n) c snap else pulseTruncated s c k n := rfl

/-- The number of a phase among the comparators. -/
def trunkOf (c : Chan) (k : Fin 6) : Nat := match c with | .main => k.val | .aux => 6

theorem trunkOf_lt (c : Chan) (k : Fin 6) : trunkOf c k < 7 := by
  cases c
  · exact Nat.lt_succ_of_lt k.isLt
  · exact Nat.lt_succ_self 6

theorem exec_fastLimitTrip {c : Chan} {k : Fin 6} {s : State} (inPulse succ : Bool) (snap : Snap)
    (runs : switching (chan s c) = true) (active : c = .main → k ∈ s.reg.active) :
    exec (.fastLimitTrip c k inPulse succ snap) s = .next
      (let s1 := { s with mons.pcl := vset s.mons.pcl (trunkOf c k) true }
      if inPulse then truncate s1 c (trunkOf c k) succ snap
      else if c = .aux then s1
      else if succ && s.reg.offTrip[k] && mayFail s1 then failPhase s1 k 0x0A snap
      else { s1 with reg.offTrip := s1.reg.offTrip.set k true }) := by
  have takes : ¬ (!switching (chan s c) || (c == .main && !s.reg.active.contains k)) = true := by
    cases c
    · simp [runs, active rfl]
    · simp [runs]
  cases c <;> exact congrArg Host.Outcome.next (if_neg takes)

theorem putPwm_chan (s : State) (k : Nat) (v : Pwm) (c : Chan) : chan (putPwm s k v) c = chan s c :=
  (putPwm_moved s k v).chan c

theorem pulseTruncated_mons (s : State) (c : Chan) (k n : Nat) : (pulseTruncated s c k n).mons = s.mons := by
  cases c
  · exact (congrArg State.mons (putPwm_moved { s with reg.trunc := vset s.reg.trunc k (satur 8 n) } k .low) :)
  · rfl

/-- A truncated period that is not the eighth leaves the channel as it was. -/
theorem pulseTruncated_effect (s : State) (c : Chan) (k : Fin 6) {n : Nat} (few : n < 8) :
    vget (pulseTruncated s c (trunkOf c k) n).reg.trunc 0 (trunkOf c k) = n ∧
      vget (pulseTruncated s c (trunkOf c k) n).reg.pulse.left 0 (trunkOf c k) = 0 ∧
      chan (pulseTruncated s c (trunkOf c k) n) c = chan s c ∧ (pulseTruncated s c (trunkOf c k) n).prot = s.prot ∧
      (c = .main → (pulseTruncated s c (trunkOf c k) n).reg.pwm[k] = .low ∧
        (pulseTruncated s c (trunkOf c k) n).reg.active = s.reg.active) ∧
      (c = .aux → (pulseTruncated s c (trunkOf c k) n).reg.pwmA = .low) := by
  have count : satur 8 n = n := Nat.min_eq_right (by omega)
  cases c
  · have low : putPwm { s with reg.trunc := vset s.reg.trunc k.val (satur 8 n) } k.val .low =
        { s with reg.trunc := vset s.reg.trunc k.val (satur 8 n), reg.pwm := vset s.reg.pwm k.val .low } := if_pos k.isLt
    have eq : pulseTruncated s .main (trunkOf .main k) n = { s with
        reg.trunc := vset s.reg.trunc k.val (satur 8 n), reg.pwm := vset s.reg.pwm k.val .low, reg.skip := true
        reg.offTrip := vset s.reg.offTrip k.val false, reg.pulse.left := vset s.reg.pulse.left k.val 0 } := by
      change { { putPwm { s with reg.trunc := vset s.reg.trunc k.val (satur 8 n) } k.val .low with
          reg.skip := true, reg.offTrip := vset s.reg.offTrip k.val false } with
        reg.pulse.left := vset (putPwm { s with reg.trunc := vset s.reg.trunc k.val (satur 8 n) } k.val .low).reg.pulse.left
          k.val 0 } = _
      rw [low]
    have inside := trunkOf_lt .main k
    rw [eq]
    refine ⟨(vget_vset_same _ _ _ inside).trans count, vget_vset_same _ _ _ inside, rfl, rfl, fun _ => ⟨?_, rfl⟩, nofun⟩
    rw [← getElem_of_vget _ Pwm.low]
    exact vget_vset_same _ _ _ k.isLt
  · have eq : pulseTruncated s .aux (trunkOf .aux k) n = { s with
        reg.trunc := vset s.reg.trunc 6 (satur 8 n), reg.pwmA := .low, reg.pulse.left := vset s.reg.pulse.left 6 0 } := rfl
    have inside := trunkOf_lt .aux k
    rw [eq]
    exact ⟨(vget_vset_same _ _ _ inside).trans count, vget_vset_same _ _ _ inside, rfl, rfl, nofun, fun _ => rfl⟩

/-- A hiccup stops the channel until its wait has ended. -/
theorem hiccup_effect (s : State) (c : Chan) (snap : Snap) : (chan (hiccup s c snap) c).phase = .waiting .hiccup ∧
    (chan (hiccup s c snap) c).pgood = false ∧ (chan (hiccup s c snap) c).hiccupArmed = false ∧
    (c = .main → (hiccup s c snap).reg.active = []) := by
  unfold hiccup
  extract_lets x s1
  have unarmed : (chan s1 c).hiccupArmed = false := by
    unfold s1
    split
    · rw [chan_modChan_same]
    · next off => exact Bool.eq_false_iff.mpr off
  obtain ⟨own, ref, high, target, targetHigh, r, u, at_, _⟩ := stopChan_chan s1 c (.waiting .hiccup)
  obtain ⟨main, _⟩ := stopChan_balls s1 c (.waiting .hiccup)
  rw [at_]
  exact ⟨rfl, rfl, unarmed, fun h => (main h).1⟩

/-! ### Two trips outside the pulse -/

/-- The phase after the set in the ring is one of the ring. -/
theorem nextPhase_ring {s : State} {j : Fin 6} (next : nextPhase s = some j) : j ∈ ring s := by
  unfold nextPhase at next
  split at next
  · cases next
  · next l _ =>
    dsimp only at next
    split at next
    · next k rest after =>
      have mem : k ∈ (ring s).filter (fun k => l.val < k.val) ++ (ring s).filter (fun k => k.val ≤ l.val) := by
        rw [after]
        exact List.mem_cons_self
      split at next
      · cases next
      · cases next
        rcases List.mem_append.mp mem with h | h
        · exact (List.mem_filter.mp h).1
        · exact (List.mem_filter.mp h).1
    · cases next

theorem failed_not_mem_ring {s : State} {k : Fin 6} (failed : s.reg.failed[k] = true) : k ∉ ring s := fun mem => by
  have works := (List.mem_filter.mp mem).2
  simp [failed] at works

/-- A phase that fails is failed and no longer active. -/
theorem failPhase_effect {s : State} {k : Fin 6} (code : BitVec 5) (snap : Snap) (several : 2 ≤ (ring s).length)
    (active : k ∈ s.reg.active) :
    (failPhase s k code snap).reg.failed[k] = true ∧ k ∉ (failPhase s k code snap).reg.active := by
  unfold failPhase
  extract_lets last s0 s1 r1 s2 r2 s3 nx l0 l s4 r4 p4
  have notLast : ¬ last := by
    unfold last
    omega
  have isS0 : s0 = s := if_neg notLast
  obtain ⟨_, _, _, kept, _, _⟩ := capture_others s0 code (k.val + 1) .main false snap []
  have isActive_ : s3.reg.active = s.reg.active := kept.trans (by rw [isS0])
  have failed : s3.reg.failed[k] = true := Vector.getElem_set_self _
  have notRing : k ∉ ring s3 := failed_not_mem_ring failed
  have gone : k ∉ l := by
    have filtered : k ∉ l0 := fun mem => by simpa using (List.mem_filter.mp mem).2
    unfold l
    cases h : nx with
    | some j =>
      refine fun mem => (List.mem_append.mp mem).elim filtered fun last_ => notRing ?_
      rw [List.mem_singleton.mp last_]
      exact nextPhase_ring h
    | none =>
      dsimp only
      split
      · exact fun mem => notRing (List.mem_of_mem_take mem)
      · exact filtered
  rw [if_neg notLast, if_pos (List.contains_iff_mem.mpr (isActive_ ▸ active))]
  exact ⟨failed, gone⟩

/-! ### The slow limit and undervoltage -/

/-- A trip latches: OVLP asks for it, or it is the eighth of its run. -/
def tripLatches (s : State) (n : Nat) : Bool := (polOf s).ovlp = 0 || 8 ≤ n

/-- A trip of a channel whose PGOOD has not been asserted since the last one. -/
theorem overloadTrip_effect {s : State} {c : Chan} (code : BitVec 5) (uv : Bool) (snap : Snap) {n : Nat}
    (never : (chan s c).goodSince = none) (count : n = (if uv then (chan s c).runUv else (chan s c).run) + 1) :
    (chan (overloadTrip s c code uv snap) c).pgood = false ∧ switching (chan (overloadTrip s c code uv snap) c) = false ∧
      (chan (overloadTrip s c code uv snap) c).phase = (if tripLatches s n then .latched else .waiting .retry) ∧
      (if uv then (chan (overloadTrip s c code uv snap) c).runUv else (chan (overloadTrip s c code uv snap) c).run) =
        if tripLatches s n then 0 else n := by
  unfold overloadTrip
  extract_lets x long n' latch s1 s2
  have isN : n' = n := by
    rw [count]
    exact if_neg (by unfold long; rw [show x.goodSince = none from never]; simp)
  have isLatch : latch = tripLatches s n := by
    unfold latch tripLatches
    rw [isN]
  obtain ⟨own, ref, high, target, targetHigh, r, u, at_, _⟩ := stopChan_chan s1 c (if latch then .latched else .waiting .retry)
  rw [chan_modChan_same]
  have isS2 : chan s2 c = _ := at_
  rw [isS2, ← isLatch, isN]
  cases uv
  · refine ⟨rfl, ?_, rfl, rfl⟩
    cases latch <;> rfl
  · refine ⟨rfl, ?_, rfl, rfl⟩
    cases latch <;> rfl

/-- Settles O48: trips in and outside the pulse, the runs of trips, and the waits. -/
theorem limitsStopTheChannel : Obligations.LimitsStopTheChannel := by
  refine ⟨fun c k succ snap n i s runs active isI isN => ?_, fun k succ snap s => ⟨fun runs active => ⟨fun may twice again => ?_,
    fun not => ?_⟩, fun runs => ?_, fun c ip idle => congrArg Host.Outcome.next (if_pos (by simp [idle]))⟩,
    fun c average n snap s phases cold never isN => ⟨fun below => ?_, fun above => ?_⟩,
    fun c fb low snap s regulates cold isLow never => ⟨fun fine => ?_, fun under => ?_⟩, fun c s => ⟨fun waits cold => ?_, fun waits => ?_⟩⟩
  · have trunk : i = trunkOf c k := by
      rw [isI]
      cases c <;> rfl
    subst trunk
    have run := exec_fastLimitTrip (k := k) true succ snap runs active
    dsimp only at run
    rw [if_pos rfl, truncate_eq] at run
    dsimp only at run
    rw [← isN] at run
    refine ⟨_, run, ?_, fun few => ?_, fun many => ?_⟩
    · have latched : vget ({ s with mons.pcl := vset s.mons.pcl (trunkOf c k) true } : State).mons.pcl false (trunkOf c k) = true :=
        vget_vset_same _ _ _ (trunkOf_lt c k)
      split
      · rw [show (hiccup _ c snap).mons = _ from (hiccup_only ..).same .mons rfl, pulseTruncated_mons]
        exact latched
      · rw [pulseTruncated_mons]
        exact latched
    · rw [if_neg (by omega)]
      obtain ⟨trunc, left, same, prot, main, aux⟩ :=
        pulseTruncated_effect { s with mons.pcl := vset s.mons.pcl (trunkOf c k) true } c k few
      exact ⟨trunc, left, same.trans (by cases c <;> rfl), prot, main, aux⟩
    · rw [if_pos many]
      exact hiccup_effect ..
  · have run := exec_fastLimitTrip (c := .main) (k := k) false succ snap runs fun _ => active
    dsimp only at run
    have mayHere : mayFail { s with mons.pcl := vset s.mons.pcl (trunkOf .main k) true } = true := may
    rw [if_neg Bool.false_ne_true, if_neg (by decide), if_pos (by simp only [twice, again, mayHere, Bool.and_self])] at run
    have several : 2 ≤ (ring s).length := by
      unfold mayFail at may
      simp only [Bool.and_eq_true, decide_eq_true_eq] at may
      exact may.1.1.1
    exact ⟨_, run, failPhase_effect (s := { s with mons.pcl := vset s.mons.pcl (trunkOf .main k) true }) _ snap several active⟩
  · have run := exec_fastLimitTrip (c := .main) (k := k) false succ snap runs fun _ => active
    dsimp only at run
    have fails : ¬ (succ && s.reg.offTrip[k] && mayFail { s with mons.pcl := vset s.mons.pcl (trunkOf .main k) true }) = true := by
      change ¬ (succ && s.reg.offTrip[k] && mayFail s) = true
      rcases not with h | h | h <;> rw [h] <;> simp
    rw [if_neg Bool.false_ne_true, if_neg (by decide), if_neg fails] at run
    exact ⟨_, run, Vector.getElem_set_self _, rfl,
      Only.set_reg (Only.set_mons (Only.refl _ s) { s.mons with pcl := vset s.mons.pcl (trunkOf .main k) true } rfl) _ rfl⟩
  · have run := exec_fastLimitTrip (c := .aux) (k := k) false succ snap runs nofun
    dsimp only at run
    rw [if_neg Bool.false_ne_true, if_pos rfl] at run
    exact ⟨_, run, vget_vset_same _ _ _ (by decide), Only.set_mons (Only.refl _ s) _ rfl⟩
  · subst isN
    exact congrArg Host.Outcome.next (if_neg fun h =>
      absurd (of_decide_eq_true (Bool.and_eq_true_iff.mp h).2) (Nat.not_lt.mpr below))
  · subst isN
    have run : exec (.slowLimitTrip c average snap) s = .next (overloadTrip s c 0x02 false snap) := by
      refine congrArg Host.Outcome.next (if_pos (Bool.and_eq_true_iff.mpr ⟨?_, decide_eq_true above⟩))
      rcases phases with h | h | h <;> simp [h, cold]
    obtain ⟨pgood, stops, phase, count⟩ := overloadTrip_effect 0x02 false snap never rfl
    refine ⟨_, run, pgood, stops, fun latches => ?_, fun policy few => ?_⟩
    · have latch : tripLatches s ((chan s c).run + 1) = true := by
        unfold tripLatches
        rcases latches with h | h
        · simp [h]
        · simp [show 7 ≤ (chan s c).run from h]
      exact ⟨phase.trans (if_pos latch), count.trans (if_pos latch)⟩
    · have retry : ¬ tripLatches s ((chan s c).run + 1) = true := by
        unfold tripLatches
        simp [policy]
        omega
      exact ⟨phase.trans (if_neg retry), count.trans (if_neg retry)⟩
  · refine congrArg Host.Outcome.next (if_neg fun h => ?_)
    have fires := (Bool.and_eq_true_iff.mp h).2
    subst isLow
    cases c <;> exact Bool.false_ne_true (fine.symm.trans fires)
  · have run : exec (.undervoltage c fb snap) s = .next (overloadTrip s c 0x03 true snap) := by
      refine congrArg Host.Outcome.next (if_pos (Bool.and_eq_true_iff.mpr ⟨by simp [regulates, cold], ?_⟩))
      subst isLow
      cases c <;> exact under
    obtain ⟨pgood, stops, phase, count⟩ := overloadTrip_effect 0x03 true snap never rfl
    refine ⟨_, run, pgood, stops, fun latches => ?_, fun policy few => ?_⟩
    · have latch : tripLatches s ((chan s c).runUv + 1) = true := by
        unfold tripLatches
        rcases latches with h | h
        · simp [h]
        · simp [show 7 ≤ (chan s c).runUv from h]
      exact ⟨phase.trans (if_pos latch), count.trans (if_pos latch)⟩
    · have retry : ¬ tripLatches s ((chan s c).runUv + 1) = true := by
        unfold tripLatches
        simp [policy]
        omega
      exact ⟨phase.trans (if_neg retry), count.trans (if_neg retry)⟩
  · exact ⟨_, congrArg Host.Outcome.next (if_pos (by simp [waits, cold])), chan_modChan_same .., modChan_only ..⟩
  · exact ⟨_, congrArg Host.Outcome.next (if_pos waits), chan_modChan_same .., modChan_only ..⟩

end Sys2Proof.Proofs

/-! ## Entries of a notice while no profile and no request to leave waits (files 09, 10 and 16) -/

namespace Sys2Proof.Proofs

open Sys2Proof Sys2Proof.Machine

/-- No request of a running profile, and none that leaves on, waits for its turn. -/
def Calm (s : State) : Prop := ∀ d : Nat, ∀ q ∈ (dom s d).reqs, q.job = 0 ∧ q.target = .on

theorem Calm.of_quiet {s : State} (h : quiet s) : Calm s := fun d q mem => by rw [h d] at mem; cases mem

theorem Calm.of_doms {s t : State} (h : Calm s) (doms : t.bridle.doms = s.bridle.doms) : Calm t := fun d q mem =>
  h d q (by unfold dom at mem ⊢; rwa [doms] at mem)

theorem Calm.of_bridle {s t : State} (h : Calm s) (bridle : t.bridle = s.bridle) : Calm t :=
  h.of_doms (congrArg Bridle.doms bridle)

/-! ### Requests for a domain to come on -/

/-- In a calm state, a step that can only ask for domains: Bridle, its alerts and its words of the status window. -/
structure Asks (s t : State) : Prop where
  keeps : Calm s → Calm t ∧ Only [.bridle, .prot, .win] s t

theorem Asks.refl (s : State) : Asks s s := ⟨fun h => ⟨h, .refl _ _⟩⟩

theorem Asks.trans {s t u : State} (h : Asks s t) (k : Asks t u) : Asks s u := ⟨fun calm => by
  obtain ⟨calmT, onlyT⟩ := h.keeps calm
  obtain ⟨calmU, onlyU⟩ := k.keeps calmT
  exact ⟨calmU, onlyT.post onlyU rfl⟩⟩

theorem Asks.ite {c : Prop} [Decidable c] {s t u : State} (h : Asks s t) (k : Asks s u) : Asks s (if c then t else u) := by
  split
  · exact h
  · exact k

theorem Asks.foldl {α : Type} {g : State → α → State} (step : ∀ t x, Asks t (g t x)) (l : List α)
    {s t : State} (h : Asks s t) : Asks s (l.foldl g t) := by
  induction l generalizing t with
  | nil => exact h
  | cons x rest ih => exact ih (h.trans (step t x))

theorem Asks.of_calm {s t : State} (h : Calm s → Asks s t) : Asks s t := ⟨fun calm => (h calm).keeps calm⟩

theorem Asks.of_only {s t : State} (only : Only [.bridle, .prot, .win] s t) (doms : t.bridle.doms = s.bridle.doms) :
    Asks s t := ⟨fun calm => ⟨calm.of_doms doms, only⟩⟩

theorem modDom_asks {s : State} {d : Nat} {f : Dom → Dom}
    (reqs : ∀ q ∈ (f (dom s d)).reqs, q ∈ (dom s d).reqs ∨ (q.job = 0 ∧ q.target = .on)) : Asks s (modDom s d f) := by
  refine ⟨fun calm => ⟨fun e q mem => ?_, (modDom_only s d f).mono rfl⟩⟩
  rw [dom_modDom] at mem
  split at mem
  · next here => exact (reqs q (here.1 ▸ mem)).elim (calm d q) id
  · exact calm e q mem

/-- A change of a domain that leaves the requests that wait. -/
theorem modDom_asks_of_reqs {s : State} {d : Nat} {f : Dom → Dom} (reqs : ∀ m, (f m).reqs = m.reqs) :
    Asks s (modDom s d f) := modDom_asks fun _ mem => .inl (reqs _ ▸ mem)

theorem w0bEntry_asks (s : State) (sel : BitVec 5) (o : Origin) (r : ReqResult) (reason : BitVec 4) (alert : Bool) :
    Asks s (w0bEntry s sel o r reason alert) := by
  refine .of_only ((w0bEntry_only ..).mono rfl) ?_
  unfold w0bEntry
  dsimp only
  split <;> rfl

theorem recordW2E_asks (s : State) (item : BitVec 4) (reason : Byte) (id : Half) : Asks s (recordW2E s item reason id) :=
  .of_only ((recordW2E_only ..).mono rfl) (congrArg Bridle.doms ((recordW2E_only s item reason id).same .bridle rfl))

theorem resolve_asks (s : State) (d : Nat) {q : Req} (r : ReqResult) (reason : BitVec 4) (noJob : q.job = 0) :
    Asks s (resolve s d q r reason) := by
  unfold resolve
  extract_lets sel s0 s1 s2
  have h0 : Asks s s0 := .ite (recordW2E_asks ..) (.refl _)
  have h1 : Asks s s1 := .ite (h0.trans (w0bEntry_asks ..)) <| .ite (.refl _) <|
    .ite (.ite (.refl _) ((w0bEntry_asks ..).trans (modDom_asks_of_reqs fun _ => rfl))) (w0bEntry_asks ..)
  have h2 : Asks s s2 := .ite (h1.trans (modDom_asks_of_reqs fun _ => rfl)) h1
  rw [if_pos noJob]
  exact h2

theorem enqueue_asks (s : State) (d : Nat) {q : Req} (noJob : q.job = 0) (on : q.target = .on) : Asks s (enqueue s d q) := by
  refine modDom_asks fun x mem => ?_
  rcases List.mem_append.mp mem with old | new
  · refine .inl ?_
    split at old
    · exact old
    · exact (List.mem_filter.mp old).1
  · rw [List.mem_singleton.mp new]
    exact .inr ⟨noJob, on⟩

theorem advance_asks (s : State) (d fuel : Nat) : Asks s (advance s d fuel) := by
  induction fuel generalizing s with
  | zero => exact .refl _
  | succ fuel ih =>
    unfold advance
    extract_lets m
    split
    · exact .refl _
    · exact .refl _
    next q rest _ waits =>
    have reqs : (dom s d).reqs = q :: rest := waits
    refine .of_calm fun calm => ?_
    obtain ⟨noJob, on⟩ := calm d q (by rw [reqs]; exact List.mem_cons_self)
    extract_lets s1 s2
    have h1 : Asks s s1 := modDom_asks fun x mem => .inl (by
      rw [reqs]
      exact List.mem_cons_of_mem _ mem)
    split
    · exact h1.trans ((resolve_asks _ _ _ _ noJob).trans (ih _))
    split
    · exact h1.trans ((resolve_asks _ _ _ _ noJob).trans (ih _))
    split
    · exact h1.trans (modDom_asks_of_reqs fun _ => rfl)
    · exact h1.trans (modDom_asks_of_reqs fun _ => rfl)

theorem askRequired_asks (s : State) (d : Nat) : Asks s (askRequired s d) := by
  have ask : ∀ t : State, ∀ r, Asks t
      (if isOn t r || risesLater t r || leaving t r then t else takeOrder (enqueue t r (devReq .on)) r) := fun t r =>
    .ite (.refl _) ((enqueue_asks t r (q := devReq .on) rfl rfl).trans (advance_asks ..))
  unfold askRequired
  split
  · exact .foldl ask _ (.refl _)
  · exact .foldl ask _ (.refl _)
  · exact .refl _

theorem demand_asks (s : State) (d : Nat) : Asks s (demand s d) :=
  .ite (.refl _) ((enqueue_asks s d (q := demandReq) rfl rfl).trans ((advance_asks ..).trans (askRequired_asks ..)))

theorem idleReturn_asks (s : State) (d : Nat) : Asks s (idleReturn s d) := .ite (demand_asks ..) (.refl _)

theorem askAccess_asks (s : State) (f : QFrame) : Asks s (askAccess s f) := .foldl idleReturn_asks _ (.refl _)

theorem askMemory_asks (s : State) : Asks s (askMemory s) := by
  unfold askMemory
  split
  · exact .refl _
  split
  · exact demand_asks ..
  · exact .refl _

/-! ### Entries -/

/-- What an entry of a notice may change beside its requests: the gathered entries, the NOTICE that they become, and what is
kept or lost. -/
structure Noted (s t : State) : Prop where
  calm : Calm t
  only : Only [.bridle, .prot, .tether, .queues, .win] s t
  tether : t.tether = { s.tether with sseq := t.tether.sseq, nseq := t.tether.nseq }
  queues : t.queues = { s.queues with
    gather := t.queues.gather, nextId := t.queues.nextId, alloc := t.queues.alloc, qs := t.queues.qs, kept := t.queues.kept
    lostEntries := t.queues.lostEntries, deferred := t.queues.deferred }
  others : ∀ tag, tag ≠ noticeTag → queueOf t tag = queueOf s tag

/-- In a calm state, a step that can only note entries. -/
structure Notes (s t : State) : Prop where
  keeps : Calm s → Noted s t

theorem Notes.refl (s : State) : Notes s s := ⟨fun calm => ⟨calm, .refl _ _, rfl, rfl, fun _ _ => rfl⟩⟩

theorem Notes.trans {s t u : State} (h : Notes s t) (k : Notes t u) : Notes s u := ⟨fun calm => by
  have first := h.keeps calm
  have second := k.keeps first.calm
  exact {
    calm := second.calm
    only := first.only.post second.only rfl
    tether := second.tether.trans (by rw [first.tether])
    queues := second.queues.trans (by rw [first.queues])
    others := fun tag other => (second.others tag other).trans (first.others tag other) }⟩

theorem Notes.ite {c : Prop} [Decidable c] {s t u : State} (h : Notes s t) (k : Notes s u) : Notes s (if c then t else u) := by
  split
  · exact h
  · exact k

theorem Notes.foldl {α : Type} {g : State → α → State} (step : ∀ t x, Notes t (g t x)) (l : List α)
    {s t : State} (h : Notes s t) : Notes s (l.foldl g t) := by
  induction l generalizing t with
  | nil => exact h
  | cons x rest ih => exact ih (h.trans (step t x))

theorem queueOf_of_queues {s t : State} (same : t.queues = s.queues) (tag : Nat) : queueOf t tag = queueOf s tag := by
  unfold queueOf
  rw [same]

theorem Asks.notes {s t : State} (h : Asks s t) : Notes s t := ⟨fun calm => by
  obtain ⟨calmT, only⟩ := h.keeps calm
  have tether := only.same .tether rfl
  have queues := only.same .queues rfl
  exact ⟨calmT, only.mono rfl, by rw [tether], by rw [queues], fun tag _ => queueOf_of_queues queues tag⟩⟩

theorem Notes.of_queues {s : State} {q : Queues}
    (queues : q = { s.queues with
      gather := q.gather, nextId := q.nextId, alloc := q.alloc, qs := q.qs, kept := q.kept
      lostEntries := q.lostEntries, deferred := q.deferred })
    (qs : q.qs = s.queues.qs) : Notes s { s with queues := q } := ⟨fun calm =>
  { calm := calm.of_doms rfl
    only := Only.set_queues (Only.refl _ _) q rfl
    tether := rfl
    queues := queues
    others := fun tag _ => by
      unfold queueOf
      rw [show ({ s with queues := q } : State).queues.qs = s.queues.qs from qs] }⟩

theorem assoc_assocDel_ne {β : Type} (l : List (Nat × β)) {k j : Nat} (other : j ≠ k) :
    assoc (assocDel l k) j = assoc l j := by
  unfold assoc assocDel
  rw [List.find?_filter]
  congr 2
  funext p
  by_cases here : p.1 = j
  · subst here
    simp [other]
  · simp [here]

theorem queueOf_setQueue (s : State) (tag : Nat) (l : List QFrame) : queueOf (setQueue s tag l) tag = l := by
  unfold queueOf setQueue
  dsimp only
  split
  · next none_ =>
    rw [assoc_assocDel_same, List.isEmpty_iff.mp none_]
    rfl
  · rw [assoc_assocPut_same]
    rfl

theorem queueOf_setQueue_ne (s : State) {tag k : Nat} (l : List QFrame) (other : k ≠ tag) :
    queueOf (setQueue s tag l) k = queueOf s k := by
  unfold queueOf setQueue
  dsimp only
  split
  · rw [assoc_assocDel_ne _ other]
  · rw [assoc_assocPut_ne _ _ other]

/-- The NOTICE that closes on the gathered entries, in the queue of the notices. -/
def noticeClosed (s : State) (cs : List Nat) (f : QFrame) : State :=
  pushQueue
    { allocCells s cs with
      queues.gather := []
      queues.nextId := s.queues.nextId + 1
      tether.sseq := s.tether.sseq + 1
      tether.nseq := s.tether.nseq + 1 } noticeTag f

theorem noticeClosed_only (s : State) (cs : List Nat) (f : QFrame) : Only [.tether, .queues] s (noticeClosed s cs f) :=
  Only.set_tether (Only.set_queues (ps := [.tether, .queues]) (Only.refl _ s) _ rfl) _ rfl

theorem noticeClosed_others (s : State) (cs : List Nat) (f : QFrame) {tag : Nat} (other : tag ≠ noticeTag) :
    queueOf (noticeClosed s cs f) tag = queueOf s tag := queueOf_setQueue_ne _ _ other

theorem closeNotice_notes (s : State) : Notes s (closeNotice s) := by
  have closed : ∀ cs f, Notes s (noticeClosed s cs f) := fun cs f => ⟨fun calm =>
    { calm := calm.of_doms rfl
      only := (noticeClosed_only s cs f).mono rfl
      tether := rfl
      queues := rfl
      others := fun tag other => noticeClosed_others s cs f other }⟩
  exact .ite (.refl _) (.ite (Asks.foldl idleReturn_asks _ (.refl _)).notes (closed ..))

theorem makeRoom_notes (s : State) (es : List (List Byte)) : Notes s (makeRoom s es) :=
  .ite (closeNotice_notes ..) (.refl _)

theorem addEntry_notes (s : State) (e : List Byte) : Notes s (addEntry s e) := by
  unfold addEntry
  extract_lets s' q0 s1 more q1 s2
  have h0 : Notes s s' := .ite (recordW2E_asks ..).notes (.refl _)
  have h1 : Notes s s1 := h0.trans (makeRoom_notes ..)
  have h2 : Notes s s2 := h1.trans (.of_queues rfl rfl)
  have full : ∀ n, Notes s { s1 with queues.lostEntries := n } := fun _ => h1.trans (.of_queues rfl rfl)
  split
  · exact h0
  split
  · exact h0
  split
  · exact h0.trans (.of_queues rfl rfl)
  split
  · exact .ite (h0.trans (.of_queues rfl rfl)) (h0.trans (.of_queues rfl rfl))
  split
  · exact .ite (h2.trans (closeNotice_notes ..)) h2
  · exact (full _).trans (askMemory_asks _).notes

theorem addEntries_notes (s : State) (es : List (List Byte)) : Notes s (addEntries s es) :=
  .foldl addEntry_notes _ (.ite (.refl _) (makeRoom_notes ..))

theorem reportFrame_notes (s : State) (b : List Byte) (tag : Half) (reason : Byte) : Notes s (reportFrame s b tag reason) :=
  .ite (.refl _) (addEntry_notes ..)

/-- Entries leave the WAKE pins while no job waits. -/
theorem addEntries_act {s : State} (es : List (List Byte)) (calm : Calm s) : (addEntries s es).act = s.act :=
  ((addEntries_notes s es).keeps calm).only.same .act rfl

end Sys2Proof.Proofs

/-! ## Overvoltage, sense loss, derating and the fault record (file 13) -/

namespace Sys2Proof.Proofs

open Sys2Proof Sys2Proof.Machine

/-! ### Overvoltage -/

/-- A stopped auxiliary channel takes up the codes of the straps. -/
theorem stopChan_strapsA (s : State) {ph : ChPhase} (off : switching { (chan s .aux) with phase := ph } = false) :
    (stopChan s .aux ph).reg.strapsA = regStrapsOf s := by
  have stopped := stopChan_stops s .aux off
  have straps : regStrapsOf (stopChan s .aux ph) = regStrapsOf s := by
    unfold regStrapsOf rv
    rw [(stopChan_only s .aux ph).same .straps rfl]
  rw [← straps]
  exact if_neg fun runs => Bool.false_ne_true (stopped.symm.trans runs)

/-- The auxiliary overvoltage latches the channel, with its ball Low unless the straps or the TAP hold it. -/
theorem auxOvervoltage_effect (s : State) (snap : Snap) :
    (overvoltage s .aux snap).reg.aux.phase = .latched ∧ (overvoltage s .aux snap).reg.aux.heldLow = true ∧
      (overvoltage s .aux snap).reg.aux.pgood = false ∧ (overvoltage s .aux snap).reg.main.phase = s.reg.main.phase ∧
      (overvoltage s .aux snap).reg.pwmA = (if auxDisabled (regStrapsOf s) || s.tap.forced then .mid else .low) := by
  unfold overvoltage
  extract_lets s1 s2
  have captured := capture_only s 0x04 0 .aux true snap []
  have stopped := stopChan_only (capture s 0x04 0 .aux true snap []) .aux .latched
  obtain ⟨phase, pgood, _⟩ := stopChan_same (capture s 0x04 0 .aux true snap []) .aux .latched
  have main : s1.reg.main.phase = s.reg.main.phase := by
    obtain ⟨own, ref, high, reg⟩ := capture_reg s 0x04 0 .aux true snap []
    exact (congrArg ChanSt.phase (stopChan_ne (c := .aux) (k := .main) _ _ nofun) :).trans (congrArg (·.main.phase) reg :)
  have straps : s1.reg.strapsA = regStrapsOf s := by
    refine (stopChan_strapsA _ rfl).trans ?_
    unfold regStrapsOf rv
    rw [captured.same .straps rfl]
  have tap : s1.tap = s.tap := (stopped.same .tap rfl).trans (captured.same .tap rfl)
  have disabled : strapDisabled s2 .aux = auxDisabled (regStrapsOf s) := (congrArg auxDisabled straps :)
  have forced : s2.tap.forced = s.tap.forced := congrArg Tap.forced tap
  have ball : s1.reg.pwmA = .mid := (stopChan_balls _ _ _).2 rfl
  rw [disabled, forced]
  split
  · exact ⟨phase, rfl, pgood, main, ball⟩
  · exact ⟨phase, rfl, pgood, main, rfl⟩

theorem setPwm_chan_off (s : State) (c : Chan) (f : ChanSt → ChanSt) : chan (setPwm (modChan s c f) c .mid) c = f (chan s c) := by
  cases c <;> rfl

theorem overvoltageRelease_effect (s : State) (c : Chan) (fb : Nat) (held : (chan s c).heldLow = true) :
    ((chan s c).ref ≤ 2 * fb → exec (.overvoltageRelease c fb) s = .next s) ∧
    (2 * fb < (chan s c).ref → ∃ t, exec (.overvoltageRelease c fb) s = .next t ∧
      chan t c = { chan s c with heldLow := false } ∧ Only [.reg] s t ∧
      (c = .main → ∀ k : Fin 6, t.reg.pwm[k] = .mid) ∧ (c = .aux → t.reg.pwmA = .mid)) := by
  refine ⟨fun high => ?_, fun low => ?_⟩
  · exact congrArg Host.Outcome.next (if_neg (by simp [held]; omega))
  · have run : exec (.overvoltageRelease c fb) s =
        .next (setPwm (modChan s c fun y => { y with heldLow := false }) c .mid) :=
      congrArg Host.Outcome.next (if_pos (by simp [held, low]))
    refine ⟨_, run, setPwm_chan_off .., execOvervoltageRelease_only c fb s _ run, ?_, ?_⟩
    · rintro rfl k
      exact Vector.getElem_replicate _
    · rintro rfl
      rfl

/-! ### Sense loss -/

theorem moveToVloc_effect {s : State} (snap : Snap) (onFeedback : s.reg.main.vloc = false) :
    ∃ own ref high, (moveToVloc s snap).reg =
      { s.reg with main := { s.reg.main with vloc := true, own := own, ref := ref, high := high } } := by
  obtain ⟨own, ref, high, reg⟩ := capture_reg s 0x05 0 .main false snap []
  refine ⟨own, ref, high, ?_⟩
  rw [moveToVloc, if_neg (by simp [onFeedback])]
  change { (capture s 0x05 0 .main false snap []).reg with
    main := { (capture s 0x05 0 .main false snap []).reg.main with vloc := true } } = _
  rw [reg]
  rfl

theorem senseLoss_effect (snap : Snap) {s : State} (runs : switching s.reg.main = true) (onFeedback : s.reg.main.vloc = false)
    (lost : live s 3 = true) : ∃ t, exec (.senseLoss snap) s = .next t ∧ t.reg.main.vloc = true ∧
      t.reg.main.phase = s.reg.main.phase ∧ t.reg.main.e = s.reg.main.e ∧ t.reg.main.y = s.reg.main.y ∧
      t.reg.main.coef = s.reg.main.coef ∧
      (s.reg.main.phase = .regulating → t.reg = { s.reg with main := { s.reg.main with vloc := true } }) := by
  obtain ⟨own, ref, high, reg⟩ := moveToVloc_effect snap onFeedback
  refine ⟨moveToVloc s snap, congrArg Host.Outcome.next (if_pos (by simp [runs, lost])), ?_⟩
  refine ⟨by rw [reg], by rw [reg], by rw [reg], by rw [reg], by rw [reg], fun steady => ?_⟩
  have still := capture_reg_of_still (s := s) (c := .main) 0x05 0 false snap
    (by rw [show (chan s .main).phase = .regulating from steady]; decide)
  rw [moveToVloc, if_neg (by simp [onFeedback])]
  change { (capture s 0x05 0 .main false snap []).reg with
    main := { (capture s 0x05 0 .main false snap []).reg.main with vloc := true } } = _
  rw [still]

theorem vlocLost_effect (vloc dv : Nat) (snap : Snap) {s : State} (steady : s.reg.main.phase = .regulating) :
    (s.reg.main.vloc = true → vlocLost s vloc dv = true → ∃ t, exec (.vlocLost vloc dv snap) s = .next t ∧
      t.reg.main.phase = .latched ∧ t.reg.main.pgood = false ∧ t.reg.active = []) ∧
    (s.reg.main.vloc = false ∨ vlocLost s vloc dv = false → exec (.vlocLost vloc dv snap) s = .next s) := by
  have still : moveRef s .main = s := moveRef_still (by rw [show (chan s .main).phase = .regulating from steady]; decide)
  have runs : switching s.reg.main = true := by rw [switching, steady]
  have step : exec (.vlocLost vloc dv snap) s = .next (if switching s.reg.main && s.reg.main.vloc && vlocLost s vloc dv then
      stopChan (capture s 0x06 0 .main true snap []) .main .latched else s) := by
    change execVlocLost vloc dv snap s = _
    unfold execVlocLost
    rw [still]
  rw [step]
  refine ⟨fun onVloc lost => ?_, fun stays => congrArg Host.Outcome.next (if_neg ?_)⟩
  · obtain ⟨phase, pgood, _⟩ := stopChan_same (capture s 0x06 0 .main true snap []) .main .latched
    exact ⟨_, congrArg Host.Outcome.next (if_pos (by simp [runs, onVloc, lost])), phase, pgood,
      ((stopChan_balls _ _ _).1 rfl).1⟩
  · rcases stays with not_ | not_ <;> simp [not_]

/-! ### Derating -/

/-- What the derating of a channel leaves, and that level 4 stops it. -/
theorem derateChan_effect (s : State) (c : Chan) (snap : Snap) : (derateChan s c snap).reg.der5 = s.reg.der5 ∧
    (derateChan s c snap).reg.der6 = s.reg.der6 ∧ (∀ k, k ≠ c → chan (derateChan s c snap) k = chan s k) ∧
    (derateOf s c = 4 → switching (chan (derateChan s c snap) c) = false) := by
  unfold derateChan
  split
  next top =>
    split
    · obtain ⟨_, cap5, cap6, _⟩ := capture_others s 0x08 0 c true snap []
      obtain ⟨_, stop5, stop6⟩ := stopChan_others (capture s 0x08 0 c true snap []) c (.waiting .thermal)
      refine ⟨stop5.trans cap5, stop6.trans cap6, fun k other => ?_, fun _ => stopChan_stops _ _ rfl⟩
      obtain ⟨own, ref, high, reg⟩ := capture_reg s 0x08 0 c true snap []
      exact (stopChan_ne _ _ other).trans ((chan_of_reg reg k).trans (chan_modChan_ne _ _ _ _ other))
    · next off => exact ⟨rfl, rfl, fun _ _ => rfl, fun _ => by simpa using off⟩
  next notTop =>
    extract_lets s1
    refine ⟨?_, ?_, fun k other => ?_, fun top => absurd top notTop⟩
    · split
      · cases c <;> rfl
      · rfl
    · split
      · cases c <;> rfl
      · rfl
    · split
      · exact (chan_modChan_ne _ _ _ _ other).trans (chan_of_reg (endAlarms_reg ..) k)
      · exact chan_of_reg (endAlarms_reg ..) k

/-- The state with the level of one derating changed. -/
def putLevel (s : State) (ext : Bool) (n : Nat) : State :=
  if ext then { s with reg.der6 := { s.reg.der6 with level := n } } else { s with reg.der5 := { s.reg.der5 with level := n } }

/-- The deratings that follow a level in the regulator. -/
theorem setLevel_effect (s : State) (ext : Bool) (n : Nat) (snap : Snap) :
    (setLevel s ext n snap).reg.der5 = (putLevel s ext n).reg.der5 ∧
      (setLevel s ext n snap).reg.der6 = (putLevel s ext n).reg.der6 ∧
      (derateOf (putLevel s ext n) .main = 4 → switching (setLevel s ext n snap).reg.main = false) := by
  obtain ⟨main5, main6, _, mainStops⟩ := derateChan_effect (putLevel s ext n) .main snap
  obtain ⟨aux5, aux6, auxLeaves, _⟩ := derateChan_effect (derateChan (putLevel s ext n) .main snap) .aux snap
  have mainKept := auxLeaves .main nofun
  unfold setLevel
  extract_lets old put s1 s2 s3
  have captured : s3.reg.der5 = s2.reg.der5 ∧ s3.reg.der6 = s2.reg.der6 ∧
      switching (chan s3 .main) = switching (chan s2 .main) := by
    unfold s3
    split
    · obtain ⟨_, cap5, cap6, _⟩ := capture_others s2 0x07 0 .main false snap []
      obtain ⟨own, ref, high, at_⟩ := capture_chan s2 0x07 0 .main false snap []
      exact ⟨cap5, cap6, (congrArg switching at_ :)⟩
    · exact ⟨rfl, rfl, rfl⟩
  obtain ⟨cap5, cap6, capMain⟩ := captured
  have after : ∀ t : State, t.reg = s3.reg → t.reg.der5 = (putLevel s ext n).reg.der5 ∧
      t.reg.der6 = (putLevel s ext n).reg.der6 ∧
      (derateOf (putLevel s ext n) .main = 4 → switching t.reg.main = false) := fun t same => by
    rw [same]
    exact ⟨cap5.trans (aux5.trans main5), cap6.trans (aux6.trans main6), fun top =>
      capMain.trans ((congrArg switching mainKept).trans (mainStops top))⟩
  split
  · exact after _ (endAlarms_reg ..)
  · exact after _ rfl

/-- The derating that an interval of WM05 or WM06 moves, with what it noted. -/
def notedAbove (s : State) (ext now : Bool) : State :=
  if ext then { s with reg.der6.above := now } else { s with reg.der5.above := now }

theorem derateInterval_effect (ext above below : Bool) (k low high vana : Nat) (q : Derate) (snap : Snap) (s : State)
    (which : k = (if ext then 6 else 5)) (derating : q = (if ext then s.reg.der6 else s.reg.der5))
    (isAbove : above = (q.above || (mon s k).above || (low ≤ high && crosses s k .upper ⟨high, 0, vana⟩)))
    (isBelow : below = decide ((high : Int) * 1024 < threshold s k .lower ⟨high, 0, vana⟩ - 1024 * hystUv s k))
    (enabled : monEnabled s k = true) (on : isOn s 17 = true) (cold : s.reg.main.warm = false)
    (at5 : s.reg.der5.level ≤ 4) (at6 : s.reg.der6.level ≤ 4) :
    ∃ t, exec (.derateInterval ext low high vana snap) s = .next t ∧
      (if ext then t.reg.der6 else t.reg.der5).level =
        (if above then min (q.level + 1) 4 else if below then q.level - 1 else q.level) ∧
      (if ext then t.reg.der6 else t.reg.der5).above = (mon s k).above ∧
      (if ext then t.reg.der5 else t.reg.der6) = (if ext then s.reg.der5 else s.reg.der6) ∧
      (above = true → q.level = 3 → switching t.reg.main = false) := by
  have step : exec (.derateInterval ext low high vana snap) s = .next
      (if above then setLevel (notedAbove s ext (mon s k).above) ext (min (q.level + 1) 4) snap
      else if below then setLevel (notedAbove s ext (mon s k).above) ext (q.level - 1) snap
      else notedAbove s ext (mon s k).above) := by
    have guard : ¬(!monEnabled s k || !isOn s 17 || s.reg.main.warm) = true := by simp [enabled, on, cold]
    subst which derating isAbove isBelow
    refine congrArg Host.Outcome.next ((if_neg guard).trans ?_)
    simp only [decide_eq_true_eq]
    rfl
  have level : ∀ n : Nat, (if ext then (putLevel (notedAbove s ext (mon s k).above) ext n).reg.der6
        else (putLevel (notedAbove s ext (mon s k).above) ext n).reg.der5) = ⟨n, (mon s k).above⟩ ∧
      (if ext then (putLevel (notedAbove s ext (mon s k).above) ext n).reg.der5
        else (putLevel (notedAbove s ext (mon s k).above) ext n).reg.der6) = (if ext then s.reg.der5 else s.reg.der6) ∧
      (n = 4 → derateOf (putLevel (notedAbove s ext (mon s k).above) ext n) .main = 4) := fun n => by
    cases ext
    · exact ⟨rfl, rfl, fun top => by subst top; exact Nat.max_eq_left at6⟩
    · exact ⟨rfl, rfl, fun top => by subst top; exact Nat.max_eq_right at5⟩
  have set (n : Nat) (t : State) (is : t = setLevel (notedAbove s ext (mon s k).above) ext n snap) :
      (if ext then t.reg.der6 else t.reg.der5).level = n ∧
      (if ext then t.reg.der6 else t.reg.der5).above = (mon s k).above ∧
      (if ext then t.reg.der5 else t.reg.der6) = (if ext then s.reg.der5 else s.reg.der6) ∧
      (n = 4 → switching t.reg.main = false) := by
    obtain ⟨der5, der6, stops⟩ := setLevel_effect (notedAbove s ext (mon s k).above) ext n snap
    obtain ⟨mine, other, top⟩ := level n
    rw [is, der5, der6, mine, other]
    exact ⟨rfl, rfl, rfl, fun is4 => stops (top is4)⟩
  refine ⟨_, step, ?_⟩
  cases above
  case true =>
    obtain ⟨lev, ab, other, stops⟩ := set (min (q.level + 1) 4) _ rfl
    exact ⟨lev, ab, other, fun _ is3 => stops (by rw [is3]; rfl)⟩
  case false =>
    cases below
    case true =>
      obtain ⟨lev, ab, other, _⟩ := set (q.level - 1) _ rfl
      exact ⟨lev, ab, other, nofun⟩
    case false =>
      rw [derating]
      unfold notedAbove
      cases ext <;> exact ⟨rfl, rfl, rfl, nofun⟩

/-! ### The commit of a record -/

/-- A record in its ring entry under the next SEQ, with the latch moved on. -/
def ringed (s : State) (r : FaultRec) (rest : List FaultRec) : State :=
  { s with
    nvm.ring := vset s.nvm.ring (ringEntry s.prot.nextSeq) (recordBytes r s.prot.nextSeq)
    nvm.intent := vset s.nvm.intent (ringEntry s.prot.nextSeq) []
    nvm.hours := s.hours
    prot.latch := rest
    prot.latest := recordBytes r s.prot.nextSeq
    prot.nextSeq := seqAfter s.prot.nextSeq
    prot.commitTimes := s.now :: s.prot.commitTimes.filter fun t => s.now < 117964800 + t }

theorem vget_vset_ne {α : Type} {n : Nat} (v : Vector α n) (z x : α) {i k : Nat} (other : k ≠ i) :
    vget (vset v i x) z k = vget v z k := by
  unfold vget vset
  split
  · split
    · exact Vector.getElem_set_ne _ _ (Ne.symm other)
    · rfl
  · rfl

/-- What the commit of a record announces: its alarm, and the cause of a failed rail. -/
def announced (s : State) (r : FaultRec) : State :=
  if r.code = 0x0C then
    railCause (recordAlarm s r.code r.aux r.toFault r.ended) (if r.aux then .aux else .main) (railPins r)
  else recordAlarm s r.code r.aux r.toFault r.ended

theorem announced_only (s : State) (r : FaultRec) : Only [.act, .prot, .win] s (announced s r) := by
  have alarm : Only [.act, .prot, .win] s (recordAlarm s r.code r.aux r.toFault r.ended) := (recordAlarm_only ..).mono rfl
  unfold announced
  split
  · exact alarm.post (Machine.railCause_only ..) rfl
  · exact alarm

theorem announced_prot (s : State) (r : FaultRec) : (announced s r).prot =
    { s.prot with recAlarms := s.prot.recAlarms ++ [⟨r.code, r.aux, r.toFault, false, r.ended⟩] } := by
  unfold announced
  split
  · exact (Machine.railCause_only ..).same .prot rfl
  · rfl

/-- The entries of a notice that carry a committed record. -/
def recordEntries (r : FaultRec) (q : Half) : List (List Byte) :=
  entryPlain 0x40 (recordBytes r q) :: if r.companion.isEmpty then [] else [r.companion]

theorem exec_recordCommit {s : State} {r : FaultRec} {rest : List FaultRec} (oldest : s.prot.latch = r :: rest)
    (may : mayCommit s = true) : exec .recordCommit s =
      .next (addEntries (announced (ringed s r rest) r) (recordEntries r s.prot.nextSeq)) := by
  change execRecordCommit s = _
  unfold execRecordCommit
  rw [oldest]
  exact congrArg Host.Outcome.next (if_neg (by simp [may]))

theorem recordCommit_effect {r : FaultRec} {rest : List FaultRec} {s : State} (oldest : s.prot.latch = r :: rest)
    (may : mayCommit s = true) : ∃ t, exec .recordCommit s = .next t ∧ t.prot.latch = rest ∧
      t.prot.nextSeq = seqAfter s.prot.nextSeq ∧ t.prot.latest = recordBytes r s.prot.nextSeq ∧ t.nvm.hours = s.hours ∧
      vget t.nvm.ring [] (ringEntry s.prot.nextSeq) = recordBytes r s.prot.nextSeq ∧
      (∀ k, k < 8 → k ≠ ringEntry s.prot.nextSeq → vget t.nvm.ring [] k = vget s.nvm.ring [] k) ∧
      (⟨r.code, r.aux, r.toFault, false, r.ended⟩ : RecAlarm) ∈ t.prot.recAlarms ∧
      (r.code = 0x0C → r.aux = false → quiet s → ∀ k : Fin 4, (railPins r).getLsbD k = true →
        (vget t.act.wake WakeWord.zero k).cause = 0x81 ∧ (vget t.act.wake WakeWord.zero k).src = 7 ∧
        (vget t.act.wake WakeWord.zero k).pend = false) := by
  have entries := addEntries_incidental (announced (ringed s r rest) r) (recordEntries r s.prot.nextSeq)
  have prot := announced_prot (ringed s r rest) r
  have nvm : (addEntries (announced (ringed s r rest) r) (recordEntries r s.prot.nextSeq)).nvm = (ringed s r rest).nvm :=
    (entries.only.same .nvm rfl).trans ((announced_only ..).same .nvm rfl)
  have slot : ringEntry s.prot.nextSeq < 8 := Nat.mod_lt _ (by decide)
  refine ⟨_, exec_recordCommit oldest may, ?_, ?_, ?_, ?_, ?_, ?_, ?_, ?_⟩
  · rw [entries.prot, prot]
    rfl
  · rw [entries.prot, prot]
    rfl
  · rw [entries.prot, prot]
    rfl
  · rw [nvm]
    rfl
  · rw [nvm]
    exact vget_vset_same _ _ _ slot
  · intro k _ other
    rw [nvm]
    exact vget_vset_ne _ _ _ other
  · rw [entries.prot, prot]
    exact List.mem_append_right _ (List.mem_singleton.mpr rfl)
  · intro failed main still k named
    have calm : Calm (announced (ringed s r rest) r) := .of_quiet fun d => by
      unfold dom
      rw [(announced_only (ringed s r rest) r).same .bridle rfl]
      exact still d
    rw [addEntries_act _ calm, announced, if_pos failed, if_neg (by simp [main])]
    exact railCause_main_word _ _ named

/-- Settles O49: each command of file 13's overvoltage, sense loss, derating and record rules, one effect at a time. -/
theorem overvoltageSenseDerateRecord : Obligations.OvervoltageSenseDerateRecord := by
  unfold Obligations.OvervoltageSenseDerateRecord
  refine ⟨fun snap s lost free => ?_, fun c fb s held => overvoltageRelease_effect s c fb held,
    fun snap s runs onFeedback lost => senseLoss_effect snap runs onFeedback lost,
    fun vloc dv snap s steady => vlocLost_effect vloc dv snap steady, derateInterval_effect,
    fun r rest s oldest may => recordCommit_effect oldest may,
    fun s past => congrArg Host.Outcome.next (if_neg past)⟩
  exact ⟨overvoltage s .aux snap, congrArg Host.Outcome.next (if_pos (by simp [lost, free])), auxOvervoltage_effect s snap⟩

end Sys2Proof.Proofs

/-! ## The monitors (file 14) -/

namespace Sys2Proof.Proofs

open Sys2Proof Sys2Proof.Machine

/-! ### Rules of one monitor -/

theorem mon_of_mons {s t : State} (same : t.mons.mon = s.mons.mon) (k : Nat) : mon t k = mon s k := by
  unfold mon
  rw [same]

theorem mon_modMon (s : State) (k : Fin 24) (f : MonSt → MonSt) : mon (modMon s k f) k = f (mon s k) := by
  unfold mon modMon
  rw [vget_vmod, if_pos ⟨rfl, k.isLt⟩]

theorem mon_modMon_ne (s : State) {j k : Nat} (f : MonSt → MonSt) (other : j ≠ k) : mon (modMon s k f) j = mon s j := by
  unfold mon modMon
  rw [vget_vmod, if_neg fun same => other same.1.symm]

theorem crosses_modMon (s : State) (k : Nat) (f : MonSt → MonSt) (j : Nat) (side : Side) (m : MonReading) :
    crosses (modMon s k f) j side m = crosses s j side m := rfl

/-- The reference of a monitor whose channel does not ramp, slew or stop does not move. -/
theorem moveRefFor_steady {s : State} {k : Nat} (steady : steadyRef s k) : moveRefFor s k = s := by
  unfold moveRefFor
  split
  · next c chan_ =>
    by_cases runs : switching (chan s c) = true
    · exact moveRef_still (by rw [steady c chan_ runs]; decide)
    · refine moveRef_still ⟨?_, ?_, ?_⟩ <;> intro phase <;> exact runs (by rw [switching, phase])
  · rfl

/-- What the record of an event can do: nothing, or to note the position of its monitor and hold off. -/
theorem recordEvent_cases (s : State) (k : Fin 24) :
    recordEvent s k = s ∧ ((routeOf s k).getLsbD 2 = true → monEnabled s k = true → isOn s (monDom k) = true →
        (mon s k).holdoff = false → monPos s k = (mon s k).recorded) ∨
      (recordEvent s k).mons = (modMon s k fun m => { m with recorded := monPos s k, holdoff := true }).mons ∧
        (routeOf s k).getLsbD 2 = true ∧ monPos s k ≠ (mon s k).recorded := by
  unfold recordEvent
  extract_lets m p
  split
  next quiet_ =>
    refine .inl ⟨rfl, fun route enabled on free => ?_⟩
    rw [route, enabled, on, show m.holdoff = false from free] at quiet_
    exact of_decide_eq_true quiet_
  next moves =>
    simp only [Bool.or_eq_true, Bool.not_eq_true', decide_eq_true_eq, not_or] at moves
    obtain ⟨⟨⟨⟨route, _⟩, _⟩, _⟩, moved⟩ := moves
    exact .inr ⟨(presentSlow_only ..).same .mons rfl, by simpa only [Bool.not_eq_false] using route, moved⟩

/-- The record of an event leaves the latches and sides of its monitor, and every other monitor. -/
theorem recordEvent_keeps (s : State) (k : Fin 24) : (mon (recordEvent s k) k).latch = (mon s k).latch ∧
    (mon (recordEvent s k) k).settled = (mon s k).settled ∧ (∀ side, sideOn (mon (recordEvent s k) k) side = sideOn (mon s k) side) ∧
    (∀ j, j ≠ k.val → mon (recordEvent s k) j = mon s j) ∧ (recordEvent s k).mons.pcl = s.mons.pcl ∧
    (recordEvent s k).reg = s.reg := by
  have reg := (recordEvent_only s k).same .reg rfl
  rcases recordEvent_cases s k with ⟨same, _⟩ | ⟨mons, _⟩
  · rw [same]
    exact ⟨rfl, rfl, fun _ => rfl, fun _ _ => rfl, rfl, rfl⟩
  · have at_ := fun j => mon_of_mons (congrArg Mons.mon mons) j
    refine ⟨?_, ?_, fun side => ?_, fun j other => ?_, (congrArg Mons.pcl mons).trans rfl, reg⟩
    · rw [at_, mon_modMon]
    · rw [at_, mon_modMon]
    · rw [at_, mon_modMon]
      cases side <;> rfl
    · rw [at_, mon_modMon_ne _ _ other]

/-! ### The trips -/

theorem chan_tripPulses (s : State) (c k : Chan) : chan (tripPulses s c) k = chan s k := by cases c <;> cases k <;> rfl

theorem applyTrips_ne (s : State) {c k : Chan} (other : k ≠ c) : chan (applyTrips s c) k = chan s k := by
  unfold applyTrips
  extract_lets x t s1 s2
  have h1 : chan s1 k = chan s k := chan_modChan_ne _ _ _ _ other
  have h2 : chan s2 k = chan s k := (chan_tripPulses ..).trans h1
  split
  · rfl
  split
  · split
    · exact (show chan { s2 with reg.skip := true } k = chan s2 k by cases k <;> rfl).trans h2
    · exact h2
  · exact h1

theorem applyTrips_idle {s : State} {c : Chan} (idle : switching (chan s c) = false) : applyTrips s c = s :=
  if_pos (by simp [idle])

/-- The trips leave a main channel that does not switch. -/
theorem tripsNow_main_idle {s : State} (idle : switching s.reg.main = false) : (tripsNow s).reg.main = s.reg.main := by
  unfold tripsNow
  rw [applyTrips_idle (c := .main) idle]
  exact (applyTrips_ne s (c := .aux) (k := .main) nofun :)

/-! ### MONITOR_ASSERT -/

/-- An overvoltage latches its channel with its balls held Low. -/
theorem overvoltage_chan (s : State) (c : Chan) (snap : Snap) : (chan (overvoltage s c snap) c).phase = .latched ∧
    (chan (overvoltage s c snap) c).heldLow = true ∧ (chan (overvoltage s c snap) c).pgood = false := by
  unfold overvoltage
  extract_lets s1 s2
  obtain ⟨phase, pgood, _⟩ := stopChan_same (capture s 0x04 0 c true snap []) c .latched
  have held : chan s2 c = { chan s1 c with heldLow := true } := chan_modChan_same ..
  have h2 : (chan s2 c).phase = .latched ∧ (chan s2 c).heldLow = true ∧ (chan s2 c).pgood = false := by
    rw [held]
    exact ⟨phase, rfl, pgood⟩
  split
  · exact h2
  · cases c <;> exact h2

/-- The side that a monitor asserts, with its latch. -/
def assertSide (m : MonSt) : Side → MonSt
  | .upper => { m with above := true, latch := true }
  | .lower => { m with below := true, latch := true }

/-- What a monitor acts on when it asserts: the overvoltage of WM02, the temperatures of WM05 and WM06. -/
def assertActs (s : State) (k : Fin 24) (side : Side) (snap : Snap) : State :=
  if side = .upper then
    match k.val with
    | 2 => overvoltage s .main snap
    | 5 => hotter s false snap
    | 6 => hotter s true snap
    | _ => s
  else s

theorem monActs_eq (s : State) (k : Fin 24) (side : Side) (snap : Snap) : monActs s k side snap =
    recordEvent (tripsNow (assertActs (modMon s k fun m => assertSide m side) k side snap)) k := by
  cases side <;> rfl

theorem assertActs_mons (s : State) (k : Fin 24) (side : Side) (snap : Snap) : (assertActs s k side snap).mons = s.mons := by
  unfold assertActs
  split
  · split
    · exact (overvoltage_only ..).same .mons rfl
    · exact (hotter_only ..).same .mons rfl
    · exact (hotter_only ..).same .mons rfl
    · rfl
  · rfl

/-- A monitor that asserts a side sets its latch; the upper side of WM02 latches the main channel. -/
theorem monActs_effect (s : State) (k : Fin 24) (side : Side) (snap : Snap) :
    (∀ x, sideOn (mon (monActs s k side snap) k) x = (decide (x = side) || sideOn (mon s k) x)) ∧
    (mon (monActs s k side snap) k).latch = true ∧
    (mon (monActs s k side snap) k).settled = (mon s k).settled ∧
    (∀ j, j ≠ k.val → mon (monActs s k side snap) j = mon s j) ∧ (monActs s k side snap).mons.pcl = s.mons.pcl ∧
    (k.val = 2 → side = .upper → (monActs s k side snap).reg.main.phase = .latched ∧
      (monActs s k side snap).reg.main.heldLow = true ∧ (monActs s k side snap).reg.main.pgood = false) := by
  obtain ⟨latch, settled, sides, others, pcl, reg⟩ :=
    recordEvent_keeps (tripsNow (assertActs (modMon s k fun m => assertSide m side) k side snap)) k
  rw [monActs_eq]
  have mons : (tripsNow (assertActs (modMon s k fun m => assertSide m side) k side snap)).mons =
      (modMon s k fun m => assertSide m side).mons := ((tripsNow_only _).same .mons rfl).trans (assertActs_mons ..)
  have at_ := fun j => mon_of_mons (congrArg Mons.mon mons) j
  refine ⟨fun x => ?_, ?_, ?_, fun j other => ?_, ?_, fun two upper => ?_⟩
  · rw [sides, at_, mon_modMon]
    cases side <;> cases x <;> simp [sideOn, assertSide]
  · rw [latch, at_, mon_modMon]
    cases side <;> rfl
  · rw [settled, at_, mon_modMon]
    cases side <;> rfl
  · rw [others j other, at_, mon_modMon_ne _ _ other]
  · rw [pcl, mons]
    rfl
  · subst upper
    have acts : assertActs (modMon s k fun m => assertSide m .upper) k .upper snap =
        overvoltage (modMon s k fun m => assertSide m .upper) .main snap := by
      unfold assertActs
      rw [if_pos rfl, two]
      rfl
    obtain ⟨phase, held, pgood⟩ := overvoltage_chan (modMon s k fun m => assertSide m .upper) .main snap
    have idle : switching (overvoltage (modMon s k fun m => assertSide m .upper) .main snap).reg.main = false := by
      rw [switching, show (overvoltage (modMon s k fun m => assertSide m .upper) .main snap).reg.main.phase = .latched from phase]
    rw [reg, acts, tripsNow_main_idle idle]
    exact ⟨phase, held, pgood⟩

theorem monitorAssert_effect (k : Fin 24) (side : Side) (m : MonReading) (snap : Snap) {s : State} (steady : steadyRef s k) :
    (monActive s k = true → crosses s k side m = true → sideOn (mon s k) side = false →
      exec (.monitorAssert k side m snap) s = .next (monActs s k side snap)) ∧
    (monActive s k = false ∨ crosses s k side m = false ∨ sideOn (mon s k) side = true →
      exec (.monitorAssert k side m snap) s = .next s) := by
  have step : exec (.monitorAssert k side m snap) s = .next
      (if monActive s k && crosses s k side m && !sideOn (mon s k) side then monActs s k side snap else s) := by
    change execMonitorAssert k side m snap s = _
    unfold execMonitorAssert
    rw [moveRefFor_steady steady]
  rw [step]
  refine ⟨fun active crossed fresh => congrArg _ (if_pos (by simp [active, crossed, fresh])), fun stays => congrArg _ (if_neg ?_)⟩
  rcases stays with not_ | not_ | already
  · simp [not_]
  · simp [not_]
  · simp [already]

/-! ### MONITOR_DEASSERT -/

/-- The side that a monitor ends; its latch stays. -/
def deassertSide (m : MonSt) : Side → MonSt
  | .upper => { m with above := false }
  | .lower => { m with below := false }

theorem monitorDeassert_effect (k : Fin 24) (side : Side) (m : MonReading) {s : State} (steady : steadyRef s k) :
    (sideOn (mon s k) side = true → recrosses s k side m = true →
      ∃ t, exec (.monitorDeassert k side m) s = .next t ∧ sideOn (mon t k) side = false ∧
        (mon t k).latch = (mon s k).latch ∧ (∀ j, j ≠ k.val → mon t j = mon s j)) ∧
    (sideOn (mon s k) side = false ∨ recrosses s k side m = false → exec (.monitorDeassert k side m) s = .next s) := by
  have step : exec (.monitorDeassert k side m) s = .next (if sideOn (mon s k) side && recrosses s k side m then
      recordEvent (tripsNow (modMon s k fun x => deassertSide x side)) k else s) := by
    change execMonitorDeassert k side m s = _
    unfold execMonitorDeassert
    rw [moveRefFor_steady steady]
    cases side <;> rfl
  rw [step]
  refine ⟨fun asserted back => ?_, fun stays => congrArg _ (if_neg ?_)⟩
  · obtain ⟨latch, _, sides, others, _⟩ := recordEvent_keeps (tripsNow (modMon s k fun x => deassertSide x side)) k
    have at_ := fun j => mon_of_mons
      (congrArg Mons.mon ((tripsNow_only (modMon s k fun x => deassertSide x side)).same .mons rfl)) j
    refine ⟨_, congrArg _ (if_pos (by simp [asserted, back])), ?_, ?_, fun j other => ?_⟩
    · rw [sides, at_, mon_modMon]
      cases side <;> rfl
    · rw [latch, at_, mon_modMon]
      cases side <;> rfl
    · rw [others j other, at_, mon_modMon_ne _ _ other]
  · rcases stays with not_ | not_ <;> simp [not_]

/-! ### MONITOR_SETTLED -/

/-- A monitor that has settled, before its input shows a side. -/
def settled (s : State) (k : Nat) : State := modMon s k fun x => { x with settled := true, above := false, below := false }

theorem exec_monitorSettled (k : Fin 24) (m : MonReading) (snap : Snap) {s : State} (enabled : monEnabled s k = true)
    (on : isOn s (monDom k) = true) (fresh : (mon s k).settled = false) (steady : steadyRef s k) :
    exec (.monitorSettled k m snap) s = .next
      (if crosses (if crosses s k .upper m then monActs (settled s k) k .upper snap else settled s k) k .lower m then
        monActs (if crosses s k .upper m then monActs (settled s k) k .upper snap else settled s k) k .lower snap
      else if crosses s k .upper m then monActs (settled s k) k .upper snap else settled s k) := by
  change execMonitorSettled k m snap s = _
  unfold execMonitorSettled
  rw [moveRefFor_steady steady]
  exact congrArg _ (if_pos (by simp [enabled, on, fresh]))

theorem mon_settled (s : State) (k : Fin 24) : (mon (settled s k) k).settled = true := by
  unfold settled
  rw [mon_modMon]

theorem monitorSettled_effect (k : Fin 24) (m : MonReading) (snap : Snap) {s : State} (enabled : monEnabled s k = true)
    (on : isOn s (monDom k) = true) (fresh : (mon s k).settled = false) (steady : steadyRef s k) :
    (crosses s k .upper m = false → crosses s k .lower m = false →
      exec (.monitorSettled k m snap) s = .next (settled s k)) ∧
    (∀ side, crosses s k side m = true → (side = .lower → crosses s k .upper m = false) →
      ∃ t, exec (.monitorSettled k m snap) s = .next t ∧ (mon t k).settled = true ∧ (mon t k).latch = true ∧
        sideOn (mon t k) side = true ∧ (∀ j, j ≠ k.val → mon t j = mon s j)) := by
  rw [exec_monitorSettled k m snap enabled on fresh steady]
  have others : ∀ j, j ≠ k.val → mon (settled s k) j = mon s j := fun j other => mon_modMon_ne _ _ other
  refine ⟨fun noUpper noLower => ?_, fun side crossed first => ?_⟩
  · have lower : crosses (settled s k) k .lower m = false := noLower
    rw [noUpper, if_neg Bool.false_ne_true, lower, if_neg Bool.false_ne_true]
  · obtain ⟨sideU, latchU, settledU, othersU, _⟩ := monActs_effect (settled s k) k .upper snap
    cases side
    case upper =>
      rw [if_pos crossed]
      split
      · obtain ⟨sideL, latchL, settledL, othersL, _⟩ := monActs_effect (monActs (settled s k) k .upper snap) k .lower snap
        refine ⟨_, rfl, settledL.trans (settledU.trans (mon_settled s k)), latchL, ?_, fun j other =>
          (othersL j other).trans ((othersU j other).trans (others j other))⟩
        rw [sideL, sideU]
        rfl
      · exact ⟨_, rfl, settledU.trans (mon_settled s k), latchU, (sideU .upper).trans rfl, fun j other =>
          (othersU j other).trans (others j other)⟩
    case lower =>
      have lower : crosses (settled s k) k .lower m = true := crossed
      rw [first rfl, if_neg Bool.false_ne_true, if_pos lower]
      obtain ⟨sideL, latchL, settledL, othersL, _⟩ := monActs_effect (settled s k) k .lower snap
      exact ⟨_, rfl, settledL.trans (mon_settled s k), latchL, (sideL .lower).trans rfl, fun j other =>
        (othersL j other).trans (others j other)⟩

/-! ### EVENT_HOLDOFF_END -/

theorem eventHoldoffEnd_effect (k : Fin 24) (s : State) : ∃ t, exec (.eventHoldoffEnd k) s = .next t ∧
    (∀ j, j ≠ k.val → mon t j = mon s j) ∧ (mon t k).latch = (mon s k).latch ∧
    ((routeOf s k).getLsbD 2 = false ∨ monPos s k = (mon s k).recorded →
      t = modMon s k fun m => { m with holdoff := false }) ∧
    ((routeOf s k).getLsbD 2 = true → monEnabled s k = true → isOn s (monDom k) = true →
      (mon t k).recorded = monPos s k ∧ ((mon t k).holdoff = false ↔ monPos s k = (mon s k).recorded)) := by
  have freed : mon (modMon s k fun m => { m with holdoff := false }) k = { mon s k with holdoff := false } := mon_modMon ..
  have pos : monPos (modMon s k fun m => { m with holdoff := false }) k = monPos s k := by
    unfold monPos live
    rw [freed]
    rfl
  obtain ⟨latch, _, _, others, _⟩ := recordEvent_keeps (modMon s k fun m => { m with holdoff := false }) k
  have cases_ := recordEvent_cases (modMon s k fun m => { m with holdoff := false }) k
  rw [pos, freed] at cases_
  refine ⟨_, rfl, fun j other => (others j other).trans (mon_modMon_ne _ _ other), latch.trans (by rw [freed]), ?_, ?_⟩
  · intro stays
    rcases cases_ with ⟨same, _⟩ | ⟨_, route, moved⟩
    · exact same
    · rcases stays with noRoute | at_
      · exact absurd (route.symm.trans noRoute) (by decide)
      · exact absurd at_ moved
  · intro route enabled on
    rcases cases_ with ⟨same, at_⟩ | ⟨mons, _, moved⟩
    · have here := at_ route enabled on rfl
      rw [same, freed]
      exact ⟨here.symm, fun _ => here, fun _ => rfl⟩
    · rw [mon_of_mons (congrArg Mons.mon mons), mon_modMon]
      exact ⟨rfl, nofun, fun at_ => absurd at_ moved⟩

/-- Settles O50: each command of file 14 acts on its own monitor. -/
theorem monitorsActAndSetLatches : Obligations.MonitorsActAndSetLatches := by
  unfold Obligations.MonitorsActAndSetLatches
  refine ⟨fun k side m snap s steady => ?_, fun k side m s steady => monitorDeassert_effect k side m steady,
    fun k m snap s enabled on fresh steady => monitorSettled_effect k m snap enabled on fresh steady, eventHoldoffEnd_effect⟩
  obtain ⟨acts, stays⟩ := monitorAssert_effect k side m snap steady
  obtain ⟨sides, latch, settled_, others, pcl, main⟩ := monActs_effect s k side snap
  exact ⟨fun active crossed fresh => ⟨_, acts active crossed fresh, by simp [sides], latch, settled_, others, pcl, main⟩, stays⟩

end Sys2Proof.Proofs

/-! ## The bring-up of a port (file 15, Sequence TLK-1) -/

namespace Sys2Proof.Proofs

open Sys2Proof Sys2Proof.Machine

/-! ### Frames that are acknowledged -/

/-- A frame that is released moves credit counters, and nothing else of a port. -/
theorem afterRemoval_link (s : State) (f : QFrame) (q : Port) : link (afterRemoval s f) q =
    { link s q with ctl := (link (afterRemoval s f) q).ctl, bulk := (link (afterRemoval s f) q).bulk } := by
  unfold afterRemoval
  extract_lets s1 s2
  have h2 : link s2 q = { link s q with ctl := (link s2 q).ctl, bulk := (link s2 q).bulk } := creditFreed_link s1 f _ q
  split
  · rfl
  split
  · rw [link_of_tether (markRelease_tether ..)]
    exact h2
  · exact h2

theorem removals_link (l : List (Byte × QFrame)) (s : State) (q : Port) : ∃ c b,
    link (l.foldl (fun t x => afterRemoval t x.2) s) q = { link s q with ctl := c, bulk := b } := by
  induction l generalizing s with
  | nil => exact ⟨_, _, rfl⟩
  | cons x rest ih =>
    obtain ⟨c, b, after⟩ := ih (afterRemoval s x.2)
    exact ⟨c, b, after.trans (by rw [afterRemoval_link s x.2 q])⟩

theorem addSent_kept (l : Link) (b : List Byte) : ∃ c k, addSent l b = { l with ctl := c, bulk := k } := by
  unfold addSent modCredit
  cases clsOf (fTyp b) <;> exact ⟨_, _, rfl⟩

theorem resent_kept (gone : List (Byte × QFrame)) (resend : List Byte) (l : Link) : ∃ c k,
    gone.foldl (fun a x => if resend.contains x.1 then addSent a x.2.bytes else a) l = { l with ctl := c, bulk := k } := by
  induction gone generalizing l with
  | nil => exact ⟨_, _, rfl⟩
  | cons x rest ih =>
    obtain ⟨c, k, after⟩ := ih (if resend.contains x.1 then addSent l x.2.bytes else l)
    refine ⟨c, k, after.trans ?_⟩
    split
    · obtain ⟨c', k', one⟩ := addSent_kept l x.2.bytes
      rw [one]
    · rfl

/-- The oldest frames leave the outstanding ones; with none left to be sent again the go-back is over. -/
theorem ackOldest_link (s : State) (p : Port) (k : Nat) : ∃ c b,
    link (ackOldest s p k) p = { link s p with
      out := (link s p).out.drop k
      resend := (link s p).resend.filter fun h => !(((link s p).out.take k).map (·.1)).contains h
      goBacks := if ((link s p).out.take k).isEmpty then (link s p).goBacks else 0
      goBackDue := (link s p).goBackDue && !((link s p).resend.filter fun h =>
        !(((link s p).out.take k).map (·.1)).contains h).isEmpty
      ctl := c, bulk := b } := by
  unfold ackOldest
  extract_lets l gone s1 s2
  obtain ⟨c1, b1, sent⟩ := resent_kept gone (link s p).resend (link s p)
  have h1 : link s1 p = { link s p with
      out := (link s p).out.drop k
      resend := (link s p).resend.filter fun h => !(gone.map (·.1)).contains h
      goBacks := if gone.isEmpty then (link s p).goBacks else 0
      ctl := c1, bulk := b1 } := by
    unfold s1
    rw [link_modLink_same, sent]
  have h2 : link s2 p = { link s1 p with goBackDue := (link s1 p).goBackDue && !(link s1 p).resend.isEmpty } := by
    unfold s2
    split
    · next ended =>
      rw [link_modLink_same, ended, Bool.not_true, Bool.and_false]
    · next more =>
      rw [Bool.eq_false_iff.mpr more, Bool.not_false, Bool.and_true]
  obtain ⟨c, b, after⟩ := removals_link gone s2 p
  refine ⟨c, b, ?_⟩
  rw [after, h2, h1]

/-! ### HELLO -/

/-- Taking up again keeps the state of the link and its expected number, which FRESH sets to 0 (log entry 24). -/
theorem resume_kept (s : State) (p : Port) (e : Byte) (fresh : Bool) :
    (link (resume s p e fresh) p).st = (link s p).st ∧ (link (resume s p e fresh) p).creditSent = (link s p).creditSent ∧
      (link (resume s p e fresh) p).e = if fresh then 0 else (link s p).e := by
  unfold resume
  split
  · rw [link_modLink_same]
    exact ⟨rfl, rfl, rfl⟩
  · extract_lets l
    split
    · rw [link_modLink_same]
      exact ⟨rfl, rfl, rfl⟩
    · next x _ _ =>
      extract_lets k
      split
      · exact ⟨rfl, rfl, rfl⟩
      · obtain ⟨c, b, acked⟩ := ackOldest_link s p k
        rw [acked]
        exact ⟨rfl, rfl, rfl⟩

/-- The port once its partner's HELLO has been heard. -/
def helloHeard (s : State) (p : Port) (b : List Byte) : State :=
  modLink (resume (takeDecision s p).2 p (payByte b 0) ((payByte b 1).getLsbD 0)) p fun l =>
    { l with
      step := 7, psafe := l.psafe || (payByte b 1).getLsbD 1, ctl := Credit.zero, bulk := Credit.zero
      sinceId := (takeDecision s p).2.queues.nextId }

/-- The alert of an address that is the partner's as well. -/
def clashTold (s : State) (p : Port) (b : List Byte) : State :=
  if stallAddr s = some (fSrc b).toNat then addAlert s (.addrClash p) else s

theorem clashTold_only (s : State) (p : Port) (b : List Byte) : Only [.prot] s (clashTold s p b) := by
  unfold clashTold
  split
  · exact addAlert_only ..
  · exact .refl _ _

theorem exec_hello {p : Port} {rx : RxFrame} {s : State} (six : atStep s p 6 = true) (ok : linkControlOk rx 3 = true) :
    exec (.hello p rx) s = .next (if (clashTold (helloHeard s p rx.bytes) p rx.bytes).boot.safe
      then clashTold (helloHeard s p rx.bytes) p rx.bytes
      else helloCopy (sendCredit (clashTold (helloHeard s p rx.bytes) p rx.bytes) p) rx.bytes (takeDecision s p).1) :=
  congrArg Host.Outcome.next ((if_neg (by rw [ok]; decide)).trans (if_neg (by simp [six])))

theorem helloHeard_only (s : State) (p : Port) (b : List Byte) : Only [.engs, .tether, .queues] s (helloHeard s p b) :=
  (((takeDecision_only s p).mono rfl).post (resume_only ..) rfl).post (modLink_only ..) rfl

theorem helloHeard_link (s : State) (p : Port) (b : List Byte) : (link (helloHeard s p b) p).st = (link s p).st ∧
    (link (helloHeard s p b) p).step = 7 ∧ (link (helloHeard s p b) p).creditSent = (link s p).creditSent ∧
    (link (helloHeard s p b) p).e = if (payByte b 1).getLsbD 0 then 0 else (link s p).e := by
  obtain ⟨st, sent, e⟩ := resume_kept (takeDecision s p).2 p (payByte b 0) ((payByte b 1).getLsbD 0)
  have before : link (takeDecision s p).2 p = link s p := link_of_tether ((takeDecision_only s p).same .tether rfl) p
  rw [before] at st sent e
  unfold helloHeard
  rw [link_modLink_same]
  exact ⟨st, rfl, sent, e⟩

theorem sendCredit_kept (s : State) (p : Port) : (link (sendCredit s p) p).st = (link s p).st ∧
    (link (sendCredit s p) p).step = (link s p).step ∧ (link (sendCredit s p) p).e = (link s p).e ∧
    (link (sendCredit s p) p).creditSent = true := by
  have before : link (bulkRaise s p).2 p = link s p := by cases p <;> rfl
  unfold sendCredit
  dsimp only
  rw [link_modLink_same, before]
  exact ⟨rfl, rfl, rfl, rfl⟩

theorem hello_effect {p : Port} {rx : RxFrame} {s : State} (six : atStep s p 6 = true) (ok : linkControlOk rx 3 = true) :
    ∃ t, exec (.hello p rx) s = .next t ∧ (link t p).st = .training ∧ (link t p).step = 7 ∧
      (link t p).creditSent = (!s.boot.safe || (link s p).creditSent) ∧
      (link t p).e = (if (payByte rx.bytes 1).getLsbD 0 then 0 else (link s p).e) := by
  have training : (link s p).st = .training := by
    unfold atStep at six
    simp only [Bool.and_eq_true, beq_iff_eq] at six
    exact six.1
  obtain ⟨st, step, sent, e⟩ := helloHeard_link s p rx.bytes
  have told : link (clashTold (helloHeard s p rx.bytes) p rx.bytes) p = link (helloHeard s p rx.bytes) p :=
    link_of_tether ((clashTold_only ..).same .tether rfl) p
  have safe : (clashTold (helloHeard s p rx.bytes) p rx.bytes).boot.safe = s.boot.safe :=
    congrArg Boot.safe (((clashTold_only ..).same .boot rfl).trans ((helloHeard_only ..).same .boot rfl))
  refine ⟨_, exec_hello six ok, ?_⟩
  rw [safe]
  cases inSafe : s.boot.safe
  case true =>
    rw [if_pos rfl, told, st, step, sent, e]
    exact ⟨training, rfl, rfl, rfl⟩
  case false =>
    obtain ⟨sameSt, sameStep, sameE, credit⟩ := sendCredit_kept (clashTold (helloHeard s p rx.bytes) p rx.bytes) p
    rw [if_neg Bool.false_ne_true, link_of_tether ((helloCopy_only ..).same .tether rfl), sameSt, sameStep, sameE, credit,
      told, st, step, e]
    exact ⟨training, rfl, rfl, rfl⟩

/-! ### CREDIT -/

/-- The limits of the partner as its CREDIT gives them. -/
def takeLimits (s : State) (p : Port) (b : List Byte) : State :=
  modLink s p fun l =>
    { l with
      ctl := { l.ctl with pfreed := BitVec.ofNat 16 (payField b 0 2), plimit := BitVec.ofNat 16 (payField b 2 2) }
      bulk := { l.bulk with pfreed := BitVec.ofNat 16 (payField b 4 2), plimit := BitVec.ofNat 16 (payField b 6 2) } }

/-- The port that the CREDIT brings up. -/
def broughtUp (s : State) (p : Port) (b : List Byte) : State :=
  modLink (takeLimits { s with front.locked := vset s.front.locked (tugDom p) false } p b) p fun l =>
    { l with st := .up, step := 8, resend := l.out.map (·.1), goBackDue := !l.out.isEmpty }

theorem broughtUp_link (s : State) (p : Port) (b : List Byte) : (link (broughtUp s p b) p).st = .up ∧
    (link (broughtUp s p b) p).ctl.plimit = BitVec.ofNat 16 (payField b 2 2) ∧
    (link (broughtUp s p b) p).bulk.plimit = BitVec.ofNat 16 (payField b 6 2) := by
  unfold broughtUp takeLimits
  rw [link_modLink_same, link_modLink_same]
  exact ⟨rfl, rfl, rfl⟩

theorem atStep_training {s : State} {p : Port} {k : Nat} (at_ : atStep s p k = true) : portUp s p = false := by
  unfold atStep at at_
  simp only [Bool.and_eq_true, beq_iff_eq] at at_
  rw [portUp, at_.1]
  rfl

theorem exec_credit_up {p : Port} {rx : RxFrame} {s : State} (seven : atStep s p 7 = true) (ok : linkControlOk rx 4 = true) :
    exec (.credit p rx) s = .next (flushDeferred ([0, 1, 2].foldl raiseRail (broughtUp s p rx.bytes))) :=
  congrArg Host.Outcome.next ((if_neg (by simp [atStep_training seven])).trans ((if_neg (by rw [ok]; decide)).trans
    ((if_neg (by simp [atStep_training seven])).trans (if_pos seven))))

theorem raiseRails_only (l : List Nat) (s : State) : Only [.free, .pace] s (l.foldl raiseRail s) := by
  induction l generalizing s with
  | nil => exact .refl _ _
  | cons k rest ih => exact (raiseRail_only s k).post (ih _) rfl

theorem flushDeferred_empties {s : State} (up : (portUp s .u || portUp s .d) = true) :
    (flushDeferred s).queues.deferred = [] := by
  have entries : Incidental { s with queues.deferred := [] } (flushDeferred s) :=
    .foldl addEntry_incidental _ (.refl _)
  exact (entries.deferred up).elim id id

theorem credit_effect {p : Port} {rx : RxFrame} {s : State} (seven : atStep s p 7 = true) (ok : linkControlOk rx 4 = true) :
    ∃ t, exec (.credit p rx) s = .next t ∧ portUp t p = true ∧
      (link t p).ctl.plimit = BitVec.ofNat 16 (payField rx.bytes 2 2) ∧
      (link t p).bulk.plimit = BitVec.ofNat 16 (payField rx.bytes 6 2) ∧ t.queues.deferred = [] := by
  obtain ⟨up, ctl, bulk⟩ := broughtUp_link s p rx.bytes
  have raised : link ([0, 1, 2].foldl raiseRail (broughtUp s p rx.bytes)) p = link (broughtUp s p rx.bytes) p :=
    link_of_tether ((raiseRails_only ..).same .tether rfl) p
  have flushed := flushDeferred_incidental ([0, 1, 2].foldl raiseRail (broughtUp s p rx.bytes))
  have portIsUp : portUp ([0, 1, 2].foldl raiseRail (broughtUp s p rx.bytes)) p = true := by
    rw [portUp, raised, up]
    rfl
  refine ⟨_, exec_credit_up seven ok, ?_, ?_, ?_, flushDeferred_empties ?_⟩
  · rw [flushed.portUp, portIsUp]
  · rw [flushed.link p, raised, ctl]
  · rw [flushed.link p, raised, bulk]
  · cases p
    · rw [portIsUp, Bool.true_or]
    · rw [portIsUp, Bool.or_true]

/-! ### The steps before -/

/-- Incidental changes end no alert. -/
theorem Incidental.alertAsserted_of_alert {s t : State} (h : Incidental s t) {a : Alarm} (asserted : a ∈ s.prot.alerts) :
    alertAsserted t = true := alertAsserted_of_mem (h.alerts a asserted)

theorem pllLockTimeout_effect {p : Port} {s : State} (one : atStep s p 1 = true) :
    ∃ t, exec (.pllLockTimeout p) s = .next t ∧ (link t p).st = .lockFailed ∧ alertAsserted t = true := by
  have failed := addAlert_incidental (modLink s p fun l => { l with st := .lockFailed, step := 0 }) (.lockFail p)
  have asserted : Alarm.lockFail p ∈
      (addAlert (modLink s p fun l => { l with st := .lockFailed, step := 0 }) (.lockFail p)).prot.alerts :=
    (mem_addNew ..).mpr (.inl rfl)
  have told : ∀ t, Incidental (addAlert (modLink s p fun l => { l with st := .lockFailed, step := 0 }) (.lockFail p)) t →
      (link t p).st = .lockFailed ∧ alertAsserted t = true := fun t more =>
    ⟨by rw [(failed.trans more).link p, link_modLink_same], more.alertAsserted_of_alert asserted⟩
  exact ⟨_, congrArg Host.Outcome.next (if_pos one), told _ (.ite (addEntry_incidental ..) (.refl _))⟩

theorem symbolLock_effect {p : Port} (inv : Bool) (addr flags : Byte) {s : State} (two : atStep s p 2 = true) :
    ∃ t, exec (.symbolLock p inv addr flags) s = .next t ∧ Only [.prot, .tether] s t ∧
      link t p = { link s p with step := 3, pol := inv, psafe := flags.getLsbD 4, settlings := 0 } ∧
      (addr ≠ 0 → stallAddr s = some addr.toNat → alertAsserted t = true) := by
  have step : exec (.symbolLock p inv addr flags) s = .next
      (if addr != 0 && stallAddr s == some addr.toNat then
        addAlert (modLink s p fun l => { l with step := 3, pol := inv, psafe := flags.getLsbD 4, settlings := 0 }) (.addrClash p)
      else modLink s p fun l => { l with step := 3, pol := inv, psafe := flags.getLsbD 4, settlings := 0 }) :=
    congrArg Host.Outcome.next (if_pos two)
  refine ⟨_, step, execSymbolLock_only p inv addr flags s _ step, ?_, fun named clash => ?_⟩
  · split
    · exact (link_of_tether ((addAlert_only ..).same .tether rfl) p).trans (link_modLink_same ..)
    · exact link_modLink_same ..
  · rw [if_pos (by rw [clash, beq_self_eq_true, Bool.and_true]; exact bne_iff_ne.mpr named)]
    exact addAlert_asserts ..

theorem equaliserSettle_effect {p : Port} (boost : BitVec 4) (pe : BitVec 2) {s : State}
    (at_ : atStep s p 3 = true ∨ atStep s p 4 = true) (few : (link s p).settlings < 3) :
    ∃ t, exec (.equaliserSettle p boost pe) s = .next t ∧ Only [.tether] s t ∧ (link t p).step = 4 ∧ (link t p).eq = boost ∧
      (link t p).settlings = (link s p).settlings + 1 ∧
      (13 ≤ boost.toNat → pe.toNat < 2 → (link t p).pereq = pe + 1) ∧
      (boost.toNat ≤ 3 → 0 < pe.toNat → (link t p).pereq = pe - 1) := by
  have guard : ((atStep s p 3 || atStep s p 4) && decide ((link s p).settlings < 3)) = true := by
    rcases at_ with h | h <;> simp [h, few]
  have step : exec (.equaliserSettle p boost pe) s = .next (modLink s p fun l =>
      { l with
        step := 4
        eq := boost
        settlings := l.settlings + 1
        pereq := if 13 ≤ boost.toNat && pe.toNat < 2 then pe + 1
          else if boost.toNat ≤ 3 && 0 < pe.toNat then pe - 1 else l.pereq }) :=
    congrArg Host.Outcome.next (if_pos guard)
  refine ⟨_, step, execEqualiserSettle_only p boost pe s _ step, ?_⟩
  rw [link_modLink_same]
  refine ⟨rfl, rfl, rfl, fun high more => if_pos (by simp [high, more]), fun low some_ => ?_⟩
  exact (if_neg (by simp; omega)).trans (if_pos (by simp [low, some_]))

/-- Settles O52: the steps of Sequence TLK-1, from the lock of the PLL to the CREDIT that brings the port up. -/
theorem linkBringUp : Obligations.LinkBringUp := by
  unfold Obligations.LinkBringUp
  intro p s
  refine ⟨fun one => ⟨congrArg _ (if_pos one), pllLockTimeout_effect one⟩,
    fun inv addr flags two => symbolLock_effect inv addr flags two,
    fun boost pe at_ few => equaliserSettle_effect boost pe at_ few, fun pe four => congrArg _ (if_pos four),
    fun five => congrArg _ (if_pos five), fun six => congrArg _ (if_pos six), fun rx six ok => hello_effect six ok,
    fun rx seven ok => credit_effect seven ok, fun rx notSix ok => ?_, fun rx down notSeven ok => ?_, fun rx bad => ?_⟩
  · exact congrArg _ ((if_neg (by rw [ok]; decide)).trans (if_pos (by simp [notSix])))
  · exact congrArg _ ((if_neg (by simp [down])).trans ((if_neg (by rw [ok]; decide)).trans
      ((if_neg (by simp [down])).trans (if_neg (by simp [notSeven])))))
  · exact congrArg _ (if_pos (by rw [bad]; rfl))

end Sys2Proof.Proofs

/-! ## A port that is up (file 15) -/

namespace Sys2Proof.Proofs

open Sys2Proof Sys2Proof.Machine

/-! ### A port that goes down -/

/-- What a released frame leaves of the limits of the partner. -/
theorem creditFreed_plimit (s : State) (f : QFrame) (n : Nat) (q : Port) :
    (link (creditFreed s f n) q).ctl.plimit = (link s q).ctl.plimit ∧
      (link (creditFreed s f n) q).bulk.plimit = (link s q).bulk.plimit := by
  unfold creditFreed
  split
  · exact ⟨rfl, rfl⟩
  next p _ =>
    split
    · exact ⟨rfl, rfl⟩
    · cases clsOf (fTyp f.bytes) <;> cases p <;> cases q <;> exact ⟨rfl, rfl⟩

theorem afterRemoval_plimit (s : State) (f : QFrame) (q : Port) :
    (link (afterRemoval s f) q).ctl.plimit = (link s q).ctl.plimit ∧
      (link (afterRemoval s f) q).bulk.plimit = (link s q).bulk.plimit := by
  unfold afterRemoval
  extract_lets s1 s2
  have h2 : (link s2 q).ctl.plimit = (link s q).ctl.plimit ∧ (link s2 q).bulk.plimit = (link s q).bulk.plimit :=
    creditFreed_plimit s1 f _ q
  split
  · exact ⟨rfl, rfl⟩
  split
  · rw [link_of_tether (markRelease_tether ..)]
    exact h2
  · exact h2

theorem dropRings_plimit (s : State) (p q : Port) : (link (dropRings s p) q).ctl.plimit = (link s q).ctl.plimit ∧
    (link (dropRings s p) q).bulk.plimit = (link s q).bulk.plimit := by
  unfold dropRings
  generalize List.filter _ _ = l
  induction l generalizing s with
  | nil => exact ⟨rfl, rfl⟩
  | cons f rest ih =>
    obtain ⟨ctl, bulk⟩ := ih (releaseCopy s (holdTag p .ctl) f)
    obtain ⟨ctl1, bulk1⟩ := afterRemoval_plimit (setQueue s (holdTag p .ctl) ((queueOf s (holdTag p .ctl)).erase f)) f q
    exact ⟨ctl.trans ctl1, bulk.trans bulk1⟩

theorem downLink_only (s : State) (p : Port) (c : DownCause) : Only [.tether] s (downLink s p c) := by
  unfold downLink
  split
  · exact resetLink_only ..
  · split <;> exact resetLink_only ..
  · exact (resetLink_only ..).post (addErr_only ..) rfl
  · exact resetLink_only ..

theorem downLink_link (s : State) (p : Port) (c : DownCause) : (link (downLink s p c) p).st ≠ .up ∧
    (link (downLink s p c) p).out = (link s p).out ∧ (link (downLink s p c) p).ctl.plimit = 0 ∧
      (link (downLink s p c) p).bulk.plimit = 0 := by
  have reset : ∀ st n, st ≠ .up → (link (resetLink s p st n) p).st ≠ .up ∧
      (link (resetLink s p st n) p).out = (link s p).out ∧ (link (resetLink s p st n) p).ctl.plimit = 0 ∧
        (link (resetLink s p st n) p).bulk.plimit = 0 := fun st n notUp => by
    rw [resetLink, link_modLink_same]
    exact ⟨notUp, rfl, rfl, rfl⟩
  unfold downLink
  split
  · exact reset _ _ nofun
  · split <;> exact reset _ _ nofun
  · rw [addErr, link_modLink_same]
    exact reset _ _ nofun
  · exact reset _ _ nofun

/-- A port that goes down is no longer up; unless it is orderly there is an alert; in a calm state it keeps its outstanding
frames and has no credit left. -/
theorem portDownAs_effect (s : State) (p : Port) (c : DownCause) (orderly : Bool) :
    portUp (portDownAs s p c orderly) p = false ∧
    (orderly = false → alertAsserted (portDownAs s p c orderly) = true) ∧
    (Calm s → (link (portDownAs s p c orderly) p).out = (link s p).out ∧
      (link (portDownAs s p c orderly) p).ctl.plimit = 0 ∧ (link (portDownAs s p c orderly) p).bulk.plimit = 0) := by
  obtain ⟨notUp, out, ctl, bulk⟩ := downLink_link s p c
  refine ⟨?_, ?_⟩
  · rw [portUp, (portDownAs_told s p c orderly).link p]
    exact beq_eq_false_iff_ne.mpr notUp
  unfold portDownAs
  extract_lets o s1 s1' h s2 pay s3 s4 s5 s6
  have e1 : s1 = downLink s p c := rfl
  have h4 : Alarm.linkDown p ∈ s4.prot.alerts := (mem_addNew ..).mpr (.inl rfl)
  have h5 : Incidental s4 s5 := .ite (addEntry_incidental ..) (.refl _)
  have h6 : Incidental s4 s6 := h5.trans (addAlert_incidental ..)
  refine ⟨fun disorder => ?_, fun calm => ?_⟩
  · rw [disorder, if_neg Bool.false_ne_true]
    have later : ∀ t, Incidental s4 t → alertAsserted t = true := fun t more => more.alertAsserted_of_alert h4
    exact later _ (.ite (.ite (h6.trans (addEntry_incidental ..)) h6) h5)
  · obtain ⟨ctl1, bulk1⟩ := dropRings_plimit s1 p p
    have l1 : (link s1' p).out = (link s p).out ∧ (link s1' p).ctl.plimit = 0 ∧ (link s1' p).bulk.plimit = 0 := by
      refine ⟨?_, ctl1.trans (by rw [e1]; exact ctl), bulk1.trans (by rw [e1]; exact bulk)⟩
      rw [show s1' = dropRings s1 p from rfl, dropRings_link, e1]
      exact out
    have l3 : link s3 p = link s1' p := by
      have l2 : link s2 p = link s1' p := by
        unfold s2
        split
        · cases p <;> rfl
        · rfl
      unfold s3
      split
      · exact (originate_link ..).trans l2
      · exact l2
    have bridle : s3.bridle = s.bridle := by
      have b1 : s1'.bridle = s.bridle :=
        ((dropRings_only s1 p).same .bridle rfl).trans ((downLink_only s p c).same .bridle rfl)
      have b2 : s2.bridle = s.bridle := by
        unfold s2
        split <;> exact b1
      unfold s3
      split
      · exact ((originate_only ..).same .bridle rfl).trans b2
      · exact b2
    have calm4 : Calm s4 := (calm.of_bridle bridle).of_bridle ((addAlert_only ..).same .bridle rfl)
    have noted : ∀ t, Notes s4 t → link t p = link s1' p := fun t notes =>
      ((show link t p = link s4 p by
        have tether := (notes.keeps calm4).tether
        cases p
        · exact (congrArg Tether.u tether :)
        · exact (congrArg Tether.d tether :)).trans (link_of_tether ((addAlert_only ..).same .tether rfl) p)).trans l3
    have n5 : Notes s4 s5 := .ite (addEntry_notes ..) (.refl _)
    have n6 : Notes s4 s6 := n5.trans (Asks.of_only ((addAlert_only ..).mono rfl)
      (congrArg Bridle.doms ((addAlert_only ..).same .bridle rfl))).notes
    split
    · rw [l3]
      exact l1
    · rw [noted _ (.ite (.ite (n6.trans (addEntry_notes ..)) n6) n5)]
      exact l1

/-! ### Acknowledgements and going back -/

theorem freeCells_alloc {s : State} {cs : List Nat} {c : Nat} : c ∈ (freeCells s cs).queues.alloc ↔
    c ∈ s.queues.alloc ∧ c ∉ cs := by
  simp [freeCells]

/-- The cells of a removed frame are free, and no cell is taken. -/
theorem afterRemoval_alloc (s : State) (f : QFrame) (c : Nat) :
    c ∈ (afterRemoval s f).queues.alloc ↔ c ∈ s.queues.alloc ∧ c ∉ f.cells := by
  unfold afterRemoval
  extract_lets s1 s2
  have h1 : c ∈ s1.queues.alloc ↔ c ∈ s.queues.alloc ∧ c ∉ f.cells := freeCells_alloc
  have h2 : s2.queues = s1.queues := (creditFreed_only ..).same .queues rfl
  have mark : ∀ t : State, ∀ src, (markRelease t src).queues.alloc = t.queues.alloc := fun t src => by
    unfold markRelease
    dsimp only
    split <;> rfl
  split
  · exact h1
  split
  · rw [mark, h2]
    exact h1
  · rw [h2]
    exact h1

theorem removals_alloc (l : List (Byte × QFrame)) (s : State) (c : Nat) :
    c ∈ (l.foldl (fun t x => afterRemoval t x.2) s).queues.alloc ↔ c ∈ s.queues.alloc ∧ ∀ x ∈ l, c ∉ x.2.cells := by
  induction l generalizing s with
  | nil => simp
  | cons x rest ih =>
    rw [List.foldl_cons, ih, afterRemoval_alloc, and_assoc, List.forall_mem_cons]

/-- The cells of acknowledged frames are free. -/
theorem ackOldest_alloc (s : State) (p : Port) (k : Nat) {x : Byte × QFrame} (gone : x ∈ (link s p).out.take k) {c : Nat}
    (cell : c ∈ x.2.cells) : c ∉ (ackOldest s p k).queues.alloc := fun mem =>
  ((removals_alloc ..).mp mem).2 x gone cell

theorem countCode_link (s : State) (p : Port) (rx : RxFrame) (q : Port) :
    ∃ n, link (countCode s p rx) q = { link s q with err := n } := by
  unfold countCode addErr
  split
  · cases p <;> cases q <;> exact ⟨_, rfl⟩
  · exact ⟨_, rfl⟩

theorem rewind_kept (l : Link) : ∃ c b,
    rewind l = { l with ctl := c, bulk := b, resend := l.out.map (·.1), goBackDue := !l.out.isEmpty } := by
  have sub : ∀ (m : Link) (b : List Byte), ∃ c k, subSent m b = { m with ctl := c, bulk := k } := fun m b => by
    unfold subSent modCredit
    cases clsOf (fTyp b) <;> exact ⟨_, _, rfl⟩
  have fold : ∀ (o : List (Byte × QFrame)) (m : Link), ∃ c k,
      o.foldl (fun m x => if l.resend.contains x.1 then m else subSent m x.2.bytes) m = { m with ctl := c, bulk := k } := by
    intro o
    induction o with
    | nil => exact fun m => ⟨_, _, rfl⟩
    | cons x rest ih =>
      intro m
      obtain ⟨c, k, after⟩ := ih (if l.resend.contains x.1 then m else subSent m x.2.bytes)
      refine ⟨c, k, after.trans ?_⟩
      split
      · rfl
      · obtain ⟨c', k', one⟩ := sub m x.2.bytes
        rw [one]
  obtain ⟨c, b, kept⟩ := fold l.out l
  refine ⟨c, b, ?_⟩
  unfold rewind
  dsimp only
  rw [kept]

/-- A port with outstanding frames that goes back for the sixteenth time in a row goes down, and else sends them again. -/
theorem goBack_effect {s : State} {p : Port} (some_ : (link s p).out ≠ []) (notDue : (link s p).goBackDue = false) :
    ((link s p).goBacks < 15 → (link (goBack s p) p).resend = (link s p).out.map (·.1) ∧
      (link (goBack s p) p).goBackDue = true ∧ (link (goBack s p) p).goBacks = (link s p).goBacks + 1 ∧
      (link (goBack s p) p).out = (link s p).out ∧ Only [.tether] s (goBack s p)) ∧
    (15 ≤ (link s p).goBacks → portUp (goBack s p) p = false ∧ alertAsserted (goBack s p) = true) := by
  have guard : ¬((link s p).out.isEmpty || (link s p).goBackDue) = true := by simp [some_, notDue]
  refine ⟨fun few => ?_, fun many => ?_⟩
  · have step : goBack s p = modLink s p fun m => { rewind m with goBacks := m.goBacks + 1 } :=
      (if_neg guard).trans (if_neg (by omega))
    obtain ⟨c, b, kept⟩ := rewind_kept (link s p)
    rw [step, link_modLink_same, kept]
    exact ⟨rfl, by simpa using some_, rfl, rfl, modLink_only ..⟩
  · have step : goBack s p = portDownAs s p .exhaustion false := (if_neg guard).trans (if_pos many)
    obtain ⟨down, alert, _⟩ := portDownAs_effect s p .exhaustion false
    rw [step]
    exact ⟨down, alert rfl⟩

end Sys2Proof.Proofs

/-! ## ACK, credit and frames of a port that is up (file 15) -/

namespace Sys2Proof.Proofs

open Sys2Proof Sys2Proof.Machine

/-! ### ACK -/

theorem exec_ack_good {p : Port} {rx : RxFrame} {s : State} (up : portUp s p = true) (notSafe : s.boot.safe = false)
    (ok : linkControlOk rx 5 = true) : exec (.ack p rx) s =
      .next (takeAck (countCode s p rx) p (payByte rx.bytes 0) ((payByte rx.bytes 1).getLsbD 0)) :=
  congrArg Host.Outcome.next ((if_neg (by simp [up])).trans ((if_neg (by simp [notSafe])).trans (if_neg (by rw [ok]; decide))))

theorem exec_ack_bad {p : Port} {rx : RxFrame} {s : State} (up : portUp s p = true) (notSafe : s.boot.safe = false)
    (bad : linkControlOk rx 5 = false) : exec (.ack p rx) s = .next (badLinkControl (countCode s p rx) p rx) :=
  congrArg Host.Outcome.next ((if_neg (by simp [up])).trans ((if_neg (by simp [notSafe])).trans (if_pos (by rw [bad]; rfl))))

theorem takeAck_eq {s : State} {p : Port} {h : Byte} {f : QFrame} {rest : List (Byte × QFrame)} {e : Byte} {nak : Bool}
    (out : (link s p).out = (h, f) :: rest) : takeAck s p e nak =
      if rest.length + 1 < (e - h).toNat then s
      else if nak then goBack (ackOldest s p (e - h).toNat) p else ackOldest s p (e - h).toNat := by
  unfold takeAck
  dsimp only
  rw [out]
  rfl

/-- What an ACK that covers `k` frames leaves of its port. -/
theorem acked_link (s : State) (p : Port) (rx : RxFrame) (k : Nat) :
    (link (ackOldest (countCode s p rx) p k) p).out = (link s p).out.drop k ∧
    (link (ackOldest (countCode s p rx) p k) p).goBacks =
      (if ((link s p).out.take k).isEmpty then (link s p).goBacks else 0) ∧
    ((link s p).goBackDue = false → (link (ackOldest (countCode s p rx) p k) p).goBackDue = false) := by
  obtain ⟨n, counted⟩ := countCode_link s p rx p
  obtain ⟨c, b, acked⟩ := ackOldest_link (countCode s p rx) p k
  rw [acked, counted]
  exact ⟨rfl, rfl, fun notDue => by rw [notDue]; rfl⟩

theorem ack_effect (p : Port) {s : State} (up : portUp s p = true) (rx : RxFrame) (h : Byte) (f : QFrame)
    (rest : List (Byte × QFrame)) (k : Nat) (notSafe : s.boot.safe = false) (ok : linkControlOk rx 5 = true)
    (out : (link s p).out = (h, f) :: rest) (covers : k = (payByte rx.bytes 0 - h).toNat) :
    (rest.length + 1 < k → exec (.ack p rx) s = .next (countCode s p rx)) ∧
    (k ≤ rest.length + 1 → (payByte rx.bytes 1).getLsbD 0 = false →
      ∃ t, exec (.ack p rx) s = .next t ∧ (link t p).out = (link s p).out.drop k ∧ Only [.tether, .queues] s t ∧
        (∀ x ∈ (link s p).out.take k, ∀ c ∈ x.2.cells, c ∉ t.queues.alloc) ∧ (0 < k → (link t p).goBacks = 0)) ∧
    (k = 0 → (payByte rx.bytes 1).getLsbD 0 = true → (link s p).goBackDue = false → 15 ≤ (link s p).goBacks →
      ∃ t, exec (.ack p rx) s = .next t ∧ portUp t p = false ∧ alertAsserted t = true) ∧
    (k ≤ rest.length → (payByte rx.bytes 1).getLsbD 0 = true → (link s p).goBackDue = false → (link s p).goBacks < 15 →
      ∃ t, exec (.ack p rx) s = .next t ∧ (link t p).out = (link s p).out.drop k ∧
        (link t p).resend = ((link s p).out.drop k).map (·.1) ∧ (link t p).goBackDue = true) := by
  obtain ⟨n, counted⟩ := countCode_link s p rx p
  have sameOut : (link (countCode s p rx) p).out = (link s p).out := by rw [counted]
  have step := exec_ack_good up notSafe ok
  rw [takeAck_eq (sameOut.trans out), ← covers] at step
  obtain ⟨ackedOut, ackedBacks, ackedDue⟩ := acked_link s p rx k
  rw [step]
  refine ⟨fun beyond => congrArg _ (if_pos beyond), fun inside ack => ?_, fun none_ nak notDue many => ?_,
    fun left nak notDue few => ?_⟩
  · rw [if_neg (by omega), if_neg (by rw [ack]; decide)]
    refine ⟨_, rfl, ackedOut, ((countCode_only ..).mono rfl).post (ackOldest_only ..) rfl, fun x gone c cell => ?_, fun some_ => ?_⟩
    · exact ackOldest_alloc _ _ _ (by rwa [sameOut]) cell
    · rw [ackedBacks, out, if_neg (by cases k with | zero => exact absurd some_ (by decide) | succ k => simp)]
  · subst none_
    rw [if_neg (by omega), if_pos nak]
    have still : (link (ackOldest (countCode s p rx) p 0) p).out ≠ [] := by
      rw [ackedOut, out]
      exact List.cons_ne_nil _ _
    obtain ⟨_, down⟩ := goBack_effect still (ackedDue notDue)
    exact ⟨_, rfl, down (by rw [ackedBacks, List.take_zero]; exact many)⟩
  · rw [if_neg (by omega), if_pos nak]
    have still : (link (ackOldest (countCode s p rx) p k) p).out ≠ [] := by
      rw [ackedOut, out]
      refine fun none_ => ?_
      have length := congrArg List.length none_
      simp at length
      omega
    obtain ⟨back, _⟩ := goBack_effect still (ackedDue notDue)
    have few' : (link (ackOldest (countCode s p rx) p k) p).goBacks < 15 := by
      rw [ackedBacks]
      split
      · exact few
      · decide
    obtain ⟨resend, due, _, sameOut', _⟩ := back few'
    rw [ackedOut] at resend sameOut'
    exact ⟨_, rfl, sameOut', resend, due⟩

/-! ### CREDIT_SEND -/

theorem creditFrame_free (s : State) (n : Nat) (c b : Credit) : creditFrame { s with free := n } c b = creditFrame s c b := rfl

/-- The limit that a CREDIT would promise a bulk sender is in range. -/
theorem bulkRaise_le (s : State) (p : Port) : (bulkRaise s p).1 ≤
    max ((link s p).bulk.limit.toNat -
      ((BitVec.ofNat 16 (link s p).bulk.taken : Half) - (link s p).bulk.freed).toNat) 128 := by
  unfold bulkRaise
  extract_lets c w g
  dsimp only
  have below : (takeFree s).1.toNat % (min (128 - w) (g / 2) + 1) ≤ 128 - w :=
    Nat.le_trans (Nat.lt_succ_iff.mp (Nat.mod_lt _ (Nat.succ_pos _))) (Nat.min_le_left _ _)
  have bound : w + (takeFree s).1.toNat % (min (128 - w) (g / 2) + 1) ≤ max w 128 := by omega
  split
  · exact Nat.le_trans (by decide : 9 ≤ 128) (Nat.le_max_right _ _)
  · exact bound

theorem toNat_ofNat_half {n : Nat} (small : n < 65536) : (BitVec.ofNat 16 n).toNat = n := by
  rw [BitVec.toNat_ofNat]
  exact Nat.mod_eq_of_lt small

theorem creditSend_effect {p : Port} {s : State} (up : portUp s p = true) (notSafe : s.boot.safe = false)
    (held : ((BitVec.ofNat 16 (link s p).bulk.taken : Half) - (link s p).bulk.freed).toNat ≤ (link s p).bulk.limit.toNat)
    (small : (link s p).bulk.limit.toNat ≤ 65000) :
    ∃ t, exec (.creditSend p) s = .next t ∧ Only [.free, .tether] s t ∧
      (link t p).tx = creditFrame s (link t p).ctl (link t p).bulk ∧ (link t p).txEnd = .eof ∧
      (link s p).ctl.limit.toNat ≤ (link t p).ctl.limit.toNat ∧ (link s p).bulk.limit.toNat ≤ (link t p).bulk.limit.toNat ∧
      (link t p).ctl.freedSent = (link s p).ctl.freed ∧ (link t p).bulk.freedSent = (link s p).bulk.freed := by
  have step : exec (.creditSend p) s = .next (sendCredit s p) := congrArg Host.Outcome.next (if_pos (by simp [up, notSafe]))
  have before : link (bulkRaise s p).2 p = link s p := by cases p <;> rfl
  have raised := bulkRaise_le s p
  have sent : link (sendCredit s p) p = { link s p with
      ctl := { (link s p).ctl with
        limit := BitVec.ofNat 16 (max (link s p).ctl.limit.toNat (ctlLimit (bulkRaise s p).2 p))
        freedSent := (link s p).ctl.freed }
      bulk := { (link s p).bulk with
        limit := BitVec.ofNat 16 (max (link s p).bulk.limit.toNat ((bulkRaise s p).1 +
          ((BitVec.ofNat 16 (link s p).bulk.taken : Half) - (link s p).bulk.freed).toNat))
        freedSent := (link s p).bulk.freed }
      creditSent := true
      tx := (link (sendCredit s p) p).tx, txEnd := .eof } := by
    unfold sendCredit
    dsimp only
    rw [link_modLink_same, before]
  have frame : (link (sendCredit s p) p).tx =
      creditFrame s (link (sendCredit s p) p).ctl (link (sendCredit s p) p).bulk := by
    unfold sendCredit
    dsimp only
    rw [link_modLink_same]
    rfl
  have ctlMore : ctlLimit (bulkRaise s p).2 p ≤ 32 := Nat.sub_le ..
  have ctlNow := (link s p).ctl.limit.isLt
  refine ⟨_, step, sendCredit_only .., frame, ?_, ?_, ?_, ?_, ?_⟩
  · rw [sent]
  · rw [sent]
    dsimp only
    rw [toNat_ofNat_half (by omega)]
    exact Nat.le_max_left _ _
  · rw [sent]
    dsimp only
    rw [toNat_ofNat_half (by omega)]
    exact Nat.le_max_left _ _
  · rw [sent]
  · rw [sent]

/-! ### FRAME_SEND -/

theorem exec_frameSend {p : Port} (e : EccResult) {s : State} (free : holding s (portDom p) = false) :
    exec (.frameSend p e) s = .next (sendNext p e s) := by
  change execFrameSend p e s = _
  unfold execFrameSend barred
  rw [free]
  rfl

/-- A due ACK leaves first. -/
theorem sendNext_ack {p : Port} (e : EccResult) {s : State} (up : portUp s p = true) (notSafe : s.boot.safe = false)
    (due : (link s p).ackDue = true) : sendNext p e s = sendAck s p :=
  (if_neg (by simp [up])).trans ((if_neg (by simp [notSafe])).trans (if_pos due))

/-- Then what is to be sent again. -/
theorem sendNext_again {p : Port} {s : State} (up : portUp s p = true) (notSafe : s.boot.safe = false)
    (noAck : (link s p).ackDue = false) {h : Byte} {f : QFrame}
    (again : (link s p).out.find? (fun x => (link s p).resend.contains x.1) = some (h, f))
    (may : maySend (link s p) (clsOf (fTyp f.bytes)) (cellsOf f.bytes) = true) :
    (canRead s f = false → ∀ e, sendNext p e s = askAccess s f) ∧
    (canRead s f = true → sendNext p .clean s = modLink s p fun m =>
      { addSent m f.bytes with
        resend := m.resend.filter fun k => k != h
        goBackDue := false
        txEnd := .eof
        tx := txBytes f.bytes h (fWrap f.bytes) }) := by
  refine ⟨fun cannot e => ?_, fun can => ?_⟩
  all_goals
    unfold sendNext
    extract_lets l s1
    rw [if_neg (by simp [up]), if_neg (by simp [notSafe]), if_neg (by simp [l, noAck]), again]
    refine (if_neg (by simp [l, may])).trans ?_
  · exact if_pos (by simp [cannot])
  · exact (if_neg (by simp [can])).trans ((if_neg nofun).trans (if_neg nofun))

/-- A frame that leaves under the next number, from the head of its queue. -/
def sentNew (s : State) (p : Port) (tag : Nat) (g : QFrame) : State :=
  modLink (setQueue s tag ((queueOf s tag).drop 1)) p fun m =>
    { addSent m g.bytes with
      out := m.out ++ [(m.next, g)]
      next := m.next + 1
      altHold := if tag = noticeTag then true else if tag = holdTag p .ctl then false else m.altHold
      txEnd := .eof
      tx := txBytes g.bytes m.next (fWrap g.bytes) }

/-- Then the next new frame. -/
theorem sendNext_new {p : Port} {s : State} (up : portUp s p = true) (notSafe : s.boot.safe = false)
    (noAck : (link s p).ackDue = false) {tag : Nat} {f : QFrame}
    (none_ : (link s p).out.find? (fun x => (link s p).resend.contains x.1) = none) (room : (link s p).out.length < 32)
    (next : nextNew s p = some (tag, f)) :
    (canRead s f = false → ∀ e, sendNext p e s = askAccess s f) ∧
    (canRead s f = true → sendNext p .clean s =
      sentNew s p tag (if tag == noticeTag && dirH s != p then { f with bytes := withWrap f.bytes } else f)) := by
  refine ⟨fun cannot e => ?_, fun can => ?_⟩
  all_goals
    unfold sendNext
    extract_lets l s1
    rw [if_neg (by simp [up]), if_neg (by simp [notSafe]), if_neg (by simp [l, noAck]), none_]
    refine (if_neg (by simp only [l]; omega)).trans ?_
    rw [next]
  · exact if_pos (by simp [cannot])
  · exact (if_neg (by simp [can])).trans ((if_neg nofun).trans (if_neg nofun))

theorem frameSend_again {p : Port} {s : State} (up : portUp s p = true) (h : Byte) (f : QFrame)
    (notSafe : s.boot.safe = false) (noAck : (link s p).ackDue = false) (free : holding s (portDom p) = false)
    (again : (link s p).out.find? (fun x => (link s p).resend.contains x.1) = some (h, f))
    (may : maySend (link s p) (clsOf (fTyp f.bytes)) (cellsOf f.bytes) = true) :
    (canRead s f = true → ∃ t, exec (.frameSend p .clean) s = .next t ∧ (link t p).tx = txBytes f.bytes h (fWrap f.bytes) ∧
      (link t p).txEnd = .eof ∧ (link t p).out = (link s p).out ∧ h ∉ (link t p).resend ∧ Only [.tether] s t) ∧
    (canRead s f = false → ∀ e, exec (.frameSend p e) s = .next (askAccess s f)) := by
  obtain ⟨asks, sends⟩ := sendNext_again up notSafe noAck again may
  refine ⟨fun can => ?_, fun cannot e => (exec_frameSend e free).trans (congrArg _ (asks cannot e))⟩
  obtain ⟨c, k, sent⟩ := addSent_kept (link s p) f.bytes
  refine ⟨_, (exec_frameSend .clean free).trans (congrArg _ (sends can)), ?_⟩
  rw [link_modLink_same, sent]
  exact ⟨rfl, rfl, rfl, by simp, modLink_only ..⟩

theorem frameSend_new {p : Port} {s : State} (up : portUp s p = true) (tag : Nat) (f : QFrame)
    (notSafe : s.boot.safe = false) (noAck : (link s p).ackDue = false) (free : holding s (portDom p) = false)
    (none_ : (link s p).out.find? (fun x => (link s p).resend.contains x.1) = none) (room : (link s p).out.length < 32)
    (next : nextNew s p = some (tag, f)) :
    (canRead s f = false → ∀ e, exec (.frameSend p e) s = .next (askAccess s f)) ∧
    (canRead s f = true →
      ∃ t g, exec (.frameSend p .clean) s = .next t ∧ (link t p).out = (link s p).out ++ [((link s p).next, g)] ∧
        (link t p).next = (link s p).next + 1 ∧ (link t p).tx = txBytes g.bytes (link s p).next (fWrap g.bytes) ∧
        (link t p).txEnd = .eof ∧ (tag = noticeTag → dirH s ≠ p → g = { f with bytes := withWrap f.bytes }) ∧
        (tag ≠ noticeTag ∨ dirH s = p → g = f) ∧ queueOf t tag = (queueOf s tag).drop 1 ∧ Only [.tether, .queues] s t) := by
  obtain ⟨asks, sends⟩ := sendNext_new up notSafe noAck none_ room next
  refine ⟨fun cannot e => (exec_frameSend e free).trans (congrArg _ (asks cannot e)), fun can => ?_⟩
  have step := (exec_frameSend .clean free).trans (congrArg Host.Outcome.next (sends can))
  generalize which : (if tag == noticeTag && dirH s != p then ({ f with bytes := withWrap f.bytes } : QFrame) else f) = g at step
  obtain ⟨c, k, sent⟩ := addSent_kept (link s p) g.bytes
  have linked : link (sentNew s p tag g) p = { link s p with
      out := (link s p).out ++ [((link s p).next, g)], next := (link s p).next + 1
      ctl := c, bulk := k, altHold := (link (sentNew s p tag g) p).altHold
      txEnd := .eof, tx := txBytes g.bytes (link s p).next (fWrap g.bytes) } := by
    unfold sentNew
    rw [link_modLink_same, show link (setQueue s tag ((queueOf s tag).drop 1)) p = link s p from rfl, sent]
  have queue : queueOf (sentNew s p tag g) tag = (queueOf s tag).drop 1 :=
    (queueOf_of_queues (modLink_queues ..) tag).trans (queueOf_setQueue ..)
  refine ⟨_, g, step, ?_, ?_, ?_, ?_, fun notice other => ?_, fun plain => ?_, queue,
    ((setQueue_only ..).mono rfl).post (modLink_only ..) rfl⟩
  · rw [linked]
  · rw [linked]
  · rw [linked]
  · rw [linked]
  · rw [← which, if_pos (by simp [notice, other])]
  · rw [← which, if_neg (by rcases plain with other | same <;> simp [*])]

/-- Settles O53: what each command of file 15 does to a port that is up. -/
theorem linkSendsAndAcknowledges : Obligations.LinkSendsAndAcknowledges := by
  unfold Obligations.LinkSendsAndAcknowledges
  intro p s up
  refine ⟨fun c still => ?_, fun rx h f rest k => ack_effect p up rx h f rest k, fun rx notSafe bad => exec_ack_bad up notSafe bad,
    fun due notSafe i which => ?_, fun some_ notDue => ?_, fun notSafe held small => creditSend_effect up notSafe held small,
    fun h f => frameSend_again up h f, fun tag f => frameSend_new up tag f⟩
  · obtain ⟨down, alert, kept⟩ := portDownAs_effect s p c (orderlyDown c)
    obtain ⟨out, ctl, bulk⟩ := kept (.of_quiet still)
    exact ⟨_, congrArg Host.Outcome.next (if_pos up), down, out, ctl, bulk, alert⟩
  · rcases which with rfl | ⟨free, e, rfl⟩
    · exact congrArg _ (if_pos (by simp [up, due, notSafe]))
    · exact (exec_frameSend e free).trans (congrArg _ (sendNext_ack e up notSafe due))
  · exact ⟨_, congrArg Host.Outcome.next (if_pos up), goBack_effect some_ notDue⟩

end Sys2Proof.Proofs

/-! ## Frames that the hop accepts (files 15, 16 and 17) -/

namespace Sys2Proof.Proofs

open Sys2Proof Sys2Proof.Machine

/-! ### The hop -/

/-- The state in which a frame of a port is met: its code errors counted, the decision about it taken. -/
def heard (s : State) (p : Port) (rx : RxFrame) : State := (frameDecision (countCode s p rx) p).2.2

theorem countCode_eq (s : State) (p : Port) (rx : RxFrame) :
    ∃ n, countCode s p rx = modLink s p fun l => { l with err := n } := by
  unfold countCode addErr
  split
  · exact ⟨satur 15 ((link s p).err + rx.codeErrors), by cases p <;> rfl⟩
  · exact ⟨(link s p).err, by cases p <;> rfl⟩

theorem heard_eq (s : State) (p : Port) (rx : RxFrame) :
    ∃ n e, heard s p rx = { (modLink s p fun l => { l with err := n }) with engs := e } := by
  obtain ⟨n, counted⟩ := countCode_eq s p rx
  unfold heard
  rw [counted]
  refine ⟨n, (frameDecision (modLink s p fun l => { l with err := n }) p).2.2.engs, ?_⟩
  cases p <;>
    unfold frameDecision takeDecision <;>
    dsimp only <;>
    split <;>
    rfl

/-- The number of cells that an accepted frame takes. -/
def hopCells (b : List Byte) : Nat := if typReserved b then 0 else cellsOf b

/-- The state that has accepted a frame on a port. -/
def hopStored (s : State) (p : Port) (b : List Byte) : State :=
  let s2 : State :=
    { allocCells (modLink s p fun l =>
        modCredit { l with e := l.e + 1, ackDue := true, nak := false, nakSent := false } (clsOf (fTyp b)) fun k =>
          { k with taken := k.taken + hopCells b }) (pickCells s (hopCells b)) with
      queues.nextId := s.queues.nextId + 1 }
  if fTyp b = 9 then s2 else markAccept s2 (fSrc b).toNat (fSseq b)

/-- The accepted frame. -/
def hopFrame (s : State) (p : Port) (b : List Byte) : Machine.Accepted := ⟨b, pickCells s (hopCells b), some p, s.queues.nextId⟩

theorem hopReceive_of_ok {s : State} {p : Port} {rx : RxFrame} (ok : hopOk s p rx = true) :
    hopReceive s p rx = (hopStored s p rx.bytes, some (hopFrame s p rx.bytes)) := by
  unfold hopOk at ok
  simp only [Bool.and_eq_true, beq_iff_eq] at ok
  obtain ⟨⟨⟨⟨⟨up, good⟩, number⟩, _⟩, credit⟩, cells⟩ := ok
  unfold hopReceive
  extract_lets b n cs s1 a s2
  have few : ¬(!inCredit s p b || decide (cs.length < n)) = true := by
    have length : cs.length = n := cells
    simp [b, credit, length]
  exact (if_neg (by simp [up])).trans ((if_neg (by simp [good, b, number])).trans (if_neg few))

theorem hopOk_heard {s : State} {p : Port} {rx : RxFrame} (ok : hopOk s p rx = true) : hopOk (heard s p rx) p rx = true := by
  obtain ⟨n, e, eq⟩ := heard_eq s p rx
  rw [← ok, eq]
  cases p <;> rfl

/-- What the hop keeps for its answer: the number it expects, and whether an ACK and a NAK are due. -/
def hopMark (l : Link) : Byte × Bool × Bool := (l.e, l.ackDue, l.nak)

theorem hopMark_modCredit (l : Link) (c : Cls) (f : Credit → Credit) : hopMark (modCredit l c f) = hopMark l := by
  cases c <;> rfl

theorem markAccept_tether (s : State) (src : Nat) (sseq : Half) : (markAccept s src sseq).tether = s.tether :=
  (markAccept_only ..).same .tether rfl

theorem hopStored_link (s : State) (p : Port) (b : List Byte) :
    hopMark (link (hopStored s p b) p) = ((link s p).e + 1, true, false) ∧
      link (hopStored s p b) (otherPort p) = link s (otherPort p) := by
  have stored : ∀ t : State, t.tether = (modLink s p fun l =>
        modCredit { l with e := l.e + 1, ackDue := true, nak := false, nakSent := false } (clsOf (fTyp b)) fun k =>
          { k with taken := k.taken + hopCells b }).tether →
      hopMark (link t p) = ((link s p).e + 1, true, false) ∧ link t (otherPort p) = link s (otherPort p) := fun t same => by
    rw [link_of_tether same, link_of_tether same, link_modLink_same, link_modLink_other, hopMark_modCredit]
    exact ⟨rfl, rfl⟩
  unfold hopStored
  extract_lets s1 q1 s2
  split
  · exact stored _ rfl
  · exact stored _ (markAccept_tether ..)

theorem hopStored_only (s : State) (p : Port) (b : List Byte) : Only [.tether, .queues] s (hopStored s p b) := by
  unfold hopStored
  extract_lets s1 q1 s2
  have h2 : Only [.tether, .queues] s s2 :=
    Only.set_queues (ps := [.tether, .queues]) ((modLink_only s p _).mono rfl) _ rfl
  split
  · exact h2
  · exact h2.post (markAccept_only ..) rfl

/-! ### What the copies of a frame leave of the hop -/

/-- The answer of the hop and the direction of the ring stay. -/
structure HopStays (s t : State) : Prop where
  link : ∀ q, hopMark (link t q) = hopMark (link s q)
  loop : t.tether.loop = s.tether.loop
  hIsD : t.tether.hIsD = s.tether.hIsD

theorem HopStays.refl (s : State) : HopStays s s := ⟨fun _ => rfl, rfl, rfl⟩

theorem HopStays.trans {s t u : State} (h : HopStays s t) (k : HopStays t u) : HopStays s u :=
  ⟨fun q => (k.link q).trans (h.link q), k.loop.trans h.loop, k.hIsD.trans h.hIsD⟩

theorem HopStays.ite {c : Prop} [Decidable c] {s t u : State} (h : HopStays s t) (k : HopStays s u) :
    HopStays s (if c then t else u) := by
  split
  · exact h
  · exact k

theorem HopStays.of_tether {s t : State} (same : t.tether = s.tether) : HopStays s t :=
  ⟨fun q => by rw [link_of_tether same], by rw [same], by rw [same]⟩

theorem Incidental.hopStays {s t : State} (h : Incidental s t) : HopStays s t :=
  ⟨fun q => by rw [h.link q]; rfl, h.loop, h.hIsD⟩

/-- A change of one link that leaves the answer of its hop. -/
theorem modLink_hopStays {s : State} {p : Port} {f : Link → Link} (same : ∀ l, hopMark (f l) = hopMark l) :
    HopStays s (modLink s p f) := by
  refine ⟨fun q => ?_, by cases p <;> rfl, by cases p <;> rfl⟩
  cases p <;> cases q
  · exact same _
  · rfl
  · rfl
  · exact same _

theorem creditFreed_hopStays (s : State) (f : QFrame) (n : Nat) : HopStays s (creditFreed s f n) := by
  unfold creditFreed
  split
  · exact .refl _
  · refine .ite (.refl _) (modLink_hopStays fun l => ?_)
    cases clsOf (fTyp f.bytes) <;> rfl

theorem markRelease_hopStays (s : State) (src : Nat) : HopStays s (markRelease s src) := .of_tether (markRelease_tether ..)

theorem consume_hopStays (s : State) (a : Machine.Accepted) : HopStays s (consume s a) := by
  unfold consume
  extract_lets f s2
  have h2 : HopStays s s2 := (HopStays.of_tether (s := s) (t := freeCells s a.cells) rfl).trans (creditFreed_hopStays ..)
  exact .ite (h2.trans (markRelease_hopStays ..)) h2

theorem addSent_hopMark (l : Link) (b : List Byte) : hopMark (addSent l b) = hopMark l := hopMark_modCredit ..

theorem placeCopy_hopStays (s : State) (a : Machine.Accepted) (cs : List Nat) (c : CopyTo) (tag : Half) :
    HopStays s (placeCopy s a cs c tag) := by
  cases c with
  | drop t =>
    exact (HopStays.of_tether (s := s) (t := pushQueue s t (copyFrame s a cs tag false)) rfl).trans
      (.of_tether ((tallyAdd_only ..).same .tether rfl))
  | hold p w => exact .of_tether rfl
  | cut p =>
    unfold placeCopy
    exact modLink_hopStays fun l => addSent_hopMark l a.bytes

/-- One copy of a frame, and whether the cells of the frame are used. -/
def admitCopy (a : Machine.Accepted) (tag : Half) (acc : State × Bool) (c : CopyTo) : State × Bool :=
  if !acc.2 && copyRoom acc.1 (cellsOf a.bytes) c (clsOf (fTyp a.bytes)) then (placeCopy acc.1 a a.cells c tag, true)
  else if acc.2 && copyRoom acc.1 (cellsOf a.bytes) c (clsOf (fTyp a.bytes)) && cellsOf a.bytes ≤ generalFree acc.1 &&
      (pickCells acc.1 (cellsOf a.bytes)).length = cellsOf a.bytes then
    (placeCopy (allocCells acc.1 (pickCells acc.1 (cellsOf a.bytes))) a (pickCells acc.1 (cellsOf a.bytes)) c tag, true)
  else (reportFrame acc.1 a.bytes tag 0x01, acc.2)

/-- A frame none of whose copies was admitted. -/
def unplaced (s : State) (a : Machine.Accepted) (f : QFrame) : State :=
  if counted f then markRelease (creditFreed (freeCells s a.cells) f (cellsOf a.bytes)) (fSrc a.bytes).toNat
  else creditFreed (freeCells s a.cells) f (cellsOf a.bytes)

theorem admitCopies_eq (s : State) (a : Machine.Accepted) (cs : List CopyTo) (tag : Half) : admitCopies s a cs tag =
    if (cs.foldl (admitCopy a tag) (s, false)).2 then (cs.foldl (admitCopy a tag) (s, false)).1
    else unplaced (cs.foldl (admitCopy a tag) (s, false)).1 a (copyFrame s a a.cells tag false) := by
  unfold admitCopies
  extract_lets n r s1 f s2
  have folded : r = cs.foldl (admitCopy a tag) (s, false) := by
    unfold r
    congr 1
  rw [← folded]
  clear_value r
  rfl

theorem admitCopy_hopStays (a : Machine.Accepted) (tag : Half) (acc : State × Bool) (c : CopyTo) :
    HopStays acc.1 (admitCopy a tag acc c).1 := by
  unfold admitCopy
  split
  · exact placeCopy_hopStays ..
  split
  · exact (HopStays.of_tether (s := acc.1) (t := allocCells acc.1 _) rfl).trans (placeCopy_hopStays ..)
  · exact (reportFrame_incidental ..).hopStays

theorem admitCopies_hopStays (s : State) (a : Machine.Accepted) (cs : List CopyTo) (tag : Half) :
    HopStays s (admitCopies s a cs tag) := by
  have placed : ∀ (l : List CopyTo) (acc : State × Bool), HopStays acc.1 (l.foldl (admitCopy a tag) acc).1 := by
    intro l
    induction l with
    | nil => exact fun acc => .refl _
    | cons c rest ih => exact fun acc => (admitCopy_hopStays a tag acc c).trans (ih _)
  have released : ∀ t f, HopStays t (unplaced t a f) := fun t f => by
    have freed : HopStays t (creditFreed (freeCells t a.cells) f (cellsOf a.bytes)) :=
      (HopStays.of_tether (s := t) (t := freeCells t a.cells) rfl).trans (creditFreed_hopStays ..)
    exact .ite (freed.trans (markRelease_hopStays ..)) freed
  rw [admitCopies_eq]
  exact .ite (placed cs (s, false)) ((placed cs (s, false)).trans (released ..))

theorem endEab_hopStays (s : State) (o : Port) (b : List Byte) : HopStays s (endEab s o b) := modLink_hopStays fun _ => rfl

theorem abortCut_hopStays (s : State) (p : Port) (b : List Byte) (d : Disp) : HopStays s (abortCut s p b d) :=
  .ite (endEab_hopStays ..) (.refl _)

end Sys2Proof.Proofs

/-! ## What becomes of an accepted frame (files 16 and 17) -/

namespace Sys2Proof.Proofs

open Sys2Proof Sys2Proof.Machine

/-! ### The copies of a frame -/

/-- The copies that are asked for: transit and local. -/
def copiesAsked (s : State) (b : List Byte) (d : Decision) : Bool × Bool :=
  if fromUs s b && fWrap b then (true, false) else copiesOf s b d.disp

/-- The place of the transit copy; one that cut through spoilt ends and is held. -/
def copyDest (s : State) (p : Port) (b : List Byte) (spoilt tr : Bool) : Option CopyTo × State :=
  match if tr then transitTo s p b else none with
  | some (.cut o) => if spoilt then (some (.hold o false), endEab s o b) else (some (.cut o), s)
  | dest => (dest, s)

/-- The state in which the copies are made: a late decision noted, or a cut ended. -/
def beforeCopies (s : State) (p : Port) (b : List Byte) (d : Decision) (late own : Bool) : State :=
  if late then recordW2D s (kindPort (.frame p)) 3 0 else if own then s else abortCut s p b d.disp

/-- The report of a frame that goes nowhere. -/
def lostTransit (s : State) (b : List Byte) (d : Decision) (tr : Bool) (dest : Option CopyTo) : State :=
  if tr && dest.isNone && fDst b ≠ 0xFF && fTyp b ≠ 9 then reportFrame s b (d.qtag.getD (fQtag b)) 0x03 else s

/-- The copies made, in the state `t` that has noted what comes before; `s` tells whether the outage keeps the cells. -/
def copiesMade (s t : State) (a : Machine.Accepted) (d : Decision) (cs : List CopyTo) : State :=
  askMemory (if cs.isEmpty then consume t a
    else if outageHolds s && a.cells.any (fun c => !cellKept s c) then
      consume (reportFrame t a.bytes (d.qtag.getD (fQtag a.bytes)) 0x09) a
    else admitCopies t a cs (d.qtag.getD (fQtag a.bytes)))

theorem distribute_eq (s : State) (p : Port) (a : Machine.Accepted) (d : Decision) (late spoilt : Bool) :
    distribute s p a d late spoilt =
      copiesMade (copyDest s p a.bytes spoilt (copiesAsked s a.bytes d).1).2
        (lostTransit (beforeCopies (copyDest s p a.bytes spoilt (copiesAsked s a.bytes d).1).2 p a.bytes d late
          (fromUs s a.bytes && fWrap a.bytes)) a.bytes d (copiesAsked s a.bytes d).1
          (copyDest s p a.bytes spoilt (copiesAsked s a.bytes d).1).1) a d
        ((copyDest s p a.bytes spoilt (copiesAsked s a.bytes d).1).1.toList ++
          if (copiesAsked s a.bytes d).2 then [CopyTo.drop (localTag a.bytes d.qtag)] else []) := by
  unfold distribute
  dsimp only
  have asked : (if fromUs s a.bytes && fWrap a.bytes then (true, false) else copiesOf s a.bytes d.disp) =
    copiesAsked s a.bytes d := rfl
  rw [asked]
  rcases copiesAsked s a.bytes d with ⟨tr, lo⟩
  dsimp only
  unfold copyDest
  rcases (if tr then transitTo s p a.bytes else none) with _ | _ | _ | o
  · rfl
  · rfl
  · rfl
  · cases spoilt <;> rfl

theorem copyDest_hopStays (s : State) (p : Port) (b : List Byte) (spoilt tr : Bool) :
    HopStays s (copyDest s p b spoilt tr).2 := by
  unfold copyDest
  split
  · split
    · exact endEab_hopStays ..
    · exact .refl _
  · exact .refl _

theorem copiesMade_hopStays (s t : State) (a : Machine.Accepted) (d : Decision) (cs : List CopyTo) :
    HopStays t (copiesMade s t a d cs) := by
  have asked : ∀ u, HopStays t u → HopStays t (askMemory u) := fun u h => h.trans (askMemory_incidental u).hopStays
  refine asked _ (.ite (consume_hopStays ..) (.ite ?_ (admitCopies_hopStays ..)))
  exact (reportFrame_incidental ..).hopStays.trans (consume_hopStays ..)

theorem beforeCopies_hopStays (s : State) (p : Port) (b : List Byte) (d : Decision) (late own : Bool) :
    HopStays s (beforeCopies s p b d late own) := .ite (.of_tether ((recordW2D_only ..).same .tether rfl)) (.ite (.refl _) (abortCut_hopStays ..))

theorem lostTransit_hopStays (s : State) (b : List Byte) (d : Decision) (tr : Bool) (dest : Option CopyTo) :
    HopStays s (lostTransit s b d tr dest) := .ite (reportFrame_incidental ..).hopStays (.refl _)

theorem distribute_hopStays (s : State) (p : Port) (a : Machine.Accepted) (d : Decision) (late spoilt : Bool) :
    HopStays s (distribute s p a d late spoilt) := by
  rw [distribute_eq]
  exact (copyDest_hopStays ..).trans ((beforeCopies_hopStays ..).trans
    ((lostTransit_hopStays ..).trans (copiesMade_hopStays ..)))

/-! ### A frame that the hop accepts -/

theorem stallAddr_of_straps {s t : State} (same : t.straps = s.straps) : stallAddr t = stallAddr s := by
  simp only [stallAddr, rawAddr, Machine.rv, same]

theorem fromUs_of_straps {s t : State} (same : t.straps = s.straps) (b : List Byte) : fromUs t b = fromUs s b := by
  unfold fromUs ownAddr
  rw [stallAddr_of_straps same]

theorem hopStored_straps (s : State) (p : Port) (rx : RxFrame) :
    (hopStored (heard s p rx) p rx.bytes).straps = s.straps := by
  obtain ⟨n, e, eq⟩ := heard_eq s p rx
  rw [(hopStored_only ..).same .straps rfl, eq]
  exact modLink_straps ..

/-- A row that takes frames of its type: the frame is consumed when it is the device's own, and else distributed. -/
theorem receive_of_ok {s : State} {p : Port} {rx : RxFrame} {typs : List Nat} {act : State → List Byte → State}
    (notSafe : s.boot.safe = false) (ok : hopOk s p rx = true) (formed : malformed rx.bytes = false)
    (typ : typs.contains (fTyp rx.bytes).toNat = true) : receive s p rx typs act =
      if fromUs s rx.bytes && !fWrap rx.bytes then
        consume (hopStored (heard s p rx) p rx.bytes) (hopFrame (heard s p rx) p rx.bytes)
      else distribute (act (hopStored (heard s p rx) p rx.bytes) rx.bytes) p (hopFrame (heard s p rx) p rx.bytes)
        (frameDecision (countCode s p rx) p).1 (frameDecision (countCode s p rx) p).2.1 (rx.codeErrors ≠ 0) := by
  have up : portUp s p = true ∧ linkControl (fTyp rx.bytes) = false := by
    unfold hopOk at ok
    simp only [Bool.and_eq_true, Bool.not_eq_true'] at ok
    exact ⟨ok.1.1.1.1.1, ok.1.1.2⟩
  have own : fromUs (hopStored (heard s p rx) p rx.bytes) rx.bytes = fromUs s rx.bytes :=
    fromUs_of_straps (hopStored_straps ..) _
  rw [← own]
  unfold receive
  dsimp only
  rw [if_neg (by simp [notSafe]), if_neg (by simp [up.1, up.2])]
  have heardIs : (frameDecision (countCode s p rx) p).2.2 = heard s p rx := rfl
  rw [heardIs, hopReceive_of_ok (hopOk_heard ok)]
  exact if_neg (by rw [formed, typ]; simp)

theorem heard_link (s : State) (p : Port) (rx : RxFrame) :
    (∃ n, link (heard s p rx) p = { link s p with err := n }) ∧ link (heard s p rx) (otherPort p) = link s (otherPort p) ∧
      (heard s p rx).tether.loop = s.tether.loop := by
  obtain ⟨n, e, eq⟩ := heard_eq s p rx
  rw [eq]
  cases p <;> exact ⟨⟨n, rfl⟩, rfl, rfl⟩

/-- An accepted frame has the next number, and an ACK is due for it. -/
theorem accepted_hopMark (s : State) (p : Port) (rx : RxFrame) :
    hopMark (link (hopStored (heard s p rx) p rx.bytes) p) = ((link s p).e + 1, true, false) := by
  obtain ⟨⟨n, number⟩, _⟩ := heard_link s p rx
  rw [(hopStored_link ..).1, number]

/-- What a row does with the frame, its copies apart, leaves the answer of the hop. -/
def KeepsHop (act : State → List Byte → State) : Prop := ∀ s b q, hopMark (link (act s b) q) = hopMark (link s q)

theorem managementRefused_keepsHop : KeepsHop managementRefused := fun s b q =>
  (HopStays.ite (reportFrame_incidental s b (fQtag b) 0x0B).hopStays (.refl _)).link q

theorem none_keepsHop : KeepsHop fun t _ => t := fun _ _ _ => rfl

theorem echoAct_keepsHop : KeepsHop echoAct := fun s b q => by
  unfold echoAct
  split
  · rw [originate_link]
  · rfl

theorem probeAct_keepsHop (p : Port) : KeepsHop (probeAct p) := fun s b q => by
  unfold probeAct
  have ring : ∀ (u : State) (loop hIsD : Bool), link { u with tether.loop := loop, tether.hIsD := hIsD } q = link u q :=
    fun u loop hIsD => by cases q <;> rfl
  extract_lets r1 s1 r2
  have h1 : link s1 q = link s q := by
    unfold s1
    split
    · exact ring s true _
    · rfl
  split
  · exact congrArg hopMark ((ring s1 _ false).trans h1)
  · rw [h1]

theorem breakAct_keepsHop (p : Port) : KeepsHop (breakAct p) := fun s b q => by
  unfold breakAct
  split <;> cases q <;> rfl

theorem partEntry_hopStays (s : State) (reason : Byte) (b : List Byte) (sub : Nat) : HopStays s (partEntry s reason b sub) :=
  (addEntry_incidental ..).hopStays

theorem firstPart_hopStays (s : State) (b : List Byte) : HopStays s (firstPart s b) := by
  unfold firstPart
  extract_lets d v running refuse t
  refine .ite (partEntry_hopStays ..) (.ite (partEntry_hopStays ..) (.ite (partEntry_hopStays ..) (.ite (partEntry_hopStays ..) ?_)))
  exact (HopStays.of_tether (s := s) (t := { s with xfer := some (queuePart t b) }) rfl).trans (partEntry_hopStays ..)

theorem takePart_hopStays (s : State) (b : List Byte) : HopStays s (takePart s b) := by
  unfold takePart
  extract_lets discard
  refine .ite (.refl _) (.ite (partEntry_hopStays ..) (.ite (partEntry_hopStays ..) ?_))
  split
  · exact .ite (firstPart_hopStays ..) (partEntry_hopStays ..)
  · refine .ite (firstPart_hopStays ..) (.ite (partEntry_hopStays ..) (.ite (.refl _) (.ite (partEntry_hopStays ..)
      (.ite (partEntry_hopStays ..) ?_))))
    exact .of_tether rfl

theorem reelAct_keepsHop : KeepsHop reelAct := fun s b q => by
  unfold reelAct
  split
  · exact (takePart_hopStays s b).link q
  · exact managementRefused_keepsHop s b q

theorem receive_hopMark {s : State} {p : Port} {rx : RxFrame} {typs : List Nat} {act : State → List Byte → State}
    (notSafe : s.boot.safe = false) (ok : hopOk s p rx = true) (formed : malformed rx.bytes = false)
    (typ : typs.contains (fTyp rx.bytes).toNat = true) (keeps : KeepsHop act) :
    hopMark (link (receive s p rx typs act) p) = ((link s p).e + 1, true, false) := by
  rw [receive_of_ok notSafe ok formed typ]
  split
  · rw [(consume_hopStays ..).link, accepted_hopMark]
  · rw [(distribute_hopStays ..).link, keeps, accepted_hopMark]

end Sys2Proof.Proofs

/-! ## Accepted, refused and repeated frames (files 15 and 16) -/

namespace Sys2Proof.Proofs

open Sys2Proof Sys2Proof.Machine

/-! ### Every accepted frame is acknowledged -/

theorem arrivesOn_tether (s : State) (p : Port) (b : List Byte) : (arrivesOn s p b).tether = s.tether :=
  (arrivesOn_only ..).same .tether rfl

theorem hopMark_eq {l : Link} {e : Byte} {ackDue nak : Bool} (mark : hopMark l = (e, ackDue, nak)) :
    l.e = e ∧ l.ackDue = ackDue ∧ l.nak = nak := by
  unfold hopMark at mark
  simpa only [Prod.mk.injEq] using mark

theorem hopOk_portUp {s : State} {p : Port} {rx : RxFrame} (ok : hopOk s p rx = true) :
    portUp s p = true ∧ linkControl (fTyp rx.bytes) = false := by
  unfold hopOk at ok
  simp only [Bool.and_eq_true, Bool.not_eq_true'] at ok
  obtain ⟨⟨⟨⟨⟨up, _⟩, _⟩, notControl⟩, _⟩, _⟩ := ok
  exact ⟨up, notControl⟩

/-- A malformed frame that the hop accepts is counted, consumed and reported. -/
theorem malformedFrame_hopMark {s : State} {p : Port} {rx : RxFrame} (notSafe : s.boot.safe = false)
    (ok : hopOk s p rx = true) (bad : malformed rx.bytes = true) : ∃ t, exec (.malformedFrame p rx) s = .next t ∧
      hopMark (link t p) = ((link s p).e + 1, true, false) := by
  obtain ⟨n, counted⟩ := countCode_eq s p rx
  have okCounted : hopOk (countCode s p rx) p rx = true := by
    rw [← ok, counted]
    cases p <;> rfl
  have number : (link (countCode s p rx) p).e = (link s p).e := by rw [counted, link_modLink_same]
  have step : exec (.malformedFrame p rx) s = .next (reportFrame (consume (hopStored (countCode s p rx) p rx.bytes)
      (hopFrame (countCode s p rx) p rx.bytes)) rx.bytes (fQtag rx.bytes) 0x0A) := by
    change execMalformedFrame p rx s = _
    unfold execMalformedFrame
    dsimp only
    rw [if_neg (by simp [notSafe]), if_neg (by simp [(hopOk_portUp ok).2]), if_neg (by simp [bad]), hopReceive_of_ok okCounted]
  refine ⟨_, step, ?_⟩
  rw [((consume_hopStays ..).trans (reportFrame_incidental ..).hopStays).link, (hopStored_link ..).1, number]

/-- The rows of accepted frames but the malformed one: what each does, and the types that it takes. -/
theorem exec_row {s : State} {p : Port} {rx : RxFrame} {i : Instr} (notSafe : s.boot.safe = false)
    (row : (i = .data p rx none ∧ (fTyp rx.bytes = 1 ∨ fTyp rx.bytes = 7)) ∨ (i = .notice p rx ∧ fTyp rx.bytes = 2) ∨
       (i = .echoRequest p rx ∧ fTyp rx.bytes = 8 ∧ echoIsRequest rx.bytes = true) ∨
       (i = .echoReply p rx ∧ fTyp rx.bytes = 8 ∧ echoIsRequest rx.bytes = false) ∨
       (i = .ringBreak p rx ∧ fTyp rx.bytes = 9 ∧ ringIsBreak rx.bytes = true) ∨
       (i = .ringProbe p rx ∧ fTyp rx.bytes = 9 ∧ ringIsBreak rx.bytes = false) ∨
       (i = .reelPart p rx ∧ fTyp rx.bytes = 6 ∧ partLast rx.bytes = false) ∨
       (i = .reelPartLast p rx ∧ fTyp rx.bytes = 6 ∧ partLast rx.bytes = true)) :
    ∃ t typs act, exec i s = .next t ∧ t.tether = (receive s p rx typs act).tether ∧
      typs.contains (fTyp rx.bytes).toNat = true ∧ KeepsHop act ∧ (i = .ringProbe p rx → act = probeAct p) ∧
      (i = .ringBreak p rx → act = breakAct p) := by
  have taken : ∀ {n : BitVec 4} {typs : List Nat}, fTyp rx.bytes = n → typs.contains n.toNat = true →
      typs.contains (fTyp rx.bytes).toNat = true := fun same mem => by rwa [same]
  have part : (arrivesOn (receivePart s p rx) p rx.bytes).tether = (receive s p rx [6] reelAct).tether :=
    (arrivesOn_tether ..).trans (congrArg State.tether (if_neg (by simp [notSafe])))
  rcases row with ⟨rfl, typ⟩ | ⟨rfl, typ⟩ | ⟨rfl, typ, is⟩ | ⟨rfl, typ, is⟩ | ⟨rfl, typ, is⟩ | ⟨rfl, typ, is⟩ |
    ⟨rfl, typ, is⟩ | ⟨rfl, typ, is⟩
  · exact ⟨_, [1, 7], managementRefused, rfl, rfl, typ.elim (taken · rfl) (taken · rfl), managementRefused_keepsHop, nofun, nofun⟩
  · exact ⟨_, [2], fun t _ => t, rfl, rfl, taken typ rfl, none_keepsHop, nofun, nofun⟩
  · exact ⟨_, [8], echoAct, congrArg Host.Outcome.next (if_pos is), rfl, taken typ rfl, echoAct_keepsHop, nofun, nofun⟩
  · exact ⟨_, [8], fun t _ => t, congrArg Host.Outcome.next (if_neg (by simp [is])), rfl, taken typ rfl, none_keepsHop, nofun, nofun⟩
  · exact ⟨_, [9], breakAct p, congrArg Host.Outcome.next (if_pos is), rfl, taken typ rfl, breakAct_keepsHop p, nofun, fun _ => rfl⟩
  · exact ⟨_, [9], probeAct p, congrArg Host.Outcome.next (if_neg (by simp [is])), rfl, taken typ rfl, probeAct_keepsHop p, fun _ => rfl, nofun⟩
  · exact ⟨_, [6], reelAct, congrArg Host.Outcome.next (if_neg (by simp [is])), part, taken typ rfl, reelAct_keepsHop, nofun, nofun⟩
  · exact ⟨_, [6], reelAct, congrArg Host.Outcome.next (if_pos is), part, taken typ rfl, reelAct_keepsHop, nofun, nofun⟩

theorem hasPort_of_boot {s t : State} (boot : t.boot = s.boot) (ident : t.ident = s.ident) (p : Port) :
    hasPort t p = hasPort s p := by
  unfold hasPort present variant
  rw [boot, ident]

/-- A probe of another device sets loop mode, and a break report on U turns H to D. -/
theorem receive_ring {s : State} {p : Port} {rx : RxFrame} {typs : List Nat} {act : State → List Byte → State}
    (notSafe : s.boot.safe = false) (ok : hopOk s p rx = true) (formed : malformed rx.bytes = false)
    (typ : typs.contains (fTyp rx.bytes).toNat = true) (other : fromUs s rx.bytes = false) :
    (act = probeAct p → (payByte rx.bytes 1).getLsbD 0 = true → hasPort s .d = true →
      (receive s p rx typs act).tether.loop = true) ∧
    (act = breakAct p → s.tether.loop = true → p = .u → (receive s p rx typs act).tether.hIsD = true) := by
  have stored := hopStored_only (heard s p rx) p rx.bytes
  have boot : (hopStored (heard s p rx) p rx.bytes).boot = s.boot ∧ (hopStored (heard s p rx) p rx.bytes).ident = s.ident := by
    obtain ⟨n, e, eq⟩ := heard_eq s p rx
    rw [stored.same .boot rfl, stored.same .ident rfl, eq]
    exact ⟨modLink_boot .., modLink_ident ..⟩
  have loop : (hopStored (heard s p rx) p rx.bytes).tether.loop = s.tether.loop := by
    obtain ⟨_, _, same⟩ := heard_link s p rx
    rw [← same]
    unfold hopStored
    extract_lets s1 q1 s2
    have h2 : s2.tether.loop = (heard s p rx).tether.loop := by cases p <;> rfl
    split
    · exact h2
    · rw [markAccept_tether]
      exact h2
  rw [receive_of_ok notSafe ok formed typ, other, Bool.false_and, if_neg Bool.false_ne_true]
  refine ⟨fun probe sets has => ?_, fun brk inLoop onU => ?_⟩
  · rw [(distribute_hopStays ..).loop, probe]
    have guard : ((payByte rx.bytes 1).getLsbD 0 && hasPort (hopStored (heard s p rx) p rx.bytes) .d) = true := by
      rw [sets, hasPort_of_boot boot.1 boot.2, has]
      rfl
    unfold probeAct
    rw [if_pos guard]
    dsimp only
    split <;> rfl
  · rw [(distribute_hopStays ..).hIsD, brk]
    unfold breakAct
    rw [if_pos (by rw [loop, inLoop, onU]; rfl)]

/-! ### Safe mode -/

theorem repeatFrame_counted {s : State} {p : Port} (rx : RxFrame) (up : portUp s p = true)
    (otherUp : portUp s (otherPort p) = true) (wired : cabled s (otherPort p) = true) : repeatFrame (countCode s p rx) p rx =
      modLink (countCode s p rx) (otherPort p) fun l => { l with tx := rx.bytes, txEnd := rx.ending } := by
  obtain ⟨n, counted⟩ := countCode_eq s p rx
  refine if_pos ?_
  have same : (portUp (countCode s p rx) p && portUp (countCode s p rx) (otherPort p) && cabled (countCode s p rx) (otherPort p)) =
      (portUp s p && portUp s (otherPort p) && cabled s (otherPort p)) := by
    rw [counted]
    cases p <;> rfl
  rw [same, up, otherUp, wired]
  rfl

theorem safe_repeats {s : State} {p : Port} {rx : RxFrame} {i : Instr} (safe : s.boot.safe = true) (up : portUp s p = true)
    (which : i = .data p rx none ∨ i = .notice p rx ∨ i = .malformedFrame p rx ∨ i = .frameDiscarded p rx ∨ i = .ack p rx ∨
      i = .credit p rx) : exec i s = .next (repeatFrame (countCode s p rx) p rx) := by
  rcases which with rfl | rfl | rfl | rfl | rfl | rfl
  · exact congrArg Host.Outcome.next (if_pos safe)
  · exact congrArg Host.Outcome.next (if_pos safe)
  · exact congrArg Host.Outcome.next (if_pos safe)
  · exact congrArg Host.Outcome.next (if_pos safe)
  · exact congrArg Host.Outcome.next ((if_neg (by simp [up])).trans (if_pos safe))
  · exact congrArg Host.Outcome.next (if_pos (by simp [safe, up]))

/-! ### A frame that does not check -/

theorem rxGood_of_bad {rx : RxFrame} (bad : rxBad rx = true) : rxGood rx = false := by
  refine Bool.eq_false_iff.mpr fun good => ?_
  unfold rxGood at good
  simp only [Bool.and_eq_true, beq_iff_eq] at good
  obtain ⟨⟨ending, hcrc⟩, crc⟩ := good
  rw [rxBad, ending, hcrc, crc] at bad
  exact absurd bad (by decide)

theorem otherPort_ne (p : Port) : p ≠ otherPort p := by cases p <;> decide

theorem abortBad_link (s : State) (p : Port) (b : List Byte) : link (abortBad s p b) p = link s p := by
  unfold abortBad
  extract_lets o
  split
  · exact modLink_ne _ _ (otherPort_ne p)
  · rfl

theorem frameDiscarded_effect {p : Port} {rx : RxFrame} {s : State} (notSafe : s.boot.safe = false) (up : portUp s p = true)
    (data : linkControl (fTyp rx.bytes) = false) (bad : rxBad rx = true) (whole : rx.ending ≠ .eab)
    (after : atOrAfter (fHseq rx.bytes) (link s p).e = true) (first : (link s p).nakSent = false) :
    ∃ t, exec (.frameDiscarded p rx) s = .next t ∧ t.win.ecrc = min 0xFFFF (s.win.ecrc + 1) ∧ (link t p).e = (link s p).e ∧
      (link t p).nak = true ∧ (link t p).ackDue = true ∧ (link t p).nakSent = true ∧ t.queues = s.queues := by
  obtain ⟨⟨n, number⟩, _⟩ := heard_link s p rx
  have notGood := rxGood_of_bad bad
  have step : exec (.frameDiscarded p rx) s =
      .next (discardReply (countCrc (abortBad (heard s p rx) p rx.bytes)) p rx) := by
    change execFrameDiscarded p rx s = _
    unfold execFrameDiscarded discardFrame
    dsimp only
    rw [if_neg (by simp [notSafe]), if_neg (by simp [up]), if_neg (by simp [data]), if_neg (by simp [notGood]),
      if_neg (by simp [notGood]), if_pos bad, if_neg (by simp [data])]
    rfl
  have before : link (countCrc (abortBad (heard s p rx) p rx.bytes)) p = { link s p with err := n } := by
    rw [show link (countCrc (abortBad (heard s p rx) p rx.bytes)) p = link (abortBad (heard s p rx) p rx.bytes) p from rfl,
      abortBad_link, number]
  have others : (heard s p rx).win = s.win ∧ (heard s p rx).queues = s.queues := by
    obtain ⟨m, e, eq⟩ := heard_eq s p rx
    rw [eq]
    exact ⟨modLink_win .., modLink_queues ..⟩
  have reply : link (discardReply (countCrc (abortBad (heard s p rx) p rx.bytes)) p rx) p =
      { link s p with err := n, ackDue := true, nak := true, nakSent := true } := by
    unfold discardReply
    rw [link_modLink_same, before, if_neg whole, if_pos after, if_neg (by simp [first])]
  refine ⟨_, step, ?_, ?_, ?_, ?_, ?_, ?_⟩
  · unfold discardReply
    rw [modLink_win]
    exact congrArg (fun w : Window => min 0xFFFF (w.ecrc + 1)) (((abortBad_only ..).same .win rfl).trans others.1)
  · rw [reply]
  · rw [reply]
  · rw [reply]
  · rw [reply]
  · unfold discardReply
    rw [modLink_queues]
    exact ((abortBad_only ..).same .queues rfl).trans others.2

end Sys2Proof.Proofs

/-! ## A DATA frame for this device, and the reply to an echo (files 16 and 17) -/

namespace Sys2Proof.Proofs

open Sys2Proof Sys2Proof.Machine

/-! ### The state that has accepted a frame -/

theorem markAccept_qs (s : State) (src : Nat) (sseq : Half) : (markAccept s src sseq).queues.qs = s.queues.qs := by
  unfold markAccept
  split <;> rfl

theorem queueOf_of_qs {s t : State} (same : t.queues.qs = s.queues.qs) (tag : Nat) : queueOf t tag = queueOf s tag := by
  unfold queueOf
  rw [same]

theorem hopStored_queueOf (s : State) (p : Port) (b : List Byte) (tag : Nat) : queueOf (hopStored s p b) tag = queueOf s tag := by
  refine queueOf_of_qs ?_ tag
  unfold hopStored
  extract_lets s1 q1 s2
  have h2 : s2.queues.qs = s.queues.qs := by cases p <;> rfl
  split
  · exact h2
  · exact (markAccept_qs ..).trans h2

/-- The state that has accepted a frame of a port. -/
def tookFrame (s : State) (p : Port) (rx : RxFrame) : State := hopStored (heard s p rx) p rx.bytes

theorem tookFrame_only (s : State) (p : Port) (rx : RxFrame) : Only [.engs, .tether, .queues] s (tookFrame s p rx) := by
  have decided : Only [.engs, .tether, .queues] s (heard s p rx) :=
    ((countCode_only s p rx).mono rfl).post (frameDecision_only ..) rfl
  exact decided.post (hopStored_only ..) rfl

theorem tookFrame_queueOf (s : State) (p : Port) (rx : RxFrame) (tag : Nat) :
    queueOf (tookFrame s p rx) tag = queueOf s tag := by
  obtain ⟨n, e, eq⟩ := heard_eq s p rx
  refine (hopStored_queueOf ..).trans (queueOf_of_queues ?_ tag)
  rw [eq]
  exact modLink_queues ..

theorem tookFrame_sseq (s : State) (p : Port) (rx : RxFrame) : (tookFrame s p rx).tether.sseq = s.tether.sseq := by
  have before : (heard s p rx).tether.sseq = s.tether.sseq := by
    obtain ⟨n, e, eq⟩ := heard_eq s p rx
    rw [eq]
    cases p <;> rfl
  rw [← before]
  unfold tookFrame hopStored
  extract_lets s1 q1 s2
  have h2 : s2.tether.sseq = (heard s p rx).tether.sseq := by cases p <;> rfl
  split
  · exact h2
  · rw [markAccept_tether]
    exact h2

/-- The decision about a frame: the default one, late, while its stream still runs. -/
theorem frameDecision_eq (s : State) (p : Port) : (frameDecision s p).1 =
    (if streamRuns (takeDecision s p).2 (.frame p) then ⟨.dflt, none⟩ else (takeDecision s p).1) ∧
    (frameDecision s p).2.1 = streamRuns (takeDecision s p).2 (.frame p) := by
  unfold frameDecision
  dsimp only
  split
  · next runs => exact ⟨rfl, runs.symm⟩
  · next not_ => exact ⟨rfl, (Bool.eq_false_iff.mpr not_).symm⟩

theorem frameDecision_counted (s : State) (p : Port) (rx : RxFrame) :
    (frameDecision (countCode s p rx) p).1 = (frameDecision s p).1 ∧
      (frameDecision (countCode s p rx) p).2.1 = (frameDecision s p).2.1 := by
  obtain ⟨n, counted⟩ := countCode_eq s p rx
  rw [(frameDecision_eq s p).1, (frameDecision_eq s p).2, (frameDecision_eq _ p).1, (frameDecision_eq _ p).2, counted]
  cases p <;> exact ⟨rfl, rfl⟩

theorem forUsAlone_of_straps {s t : State} (same : t.straps = s.straps) (b : List Byte) : forUsAlone t b = forUsAlone s b := by
  unfold forUsAlone ownAddr
  rw [stallAddr_of_straps same]

theorem forUs_of_alone {s : State} {b : List Byte} (alone : forUsAlone s b = true) : forUs s b = true := by
  unfold forUsAlone at alone
  unfold forUs
  simp only [Bool.and_eq_true] at alone ⊢
  exact ⟨alone.1, by rw [alone.2, Bool.true_or]⟩

theorem tallyAdd_qs (s : State) (tag frames bytes : Nat) : (tallyAdd s tag frames bytes).queues.qs = s.queues.qs := by
  unfold tallyAdd
  split
  · split
    · rfl
    · extract_lets t fr by_ crossed q s1
      split
      · rfl
      · rfl
  · rfl

/-! ### What the default decision does with a frame for this device alone -/

/-- A frame for this device alone, under the default decision and in time, makes no transit copy. -/
theorem distribute_alone {s : State} {p : Port} {a : Machine.Accepted} (spoilt : Bool)
    (alone : forUsAlone s a.bytes = true) (other : fromUs s a.bytes = false) :
    distribute s p a ⟨.dflt, none⟩ false spoilt = copiesMade s s a ⟨.dflt, none⟩
      (if fTyp a.bytes == 1 then [CopyTo.drop (localTag a.bytes none)] else []) := by
  have asked : copiesAsked s a.bytes ⟨.dflt, none⟩ = (false, fTyp a.bytes == 1) := by
    unfold copiesAsked copiesOf
    rw [other, Bool.false_and, if_neg Bool.false_ne_true]
    dsimp only
    rw [alone, forUs_of_alone alone, Bool.and_true]
    rfl
  rw [distribute_eq, asked, other, Bool.false_and]
  rfl

/-- One local copy that finds room is placed in its drop queue. -/
theorem admitCopies_drop {s : State} {a : Machine.Accepted} {tag : Nat} {name : Half}
    (room : copyRoom s (cellsOf a.bytes) (.drop tag) (clsOf (fTyp a.bytes)) = true) :
    admitCopies s a [.drop tag] name = placeCopy s a a.cells (.drop tag) name := by
  have placed : admitCopy a name (s, false) (.drop tag) = (placeCopy s a a.cells (.drop tag) name, true) := by
    unfold admitCopy
    exact if_pos (by rw [room]; rfl)
  rw [admitCopies_eq, List.foldl_cons, placed]
  rfl

theorem outageHolds_of_none {s : State} (none_ : inOutage s = false) : outageHolds s = false := by
  unfold outageHolds
  rw [none_, Bool.false_and]

/-- A frame for this device alone that a row takes, under the default decision and in time. -/
theorem receive_alone {s : State} {p : Port} {rx : RxFrame} {typs : List Nat} {act : State → List Byte → State}
    (notSafe : s.boot.safe = false) (ok : hopOk s p rx = true) (formed : malformed rx.bytes = false)
    (typ : typs.contains (fTyp rx.bytes).toNat = true) (decision : (frameDecision s p).1 = ⟨.dflt, none⟩)
    (inTime : (frameDecision s p).2.1 = false) (alone : forUsAlone s rx.bytes = true) (other : fromUs s rx.bytes = false)
    (straps : (act (tookFrame s p rx) rx.bytes).straps = s.straps) : receive s p rx typs act =
      copiesMade (act (tookFrame s p rx) rx.bytes) (act (tookFrame s p rx) rx.bytes) (hopFrame (heard s p rx) p rx.bytes)
        ⟨.dflt, none⟩ (if fTyp rx.bytes == 1 then [CopyTo.drop (localTag rx.bytes none)] else []) := by
  obtain ⟨sameDecision, sameTime⟩ := frameDecision_counted s p rx
  rw [receive_of_ok notSafe ok formed typ, other, Bool.false_and, if_neg Bool.false_ne_true, sameDecision, sameTime, decision,
    inTime]
  exact distribute_alone _ ((forUsAlone_of_straps straps _).trans alone) ((fromUs_of_straps straps _).trans other)

theorem data_effect {p : Port} {rx : RxFrame} {s : State} (notSafe : s.boot.safe = false) (ok : hopOk s p rx = true)
    (formed : malformed rx.bytes = false) (still : quiet s) (noOutage : inOutage s = false)
    (decision : (frameDecision s p).1 = ⟨.dflt, none⟩) (inTime : (frameDecision s p).2.1 = false)
    (alone : forUsAlone s rx.bytes = true) (other : fromUs s rx.bytes = false) (typ : fTyp rx.bytes = 1)
    (room : copyRoom s (cellsOf rx.bytes) (.drop (localTag rx.bytes none)) .bulk = true) :
    ∃ t f, exec (.data p rx none) s = .next t ∧ f.bytes = rx.bytes ∧
      queueOf t (localTag rx.bytes none) = queueOf s (localTag rx.bytes none) ++ [f] ∧
      link t (otherPort p) = link s (otherPort p) := by
  have only := tookFrame_only s p rx
  have unmanaged : managementRefused (tookFrame s p rx) rx.bytes = tookFrame s p rx := by
    unfold managementRefused
    rw [typ]
    rfl
  have roomTook : copyRoom (tookFrame s p rx) (cellsOf rx.bytes) (.drop (localTag rx.bytes none)) (clsOf (fTyp rx.bytes)) = true := by
    rw [← room]
    change (tri (tookFrame s p rx) 4 != .opn && queueRoom (tookFrame s p rx) (localTag rx.bytes none) (cellsOf rx.bytes)) =
      (tri s 4 != .opn && queueRoom s (localTag rx.bytes none) (cellsOf rx.bytes))
    unfold queueRoom limitOf queueCfg tri
    rw [tookFrame_queueOf, only.same .straps rfl, only.same .reel rfl]
  have outage : outageHolds (tookFrame s p rx) = false :=
    outageHolds_of_none (by rw [inOutage, only.same .outage rfl]; exact noOutage)
  have made : receive s p rx [1, 7] managementRefused =
      askMemory (placeCopy (tookFrame s p rx) (hopFrame (heard s p rx) p rx.bytes) (hopFrame (heard s p rx) p rx.bytes).cells
        (.drop (localTag rx.bytes none)) (fQtag rx.bytes)) := by
    rw [receive_alone notSafe ok formed (by rw [typ]; rfl) decision inTime alone other
      (by rw [unmanaged]; exact only.same .straps rfl), unmanaged, typ]
    exact congrArg askMemory ((if_neg nofun).trans ((if_neg (by simp [outage])).trans (admitCopies_drop roomTook)))
  have placed := placeCopy_only (tookFrame s p rx) (hopFrame (heard s p rx) p rx.bytes) (hopFrame (heard s p rx) p rx.bytes).cells
    (.drop (localTag rx.bytes none)) (fQtag rx.bytes)
  have calm : Calm (placeCopy (tookFrame s p rx) (hopFrame (heard s p rx) p rx.bytes)
      (hopFrame (heard s p rx) p rx.bytes).cells (.drop (localTag rx.bytes none)) (fQtag rx.bytes)) :=
    (Calm.of_quiet still).of_bridle ((placed.same .bridle rfl).trans (only.same .bridle rfl))
  obtain ⟨_, asked⟩ := (askMemory_asks _).keeps calm
  refine ⟨_, copyFrame (tookFrame s p rx) (hopFrame (heard s p rx) p rx.bytes) (hopFrame (heard s p rx) p rx.bytes).cells
    (fQtag rx.bytes) false, congrArg Host.Outcome.next made, rfl, ?_, ?_⟩
  · rw [queueOf_of_queues (asked.same .queues rfl)]
    refine (queueOf_of_qs (tallyAdd_qs ..) _).trans ((queueOf_setQueue ..).trans ?_)
    rw [tookFrame_queueOf]
  · obtain ⟨_, stored⟩ := hopStored_link (heard s p rx) p rx.bytes
    obtain ⟨_, before, _⟩ := heard_link s p rx
    rw [link_of_tether (asked.same .tether rfl)]
    exact (link_of_tether ((tallyAdd_only ..).same .tether rfl) _).trans (stored.trans before)

/-! ### The reply to an echo request -/

theorem consume_qs (s : State) (a : Machine.Accepted) : (consume s a).queues.qs = s.queues.qs := by
  have mark : ∀ (t : State) src, (markRelease t src).queues.qs = t.queues.qs := fun t src => by
    unfold markRelease
    dsimp only
    split <;> rfl
  unfold consume
  extract_lets f s2
  have h2 : s2.queues.qs = s.queues.qs :=
    (congrArg Queues.qs (show s2.queues = (freeCells s a.cells).queues from (creditFreed_only ..).same .queues rfl)).trans rfl
  split
  · exact (mark ..).trans h2
  · exact h2

theorem toBe_length (n v : Nat) : (toBe n v).length = n := by
  induction n generalizing v with
  | zero => rfl
  | succ n ih => exact congrArg Nat.succ (ih v)

theorem mkFrame_length (typ : BitVec 4) (wrap : Bool) (hseq dst src : Byte) (qtag : Half) (group : BitVec 4) (sseq : Half)
    (pay : List Byte) : (mkFrame typ wrap hseq dst src qtag group sseq pay).length = 20 + pay.length := by
  unfold mkFrame
  simp only [List.length_append, toBe_length, List.length_cons, List.length_nil]
  omega

/-- The reply to an echo request is as long as the request. -/
theorem echoReply_cells {b : List Byte} (formed : malformed b = false) (typ : fTyp b = 8) (crc : crcOk b = true)
    (wrap : Bool) (hseq dst src : Byte) (qtag : Half) (group : BitVec 4) (sseq : Half) :
    cellsOf (mkFrame 8 wrap hseq dst src qtag group sseq (2 :: (payload b).drop 1)) = cellsOf b := by
  have length : b.length = 20 + fLen b := by
    unfold crcOk at crc
    simp only [Bool.and_eq_true, beq_iff_eq] at crc
    exact crc.1
  have some_ : 4 ≤ fLen b := by
    unfold malformed lenOk at formed
    rw [typ] at formed
    simp at formed
    omega
  unfold cellsOf
  rw [mkFrame_length]
  simp only [payload, List.length_cons, List.length_drop, List.length_take]
  congr 2
  omega

theorem hopOk_crc {s : State} {p : Port} {rx : RxFrame} (ok : hopOk s p rx = true) : crcOk rx.bytes = true := by
  unfold hopOk rxGood at ok
  simp only [Bool.and_eq_true] at ok
  obtain ⟨⟨⟨⟨⟨_, _, crc⟩, _⟩, _⟩, _⟩, _⟩ := ok
  exact crc

/-- A control frame of the device that finds its cells waits in the queue of its port. -/
theorem originate_queued {s : State} (typ : BitVec 4) (dst : Byte) (pay : List Byte) (p : Port) (wrap : Bool) {n : Nat}
    (cells : cellsOf (mkFrame typ wrap 0 dst (ownAddr s) 0 (ownGroup s) s.tether.sseq pay) = n)
    (free : (pickCells s n).length = n) (room : noticeUsed s + n ≤ (queueCfg s).notRes) :
    ∃ f ∈ queueOf (originate s typ dst pay p wrap) (holdTag p .ctl),
      f.bytes = mkFrame typ wrap 0 dst (ownAddr s) 0 (ownGroup s) s.tether.sseq pay := by
  subst cells
  unfold originate
  extract_lets b n cs f q r
  rw [if_pos (by simp only [Bool.and_eq_true, decide_eq_true_eq]; exact ⟨free, room⟩)]
  refine ⟨f, ?_, rfl⟩
  unfold pushQueue
  rw [queueOf_setQueue]
  exact List.mem_append_right _ (List.mem_singleton.mpr rfl)

theorem echoRequest_effect {p : Port} {rx : RxFrame} {u s : State} (notSafe : s.boot.safe = false) (ok : hopOk s p rx = true)
    (formed : malformed rx.bytes = false) (still : quiet s) (decision : (frameDecision s p).1 = ⟨.dflt, none⟩)
    (inTime : (frameDecision s p).2.1 = false) (alone : forUsAlone s rx.bytes = true) (other : fromUs s rx.bytes = false)
    (took : u = (hopReceive (frameDecision (countCode s p rx) p).2.2 p rx).1) (typ : fTyp rx.bytes = 8)
    (request_ : echoIsRequest rx.bytes = true) (headEnd : fSrc rx.bytes = 0)
    (room : noticeUsed u + cellsOf rx.bytes ≤ (queueCfg s).notRes)
    (free : (pickCells u (cellsOf rx.bytes)).length = cellsOf rx.bytes) :
    ∃ t, exec (.echoRequest p rx) s = .next t ∧ ∃ f ∈ queueOf t (holdTag (originPort u).1 .ctl),
      f.bytes = mkFrame 8 (originPort u).2 0 0 (ownAddr s) 0 (ownGroup s) s.tether.sseq (2 :: (payload rx.bytes).drop 1) := by
  have isTook : u = tookFrame s p rx := by
    rw [took, show (frameDecision (countCode s p rx) p).2.2 = heard s p rx from rfl, hopReceive_of_ok (hopOk_heard ok)]
    rfl
  have only := tookFrame_only s p rx
  rw [← isTook] at only
  have straps := only.same .straps rfl
  have forHere : forUs u rx.bytes = true := forUs_of_alone ((forUsAlone_of_straps straps _).trans alone)
  have acts : echoAct u rx.bytes = originate u 8 0 (2 :: (payload rx.bytes).drop 1) (originPort u).1 (originPort u).2 := by
    unfold echoAct
    rw [if_pos (by rw [forHere, headEnd]; rfl)]
  have addr : ownAddr u = ownAddr s := by
    unfold ownAddr
    rw [stallAddr_of_straps straps]
  have group : ownGroup u = ownGroup s := by
    unfold ownGroup strapGroup Machine.rv
    rw [straps]
  have sseq : u.tether.sseq = s.tether.sseq := by rw [isTook, tookFrame_sseq]
  have config : queueCfg u = queueCfg s := by
    unfold queueCfg
    rw [only.same .reel rfl]
  obtain ⟨f, queued, bytes⟩ := originate_queued (s := u) 8 0 (2 :: (payload rx.bytes).drop 1) (originPort u).1 (originPort u).2
    (echoReply_cells formed typ (hopOk_crc ok) ..) free (by rw [config]; exact room)
  have originated := originate_only u 8 0 (2 :: (payload rx.bytes).drop 1) (originPort u).1 (originPort u).2
  have made : receive s p rx [8] echoAct =
      askMemory (consume (originate u 8 0 (2 :: (payload rx.bytes).drop 1) (originPort u).1 (originPort u).2)
        (hopFrame (heard s p rx) p rx.bytes)) := by
    rw [receive_alone notSafe ok formed (by rw [typ]; rfl) decision inTime alone other
      (by rw [← isTook, acts]; exact (originated.same .straps rfl).trans straps), ← isTook, acts, typ]
    rfl
  have calm : Calm (consume (originate u 8 0 (2 :: (payload rx.bytes).drop 1) (originPort u).1 (originPort u).2)
      (hopFrame (heard s p rx) p rx.bytes)) :=
    (Calm.of_quiet still).of_bridle
      (((consume_only ..).same .bridle rfl).trans ((originated.same .bridle rfl).trans (only.same .bridle rfl)))
  obtain ⟨_, asked⟩ := (askMemory_asks _).keeps calm
  refine ⟨_, congrArg Host.Outcome.next ((if_pos request_).trans made), f, ?_, ?_⟩
  · rw [queueOf_of_queues (asked.same .queues rfl), queueOf_of_qs (consume_qs ..)]
    exact queued
  · rw [bytes, addr, group, sseq]

/-- Settles O54: what the hop does with each frame, and what a frame for this device makes. -/
theorem framesAreAccepted : Obligations.FramesAreAccepted := by
  unfold Obligations.FramesAreAccepted
  refine ⟨fun p rx i s notSafe ok row => ?_, fun p rx i s safe up otherUp wired which =>
      (safe_repeats safe up which).trans (congrArg _ (repeatFrame_counted rx up otherUp wired)),
    fun p rx s notSafe up data bad whole after first => frameDiscarded_effect notSafe up data bad whole after first,
    fun p rx u s notSafe ok formed still noOutage decision inTime alone other took =>
      ⟨fun typ room => data_effect notSafe ok formed still noOutage decision inTime alone other typ room,
        fun typ request_ headEnd room free => echoRequest_effect notSafe ok formed still decision inTime alone other took typ
          request_ headEnd room free⟩⟩
  rcases row with ⟨formed, row⟩ | ⟨rfl, bad⟩
  · obtain ⟨t, typs, act, step, tether, typ, keeps, probe, brk⟩ := exec_row notSafe row
    obtain ⟨e, ackDue, nak⟩ := hopMark_eq (receive_hopMark notSafe ok formed typ keeps)
    rw [← link_of_tether tether] at e ackDue nak
    refine ⟨t, step, e, ackDue, nak, fun is other sets has => ?_, fun is other inLoop onU => ?_⟩
    · rw [tether]
      exact (receive_ring notSafe ok formed typ other).1 (probe is) sets has
    · rw [tether]
      exact (receive_ring notSafe ok formed typ other).2 (brk is) inLoop onU
  · obtain ⟨t, step, mark⟩ := malformedFrame_hopMark notSafe ok bad
    obtain ⟨e, ackDue, nak⟩ := hopMark_eq mark
    exact ⟨t, step, e, ackDue, nak, nofun, nofun⟩

end Sys2Proof.Proofs

/-! ## The delivery of a Reel (files 05 and 16) -/

namespace Sys2Proof.Proofs

open Sys2Proof Sys2Proof.Machine

/-! ### What the check of a slot reads -/

/-- Two states that read the same in their flash and NVM, as the same device. -/
structure SameFlash (s t : State) : Prop where
  boot : t.boot = s.boot
  ident : t.ident = s.ident
  nvm : t.nvm = s.nvm
  flash : t.flash = s.flash
  reel : t.reel = s.reel

theorem SameFlash.flashRead {s t : State} (h : SameFlash s t) (a n : Nat) : flashRead t a n = flashRead s a n := by
  unfold Machine.flashRead
  rw [h.boot, h.flash]

theorem SameFlash.recoverKey {s t : State} (h : SameFlash s t) (k : Fin 2) (x : Header) :
    recoverKey t k x = recoverKey s k x := by
  unfold Machine.recoverKey unsealed plainKey keyErased
  simp only [h.flashRead, h.ident]

theorem SameFlash.slotHeader {s t : State} (h : SameFlash s t) (k : Fin 2) : slotHeader t k = slotHeader s k := by
  have fit : ∀ x, rulesFit t k x = rulesFit s k x := fun x => by
    unfold rulesFit sectBytes
    simp only [h.flashRead]
  unfold Machine.slotHeader
  simp only [h.flashRead, h.boot, fit]

theorem SameFlash.nvmCopy {s t : State} (h : SameFlash s t) : nvmCopy t = nvmCopy s := by
  unfold Machine.nvmCopy
  rw [h.nvm]

theorem SameFlash.slotValid {s t : State} (h : SameFlash s t) (k : Fin 2) : slotValid t k = slotValid s k := by
  have verify : ∀ x q, verifySlot t k x q = verifySlot s k x q := fun x q => by
    unfold verifySlot digestBytes
    simp only [h.flashRead, h.recoverKey]
  unfold Machine.slotValid
  simp only [h.slotHeader, verify, h.nvmCopy]

theorem SameFlash.targetSlot {s t : State} (h : SameFlash s t) : targetSlot t = targetSlot s := by
  unfold Machine.targetSlot slotVersion
  simp only [h.reel, h.slotValid, h.slotHeader]

theorem SameFlash.partMacOk {s t : State} (h : SameFlash s t) (b : List Byte) : partMacOk t b = partMacOk s b := by
  unfold Machine.partMacOk partKey kmgmtOf
  rw [h.boot, h.reel]

theorem SameFlash.takesParts {s t : State} (h : SameFlash s t) (outage : t.outage = s.outage) : takesParts t = takesParts s := by
  unfold Machine.takesParts isReady inOutage
  rw [h.boot, h.nvm, outage]

theorem tookFrame_sameFlash (s : State) (p : Port) (rx : RxFrame) : SameFlash s (tookFrame s p rx) := by
  have only := tookFrame_only s p rx
  exact ⟨only.same .boot rfl, only.same .ident rfl, only.same .nvm rfl, only.same .flash rfl, only.same .reel rfl⟩

/-! ### A part that arrives -/

theorem takePart_first {s : State} {b : List Byte} (takes : takesParts s = true) (mac : partMacOk s b = true)
    (aligned : partAligned b = true) (none_ : s.xfer = none) (start : partOff b = 0) : takePart s b = firstPart s b := by
  unfold takePart
  rw [if_neg (by simp [takes]), if_neg (by simp [mac]), if_neg (by simp [aligned]), none_]
  exact if_pos start

/-- A transfer that begins with this part. -/
def beganTransfer (s : State) (b : List Byte) : Transfer :=
  queuePart ⟨partXfer b, targetSlot s, .u, 0, 0, 0, [], [], 0, false, false⟩ b

theorem firstPart_accepted {s : State} {b : List Byte} (none_ : s.xfer = none)
    (newer : ∀ r, s.reel = some r → r.version.toNat < field (partData b) 8 4)
    (allowed : ((nvmCopy s).map (·.minVer.toNat)).getD 0 ≤ field (partData b) 8 4)
    (header : headerFieldsOk ((partData b).take 64) = true) :
    firstPart s b = partEntry { s with xfer := some (beganTransfer s b) } 0x20 b 0 := by
  unfold firstPart
  extract_lets d v running refuse t
  rw [if_neg, if_neg (by simpa only [Nat.not_lt] using allowed), if_neg (by simp [d, header]), if_neg (by simp [none_])]
  · rfl
  · cases loaded : s.reel with
    | none => simp
    | some r =>
      have below := newer r loaded
      simp only [Option.isSome_some, Bool.true_and, decide_eq_true_eq, Nat.not_le, running, loaded]
      exact below

theorem takePart_mac {s : State} {b : List Byte} (takes : takesParts s = true) (bad : partMacOk s b = false) :
    takePart s b = partEntry s 0x23 b 1 := by
  unfold takePart
  exact (if_neg (by simp [takes])).trans (if_pos (by simp [bad]))

/-- A part of the running transfer, beyond what is programmed. -/
theorem takePart_next {s : State} {b : List Byte} {x : Transfer} (takes : takesParts s = true) (mac : partMacOk s b = true)
    (aligned : partAligned b = true) (runs : s.xfer = some x) (same : partXfer b = x.xfer)
    (ahead : x.programmed < partOff b + partDlen b) : takePart s b =
      if 32 ≤ partsOut x && x.next ≤ partOff b then partEntry s 0x23 b 3
      else if x.last || partOff b ≠ x.next then partEntry s 0x23 b 2
      else { s with xfer := some (queuePart x b) } := by
  unfold takePart
  rw [if_neg (by simp [takes]), if_neg (by simp [mac]), if_neg (by simp [aligned]), runs]
  exact (if_neg (by simp [same])).trans ((if_neg (by simp [same])).trans (if_neg (by simp; omega)))

theorem partEntry_only (s : State) (reason : Byte) (b : List Byte) (sub : Nat) :
    Only [.rules, .act, .bridle, .prot, .tether, .queues, .win, .integ] s (partEntry s reason b sub) := addEntry_only ..

theorem arrivesOn_some {s : State} {p : Port} {b : List Byte} {x : Transfer} (runs : s.xfer = some x)
    (same : x.xfer = partXfer b) : (arrivesOn s p b).xfer = some { x with port := p } := by
  unfold arrivesOn
  rw [runs]
  exact congrArg State.xfer (if_pos same)

theorem arrivesOn_kept (s : State) (p : Port) (b : List Byte) :
    (arrivesOn s p b).xfer.map (·.next) = s.xfer.map (·.next) ∧
      (arrivesOn s p b).xfer.map (·.inFlash) = s.xfer.map (·.inFlash) := by
  unfold arrivesOn
  split
  · next x runs =>
    split
    · rw [runs]
      exact ⟨rfl, rfl⟩
    · exact ⟨rfl, rfl⟩
  · exact ⟨rfl, rfl⟩

/-- A part for this device alone from the head end is taken, and the delivery arrives on its port. -/
theorem part_arrives {p : Port} {rx : RxFrame} {i : Instr} {s : State} (notSafe : s.boot.safe = false)
    (ok : hopOk s p rx = true) (formed : malformed rx.bytes = false) (typ : fTyp rx.bytes = 6)
    (other : fromUs s rx.bytes = false) (which : i = (if partLast rx.bytes then .reelPartLast p rx else .reelPart p rx))
    (alone : forUsAlone s rx.bytes = true) (headEnd : fSrc rx.bytes = 0) :
    ∃ r, exec i s = .next (arrivesOn r p rx.bytes) ∧ r.xfer = (takePart (tookFrame s p rx) rx.bytes).xfer ∧
      r.flash = s.flash := by
  have step : exec i s = .next (arrivesOn (receivePart s p rx) p rx.bytes) := by
    rw [which]
    cases last : partLast rx.bytes
    · exact congrArg Host.Outcome.next (if_neg (by simp [last]))
    · exact congrArg Host.Outcome.next (if_pos last)
  have aloneTook : forUsAlone (tookFrame s p rx) rx.bytes = true :=
    (forUsAlone_of_straps ((tookFrame_only s p rx).same .straps rfl) _).trans alone
  have acts : reelAct (tookFrame s p rx) rx.bytes = takePart (tookFrame s p rx) rx.bytes :=
    if_pos (by rw [aloneTook, headEnd]; rfl)
  have received : receivePart s p rx = distribute (takePart (tookFrame s p rx) rx.bytes) p (hopFrame (heard s p rx) p rx.bytes)
      (frameDecision (countCode s p rx) p).1 (frameDecision (countCode s p rx) p).2.1 (rx.codeErrors ≠ 0) := by
    refine (if_neg (by simp [notSafe])).trans ((receive_of_ok notSafe ok formed (by rw [typ]; rfl)).trans ?_)
    rw [other, Bool.false_and, if_neg Bool.false_ne_true, ← acts]
    rfl
  have spread := distribute_only (takePart (tookFrame s p rx) rx.bytes) p (hopFrame (heard s p rx) p rx.bytes)
    (frameDecision (countCode s p rx) p).1 (frameDecision (countCode s p rx) p).2.1 (rx.codeErrors ≠ 0)
  refine ⟨_, step, ?_, ?_⟩
  · rw [received]
    exact spread.same .xfer rfl
  · rw [received]
    exact (spread.same .flash rfl).trans (((takePart_only ..).same .flash rfl).trans ((tookFrame_only s p rx).same .flash rfl))

theorem reelPart_effect (p : Port) (rx : RxFrame) (i : Instr) (s : State) (notSafe : s.boot.safe = false)
    (ok : hopOk s p rx = true) (formed : malformed rx.bytes = false) (typ : fTyp rx.bytes = 6)
    (other : fromUs s rx.bytes = false) (which : i = (if partLast rx.bytes then .reelPartLast p rx else .reelPart p rx))
    (alone : forUsAlone s rx.bytes = true) (headEnd : fSrc rx.bytes = 0) (takes : takesParts s = true) :
    (partMacOk s rx.bytes = true → partAligned rx.bytes = true → s.xfer = none → partOff rx.bytes = 0 →
      (∀ r, s.reel = some r → r.version.toNat < field (partData rx.bytes) 8 4) →
      ((nvmCopy s).map (·.minVer.toNat)).getD 0 ≤ field (partData rx.bytes) 8 4 →
      headerFieldsOk ((partData rx.bytes).take 64) = true →
      ∃ t x, exec i s = .next t ∧ t.xfer = some x ∧ x.xfer = partXfer rx.bytes ∧ x.slot = targetSlot s ∧ x.port = p ∧
        x.inFlash = [partData rx.bytes] ∧ x.next = partDlen rx.bytes ∧ x.programmed = 0 ∧ x.last = partLast rx.bytes ∧
        x.parts = [(0, partDlen rx.bytes)]) ∧
    (∀ x, s.xfer = some x → partMacOk s rx.bytes = true → partAligned rx.bytes = true → partXfer rx.bytes = x.xfer →
      x.programmed < partOff rx.bytes + partDlen rx.bytes →
      (partOff rx.bytes = x.next → x.last = false → partsOut x < 32 →
        ∃ t, exec i s = .next t ∧ t.xfer = some { queuePart x rx.bytes with port := p }) ∧
      (x.next ≤ partOff rx.bytes → 32 ≤ partsOut x → ∃ t, exec i s = .next t ∧ t.xfer = some { x with port := p })) ∧
    (partMacOk s rx.bytes = false → ∃ t, exec i s = .next t ∧ t.xfer.map (·.next) = s.xfer.map (·.next) ∧
      t.xfer.map (·.inFlash) = s.xfer.map (·.inFlash) ∧ t.flash = s.flash) := by
  obtain ⟨r, step, taken, flash⟩ := part_arrives notSafe ok formed typ other which alone headEnd
  have same := tookFrame_sameFlash s p rx
  have only := tookFrame_only s p rx
  have xfer : (tookFrame s p rx).xfer = s.xfer := only.same .xfer rfl
  have takesTook : takesParts (tookFrame s p rx) = true := (same.takesParts (only.same .outage rfl)).trans takes
  refine ⟨fun mac aligned none_ start newer allowed header => ?_, fun x runs mac aligned sameXfer ahead =>
    ⟨fun inOrder more few => ?_, fun beyond full => ?_⟩, fun bad => ?_⟩
  · rw [takePart_first takesTook ((same.partMacOk _).trans mac) aligned (xfer.trans none_) start,
      firstPart_accepted (xfer.trans none_) (by rw [same.reel]; exact newer) (by rw [same.nvmCopy]; exact allowed) header,
      (partEntry_only ..).same .xfer rfl] at taken
    refine ⟨_, _, step, arrivesOn_some taken rfl, rfl, same.targetSlot, rfl, rfl, Nat.zero_add _, rfl, rfl, ?_⟩
    rw [← start]
    rfl
  · rw [takePart_next takesTook ((same.partMacOk _).trans mac) aligned (xfer.trans runs) sameXfer ahead,
      if_neg (by simp; omega), if_neg (by simp [more, inOrder])] at taken
    exact ⟨_, step, arrivesOn_some taken sameXfer.symm⟩
  · rw [takePart_next takesTook ((same.partMacOk _).trans mac) aligned (xfer.trans runs) sameXfer ahead,
      if_pos (by simp [full, beyond]), (partEntry_only ..).same .xfer rfl, xfer] at taken
    exact ⟨_, step, arrivesOn_some (taken.trans runs) sameXfer.symm⟩
  · rw [takePart_mac takesTook ((same.partMacOk _).trans bad), (partEntry_only ..).same .xfer rfl, xfer] at taken
    obtain ⟨next, inFlash⟩ := arrivesOn_kept r p rx.bytes
    refine ⟨_, step, next.trans (by rw [taken]), inFlash.trans (by rw [taken]), ?_⟩
    exact ((arrivesOn_only ..).same .flash rfl).trans flash

/-! ### Programming, timeout and verification -/

theorem abandonXfer_effect {s : State} {x : Transfer} (sub : Nat) (runs : s.xfer = some x) :
    (abandonXfer s sub false).xfer = none ∧ (abandonXfer s sub false).flash = s.flash ∧
      (abandonXfer s sub false).reel = s.reel := by
  unfold abandonXfer
  rw [runs]
  exact ⟨(addEntry_only ..).same .xfer rfl, (addEntry_only ..).same .flash rfl, (addEntry_only ..).same .reel rfl⟩

/-- A progress notice is due (R211). -/
def noticeDue (x : Transfer) (rest : List (List Byte)) : Bool := x.sinceNotice + 1 = 16 || (x.last && rest.isEmpty)

/-- The oldest part in the flash, the transfer moved on. -/
def partWritten (s : State) (x : Transfer) (d : List Byte) (rest : List (List Byte)) : State :=
  { s with
    flash := programPart s.flash (slotBase x.slot) x.programmed d
    xfer := some { x with
      inFlash := rest
      programmed := x.programmed + d.length
      confirmed := if noticeDue x rest then x.programmed + d.length else x.confirmed
      sinceNotice := if noticeDue x rest then 0 else x.sinceNotice + 1 } }

theorem exec_flashPartProgrammed {x : Transfer} {d : List Byte} {rest : List (List Byte)} {s : State}
    (runs : s.xfer = some x) (oldest : x.inFlash = d :: rest) :
    exec (.flashPartProgrammed true) s = .next (if noticeDue x rest then
      addEntry (partWritten s x d rest) (entryPlain 0x22 (xferDetail x.xfer (x.programmed + d.length) 0))
      else partWritten s x d rest) ∧
    exec (.flashPartProgrammed false) s =
      .next (abandonXfer { s with flash := spoilSlot s.flash (slotBase x.slot) x.programmed d } 3 false) := by
  refine ⟨?_, ?_⟩
  · change execFlashPartProgrammed true s = _
    unfold execFlashPartProgrammed
    rw [runs]
    dsimp only
    rw [oldest]
    rfl
  · change execFlashPartProgrammed false s = _
    unfold execFlashPartProgrammed
    rw [runs]
    dsimp only
    rw [oldest]
    rfl

theorem flashPartProgrammed_effect {x : Transfer} {d : List Byte} {rest : List (List Byte)} {s : State}
    (runs : s.xfer = some x) (oldest : x.inFlash = d :: rest) :
    (∃ t y, exec (.flashPartProgrammed true) s = .next t ∧ t.xfer = some y ∧ y.inFlash = rest ∧
      y.programmed = x.programmed + d.length ∧ y.slot = x.slot ∧
      t.flash = programPart s.flash (slotBase x.slot) x.programmed d) ∧
    (∃ t, exec (.flashPartProgrammed false) s = .next t ∧ t.xfer = none ∧
      t.flash = spoilSlot s.flash (slotBase x.slot) x.programmed d) := by
  obtain ⟨good, spoilt⟩ := exec_flashPartProgrammed runs oldest
  have noticed : ∀ t, Only [.rules, .act, .bridle, .prot, .tether, .queues, .win, .integ] (partWritten s x d rest) t →
      ∃ y, t.xfer = some y ∧ y.inFlash = rest ∧ y.programmed = x.programmed + d.length ∧ y.slot = x.slot ∧
        t.flash = programPart s.flash (slotBase x.slot) x.programmed d := fun t only =>
    ⟨_, only.same .xfer rfl, rfl, rfl, rfl, only.same .flash rfl⟩
  refine ⟨?_, ?_⟩
  · rw [good]
    split
    · obtain ⟨y, written⟩ := noticed _ (addEntry_only ..)
      exact ⟨_, y, rfl, written⟩
    · obtain ⟨y, written⟩ := noticed _ (.refl _ _)
      exact ⟨_, y, rfl, written⟩
  · obtain ⟨xfer, flash, _⟩ := abandonXfer_effect (x := x)
      (s := { s with flash := spoilSlot s.flash (slotBase x.slot) x.programmed d }) 3 runs
    exact ⟨_, spoilt, xfer, flash⟩

theorem transferTimeout_effect {x : Transfer} {s : State} (runs : s.xfer = some x) (more : x.last = false) :
    ∃ t, exec .transferTimeout s = .next t ∧ t.xfer = none ∧ t.flash = s.flash ∧ t.reel = s.reel := by
  have step : exec .transferTimeout s = .next (abandonXfer s 1 false) := by
    change execTransferTimeout s = _
    unfold execTransferTimeout
    rw [runs]
    exact congrArg Host.Outcome.next (if_neg (by simp [more]))
  exact ⟨_, step, abandonXfer_effect 1 runs⟩

/-- The restart on a delivered Reel, which is reported once the device runs again. -/
def restarted (s : State) (x : Transfer) : State :=
  enterStep5Boot (resetState
    { s with
      xfer := none
      queues.kept := s.queues.kept ++ [entryPlain 0x25 (xferDetail x.xfer x.programmed 1)] } 4)

theorem exec_slotVerified {x : Transfer} {s : State} (runs : s.xfer = some x) (last : x.last = true) (done : x.inFlash = []) :
    exec .slotVerified s = .next (if slotValid { s with xfer := none } x.slot then
      if x.act || s.boot.safe then restarted s x
      else addEntry { s with xfer := none } (entryPlain 0x25 (xferDetail x.xfer x.programmed 0))
    else addEntry { s with xfer := none } (entryPlain 0x26 (xferDetail x.xfer x.programmed 0))) := by
  change execSlotVerified s = _
  unfold execSlotVerified
  rw [runs]
  exact congrArg Host.Outcome.next (if_neg (by simp [last, done]))

theorem restarted_effect (s : State) (x : Transfer) : (restarted s x).xfer = none ∧ (restarted s x).flash = s.flash ∧
    (restarted s x).boot.rcause = 4 ∧ (restarted s x).reel = none ∧ (restarted s x).boot.safe = false ∧
    (s.boot.inReset = false → identOk s.ident = true → (restarted s x).boot.step = .sampling) := by
  have reset := resetState_from
    { s with
      xfer := none
      queues.kept := s.queues.kept ++ [entryPlain 0x25 (xferDetail x.xfer x.programmed 1)] } 4
  unfold restarted enterStep5Boot
  rw [reset.step, reset.ident, reset.inReset]
  have rcause := reset.rcause.trans (if_neg (by simp))
  split
  next free =>
    exact ⟨reset.xfer, reset.flash, rcause, reset.reel, reset.safe, fun _ good => if_pos good⟩
  next held =>
    refine ⟨reset.xfer, reset.flash, rcause, reset.reel, reset.safe, fun free _ => absurd ?_ held⟩
    rw [free]
    rfl

theorem slotVerified_effect {x : Transfer} {s : State} (runs : s.xfer = some x) (last : x.last = true) (done : x.inFlash = []) :
    ∃ t, exec .slotVerified s = .next t ∧ t.xfer = none ∧ t.flash = s.flash ∧
      (slotValid { s with xfer := none } x.slot = false ∨ (x.act = false ∧ s.boot.safe = false) → t.boot = s.boot ∧
        t.reel = s.reel) ∧
      (slotValid { s with xfer := none } x.slot = true → x.act = true ∨ s.boot.safe = true →
        keepsRunning s .main = false → keepsRunning s .aux = false →
        t.boot.rcause = 4 ∧ t.reel = none ∧ t.boot.safe = false ∧
        (s.boot.inReset = false → identOk s.ident = true → t.boot.step = .sampling)) := by
  have reported : ∀ e, (addEntry { s with xfer := none } e).xfer = none ∧ (addEntry { s with xfer := none } e).flash = s.flash ∧
      (addEntry { s with xfer := none } e).boot = s.boot ∧ (addEntry { s with xfer := none } e).reel = s.reel := fun e =>
    ⟨(addEntry_only ..).same .xfer rfl, (addEntry_only ..).same .flash rfl, (addEntry_only ..).same .boot rfl,
      (addEntry_only ..).same .reel rfl⟩
  rw [exec_slotVerified runs last done]
  cases valid : slotValid { s with xfer := none } x.slot
  case false =>
    obtain ⟨xfer, flash, boot, reel⟩ := reported (entryPlain 0x26 (xferDetail x.xfer x.programmed 0))
    rw [if_neg Bool.false_ne_true]
    exact ⟨_, rfl, xfer, flash, fun _ => ⟨boot, reel⟩, nofun⟩
  case true =>
    rw [if_pos rfl]
    cases go : x.act || s.boot.safe
    case false =>
      obtain ⟨xfer, flash, boot, reel⟩ := reported (entryPlain 0x25 (xferDetail x.xfer x.programmed 0))
      rw [if_neg Bool.false_ne_true]
      refine ⟨_, rfl, xfer, flash, fun _ => ⟨boot, reel⟩, fun _ asked => ?_⟩
      simp only [Bool.or_eq_false_iff] at go
      rw [go.1, go.2] at asked
      exact asked.elim nofun nofun
    case true =>
      obtain ⟨xfer, flash, rcause, reel, safe, step⟩ := restarted_effect s x
      rw [if_pos rfl]
      refine ⟨_, rfl, xfer, flash, fun stays => ?_, fun _ _ _ _ => ⟨rcause, reel, safe, step⟩⟩
      rcases stays with bad | ⟨noAct, notSafe⟩
      · cases bad
      · rw [noAct, notSafe] at go
        cases go

/-- Settles O55: the delivery of a Reel, from its first part to the restart on it. -/
theorem reelIsDelivered : Obligations.ReelIsDelivered := by
  unfold Obligations.ReelIsDelivered
  exact ⟨reelPart_effect, fun x d rest s runs oldest => flashPartProgrammed_effect runs oldest,
    fun x s runs more => transferTimeout_effect runs more, fun x s runs last done => slotVerified_effect runs last done⟩

end Sys2Proof.Proofs

/-! ## Notices, ageing and the resolution of a loss (files 16, 17 and 21) -/

namespace Sys2Proof.Proofs

open Sys2Proof Sys2Proof.Machine

/-! ### NOTICE_CLOSE -/

theorem closeNotice_empty {s : State} (none_ : s.queues.gather = []) : closeNotice s = s := by
  unfold closeNotice
  rw [if_pos (by rw [none_]; rfl)]

/-- The NOTICE of the gathered entries. -/
def noticeOf (s : State) : List Byte :=
  mkFrame 2 false 0 0 (ownAddr s) 0 (ownGroup s) s.tether.sseq
    (toBe 2 s.tether.nseq.toNat ++ [BitVec.ofNat 8 s.queues.gather.length, 0] ++ s.queues.gather.flatten)

theorem closeNotice_full {s : State} (some_ : s.queues.gather ≠ []) : closeNotice s =
    if canClose s (cellsOf (noticeOf s)) then noticeClosed s (pickCells s (cellsOf (noticeOf s)))
      ⟨s.queues.nextId, noticeOf s, pickCells s (cellsOf (noticeOf s)), msNow s, false, none, 0⟩
    else [8, 9, 10, 11, 12].foldl idleReturn s := by
  unfold closeNotice
  rw [if_neg (by simpa using some_)]
  change (if !canClose s (cellsOf (noticeOf s)) then _ else _) = _
  cases canClose s (cellsOf (noticeOf s)) <;> rfl

theorem noticeClose_effect (s : State) : (s.queues.gather = [] → exec .noticeClose s = .next s) ∧
    (∀ b, s.queues.gather ≠ [] → b = noticeOf s →
      (canClose s (cellsOf b) = false → exec .noticeClose s = .next ([8, 9, 10, 11, 12].foldl idleReturn s)) ∧
      (canClose s (cellsOf b) = true → ∃ t f, exec .noticeClose s = .next t ∧
        queueOf t noticeTag = queueOf s noticeTag ++ [f] ∧ f.bytes = b ∧ t.queues.gather = [] ∧
        t.tether.nseq = s.tether.nseq + 1 ∧ t.tether.sseq = s.tether.sseq + 1 ∧
        (∀ tag, tag ≠ noticeTag → queueOf t tag = queueOf s tag) ∧ Only [.tether, .queues] s t)) := by
  refine ⟨fun none_ => congrArg Host.Outcome.next (closeNotice_empty none_), fun b some_ is => ?_⟩
  subst is
  refine ⟨fun cannot => congrArg Host.Outcome.next ((closeNotice_full some_).trans (if_neg (by simp [cannot]))), fun can => ?_⟩
  exact ⟨_, _, congrArg Host.Outcome.next ((closeNotice_full some_).trans (if_pos can)), queueOf_setQueue .., rfl, rfl, rfl, rfl,
    fun tag other => noticeClosed_others s _ _ other, noticeClosed_only ..⟩

/-! ### Entries that find room -/

theorem lostEntryReport_effect {s : State} (some_ : s.queues.lostEntries ≠ 0) :
    (∀ u, entryIfRoom s (entryPlain 0x0F (toBe 4 s.queues.lostEntries)) = some u →
      exec .lostEntryReport s = .next { u with queues.lostEntries := 0 }) ∧
    (entryIfRoom s (entryPlain 0x0F (toBe 4 s.queues.lostEntries)) = none → exec .lostEntryReport s = .next s) := by
  have step : ∀ r, entryIfRoom s (entryPlain 0x0F (toBe 4 s.queues.lostEntries)) = r → exec .lostEntryReport s =
      .next ((r.map fun u => { u with queues.lostEntries := 0 }).getD s) := fun r is => by
    change execLostEntryReport s = _
    unfold execLostEntryReport
    rw [if_neg some_, is]
    cases r <;> rfl
  exact ⟨fun u room => step _ room, fun full => step _ full⟩

/-- The entries kept across a reset come first (log entry 141). -/
theorem exec_watermark_kept {s : State} {e : List Byte} {rest : List (List Byte)} (kept : s.queues.kept = e :: rest) :
    exec .watermarkReportEntry s = .next (((entryIfRoom s e).map fun u => { u with queues.kept := rest }).getD s) := by
  change execWatermarkReportEntry s = _
  unfold execWatermarkReportEntry
  rw [kept]
  dsimp only
  cases entryIfRoom s e <;> rfl

theorem exec_watermark_cursor {s : State} {src : Nat} {n : Half} {r : Byte} {rest : List (Nat × Half × Byte)}
    (none_ : s.queues.kept = []) (next : s.integ.cursor = (src, n, r) :: rest) : exec .watermarkReportEntry s =
      .next (((entryIfRoom s (entryFrame r ⟨BitVec.ofNat 8 src, 0, n, 0, 0⟩ [])).map fun u =>
        { u with integ.cursor := rest }).getD s) := by
  change execWatermarkReportEntry s = _
  unfold execWatermarkReportEntry
  rw [none_, next]
  dsimp only
  cases entryIfRoom s (entryFrame r ⟨BitVec.ofNat 8 src, 0, n, 0, 0⟩ []) <;> rfl

theorem exec_watermark_empty {s : State} (none_ : s.queues.kept = []) (over_ : s.integ.cursor = []) :
    exec .watermarkReportEntry s = .next s := by
  change execWatermarkReportEntry s = _
  unfold execWatermarkReportEntry
  rw [none_, over_]

/-! ### AGEING_EXPIRY -/

/-- A frame of the notices does not age. -/
theorem frameExpiry_notice (s : State) (f : QFrame) : frameExpiry s noticeTag f = none := by
  unfold frameExpiry ageOf
  exact if_pos (if_pos rfl)

theorem markRelease_qs (s : State) (src : Nat) : (markRelease s src).queues.qs = s.queues.qs := by
  unfold markRelease
  dsimp only
  split <;> rfl

theorem afterRemoval_qs (s : State) (f : QFrame) : (afterRemoval s f).queues.qs = s.queues.qs := by
  unfold afterRemoval
  extract_lets s1 s2
  have h2 : s2.queues.qs = s.queues.qs :=
    (congrArg Queues.qs (show s2.queues = s1.queues from (creditFreed_only ..).same .queues rfl)).trans rfl
  split
  · rfl
  split
  · exact (markRelease_qs ..).trans h2
  · exact h2

theorem releaseCopy_queueOf (s : State) (tag : Nat) (f : QFrame) :
    queueOf (releaseCopy s tag f) tag = (queueOf s tag).erase f :=
  (queueOf_of_qs (afterRemoval_qs ..) tag).trans (queueOf_setQueue ..)

/-- A stored frame that is failed leaves its queue, and its cells are free. -/
theorem failFrame_effect {s : State} (tag : Nat) (f : QFrame) (reason : Byte) (calm : Calm s) (other : tag ≠ noticeTag) :
    queueOf (failFrame s tag f reason) tag = (queueOf s tag).erase f ∧
      ∀ c ∈ f.cells, c ∉ (failFrame s tag f reason).queues.alloc := by
  have noted := (reportFrame_notes s f.bytes f.tag reason).keeps calm
  refine ⟨?_, fun c cell mem => ((afterRemoval_alloc _ f c).mp mem).2 cell⟩
  unfold failFrame
  rw [releaseCopy_queueOf, noted.others tag other]

theorem ageingExpiry_frame {tag : Half} {s : State} {f : QFrame} (noOutage : inOutage s = false)
    (notOut : outPort tag.toNat = none) (still : quiet s)
    (over_ : (queueOf s tag.toNat).find? (fun f => !f.busy && (match frameExpiry s tag.toNat f with
      | some x => decide (x ≤ msNow s) | none => false)) = some f) (on : isOn s 15 = true) (can : canRead s f = true) :
    ∃ t, exec (.ageingExpiry tag) s = .next t ∧ queueOf t tag.toNat = (queueOf s tag.toNat).erase f ∧
      (∀ c ∈ f.cells, c ∉ t.queues.alloc) := by
  have other : tag.toNat ≠ noticeTag := fun notice => by
    have aged := List.find?_some over_
    rw [notice, frameExpiry_notice] at aged
    simp at aged
  have step : exec (.ageingExpiry tag) s =
      .next (failFrame s tag.toNat f (if tag.toNat < 0xFFF0 then 0x02 else 0x03)) := by
    change execAgeingExpiry tag s = _
    unfold execAgeingExpiry
    extract_lets t
    rw [if_neg (by rw [noOutage]; decide), show outPort t = none from notOut]
    refine congrArg Host.Outcome.next ?_
    dsimp only
    split
    · next g found =>
      obtain rfl : g = f := Option.some.inj (found.symm.trans over_)
      exact if_pos (by rw [on, can]; rfl)
    · next none_ => exact absurd (none_.symm.trans over_) nofun
  exact ⟨_, step, failFrame_effect _ f _ (.of_quiet still) other⟩

theorem ageingExpiry_out {tag : Half} {s : State} {p : Port} {x : Nat} (noOutage : inOutage s = false)
    (out : outPort tag.toNat = some p) (expiry : outExpiry s p = some x) (over_ : x ≤ msNow s) (on : isOn s 15 = true)
    (can : ∀ y ∈ (link s p).out, canRead s y.2 = true) :
    ∃ t, exec (.ageingExpiry tag) s = .next t ∧ (link t p).out = [] ∧ (link t p).resend = [] := by
  have released : ∀ (l : List QFrame) (t : State), ∃ c b, link (l.foldl afterRemoval t) p = { link t p with ctl := c, bulk := b } := by
    intro l
    induction l with
    | nil => exact fun t => ⟨_, _, rfl⟩
    | cons f rest ih =>
      intro t
      obtain ⟨c, b, after⟩ := ih (afterRemoval t f)
      exact ⟨c, b, after.trans (by rw [afterRemoval_link t f p])⟩
  have guard : (decide (x ≤ msNow s) && isOn s 15 && (link s p).out.all fun y => canRead s y.2) = true := by
    rw [List.all_eq_true.mpr can, on, decide_eq_true over_]
    rfl
  have step : exec (.ageingExpiry tag) s = .next (((link s p).out.map (·.2)).foldl afterRemoval
      (modLink (((link s p).out.map (·.2)).foldl (fun a f => reportFrame a f.bytes f.tag 0x04) s) p fun l =>
        { l with out := [], resend := [], goBackDue := false })) := by
    change execAgeingExpiry tag s = _
    unfold execAgeingExpiry
    extract_lets t
    rw [if_neg (by rw [noOutage]; decide), show outPort t = some p from out]
    refine congrArg Host.Outcome.next ?_
    dsimp only
    rw [expiry]
    exact if_pos guard
  obtain ⟨c, b, left⟩ := released ((link s p).out.map (·.2))
    (modLink (((link s p).out.map (·.2)).foldl (fun a f => reportFrame a f.bytes f.tag 0x04) s) p fun l =>
      { l with out := [], resend := [], goBackDue := false })
  refine ⟨_, step, ?_⟩
  rw [left, link_modLink_same]
  exact ⟨rfl, rfl⟩

/-! ### AGEING_WAKE -/

theorem demands_of_on (l : List Nat) {s : State} (on : ∀ d ∈ l, isOn s d = true) : l.foldl demand s = s := by
  induction l with
  | nil => rfl
  | cons d rest ih =>
    have here : demand s d = s := if_pos (by rw [on d List.mem_cons_self, Bool.or_true, Bool.true_or])
    rw [List.foldl_cons, here]
    exact ih fun e mem => on e (List.mem_cons_of_mem _ mem)

/-- The domains needed to age what is due. -/
def ageingDoms (s : State) (x : Nat) : List Nat :=
  [8, 15] ++ ([9, 10, 11, 12].filter fun d =>
    (((expiries s).filter fun y => y.1 ≤ x).flatMap (·.2)).any fun c => c / 16384 + 9 == d)

theorem ageingWake_effect {x : Nat} {s : State} (earliest : s.queues.earliest = some x) (noOutage : inOutage s = false)
    (notSafe : s.boot.safe = false) (due : x ≤ msNow s) :
    ∃ t, exec .ageingWake s = .next t ∧ t.queues.earliest = none ∧ (∀ d, isOn t d = true → isOn s d = true) ∧
      (isOn s 8 = true → isOn s 15 = true → (∀ q, q ∈ [9, 10, 11, 12] → isOn s q = true) →
        t = { s with queues.earliest := none }) := by
  have step : exec .ageingWake s = .next ((ageingDoms s x).foldl demand { s with queues.earliest := none }) := by
    change execAgeingWake s = _
    unfold execAgeingWake
    rw [earliest]
    exact congrArg Host.Outcome.next (if_neg (by simp [noOutage, notSafe]; omega))
  have asked : Incidental { s with queues.earliest := none } ((ageingDoms s x).foldl demand { s with queues.earliest := none }) :=
    .foldl demand_incidental _ (.refl _)
  refine ⟨_, step, asked.earliest, fun d on => (asked.on d).symm.trans on, fun on8 on15 quads => ?_⟩
  refine demands_of_on _ fun d mem => ?_
  rcases List.mem_append.mp mem with first | quad
  · rcases List.mem_cons.mp first with rfl | second
    · exact on8
    · rw [List.mem_singleton.mp second]
      exact on15
  · exact quads d (List.mem_filter.mp quad).1

/-! ### LOSS_RESOLUTION -/

theorem creditsFreed_only (l : List QFrame) (s : State) :
    Only [.tether] s (l.foldl (fun t f => creditFreed t f (cellsOf f.bytes)) s) := by
  induction l generalizing s with
  | nil => exact .refl _ _
  | cons f rest ih => exact (creditFreed_only s f _).post (ih _) rfl

theorem creditsFreed_out (l : List QFrame) (s : State) (p : Port) :
    (link (l.foldl (fun t f => creditFreed t f (cellsOf f.bytes)) s) p).out = (link s p).out := by
  induction l generalizing s with
  | nil => rfl
  | cons f rest ih =>
    refine (ih _).trans ?_
    rw [creditFreed_link]

/-- With every descriptor lost no frame is left. -/
theorem releaseAll_effect (s : State) : (releaseAll s).integ.banks = [] ∧ (releaseAll s).queues.qs = [] ∧
    (releaseAll s).queues.alloc = [] ∧ (∀ p, (link (releaseAll s) p).out = []) ∧
    (releaseAll s).queues.marks = s.queues.marks := by
  unfold releaseAll
  extract_lets q1 i1 t1 u1 d1 s1
  have freed := creditsFreed_only (lastCopies (storedFrames s)) s1
  have queues := freed.same .queues rfl
  have integ := freed.same .integ rfl
  refine ⟨?_, ?_, ?_, fun p => ?_, ?_⟩
  · rw [integ]
  · rw [queues]
  · rw [queues]
  · rw [creditsFreed_out]
    cases p <;> rfl
  · rw [queues]

theorem watermarkReport_held (s : State) (reason : Byte) : ∀ m ∈ (watermarkReport s reason).queues.marks, m.held = 0 := by
  intro m mem
  unfold watermarkReport at mem
  obtain ⟨old, _, rfl⟩ := List.mem_map.mp mem
  split
  · assumption
  · rfl

theorem resolveLoss_effect (bad : List Nat) (s : State) : (resolveLoss bad s).integ.banks = [] ∧
    ((∀ b : Nat, b < 4 → (8, b) ∈ s.integ.banks) → (resolveLoss bad s).queues.qs = [] ∧ (resolveLoss bad s).queues.alloc = [] ∧
      (∀ p, (link (resolveLoss bad s) p).out = []) ∧ (∀ m ∈ (resolveLoss bad s).queues.marks, m.held = 0)) := by
  unfold resolveLoss
  dsimp only
  split
  · obtain ⟨banks, qs, alloc, out, marks⟩ := releaseAll_effect (watermarkReport s 0x07)
    exact ⟨banks, fun _ => ⟨qs, alloc, out, fun m mem => watermarkReport_held s 0x07 m (marks ▸ mem)⟩⟩
  · next notAll =>
    refine ⟨?_, fun all => absurd ?_ notAll⟩
    · split <;> rfl
    · refine List.all_eq_true.mpr fun b mem => ?_
      simpa using all b (by simp at mem; omega)

/-- Settles O56: the rows of notices, ageing and loss, each with its condition. -/
theorem queuesNoticesAndLoss : Obligations.QueuesNoticesAndLoss := by
  unfold Obligations.QueuesNoticesAndLoss
  refine ⟨noticeClose_effect, fun s some_ => lostEntryReport_effect some_, fun src n r rest s none_ next => ?_,
    fun e rest s kept => ?_, fun s none_ over_ => exec_watermark_empty none_ over_, fun tag s => ⟨fun outage => ?_,
      fun f noOutage notOut still over_ on can => ageingExpiry_frame noOutage notOut still over_ on can,
      fun p x noOutage out expiry over_ on can => ageingExpiry_out noOutage out expiry over_ on can⟩,
    fun x s earliest noOutage notSafe due => ageingWake_effect earliest noOutage notSafe due,
    fun bad s some_ on8 on15 early => ⟨resolveLoss bad s, ?_, resolveLoss_effect bad s⟩⟩
  · rw [exec_watermark_cursor none_ next]
    exact ⟨fun u room => by rw [room]; rfl, fun full => by rw [full]; rfl⟩
  · rw [exec_watermark_kept kept]
    exact ⟨fun u room => by rw [room]; rfl, fun full => by rw [full]; rfl⟩
  · exact congrArg Host.Outcome.next (if_pos outage)
  · refine congrArg Host.Outcome.next (if_neg ?_)
    rcases some_ with banks | orphans
    · simp [banks, on8, on15]
      omega
    · simp [orphans, on8, on15]
      omega

end Sys2Proof.Proofs

/-! ## The drop port (file 18) -/

namespace Sys2Proof.Proofs

open Sys2Proof Sys2Proof.Machine

/-! ### Direction and words -/

/-- Between units the direction follows DDIR, and nothing else of the port changes. -/
theorem turnPipe_drop (s : State) : (turnPipe s).drop = { s.drop with ingressDir := (turnPipe s).drop.ingressDir } := by
  unfold turnPipe
  split <;> rfl

theorem turnPipe_busy {s : State} (busy : s.drop.inUnit = true ∨ s.drop.egress.isSome = true) : turnPipe s = s :=
  if_pos (by rcases busy with h | h <;> simp [h])

theorem ddirChange_effect (l : Bool) (s : State) : ∃ t, exec (.ddirChange l) s = .next t ∧ t.pins = { s.pins with ddir := l } ∧
    (dropActive s = true → s.drop.inUnit = false → s.drop.egress = none → t.drop = { s.drop with ingressDir := l }) ∧
    (s.drop.inUnit = true ∨ s.drop.egress ≠ none ∨ dropActive s = false → t.drop = s.drop) := by
  refine ⟨_, rfl, ?_, fun active between noUnit => ?_, fun stays => ?_⟩
  · split
    · exact (turnPipe_only ..).same .pins rfl
    · rfl
  · rw [if_pos active]
    have guard : ¬(s.drop.inUnit || s.drop.egress.isSome) = true := by simp [between, noUnit]
    exact (congrArg State.drop (if_neg guard) :)
  · by_cases active : dropActive s = true
    · rw [if_pos active]
      refine (congrArg State.drop (turnPipe_busy (s := { s with pins.ddir := l }) ?_) :).trans rfl
      rcases stays with unit | some_ | off
      · exact .inl unit
      · exact .inr (Option.isSome_iff_ne_none.mpr some_)
      · rw [off] at active
        cases active
    · rw [if_neg active]

theorem exec_dropWord_ingress {s : State} (w : Half) (dp : BitVec 2) (sof eof : Bool) (e : EccResult)
    (active : dropActive s = true) (inward : s.drop.ingressDir = true) :
    exec (.dropWordTransfer w dp sof eof e) s = .next (ingressWord s ⟨w, dp, sof, eof⟩) :=
  congrArg Host.Outcome.next ((if_neg (by simp [active])).trans (if_pos inward))

theorem ingressWord_more {s : State} (w : DropWord) (unit : s.drop.inUnit = true) : ingressWord s w =
    turnPipe { s with drop := { s.drop with words := s.drop.words ++ [w], inUnit := !w.eof } } := if_pos unit

theorem ingressWord_first {s : State} {w : DropWord} (between : s.drop.inUnit = false) (longer : (w.sof && w.eof) = false)
    (free : holding s 16 = false) : ingressWord s w = turnPipe { s with
      drop := { s.drop with
        words := [w]
        inUnit := !w.eof
        afterOutage := inOutage s
        overFour := 4 ≤ s.drop.verdicts.length + s.drop.waiting.length } } := by
  have notBarred : barred s 16 = (false, s) := by
    unfold barred
    rw [free]
    rfl
  unfold ingressWord
  dsimp only
  rw [if_neg (by simp [between]), if_neg (by simp [longer]), notBarred]
  rfl

theorem dropWord_ingress (w : Half) (dp : BitVec 2) (sof eof : Bool) (e : EccResult) (s : State)
    (active : dropActive s = true) (inward : s.drop.ingressDir = true) :
    (s.drop.inUnit = true → ∃ t, exec (.dropWordTransfer w dp sof eof e) s = .next t ∧
      t.drop.words = s.drop.words ++ [⟨w, dp, sof, eof⟩] ∧ t.drop.inUnit = (!eof)) ∧
    (s.drop.inUnit = false → (sof && eof) = false → holding s 16 = false →
      ∃ t, exec (.dropWordTransfer w dp sof eof e) s = .next t ∧
      t.drop.words = [⟨w, dp, sof, eof⟩] ∧ t.drop.inUnit = (!eof) ∧
      t.drop.overFour = decide (4 ≤ s.drop.verdicts.length + s.drop.waiting.length)) := by
  rw [exec_dropWord_ingress w dp sof eof e active inward]
  refine ⟨fun unit => ⟨_, rfl, ?_⟩, fun between longer free => ⟨_, rfl, ?_⟩⟩
  · rw [ingressWord_more _ unit, turnPipe_drop]
    exact ⟨rfl, rfl⟩
  · rw [ingressWord_first between longer free, turnPipe_drop]
    exact ⟨rfl, rfl, rfl⟩

theorem dropWord_egress {w : Half} {dp : BitVec 2} {sof eof : Bool} {g : Egress} {x : DropWord} {rest : List DropWord}
    {s : State} (active : dropActive s = true) (outward : s.drop.ingressDir = false) (unit : s.drop.egress = some g)
    (words : g.words = x :: rest) (more : rest ≠ []) : exec (.dropWordTransfer w dp sof eof .clean) s =
      .next { s with drop.dq := x, drop.egress := some { g with words := rest } } := by
  have sent : egressWord s g .clean = { s with drop.dq := x, drop.egress := some { g with words := rest } } := by
    unfold egressWord
    rw [words]
    dsimp only
    cases tag : g.tag with
    | none =>
      dsimp only
      rw [if_neg (by simp [more])]
      exact turnPipe_busy (.inr rfl)
    | some k =>
      rfl
  have step : exec (.dropWordTransfer w dp sof eof .clean) s = .next (egressWord s g .clean) := by
    change execDropWordTransfer w dp sof eof .clean s = _
    unfold execDropWordTransfer
    rw [if_neg (by simp [active]), if_neg (by simp [outward]), unit]
  rw [step, sent]

/-! ### Verdicts -/

theorem readyVerdicts_kept (d : DropPort) : (readyVerdicts d).words = d.words ∧
    (readyVerdicts d).verdicts = d.verdicts ++ (d.waiting.takeWhile fun x => x.2 != 0).map fun x => ⟨false, x.2, 0⟩ :=
  ⟨rfl, rfl⟩

/-- A unit that a check has refused has its verdict at once. -/
theorem readyVerdicts_refused (d : DropPort) {b : List Byte} {r : Byte} (bad : (r != 0) = true) :
    (readyVerdicts { d with waiting := [(b, r)] }).verdicts = d.verdicts ++ [⟨false, r, 0⟩] ∧
      (readyVerdicts { d with waiting := [(b, r)] }).waiting = [] := by
  unfold readyVerdicts
  dsimp only
  rw [List.takeWhile_cons_of_pos (p := fun x : List Byte × Byte => x.2 != 0) (a := (b, r)) bad,
    List.dropWhile_cons_of_pos (p := fun x : List Byte × Byte => x.2 != 0) (a := (b, r)) bad]
  exact ⟨rfl, rfl⟩

theorem exec_ingressUnit {s : State} (gap : Bool) (active : dropActive s = true) (between : s.drop.inUnit = false)
    (some_ : s.drop.words ≠ []) : exec (.ingressUnit gap) s = .next { s with
      drop := if s.drop.overFour then { s.drop with words := [], overFour := false, afterOutage := false }
        else readyVerdicts { s.drop with
          words := [], overFour := false, afterOutage := false
          waiting := s.drop.waiting ++ [((wordBytes s.drop.words).take (20 + fLen (wordBytes s.drop.words)),
            ingressReason s.drop.words s.drop.afterOutage gap)] } } := by
  refine congrArg Host.Outcome.next ((if_neg (by simp [active, between, some_])).trans ?_)
  cases over_ : s.drop.overFour <;> rfl

theorem ingressUnit_effect {gap : Bool} {r : Byte} {s : State} (active : dropActive s = true) (between : s.drop.inUnit = false)
    (some_ : s.drop.words ≠ []) (none_ : s.drop.waiting = [])
    (reason : r = ingressReason s.drop.words s.drop.afterOutage gap) :
    ∃ t, exec (.ingressUnit gap) s = .next t ∧ t.drop.words = [] ∧ Only [.drop] s t ∧
      (s.drop.overFour = true → t.drop.verdicts = s.drop.verdicts ∧ t.drop.waiting = []) ∧
      (s.drop.overFour = false → r ≠ 0 → t.drop.verdicts = s.drop.verdicts ++ [⟨false, r, 0⟩] ∧ t.drop.waiting = []) ∧
      (s.drop.overFour = false → r = 0 → t.drop.verdicts = s.drop.verdicts ∧
        t.drop.waiting = [((wordBytes s.drop.words).take (20 + fLen (wordBytes s.drop.words)), 0)]) := by
  have step := exec_ingressUnit gap active between some_
  rw [none_, List.nil_append, ← reason] at step
  have only := execIngressUnit_only gap s _ step
  refine ⟨_, step, ?_, only, fun over_ => ?_, fun room bad => ?_, fun room good => ?_⟩
  · dsimp only
    split <;> rfl
  · dsimp only
    rw [if_pos over_]
    exact ⟨rfl, none_⟩
  · dsimp only
    rw [if_neg (by simp [room])]
    exact readyVerdicts_refused _ (bne_iff_ne.mpr bad)
  · subst good
    dsimp only
    rw [if_neg (by simp [room])]
    exact ⟨List.append_nil _, rfl⟩

theorem placeCopy_sseq (s : State) (a : Machine.Accepted) (cs : List Nat) (c : CopyTo) (tag : Half) :
    (placeCopy s a cs c tag).tether.sseq = s.tether.sseq := by
  cases c with
  | drop t => exact (congrArg Tether.sseq ((tallyAdd_only (pushQueue s t (copyFrame s a cs tag false)) t 1 _).same .tether rfl) :)
  | hold p w => rfl
  | cut p => cases p <;> rfl

theorem placeAll_sseq (s : State) (a : Machine.Accepted) (cs : List CopyTo) (tag : Half) :
    (placeAll s a cs tag).tether.sseq = s.tether.sseq := by
  unfold placeAll
  induction cs generalizing s with
  | nil => rfl
  | cons c rest ih => exact (ih _).trans (placeCopy_sseq ..)

/-- What the verdict on the head frame does with the device: it is taken whole under the next SSEQ, or refused. -/
theorem giveVerdict_effect {s : State} (b : List Byte) (d : Decision) (calm : Calm s) :
    ((giveVerdict s b d).2.ok = true ∧ (giveVerdict s b d).2.reason = 0 ∧ (giveVerdict s b d).2.value = s.tether.sseq ∧
      (giveVerdict s b d).1.tether.sseq = s.tether.sseq + 1) ∨
    ((giveVerdict s b d).2 = ⟨false, 6, 0⟩ ∧ (giveVerdict s b d).1.tether = s.tether ∧
      (giveVerdict s b d).1.queues.qs = s.queues.qs ∧ (giveVerdict s b d).1.queues.alloc = s.queues.alloc) := by
  unfold giveVerdict
  extract_lets cs n fits f a seq q1 t1 s1 s2
  split
  · obtain ⟨_, asked⟩ := (askMemory_asks s).keeps calm
    have queues := asked.same .queues rfl
    exact .inr ⟨rfl, asked.same .tether rfl, congrArg Queues.qs queues, congrArg Queues.alloc queues⟩
  · have marked : s1.tether.sseq = s.tether.sseq + 1 := by
      unfold s1
      rw [markAccept_tether]
    have placed : s2.tether.sseq = s1.tether.sseq := by
      unfold s2
      split
      · rw [markRelease_tether]
      · exact placeAll_sseq ..
    have only : Only [.act, .tether, .queues] s1 s2 := by
      unfold s2
      split
      · exact (markRelease_only ..).mono rfl
      · exact placeAll_only ..
    have calm2 : Calm s2 := calm.of_bridle ((only.same .bridle rfl).trans ((markAccept_only ..).same .bridle rfl))
    obtain ⟨_, asked⟩ := (askMemory_asks s2).keeps calm2
    have tether : (askMemory s2).tether = s2.tether := asked.same .tether rfl
    exact .inl ⟨rfl, rfl, rfl, by rw [tether, placed, marked]⟩

theorem verdictReady_effect {b : List Byte} {r : Byte} {rest : List (List Byte × Byte)} {s : State}
    (waits : s.drop.waiting = (b, r) :: rest) (active : dropActive s = true) (decided : streamRuns s .host = false)
    (still : quiet s) :
    ∃ t v more, exec .verdictReady s = .next t ∧ t.drop.verdicts = s.drop.verdicts ++ v :: more ∧ t.engs.decHost = none ∧
      ((v.ok = true ∧ v.reason = 0 ∧ v.value = s.tether.sseq ∧ t.tether.sseq = s.tether.sseq + 1) ∨
       (v = ⟨false, 6, 0⟩ ∧ t.tether = s.tether ∧ t.queues.qs = s.queues.qs ∧ t.queues.alloc = s.queues.alloc)) := by
  have given := giveVerdict_effect (s := { s with engs.decHost := none }) b (s.engs.decHost.getD ⟨.dflt, none⟩)
    (Calm.of_quiet still)
  have only := giveVerdict_only { s with engs.decHost := none } b (s.engs.decHost.getD ⟨.dflt, none⟩)
  have step : exec .verdictReady s = .next
      { (giveVerdict { s with engs.decHost := none } b (s.engs.decHost.getD ⟨.dflt, none⟩)).1 with
        drop := readyVerdicts
          { (giveVerdict { s with engs.decHost := none } b (s.engs.decHost.getD ⟨.dflt, none⟩)).1.drop with
            waiting := rest
            verdicts := (giveVerdict { s with engs.decHost := none } b (s.engs.decHost.getD ⟨.dflt, none⟩)).1.drop.verdicts ++
              [(giveVerdict { s with engs.decHost := none } b (s.engs.decHost.getD ⟨.dflt, none⟩)).2] } } := by
    change execVerdictReady s = _
    unfold execVerdictReady
    rw [waits]
    exact congrArg Host.Outcome.next (if_neg (by simp [active, decided]))
  generalize giveVerdict { s with engs.decHost := none } b (s.engs.decHost.getD ⟨.dflt, none⟩) = g at given only step
  obtain ⟨u, v⟩ := g
  have drop : u.drop = s.drop := only.same .drop rfl
  have engs : u.engs.decHost = none := congrArg Engines.decHost (only.same .engs rfl)
  refine ⟨_, v, (rest.takeWhile fun x => x.2 != 0).map fun x => ⟨false, x.2, 0⟩, step, ?_, engs, given⟩
  obtain ⟨_, verdicts⟩ := readyVerdicts_kept { u.drop with waiting := rest, verdicts := u.drop.verdicts ++ [v] }
  refine verdicts.trans ?_
  rw [drop]
  exact List.append_assoc ..

/-! ### Egress -/

theorem pullWord_effect (w : Half) (dp : BitVec 2) {s : State} (active : dropActive s = true) (inward : s.drop.ingressDir = true)
    (between : s.drop.inUnit = false) : (pullMode s = false → exec (.pullWord w dp) s = .next s) ∧
    (pullMode s = true → exec (.pullWord w dp) s = .next (
      if dp ≠ parityOf w then { s with drop.pull := none, drop.pullReason := 0x01 }
      else if 0xFFF0 ≤ w.toNat then { s with drop.pull := none, drop.pullReason := 0x0B }
      else { s with drop.pull := some w, drop.pullReason := 0 })) :=
  ⟨fun push => congrArg Host.Outcome.next (if_pos (by simp [push])),
    fun pull => congrArg Host.Outcome.next (if_neg (by simp [active, inward, between, pull]))⟩

theorem barred_of_free {s : State} {d : Nat} (free : holding s d = false) : barred s d = (false, s) := by
  unfold barred
  rw [free]
  rfl

/-- A unit that starts presents its first word. -/
theorem startUnit_starts (s : State) {l : List DropWord} (tag : Option Nat) (some_ : l ≠ []) :
    ∃ g, (startUnit s l tag).drop = { s.drop with dq := (startUnit s l tag).drop.dq, egress := some g } ∧
      (startUnit s l tag).drop.dq :: g.words = l ∧ g.tag = tag := by
  cases l with
  | nil => exact absurd rfl some_
  | cons w rest => exact ⟨⟨rest, tag⟩, rfl, rfl, rfl⟩

theorem statusUnit_some (kind reason : Nat) (value : Half) : statusUnit kind reason value ≠ [] := List.cons_ne_nil _ _

theorem emptyUnit_some (s : State) : emptyUnit s ≠ [] := by
  unfold emptyUnit
  exact fun none_ => statusUnit_some _ _ _ none_

theorem egressWords_some (f : QFrame) (tag : Nat) : egressWords f tag ≠ [] := by
  have bytes : ∀ l : List Byte, l ≠ [] → pairBytes l ≠ [] := fun l some_ => by
    match l with
    | [] => exact absurd rfl some_
    | [a] => exact List.cons_ne_nil _ _
    | a :: b :: t => exact List.cons_ne_nil _ _
  unfold egressWords unitWords
  refine fun none_ => bytes (f.bytes.take 12 ++ toBe 2 tag ++ f.bytes.drop 14) (by simp [toBe]) (List.mapIdx_eq_nil_iff.mp none_)

section Fetch

variable {s : State} (active : dropActive s = true) (outward : s.drop.ingressDir = false) (noUnit : s.drop.egress = none)
  (free : holding s 16 = false)

include active outward noUnit free

theorem exec_egressFetch_verdict {v : Verdict} {rest : List Verdict} (ready : s.drop.verdicts = v :: rest) :
    exec (.egressFetch .clean) s = .next (startUnit { s with drop.verdicts := rest }
      (statusUnit (if v.ok then 0 else 1) v.reason.toNat v.value) none) := by
  change execEgressFetch .clean s = _
  unfold execEgressFetch
  rw [barred_of_free free]
  dsimp only
  rw [if_neg (by simp [active, outward, noUnit]), ready]

theorem exec_egressFetch_none (none_ : s.drop.verdicts = []) : exec (.egressFetch .clean) s = .next
    (if !s.drop.waiting.isEmpty then s
    else if inOutage s then startUnit s (emptyUnit s) none
    else match chosenQueue s with
      | none => startUnit s (emptyUnit s) none
      | some t => if !headReadable s t then awaitHead s t else startFrameUnit s t .clean) := by
  change execEgressFetch .clean s = _
  unfold execEgressFetch
  rw [barred_of_free free]
  dsimp only
  rw [if_neg (by simp [active, outward, noUnit]), none_]
  dsimp only
  cases chosenQueue s <;> rfl

theorem egressFetch_effect :
    (s.drop.verdicts = [] → s.drop.waiting ≠ [] → exec (.egressFetch .clean) s = .next s) ∧
    (∀ v rest, s.drop.verdicts = v :: rest → ∃ t g, exec (.egressFetch .clean) s = .next t ∧ t.drop.verdicts = rest ∧
      t.drop.egress = some g ∧ t.drop.dq :: g.words = statusUnit (if v.ok then 0 else 1) v.reason.toNat v.value) ∧
    (s.drop.verdicts = [] → s.drop.waiting = [] → inOutage s = true ∨ chosenQueue s = none → ∃ t g,
      exec (.egressFetch .clean) s = .next t ∧
      t.drop.egress = some g ∧ t.drop.dq :: g.words = emptyUnit s ∧ Only [.drop] s t) ∧
    (∀ tag f rest, s.drop.verdicts = [] → s.drop.waiting = [] → inOutage s = false → chosenQueue s = some tag →
      queueOf s tag = f :: rest → canRead s f = true →
      ∃ t g, exec (.egressFetch .clean) s = .next t ∧ t.drop.lastTag = tag ∧ t.drop.egress = some g ∧
        t.drop.dq :: g.words = egressWords f tag ∧ g.tag = some tag ∧
        queueOf t tag = { f with busy := true } :: rest ∧ Only [.queues, .drop] s t) := by
  refine ⟨fun none_ due => ?_, fun v rest ready => ?_, fun none_ idle empty => ?_,
    fun tag f rest none_ idle noOutage chosen queue can => ?_⟩
  · rw [exec_egressFetch_none active outward noUnit free none_]
    exact congrArg Host.Outcome.next (if_pos (by simpa using due))
  · obtain ⟨g, drop, words, _⟩ := startUnit_starts { s with drop.verdicts := rest } none
      (statusUnit_some (if v.ok then 0 else 1) v.reason.toNat v.value)
    exact ⟨_, g, exec_egressFetch_verdict active outward noUnit free ready, by rw [drop], by rw [drop], words⟩
  · have step : exec (.egressFetch .clean) s = .next (startUnit s (emptyUnit s) none) := by
      rw [exec_egressFetch_none active outward noUnit free none_]
      refine congrArg Host.Outcome.next ((if_neg (by simp [idle])).trans ?_)
      rcases empty with outage | noQueue
      · exact if_pos outage
      · rw [noQueue]
        split <;> rfl
    obtain ⟨g, drop, words, _⟩ := startUnit_starts s none (emptyUnit_some s)
    exact ⟨_, g, step, by rw [drop], words, startUnit_only ..⟩
  · have readable : headReadable s tag = true := by
      unfold headReadable
      rw [queue]
      exact can
    have started : startFrameUnit s tag .clean =
        startUnit (markBusy { s with drop.lastTag := tag } tag true) (egressWords f tag) (some tag) := by
      unfold startFrameUnit
      rw [queue]
      rfl
    have step : exec (.egressFetch .clean) s = .next
        (startUnit (markBusy { s with drop.lastTag := tag } tag true) (egressWords f tag) (some tag)) := by
      rw [exec_egressFetch_none active outward noUnit free none_, chosen, ← started]
      exact congrArg Host.Outcome.next ((if_neg (by simp [idle])).trans
        ((if_neg (by simp [noOutage])).trans (if_neg (by simp [readable]))))
    have busy : queueOf (markBusy { s with drop.lastTag := tag } tag true) tag = { f with busy := true } :: rest := by
      unfold markBusy
      rw [queueOf_setQueue, show queueOf { s with drop.lastTag := tag } tag = f :: rest from queue]
    obtain ⟨g, drop, words, tagIs⟩ := startUnit_starts (markBusy { s with drop.lastTag := tag } tag true) (some tag)
      (egressWords_some f tag)
    have unit := startUnit_only (markBusy { s with drop.lastTag := tag } tag true) (egressWords f tag) (some tag)
    refine ⟨_, g, step, by rw [drop]; rfl, by rw [drop], words, tagIs,
      (queueOf_of_queues (unit.same .queues rfl) tag).trans busy, ?_⟩
    exact (Only.set_queues (Only.set_drop (ps := [.queues, .drop]) (Only.refl _ s) _ rfl) _ rfl).post unit rfl

end Fetch

theorem egressComplete_effect {tag : Nat} {f : QFrame} {s : State} (unit : s.drop.egress = some ⟨[], some tag⟩)
    (active : dropActive s = true) (taken : takenFrame s tag = some f) : ∃ t, exec .egressComplete s = .next t ∧
      t.drop.egress = none ∧ queueOf t tag = (queueOf s tag).erase f ∧ (∀ c ∈ f.cells, c ∉ t.queues.alloc) := by
  have step : exec .egressComplete s = .next (turnPipe (releaseCopy { s with drop.egress := none } tag f)) := by
    change execEgressComplete s = _
    unfold execEgressComplete
    rw [unit]
    refine congrArg Host.Outcome.next ((if_neg (by simp [active])).trans ?_)
    dsimp only
    rw [show takenFrame { s with drop.egress := none } tag = some f from taken]
  have queues : (turnPipe (releaseCopy { s with drop.egress := none } tag f)).queues =
      (releaseCopy { s with drop.egress := none } tag f).queues := (turnPipe_only ..).same .queues rfl
  refine ⟨_, step, ?_, ?_, fun c cell mem => ?_⟩
  · rw [turnPipe_drop]
    exact congrArg DropPort.egress ((releaseCopy_only ..).same .drop rfl)
  · rw [queueOf_of_queues queues]
    exact releaseCopy_queueOf ..
  · rw [queues] at mem
    exact ((afterRemoval_alloc _ f c).mp mem).2 cell

/-- Settles O57: the rows of the drop port. -/
theorem dropPortUnits : Obligations.DropPortUnits := by
  unfold Obligations.DropPortUnits
  exact ⟨ddirChange_effect, dropWord_ingress,
    fun w dp sof eof g x rest s active outward unit words more => dropWord_egress active outward unit words more,
    fun gap r s active between some_ none_ reason => ingressUnit_effect active between some_ none_ reason,
    fun b r rest s waits active decided still => verdictReady_effect waits active decided still,
    fun w dp s active inward between => pullWord_effect w dp active inward between,
    fun s active outward noUnit free => egressFetch_effect active outward noUnit free,
    fun tag f s unit active taken => egressComplete_effect unit active taken⟩

end Sys2Proof.Proofs

/-! ## The outage sequence (file 20) -/

namespace Sys2Proof.Proofs

open Sys2Proof Sys2Proof.Machine

/-! ### The start of the sequence (Sequence OUT-1 steps 1 to 3) -/

/-- The parts that the start of an outage changes beside the sequence itself, the gauge and the store of the hours. -/
def beginningParts : List Part :=
  [.free, .flash, .xfer, .rules, .act, .bridle, .reg, .prot, .tether, .queues, .win, .integ]

/-- The sequence at its step 3, with what it must know to undo itself. -/
def outageBegun (s : State) (x : Starter) : State := { s with
  outage := ⟨3, false, false, none, [x], vgen 20 (savedState s), [], msNow s, false⟩
  gauge.acted := 0
  nvm.hours := s.hours }

theorem cancelBehind_waiting (s : State) : (cancelBehind s).bridle.waiting = s.bridle.waiting := by
  have resolved : Incidental { s with bridle.behind := [] } (cancelBehind s) :=
    .foldl (fun t x => resolve_incidental ..) s.bridle.behind (.refl _)
  rw [resolved.bridle]

/-- The tries of a channel end without a word about the profiles that wait. -/
theorem endTries_bridle (s : State) (c : Chan) : (endTries s c).bridle = s.bridle := (endTries_only s c).same .bridle rfl

/-- A transfer that is given up is gone, and no profile waits that did not wait before. -/
theorem abandonXfer_ends (s : State) (sub : Nat) (waits : Bool) :
    (abandonXfer s sub waits).xfer = none ∧ (abandonXfer s sub waits).bridle.waiting = s.bridle.waiting := by
  unfold abandonXfer
  split
  next none_ => exact ⟨none_, rfl⟩
  next t _ =>
    have entered : Incidental { s with xfer := none } (if waits then
        deferEntry { s with xfer := none } (entryPlain 0x24 (xferDetail t.xfer t.programmed sub))
        else addEntry { s with xfer := none } (entryPlain 0x24 (xferDetail t.xfer t.programmed sub))) :=
      .ite (deferEntry_incidental ..) (addEntry_incidental ..)
    exact ⟨entered.only.same .xfer rfl, by rw [entered.bridle]⟩

/-- At the start of an outage no profile waits, no transfer runs and no set of update words is open. -/
theorem beginOutage_effect (s : State) (x : Starter) :
    Only beginningParts (outageBegun s x) (beginOutage s x) ∧ (beginOutage s x).bridle.waiting = [] ∧
      (beginOutage s x).xfer = none ∧ (beginOutage s x).rules.openSet = none := by
  unfold beginOutage
  extract_lets gauge nvm s1 s2 b s3 s4 s5
  have requests : Incidental s1 s2 := .foldl cancelRequests_incidental (List.range 20) (.refl s1)
  have h2 : Only beginningParts s1 s2 := requests.only.mono rfl
  clear_value s2
  have jobs : Incidental { s2 with bridle.waiting := [] }
      (s2.bridle.waiting.foldl cancelJob { s2 with bridle.waiting := [] }) :=
    .foldl cancelJob_incidental s2.bridle.waiting (.refl _)
  have noneWaits : Only beginningParts s1 { s2 with bridle.waiting := [] } := h2.set_bridle { b with waiting := [] } rfl
  have h3 : Only beginningParts s1 s3 := (noneWaits.post jobs.only rfl).post (cancelBehind_only _) rfl
  have w3 : s3.bridle.waiting = [] := (cancelBehind_waiting _).trans (by rw [jobs.bridle])
  have h4 : Only beginningParts s1 s4 := (h3.post (endTries_only ..) rfl).post (endTries_only ..) rfl
  have w4 : s4.bridle.waiting = [] := by
    rw [show s4.bridle = s3.bridle from (endTries_bridle _ _).trans (endTries_bridle _ _), w3]
  have h5 : Only beginningParts s1 s5 := (h4.post (finishPage_only ..) rfl).post (abandonXfer_only ..) rfl
  obtain ⟨noXfer, sameWaiting⟩ := abandonXfer_ends (finishPage s4) 2 true
  have w5 : s5.bridle.waiting = [] :=
    sameWaiting.trans ((congrArg Bridle.waiting ((finishPage_only s4).same .bridle rfl)).trans w4)
  split
  next o _ =>
    have entered := deferEntry_incidental { s5 with rules.openSet := none, rules.refused := some o.setno }
      (entryPlain 0x31 (setDetail o.setno 9))
    refine ⟨(h5.set_rules _ rfl).post entered.only rfl, ?_, (entered.only.same .xfer rfl).trans noXfer, ?_⟩
    · rw [entered.bridle]; exact w5
    · rw [entered.rules]
  next closed => exact ⟨h5, w5, noXfer, closed⟩

theorem fireStarter_begins {s : State} {x : Starter} (ready : isReady s = true) (runs : s.boot.inReset = false)
    (calm : s.outage.step = 0) : fireStarter s x = beginOutage s x :=
  (if_neg (by rw [ready, runs]; decide)).trans (if_pos calm)

/-- PFAIL_N low, WM04 below its threshold and the loss of VAON each begin the sequence. -/
theorem outage_begins {s : State} (ready : isReady s = true) (runs : s.boot.inReset = false) (calm : s.outage.step = 0) :
    (∃ t, exec .pfailAssert s = .next t ∧ t.outage.step = 3 ∧ t.outage.fired = [.pfail] ∧ t.outage.undo = none ∧
      t.pins = { s.pins with pfailN := false } ∧ t.bridle.waiting = [] ∧ t.xfer = none ∧ t.rules.openSet = none ∧
      t.nvm.hours = s.hours ∧ (∀ d, isOn t d = isOn s d)) ∧
    (monActive s 4 = true → (mon s 4).below = true → isOn s 17 = true →
      ∃ t, exec .wm04Low s = .next t ∧ t.outage.step = 3 ∧ t.outage.fired = [.wm04] ∧ t.pins = s.pins) ∧
    (s.sup.vaon = true → s.sup.vbak = true → ∃ t, exec .vaonLoss s = .next t ∧ t.outage.step = 3 ∧
      t.outage.fired = [.vaon] ∧ t.gauge.onVbak = true ∧ t.sup = { s.sup with vaon := false }) := by
  refine ⟨?_, fun active below on => ?_, fun vaon vbak => ?_⟩
  · obtain ⟨frame, waiting, xfer, openSet⟩ := beginOutage_effect { s with pins.pfailN := false } .pfail
    have outage := frame.same .outage rfl
    refine ⟨_, congrArg Host.Outcome.next (fireStarter_begins (s := { s with pins.pfailN := false }) ready runs calm),
      congrArg Outage.step outage, congrArg Outage.fired outage, congrArg Outage.undo outage, frame.same .pins rfl,
      waiting, xfer, openSet, congrArg Nvm.hours (frame.same .nvm rfl), ?_⟩
    exact (beginOutage_undisturbed { s with pins.pfailN := false } .pfail).on
  · obtain ⟨frame, -⟩ := beginOutage_effect s .wm04
    have outage := frame.same .outage rfl
    refine ⟨_, congrArg Host.Outcome.next ((if_pos ?_).trans (fireStarter_begins ready runs calm)),
      congrArg Outage.step outage, congrArg Outage.fired outage, frame.same .pins rfl⟩
    rw [active, below, on]
    rfl
  · obtain ⟨frame, -⟩ := beginOutage_effect { s with sup.vaon := false, gauge.onVbak := true } .vaon
    have outage := frame.same .outage rfl
    refine ⟨_, congrArg Host.Outcome.next ((if_pos ?_).trans
        (fireStarter_begins (s := { s with sup.vaon := false, gauge.onVbak := true }) ready runs calm)),
      congrArg Outage.step outage, congrArg Outage.fired outage, congrArg Gauge.onVbak (frame.same .gauge rfl),
      frame.same .sup rfl⟩
    rw [vaon, vbak]
    rfl

/-! ### The steps of the sequence and of its reversal -/

theorem enterStep6_outage (s : State) :
    (enterStep6 s).outage = { s.outage with step := 6, undo := none } := (requestAll_incidental ..).only.same .outage rfl

theorem enterU5_outage (s : State) :
    (enterU5 s).outage = { s.outage with step := 5, undo := some 5 } := (requestAll_incidental ..).only.same .outage rfl

theorem descentEnds_step (s : State) : (descentEnds s).outage.step = 5 ∨ (descentEnds s).outage.step = 6 := by
  unfold descentEnds
  split
  · exact .inl (congrArg Outage.step (enterU5_outage _))
  · exact .inr (congrArg Outage.step (enterStep6_outage _))

/-- The descent begins at step 5, and with the rails down already it ends at once. -/
theorem enterStep5_outage (s : State) : ((enterStep5 s).outage.step = 5 ∨ (enterStep5 s).outage.step = 6) ∧
    (s.outage.returned = false → (enterStep5 s).outage.undo = none) := by
  unfold enterStep5
  extract_lets u outage reg s1 s2
  have ended : u.outage = s.outage := ((endTries_only _ _).same .outage rfl).trans ((endTries_only _ _).same .outage rfl)
  have asked : s2.outage = { s.outage with step := 5, undo := none } :=
    ((requestAll_incidental ..).only.same .outage rfl).trans
      (congrArg (fun o : Outage => { o with step := 5, undo := none }) ended)
  split
  · refine ⟨descentEnds_step s2, fun staysOut => ?_⟩
    rw [show descentEnds s2 = enterStep6 s2 from if_neg (by rw [asked]; simp [staysOut]), enterStep6_outage]
  · exact ⟨.inl (congrArg Outage.step asked), fun _ => congrArg Outage.undo asked⟩

/-- The reversal of the retention waits for its domains, or goes on to the rails at once. -/
theorem enterU6_undo (s : State) : (enterU6 s).outage.undo = some 6 ∨ (enterU6 s).outage.undo = some 5 := by
  unfold enterU6
  extract_lets outage s1
  have asked : (requestAll s1 (((List.range 17) ++ [19]).map fun d => (d, vget s1.outage.saved .off d))).outage = s1.outage :=
    (requestAll_incidental ..).only.same .outage rfl
  generalize requestAll s1 _ = u at asked ⊢
  unfold undoGoesOn
  split
  · rw [if_pos (show u.outage.fired.isEmpty = true by rw [asked]; rfl), enterU5_outage]
    exact .inr rfl
  · exact .inl (congrArg Outage.undo asked)

theorem flightDone_goesOn {s : State} (three : s.outage.step = 3) (forward : s.outage.undo = none) :
    ∃ t, exec .outageFlightDone s = .next t ∧ (t.outage.step = 5 ∨ t.outage.step = 6) :=
  ⟨_, congrArg Host.Outcome.next (if_pos (by rw [three, forward]; rfl)), (enterStep5_outage _).1⟩

theorem retentionReached_goesOn {s : State} (six : s.outage.step = 6) (forward : s.outage.undo = none)
    (none_ : ∀ d, d < 20 → outstanding s d = false) :
    (s.outage.returned = false → exec .outageRetentionReached s = .next { s with
      outage.step := 7, gauge.onVbak := s.gauge.onVbak || s.sup.vbak }) ∧
    (s.outage.returned = true → ∃ t, exec .outageRetentionReached s = .next t ∧
      (t.outage.undo = some 6 ∨ t.outage.undo = some 5)) := by
  have reached : (s.outage.step = 6 && s.outage.undo.isNone && (List.range 20).all (fun d => !outstanding s d)) = true := by
    have all : (List.range 20).all (fun d => !outstanding s d) = true :=
      List.all_eq_true.mpr fun d mem => by rw [none_ d (List.mem_range.mp mem)]; rfl
    rw [six, forward, all]
    rfl
  exact ⟨fun out => congrArg Host.Outcome.next ((if_pos reached).trans (if_neg (by rw [out]; decide))),
    fun back => ⟨_, congrArg Host.Outcome.next ((if_pos reached).trans (if_pos back)), enterU6_undo s⟩⟩

/-! ### The end of the dwell (step 7) -/

/-- A word whose raise is cancelled. -/
def cancelledWord (w : WakeWord) : WakeWord := { w with pend := false, held := if w.pin then w.held else .cancelled }

/-- No pin is pending once the raises are cancelled, and no pin moves. -/
theorem cancelRaises_word (s : State) (k : Fin 4) :
    (vget (cancelRaises s).act.wake WakeWord.zero k).pend = false ∧
      (vget (cancelRaises s).act.wake WakeWord.zero k).pin = (vget s.act.wake WakeWord.zero k).pin := by
  have word := eachPin_word s (pendingMask s) cancelledWord k.isLt
  unfold cancelRaises
  change (vget (eachPin s (pendingMask s) cancelledWord).act.wake WakeWord.zero k).pend = false ∧
    (vget (eachPin s (pendingMask s) cancelledWord).act.wake WakeWord.zero k).pin = _
  rw [word, pendingMask_getLsbD s k.isLt]
  split
  · exact ⟨rfl, rfl⟩
  next calm => exact ⟨Bool.eq_false_iff.mpr calm, rfl⟩

theorem dwellExpiry_ends {s : State} (seven : s.outage.step = 7) (forward : s.outage.undo = none)
    (early : s.outage.last = false) :
    ∃ t, exec .dwellExpiry s = .next t ∧ t.outage.last = true ∧ t.act.outProfile = none ∧ t.outage.kept = [] ∧
      t.bridle = s.bridle ∧ (s.boot.step = .ready → t.boot.step = .running) ∧
      (∀ k : Fin 4, (vget t.act.wake WakeWord.zero k).pend = false ∧
        (vget t.act.wake WakeWord.zero k).pin = (vget s.act.wake WakeWord.zero k).pin) := by
  have runs : (s.outage.step = 7 && s.outage.undo.isNone && !s.outage.last) = true := by rw [seven, forward, early]; rfl
  exact ⟨_, congrArg Host.Outcome.next (if_pos runs), rfl, rfl, rfl, rfl, fun ready => if_pos ready, cancelRaises_word s⟩

/-! ### The return of the input (Sequence OUT-2) -/

/-- The AON island runs from VAON again. -/
theorem backToVaon_onVbak (s : State) : (backToVaon s).gauge.onVbak = false := by
  unfold backToVaon
  split
  · unfold rebase
    split
    · rfl
    · extract_lets old sg s1 new
      split <;> rfl
  next off => exact Bool.eq_false_iff.mpr off

/-- Before step 6 a waiting selection is not kept for the return. -/
theorem presentSlow_outage {s : State} (i : SlowItem) (early : s.outage.step < 6) :
    (presentSlow s i).outage = s.outage := by
  unfold presentSlow
  split
  · rfl
  · rw [if_neg fun late => absurd (of_decide_eq_true (Bool.and_eq_true_iff.mp late).1) (Nat.not_le.mpr early)]
    split
    · rfl
    · split
      · rfl
      · rw [((demand_incidental ..).trans (demand_incidental ..)).only.same .outage rfl]
        rfl

theorem presentKept_outage {s : State} (l : List SlowItem) (early : s.outage.step < 6) :
    (presentKept s l).outage = s.outage := by
  unfold presentKept
  induction l generalizing s with
  | nil => rfl
  | cons i rest ih =>
    have same := presentSlow_outage i early
    exact (ih (by rw [same]; exact early)).trans same

theorem presentKept_gauge (s : State) (l : List SlowItem) : (presentKept s l).gauge = s.gauge :=
  (presentKept_only s l).same .gauge rfl

/-- A return in the last step leaves nothing of the outage. -/
theorem lateReturn_effect (s : State) :
    (lateReturn s).outage = Outage.zero ∧ (lateReturn s).gauge.onVbak = false := by
  unfold lateReturn
  extract_lets l s1 gauge act s2
  have frame : Only incidentalParts (presentKept s2 l) (askMemory (presentKept s2 l)) := (askMemory_incidental _).only
  refine ⟨(frame.same .outage rfl).trans (presentKept_outage l (show (0 : Nat) < 6 by decide)), ?_⟩
  rw [frame.same .gauge rfl, presentKept_gauge]
  have resumed : s1.gauge = (backToVaon (cancelRaises s)).gauge := (resumeAgeing_only _).same .gauge rfl
  exact (congrArg Gauge.onVbak resumed).trans (backToVaon_onVbak _)

theorem applyRecorded_outage (s : State) : (applyRecorded s).outage = { s.outage with settle := false } := by
  unfold applyRecorded
  dsimp only
  split
  · rw [(pinsFor_only ..).same .outage rfl, (passProfile_only ..).same .outage rfl]
  · split
    · rfl
    · rw [(releasePins_only ..).same .outage rfl]

/-- The outage is over; whether the kept selections are still to be matched is the settle mark. -/
def OutageOver (s : State) : Prop := s.outage = { Outage.zero with settle := s.outage.settle }

theorem OutageOver.of_outage {s t : State} (h : OutageOver s) (same : t.outage = s.outage) : OutageOver t := by
  unfold OutageOver
  rw [same]
  exact h

theorem OutageOver.applyRecorded {s : State} (h : OutageOver s) : OutageOver (applyRecorded s) := by
  unfold OutageOver
  rw [applyRecorded_outage, h]

/-- The kept selections of an outage are presented, or with none the recorded profile is passed at once. -/
theorem endOutage_effect (s : State) : OutageOver (endOutage s) ∧ (s.outage.kept = [] → (endOutage s).outage.settle = false) ∧
    (endOutage s).gauge.onVbak = false := by
  unfold endOutage
  extract_lets l resumed gauge zero s1 boot s' s2
  have h1 : OutageOver s1 := rfl
  have g1 : s1.gauge.onVbak = false :=
    (congrArg Gauge.onVbak ((resumeAgeing_only _).same .gauge rfl)).trans (backToVaon_onVbak s)
  have ready : Only [.boot, .bridle] s1 s2 := by
    have runs : Only [.boot, .bridle] s1 s' := (Only.refl _ s1).set_boot _ rfl
    unfold s2
    split
    · split
      · exact runs.post (passProfile_only ..) rfl
      · exact runs
    · exact Only.refl _ _
  have h2 : OutageOver s2 := h1.of_outage (ready.same .outage rfl)
  have g2 : s2.gauge = s1.gauge := ready.same .gauge rfl
  have after : ∀ u : State, (askMemory (safeRailsOff u)).outage = u.outage ∧ (askMemory (safeRailsOff u)).gauge = u.gauge :=
    fun u => ⟨((askMemory_only _).same .outage rfl).trans ((safeRailsOff_only u).same .outage rfl),
      ((askMemory_only _).same .gauge rfl).trans ((safeRailsOff_only u).same .gauge rfl)⟩
  generalize kept : (if l.isEmpty then applyRecorded s2 else settleEnd (presentKept s2 l)) = u
  obtain ⟨sameOutage, sameGauge⟩ := after u
  have early : s2.outage.step < 6 := by
    rw [show s2.outage.step = 0 from congrArg Outage.step h2]
    decide
  have settled : OutageOver u ∧ (s.outage.kept = [] → u.outage.settle = false) ∧ u.gauge = s2.gauge := by
    rw [← kept]
    split
    · refine ⟨h2.applyRecorded, fun _ => (applyRecorded_effect s2).1, (applyRecorded_only s2).same .gauge rfl⟩
    next some_ =>
      have h3 : OutageOver (presentKept s2 l) := h2.of_outage (presentKept_outage l early)
      refine ⟨?_, fun noneKept => absurd (show l.isEmpty = true from congrArg List.isEmpty noneKept) some_,
        ((settleEnd_only _).same .gauge rfl).trans (presentKept_gauge s2 l)⟩
      unfold settleEnd
      split
      · exact h3.applyRecorded
      · exact h3
  obtain ⟨overU, settleU, gaugeU⟩ := settled
  refine ⟨overU.of_outage sameOutage, fun noneKept => ?_, ?_⟩
  · rw [sameOutage]; exact settleU noneKept
  · rw [sameGauge, gaugeU, g2]; exact g1

theorem inputBack_outage (s : State) : (inputBack s).outage = s.outage := rfl

theorem endFlightEarly_outage (s : State) : (endFlightEarly s).outage = s.outage := (endFlightEarly_only s).same .outage rfl

/-- What the return of the input does at each step of the sequence. -/
theorem inputReturn_effect (s : State) :
    (s.outage.step = 0 → ∃ t, exec .inputReturn s = .next t ∧ t.outage = s.outage ∧ t.gauge.onVbak = false) ∧
    (s.outage.step = 3 ∨ s.outage.last = true → s.outage.step ≠ 0 → s.outage.undo = none →
      ∃ t, exec .inputReturn s = .next t ∧ t.outage = { Outage.zero with settle := t.outage.settle } ∧
        (s.outage.kept = [] → t.outage.settle = false) ∧ t.gauge.onVbak = false) ∧
    (s.outage.step = 7 → s.outage.undo = none → s.outage.last = false →
      ∃ t, exec .inputReturn s = .next t ∧ (t.outage.undo = some 6 ∨ t.outage.undo = some 5) ∧ t.gauge.onVbak = false) ∧
    (s.outage.step = 5 ∨ s.outage.step = 6 → s.outage.undo = none → s.outage.last = false →
      ∃ t, exec .inputReturn s = .next t ∧ t.outage.returned = true ∧ t.outage.step = s.outage.step) := by
  have forward : ∀ {a b c : State}, s.outage.step ≠ 0 → s.outage.undo = none →
      (if s.outage.step = 0 then a else if s.outage.undo.isSome then b else c) = c := fun some_ none_ =>
    (if_neg some_).trans (if_neg (by rw [none_]; decide))
  refine ⟨fun zero => ?_, fun early some_ none_ => ?_, fun seven none_ notLast => ?_, fun mid none_ notLast => ?_⟩
  · exact ⟨_, congrArg Host.Outcome.next (if_pos zero), (backToVaon_only _).same .outage rfl, backToVaon_onVbak _⟩
  · by_cases last : s.outage.last = true
    · obtain ⟨ended, gauge⟩ := lateReturn_effect (inputBack s)
      refine ⟨_, congrArg Host.Outcome.next ((forward some_ none_).trans (if_pos last)), ?_, fun _ => ?_, gauge⟩ <;> rw [ended]
      rfl
    · have three := early.resolve_right last
      obtain ⟨ended, settled, gauge⟩ := endOutage_effect (endFlightEarly (inputBack s))
      refine ⟨endOutage (endFlightEarly (inputBack s)), congrArg Host.Outcome.next
        ((forward some_ none_).trans ((if_neg last).trans ?_)), ended, fun noneKept => settled ?_, gauge⟩
      · rw [three]; rfl
      · rw [endFlightEarly_outage, inputBack_outage]; exact noneKept
  · refine ⟨enterU6 (backToVaon (inputBack s)), congrArg Host.Outcome.next
      ((forward (by rw [seven]; decide) none_).trans ((if_neg (by rw [notLast]; decide)).trans ?_)), enterU6_undo _, ?_⟩
    · rw [seven]; rfl
    · rw [(enterU6_only _).same .gauge rfl]; exact backToVaon_onVbak _
  · refine ⟨{ inputBack s with outage.returned := true }, congrArg Host.Outcome.next
      ((forward (by rcases mid with h | h <;> rw [h] <;> decide) none_).trans
        ((if_neg (by rw [notLast]; decide)).trans ?_)), rfl, rfl⟩
    rcases mid with five | six
    · rw [five]; rfl
    · rw [six]; rfl

theorem reversalRailsDone_effect {s : State} (undo : s.outage.undo = some 5) (settled : railsSettled s = true) :
    (s.outage.fired = [] → ∃ t, exec .reversalRailsDone s = .next t ∧
      t.outage = { Outage.zero with settle := t.outage.settle } ∧ (s.outage.kept = [] → t.outage.settle = false) ∧
      t.gauge.onVbak = false) ∧
    (s.outage.fired ≠ [] → s.outage.returned = false → ∃ t, exec .reversalRailsDone s = .next t ∧ t.outage.undo = none ∧
      (t.outage.step = 5 ∨ t.outage.step = 6)) := by
  have done : (s.outage.undo = some 5 && railsSettled s) = true := by rw [undo, settled]; rfl
  refine ⟨fun calm => ⟨_, congrArg Host.Outcome.next ((if_pos done).trans (if_pos (by rw [calm]; rfl))), endOutage_effect s⟩,
    fun fired out => ?_⟩
  obtain ⟨step, forward⟩ := enterStep5_outage s
  exact ⟨_, congrArg Host.Outcome.next ((if_pos done).trans (if_neg (by rwa [List.isEmpty_iff]))), forward out, step⟩

/-- Settles O59: the starters, the steps down to the dwell, and the ways back. -/
theorem outageSequence : Obligations.OutageSequence := by
  unfold Obligations.OutageSequence
  refine ⟨fun s => outage_begins, fun s ready runs underway => ?_, fun s => flightDone_goesOn,
    fun s => retentionReached_goesOn, fun s => dwellExpiry_ends, inputReturn_effect, fun s => reversalRailsDone_effect⟩
  exact congrArg Host.Outcome.next ((if_neg (show ¬ (!isReady s || s.boot.inReset) = true by rw [ready, runs]; decide)).trans
    (if_neg underway))

end Sys2Proof.Proofs
